-- ==== Sys2Proof/Word.lean ====
section
/-! DEFINITION. The plain word types of the GX12 model: bytes, words, stamps and the little-endian order of R6. -/

namespace Sys2Proof

/-- A stored byte. -/
abbrev Byte := BitVec 8
/-- A 32-bit register or a sequencer word. -/
abbrev Word := BitVec 32
/-- A 64-bit register, flag value or stream address register. -/
abbrev DWord := BitVec 64
/-- A PTB stamp in nanoseconds (R27); a plain number, since every deadline compares stamps exactly. -/
abbrev Stamp := Nat

/-- The little-endian value of a byte list (R6): the first byte is the least significant. -/
def leNat : List Byte → Nat
  | [] => 0
  | b :: bs => b.toNat + 256 * leNat bs

/-- The `n` little-endian bytes of a value (R6). -/
def leBytes : Nat → Nat → List Byte
  | 0, _ => []
  | n + 1, v => BitVec.ofNat 8 v :: leBytes n (v / 256)

end Sys2Proof
end

