-- ==== Sys2Proof/Machine/Num.lean ====
section
/-! DEFINITION. Number formats (chapter 6): exact values, decoding, the block sum, rounding, stochastic draws,
overflow, MX scales and integer conversion. Every value is an exact dyadic number until a rule rounds it. -/

namespace Sys2Proof

/-- The element formats of R183, by the ELEM codes of R160. -/
inductive Elem where
  | e4m3 | e5m2 | e3m2 | e2m3 | e2m1 | mxint8 | fp16 | bf16 | fp32 | int8 | int4 | int32
  deriving DecidableEq, Repr

/-- The ELEM code of R160 and R183. -/
def Elem.ofCode : Nat → Option Elem
  | 0x10 => some .e4m3 | 0x11 => some .e5m2 | 0x12 => some .e3m2 | 0x13 => some .e2m3
  | 0x14 => some .e2m1 | 0x15 => some .mxint8 | 0x08 => some .fp16 | 0x09 => some .bf16
  | 0x0A => some .fp32 | 0x02 => some .int8 | 0x01 => some .int4 | 0x03 => some .int32
  | _ => none

/-- Bits of one stored element (R183). -/
def Elem.bits : Elem → Nat
  | .e4m3 | .e5m2 | .mxint8 | .int8 => 8
  | .e3m2 | .e2m3 => 6
  | .e2m1 | .int4 => 4
  | .fp16 | .bf16 => 16
  | .fp32 | .int32 => 32

/-- The MX element formats, which exist only in scaled blocks (R183). -/
def Elem.isMx : Elem → Bool
  | .e4m3 | .e5m2 | .e3m2 | .e2m3 | .e2m1 | .mxint8 => true
  | _ => false

def Elem.isInt : Elem → Bool
  | .int8 | .int4 | .int32 => true
  | _ => false

/-- Parameters of a float format (R183): exponent field width, bias, precision with the hidden bit, emin, emax,
and the significand of the largest finite value in units of its quantum. -/
structure FloatFmt where
  ebits : Nat
  bias  : Int
  p     : Nat
  emin  : Int
  emax  : Int
  maxM  : Nat
  deriving DecidableEq, Repr

def Elem.float : Elem → Option FloatFmt
  | .e4m3 => some ⟨4, 7, 4, -6, 8, 14⟩
  | .e5m2 => some ⟨5, 15, 3, -14, 15, 7⟩
  | .e3m2 => some ⟨3, 3, 3, -2, 4, 7⟩
  | .e2m3 => some ⟨2, 1, 4, 0, 2, 15⟩
  | .e2m1 => some ⟨2, 1, 2, 0, 2, 3⟩
  | .fp16 => some ⟨5, 15, 11, -14, 15, 2047⟩
  | .bf16 => some ⟨8, 127, 8, -126, 127, 255⟩
  | .fp32 => some ⟨8, 127, 24, -126, 127, 16777215⟩
  | _ => none

/-- The largest exponent of an MX element format, as the scale rules of R214 use it (MXINT8 has 0). -/
def Elem.emax (f : Elem) : Int := match f.float with | some ff => ff.emax | none => 0

/-- An exact decoded value (R184, R193, R197): NaN, an infinity, or sign, integer significand and the exponent of
its least significant bit. A zero keeps its sign. -/
inductive Val where
  | nan
  | inf (neg : Bool)
  | fin (neg : Bool) (m : Nat) (e : Int)
  deriving DecidableEq, Repr

namespace Val

def zero : Val := .fin false 0 0

def isNan : Val → Bool | .nan => true | _ => false

def isZero : Val → Bool | .fin _ 0 _ => true | _ => false

def isInf : Val → Bool | .inf _ => true | _ => false

/-- The value times 2^k. -/
def scale (k : Int) : Val → Val
  | .fin s m e => .fin s m (e + k)
  | v => v

def neg : Val → Val
  | .nan => .nan
  | .inf s => .inf (!s)
  | .fin s m e => .fin (!s) m e

/-- The signed integer significand of a finite value. -/
def signed (s : Bool) (m : Nat) : Int := if s then -(m : Int) else (m : Int)

/-- The integer n times 2^e; an exact zero result is +0 (R201). -/
def ofInt (n e : Int) : Val := .fin (n < 0) n.natAbs e

/-- The integer significand of m·2^e in units of 2^k, k at most e. -/
def inUnits (s : Bool) (m : Nat) (e k : Int) : Int := signed s m * ((2 ^ (e - k).toNat : Nat) : Int)

/-- Exact sum. Opposite infinities and any NaN give NaN; a zero sum of two negative zeros is -0, every other zero
sum is +0 (the RNE sign of a binary32 sum). -/
def add : Val → Val → Val
  | .nan, _ => .nan
  | _, .nan => .nan
  | .inf a, .inf b => if a = b then .inf a else .nan
  | .inf a, .fin _ _ _ => .inf a
  | .fin _ _ _, .inf b => .inf b
  | .fin s1 m1 e1, .fin s2 m2 e2 =>
    if m1 = 0 ∧ m2 = 0 then .fin (s1 && s2) 0 0
    else if m1 = 0 then .fin s2 m2 e2
    else if m2 = 0 then .fin s1 m1 e1
    else ofInt (inUnits s1 m1 e1 (min e1 e2) + inUnits s2 m2 e2 (min e1 e2)) (min e1 e2)

def sub (a b : Val) : Val := add a b.neg

/-- Exact product; an infinity times a zero is NaN (R200). -/
def mul : Val → Val → Val
  | .nan, _ => .nan
  | _, .nan => .nan
  | .inf a, .inf b => .inf (a != b)
  | .inf a, .fin s m _ => if m = 0 then .nan else .inf (a != s)
  | .fin s m _, .inf b => if m = 0 then .nan else .inf (s != b)
  | .fin s1 m1 e1, .fin s2 m2 e2 => .fin (s1 != s2) (m1 * m2) (e1 + e2)

/-- Compare two finite values by exact arithmetic. -/
def finLt (s1 : Bool) (m1 : Nat) (e1 : Int) (s2 : Bool) (m2 : Nat) (e2 : Int) : Bool :=
  inUnits s1 m1 e1 (min e1 e2) < inUnits s2 m2 e2 (min e1 e2)

/-- Less-than over the extended reals; false when either is NaN. -/
def lt : Val → Val → Bool
  | .nan, _ => false
  | _, .nan => false
  | .inf a, .inf b => a && !b
  | .inf a, .fin _ _ _ => a
  | .fin _ _ _, .inf b => !b
  | .fin s1 m1 e1, .fin s2 m2 e2 => finLt s1 m1 e1 s2 m2 e2

/-- Equality of values: zeros of either sign are equal; false when either is NaN. -/
def eqv (a b : Val) : Bool := !a.isNan && !b.isNan && !lt a b && !lt b a

end Val

/-- Decode a float code that is no infinity or NaN code (R184). -/
def FloatFmt.decode (f : FloatFmt) (code : Nat) : Val :=
  let frac := code % 2 ^ (f.p - 1)
  let ef := code / 2 ^ (f.p - 1) % 2 ^ f.ebits
  let s := code / 2 ^ (f.p - 1 + f.ebits) % 2 = 1
  if ef = 0 then .fin s frac (f.emin - (f.p - 1 : Nat))
  else .fin s (2 ^ (f.p - 1) + frac) ((ef : Int) - f.bias - (f.p - 1 : Nat))

/-- An n-bit two's complement code as an integer. -/
def twos (n code : Nat) : Int :=
  let c := code % 2 ^ n
  if c < 2 ^ (n - 1) then (c : Int) else (c : Int) - (2 ^ n : Nat)

/-- Formats whose all-ones exponent holds infinities and NaN (R183). -/
def Elem.ieeeTop : Elem → Bool
  | .e5m2 | .fp16 | .bf16 | .fp32 => true
  | _ => false

/-- Decode one element code, before any block scale (R184-R186, R193, R197). -/
def Elem.decode (f : Elem) (code : Nat) : Val :=
  match f.float with
  | some ff =>
    let ef := code / 2 ^ (ff.p - 1) % 2 ^ ff.ebits
    let frac := code % 2 ^ (ff.p - 1)
    let s := code / 2 ^ (ff.p - 1 + ff.ebits) % 2 = 1
    if f.ieeeTop && ef = 2 ^ ff.ebits - 1 then (if frac = 0 then .inf s else .nan)
    else if f = .e4m3 && code % 128 = 127 then .nan
    else ff.decode code
  | none =>
    let c := twos f.bits code
    .fin (c < 0) c.natAbs (if f = .mxint8 then -6 else 0)

/-- The scale exponent of an E8M0 code, none for the NaN code 0xFF (R187). -/
def scaleExp (c : Nat) : Option Int := if c % 256 = 255 then none else some ((c % 256 : Nat) - 127 : Int)

/-- An element's value under its block's scale exponent (R187, R193). -/
def scaled (sc : Option Int) (v : Val) : Val := match sc with | none => .nan | some k => v.scale k

/-! ### The block sum -/

/-- The greatest product exponent over lanes whose product is nonzero and finite (R198). -/
def qMax : List Val → Option Int
  | [] => none
  | .fin _ m e :: r =>
    if m = 0 then qMax r else match qMax r with | none => some e | some q => some (max e q)
  | _ :: r => qMax r

/-- One lane's contribution in units of 2^base, base = qmax - 52: bits below are discarded toward zero (R198). -/
def laneUnits (base : Int) : Val → Int
  | .fin s m e =>
    if e ≥ base then Val.signed s (m * 2 ^ (e - base).toNat)
    else Val.signed s (m / 2 ^ (base - e).toNat)
  | _ => 0

/-- The exact block sum of lane products, with the special values of R200 first and +0 for a zero sum (R201). -/
def blockSum (prods : List Val) : Val :=
  if prods.any Val.isNan then .nan
  else if prods.contains (.inf false) && prods.contains (.inf true) then .nan
  else if prods.contains (.inf false) then .inf false
  else if prods.contains (.inf true) then .inf true
  else match qMax prods with
    | none => Val.zero
    | some q => Val.ofInt ((prods.map (laneUnits (q - 52))).foldl (· + ·) 0) (q - 52)

/-- The scaled block sum of one block pair (R198-R201): lanes are unscaled decoded elements. -/
def blockDot (sa sb : Option Int) (as bs : List Val) : Val :=
  match sa, sb with
  | some x, some y => (blockSum (List.zipWith Val.mul as bs)).scale (x + y)
  | _, _ => .nan

/-! ### Rounding and conversion -/

/-- CTL1.RND (R203). -/
inductive Rnd where
  | rne | rtz | rup | rdn | stoch
  deriving DecidableEq, Repr

def Rnd.ofCode : Nat → Option Rnd
  | 0 => some .rne | 1 => some .rtz | 2 => some .rup | 3 => some .rdn | 4 => some .stoch | _ => none

/-- The mix function of R205. -/
def mix (z : DWord) : DWord :=
  let z := z ^^^ (z >>> 30)
  let z := z * 0xBF58476D1CE4E5B9#64
  let z := z ^^^ (z >>> 27)
  let z := z * 0x94D049BB133111EB#64
  z ^^^ (z >>> 31)

/-- The 32-bit draw of R205 at a seed, a site and the coordinates of R206. -/
def draw (seed site : Nat) (c0 c1 c2 c3 : Nat) : Nat :=
  let h := mix (BitVec.ofNat 64 (seed % 2 ^ 32 * 2 ^ 32 + site))
  let h := mix (h ^^^ BitVec.ofNat 64 c0)
  let h := mix (h ^^^ BitVec.ofNat 64 c1)
  let h := mix (h ^^^ BitVec.ofNat 64 c2)
  let h := mix (h ^^^ BitVec.ofNat 64 c3)
  (h >>> 32).toNat

/-- Pick lo (`q`) or hi (`q + 1`) for the magnitude q + rem / 2^d by the mode of R203 and the draw `r` of R205. -/
def pickRound (rnd : Rnd) (neg : Bool) (q rem d r : Nat) : Nat :=
  if rem = 0 then q
  else match rnd with
    | .rne => if 2 * rem < 2 ^ d then q else if 2 * rem > 2 ^ d then q + 1 else if q % 2 = 0 then q else q + 1
    | .rtz => q
    | .rup => if neg then q else q + 1
    | .rdn => if neg then q + 1 else q
    | .stoch => if r < rem * 2 ^ 32 / 2 ^ d then q + 1 else q

/-- The magnitude m·2^e rounded to an integer number of quanta 2^k (R202). -/
def roundUnits (rnd : Rnd) (neg : Bool) (m : Nat) (e k : Int) (r : Nat) : Nat :=
  if e ≥ k then m * 2 ^ (e - k).toNat
  else
    let d := (k - e).toNat
    pickRound rnd neg (m / 2 ^ d) (m % 2 ^ d) d r

/-- Whether the infinity case of R211 applies for this mode and sign. -/
def infCase : Rnd → Bool → Bool
  | .rne, _ => true
  | .stoch, _ => true
  | .rup, neg => !neg
  | .rdn, neg => neg
  | .rtz, _ => false

/-- The result of one narrowing conversion: the code, INFO bits [0] and [2] (R218, R210), and whether the element
makes its whole block NaN (R211, R213). -/
structure Conv where
  code : Nat
  sat  : Bool := false
  ovf  : Bool := false
  blockNan : Bool := false
  deriving DecidableEq, Repr

/-- Code of a signed magnitude n·2^k of a float format, k at or above the least quantum exponent (R184). -/
def FloatFmt.encode (f : FloatFmt) (neg : Bool) (n : Nat) (k : Int) : Nat :=
  let s := (if neg then 1 else 0) * 2 ^ (f.p - 1 + f.ebits)
  let n' := if n = 2 ^ f.p then 2 ^ (f.p - 1) else n
  let k' := if n = 2 ^ f.p then k + 1 else k
  if n' < 2 ^ (f.p - 1) then s + n'
  else s + (k' + (f.p - 1 : Nat) + f.bias).toNat * 2 ^ (f.p - 1) + (n' - 2 ^ (f.p - 1))

/-- The code of the largest finite value with a sign. -/
def FloatFmt.maxCode (f : FloatFmt) (neg : Bool) : Nat :=
  f.encode neg f.maxM (f.emax - (f.p - 1 : Nat))

def signBit (f : Elem) (neg : Bool) : Nat := if neg then 2 ^ (f.bits - 1) else 0

/-- The infinity code of the formats that have one. -/
def Elem.infCode (f : Elem) (neg : Bool) : Nat :=
  match f with
  | .e5m2 => signBit f neg + 0x7C
  | .fp16 => signBit f neg + 0x7C00
  | .bf16 => signBit f neg + 0x7F80
  | .fp32 => signBit f neg + 0x7F800000
  | _ => 0

/-- The NaN code the GX12 writes (R213); 0 where NaN makes the whole block NaN. -/
def Elem.nanCode : Elem → Nat
  | .fp32 => 0x7FC00000 | .bf16 => 0x7FC0 | .fp16 => 0x7E00 | .e4m3 => 0x7F | .e5m2 => 0x7F
  | _ => 0

/-- Formats in which an infinity case or a NaN makes the whole block NaN (R211, R213). -/
def Elem.nanByBlock : Elem → Bool
  | .e3m2 | .e2m3 | .e2m1 | .mxint8 => true
  | _ => false

/-- An overflow into a float format (R210-R212). -/
def overflowFloat (f : Elem) (ff : FloatFmt) (rnd : Rnd) (ieee neg : Bool) : Conv :=
  if !ieee then ⟨ff.maxCode neg, false, true, false⟩
  else if infCase rnd neg then
    if f.ieeeTop then ⟨f.infCode neg, false, false, false⟩
    else if f.nanByBlock then ⟨0, false, false, true⟩
    else ⟨f.nanCode, false, false, false⟩
  else ⟨ff.maxCode neg, false, false, false⟩

/-- A nonzero magnitude rounded into a float format, before overflow: quanta and quantum exponent (R202). -/
def roundFloat (ff : FloatFmt) (rnd : Rnd) (neg : Bool) (m : Nat) (e : Int) (r : Nat) : Nat × Int :=
  let top := max ((Nat.log2 m : Int) + e) ff.emin
  let k := top - (ff.p - 1 : Nat)
  (roundUnits rnd neg m e k r, k)

/-- Whether n quanta of 2^k exceed the largest finite value (R208). -/
def FloatFmt.exceeds (ff : FloatFmt) (n : Nat) (k : Int) : Bool :=
  Val.finLt false ff.maxM (ff.emax - (ff.p - 1 : Nat)) false n k

/-- Conversion into a float format (R202, R203, R208-R213). -/
def convFloat (f : Elem) (ff : FloatFmt) (rnd : Rnd) (ieee : Bool) (r : Nat) : Val → Conv
  | .nan => ⟨f.nanCode, false, false, f.nanByBlock⟩
  | .inf s => if f.ieeeTop then ⟨f.infCode s, false, false, false⟩ else overflowFloat f ff rnd ieee s
  | .fin s m e =>
    if m = 0 then ⟨signBit f s, false, false, false⟩
    else
      let nk := roundFloat ff rnd s m e r
      if ff.exceeds nk.1 nk.2 then overflowFloat f ff rnd ieee s
      else ⟨ff.encode s nk.1 nk.2, false, false, false⟩

/-- The two's complement code of an integer in n bits. -/
def twosCode (n : Nat) (z : Int) : Nat := (z % (2 ^ n : Nat)).toNat

/-- The largest and least values of an integer target; MXINT8 is written down to -127 only (R183, R186, R218). -/
def intLimits (f : Elem) : Int × Int :=
  let b := f.bits
  ((2 ^ (b - 1) : Nat) - 1, if f = .mxint8 then -((2 ^ (b - 1) : Nat) - 1) else -(2 ^ (b - 1) : Nat))

/-- Conversion into INT4, INT8, INT32 or an MXINT8 element (R218, R211, R213). -/
def convInt (f : Elem) (rnd : Rnd) (ieee : Bool) (r : Nat) (v : Val) : Conv :=
  let lim := intLimits f
  let saturate (neg : Bool) : Conv :=
    if f = .mxint8 && ieee && infCase rnd neg then ⟨0, false, false, true⟩
    else ⟨twosCode f.bits (if neg then lim.2 else lim.1), true, false, false⟩
  match v with
  | .nan => if f = .mxint8 then ⟨0, false, false, true⟩ else ⟨0, true, false, false⟩
  | .inf s => saturate s
  | .fin s m e =>
    let n := roundUnits rnd s m e (if f = .mxint8 then -6 else 0) r
    let z := Val.signed s n
    if z > lim.1 then saturate false
    else if z < lim.2 then saturate true
    else ⟨twosCode f.bits z, false, false, false⟩

/-- Conversion of one exact value into an element format (6.6, 6.8, 6.10); an MX element's value is already divided
by its block's scale. -/
def convElem (f : Elem) (rnd : Rnd) (ieee : Bool) (r : Nat) (v : Val) : Conv :=
  match f.float with
  | some ff => convFloat f ff rnd ieee r v
  | none => convInt f rnd ieee r v

/-! ### MX blocks -/

/-- The greatest finite magnitude of a block as significand and exponent (R214); 0 when there is none. -/
def maxMag : List Val → Nat × Int
  | [] => (0, 0)
  | .fin _ m e :: r =>
    let a := maxMag r
    if m = 0 then a else if a.1 = 0 || Val.finLt false a.1 a.2 false m e then (m, e) else a
  | _ :: r => maxMag r

/-- Whether a magnitude exceeds the largest finite element of an MX format (R214). -/
def Elem.magExceeds (f : Elem) (m : Nat) (e : Int) : Bool :=
  match f.float with
  | some ff => ff.exceeds m e
  | none => Val.finLt false 127 (-6) false m e

/-- The block's scale exponent before its clamp (R214): `floor` selects FLOOR, else FIT. -/
def scaleFor (f : Elem) (floor : Bool) (vs : List Val) : Int :=
  let a := maxMag vs
  if a.1 = 0 then -127
  else
    let k0 := (Nat.log2 a.1 : Int) + a.2 - f.emax
    if !floor && f.magExceeds a.1 (a.2 - k0) then k0 + 1 else k0

/-- One converted block: its scale code, element codes and the INFO bits its elements set. -/
structure ConvBlock where
  scale : Nat
  codes : List Nat
  sat   : Bool
  ovf   : Bool
  deriving DecidableEq, Repr

/-- Convert a block of values into an MX format (R214-R216). `rs` holds each element's draw. A block that becomes
NaN keeps the INFO bits its other elements set (R216); where the scale itself overflows in IEEE mode the elements
are taken at k = 127 for their notes. -/
def convBlock (f : Elem) (floor : Bool) (rnd : Rnd) (ieee : Bool) (rs : List Nat) (vs : List Val) : ConvBlock :=
  let k0 := scaleFor f floor vs
  let k := max (-127) (min 127 k0)
  let cs := List.zipWith (fun r v => convElem f rnd ieee r (v.scale (-k))) rs vs
  let nan := cs.any (·.blockNan) || vs.any Val.isNan || (ieee && k0 > 127)
  let sat := cs.any (·.sat)
  let ovf := cs.any (·.ovf)
  if nan then ⟨255, cs.map (fun _ => 0), sat, ovf⟩
  else ⟨(k + 127).toNat, cs.map (·.code), sat, ovf⟩

/-! ### binary32 helpers -/

/-- Decode a binary32 code. -/
def f32 (w : Word) : Val := Elem.fp32.decode w.toNat

/-- RNE into binary32, infinite beyond the tie (R202, R209, the IEEE result). -/
def rne32 (v : Val) : Word := BitVec.ofNat 32 (convElem .fp32 .rne true 0 v).code

/-- The exact value of an integer. -/
def Val.ofZ (z : Int) : Val := Val.ofInt z 0

end Sys2Proof
end

