-- ==== Sys2Proof/Machine/Formats.lean ====
section
/-! DEFINITION. The structures software hands the GX12: descriptors, flag references, tensor and region entries
(chapter 5), read from their little-endian bytes. -/

namespace Sys2Proof

/-- A little-endian field of a structure. -/
def fld (bs : List Byte) (off n : Nat) : Nat := leNat ((bs.drop off).take n)

/-- A bit field of a number. -/
def bitf (v lo n : Nat) : Nat := v / 2 ^ lo % 2 ^ n

def bit (v i : Nat) : Bool := v / 2 ^ i % 2 = 1

/-- Whether the bytes [off, off + n) are all zero. -/
def zeroBytes (bs : List Byte) (off n : Nat) : Bool := ((bs.drop off).take n).all (· = 0)

/-- A flag reference (R165), kept as its 64-bit word and read by field. -/
structure FlagRef where
  raw : Nat
  deriving DecidableEq, Repr

namespace FlagRef
def index (f : FlagRef) : Nat := bitf f.raw 0 10
def win (f : FlagRef) : Nat := bitf f.raw 10 4
def en (f : FlagRef) : Bool := bit f.raw 15
def value (f : FlagRef) : Nat := bitf f.raw 16 48
end FlagRef

/-- Operation codes (R155). -/
inductive Op where
  | mark | program | spmm | spgemm | sddmm | gemm | spattn | aggr | moeRoute | embReduce | copy | convert
  deriving DecidableEq, Repr

def Op.ofCode : Nat → Option Op
  | 0x00 => some .mark | 0x01 => some .program | 0x10 => some .spmm | 0x11 => some .spgemm
  | 0x12 => some .sddmm | 0x13 => some .gemm | 0x18 => some .spattn | 0x19 => some .aggr
  | 0x1A => some .moeRoute | 0x1B => some .embReduce | 0x20 => some .copy | 0x21 => some .convert
  | _ => none

/-- Descriptor classes (R49). -/
inductive Cls where
  | normal | bulk | urgent
  deriving DecidableEq, Repr

/-- Index value that names no tensor (R158). -/
def noTensor : Nat := 0xFFFF

/-- A descriptor of any generation, its fields brought to the v3 names; unused fields hold their idle values
(R150-R154). -/
structure Desc where
  ver    : Nat
  cls    : Nat
  irqNow : Bool
  opCode : Nat
  mode   : Nat
  ctl1   : Nat
  xwinRaw : Nat
  inl    : Nat
  seed   : Nat
  waits  : List FlagRef
  sigs   : List FlagRef
  tens   : List Nat
  outs   : List Nat
  appendMax : Nat
  arg0   : Nat
  arg1   : Nat
  tag    : Nat
  inline : List Byte
  deriving DecidableEq, Repr

/-- Bytes of a descriptor slot of format v1, v2 or v3 (R150-R152). -/
def descSize : Nat → Nat
  | 1 => 32
  | 2 => 64
  | _ => 128

/-- Read a descriptor under a ring's format. For v1 the program region goes to MODE and the program offset to ARG1,
as R156 places them for the later generations. -/
def Desc.parse (fmt : Nat) (b : List Byte) : Desc :=
  let ctl0 := fld b 0 1
  let base : Desc :=
    { ver := bitf ctl0 0 4, cls := bitf ctl0 4 2, irqNow := bit ctl0 6, opCode := fld b 1 1, mode := fld b 2 2,
      ctl1 := 0, xwinRaw := 0, inl := 7, seed := 0, waits := [], sigs := [],
      tens := [noTensor, noTensor, noTensor, noTensor], outs := [noTensor, noTensor], appendMax := 0,
      arg0 := 0, arg1 := 0, tag := 0, inline := [] }
  match fmt with
  | 1 => { base with outs := [fld b 4 2, fld b 6 2], arg1 := fld b 8 8, arg0 := fld b 0x10 8, tag := fld b 0x18 8 }
  | 2 => { base with
      waits := [⟨fld b 8 8⟩], sigs := [⟨fld b 0x10 8⟩],
      tens := [fld b 0x18 2, fld b 0x1A 2, fld b 0x1C 2, fld b 0x1E 2],
      outs := [fld b 0x20 2, fld b 0x22 2], appendMax := fld b 0x24 4,
      arg0 := fld b 0x28 8, arg1 := fld b 0x30 8, tag := fld b 0x38 8 }
  | _ => { base with
      ctl1 := fld b 4 4, xwinRaw := fld b 8 2, inl := fld b 0xA 2, seed := fld b 0xC 4,
      waits := [⟨fld b 0x10 8⟩, ⟨fld b 0x18 8⟩], sigs := [⟨fld b 0x20 8⟩, ⟨fld b 0x28 8⟩],
      tens := [fld b 0x30 2, fld b 0x32 2, fld b 0x34 2, fld b 0x36 2],
      outs := [fld b 0x38 2, fld b 0x3A 2], appendMax := fld b 0x3C 4,
      arg0 := fld b 0x40 8, arg1 := fld b 0x48 8, tag := fld b 0x50 8,
      inline := (b.drop 0x60).take 32 }

namespace Desc
def op (d : Desc) : Option Op := Op.ofCode d.opCode
def spillSet (d : Desc) : Bool := bit d.ctl1 13
/-- CTL1.EXACT, 0 unless SPILL_SET (R154). -/
def exact (d : Desc) : Bool := d.spillSet && bit d.ctl1 12
/-- The spill interval S of R274. -/
def spill (d : Desc) : Nat := if d.spillSet then (if bit d.ctl1 12 then 1 else bitf d.ctl1 0 12 + 1) else 64
/-- The X128 window of R270. -/
def xwin (d : Desc) : Int := if d.spillSet then twos 16 d.xwinRaw else -64
def rnd (d : Desc) : Rnd := (Rnd.ofCode (bitf d.ctl1 14 3)).getD .rne
def ieee (d : Desc) : Bool := bit d.ctl1 17
def class? (d : Desc) : Option Cls :=
  match d.cls with | 0 => some .normal | 1 => some .bulk | 2 => some .urgent | _ => none
def isUrgent (d : Desc) : Bool := d.cls = 2
def activeWaits (d : Desc) : List FlagRef := d.waits.filter (·.en)
def activeSigs (d : Desc) : List FlagRef := d.sigs.filter (·.en)
/-- The tensor index in slot 0-5 (T0-T3, OUT0, OUT1). -/
def slotIndex (d : Desc) (k : Nat) : Nat := (d.tens ++ d.outs).getD k noTensor
end Desc

/-- Tensor layouts (R159). -/
inductive TKind where
  | dense | csr | csc | coo | bsr | bitmap | nm | csf
  deriving DecidableEq, Repr

def TKind.ofCode : Nat → Option TKind
  | 1 => some .dense | 2 => some .csr | 3 => some .csc | 4 => some .coo
  | 5 => some .bsr | 6 => some .bitmap | 7 => some .nm | 8 => some .csf
  | _ => none

/-- A tensor entry (R158, R159). -/
structure Tensor where
  kind   : TKind
  elem   : Elem
  rank   : Nat
  sorted : Bool
  sep    : Bool
  region : Nat
  shape  : Nat
  nnz    : Nat
  dims   : List Nat
  arr    : List Nat
  deriving DecidableEq, Repr

namespace Tensor
def dim (t : Tensor) (k : Nat) : Nat := t.dims.getD k 0
def a (t : Tensor) (k : Nat) : Nat := t.arr.getD k 0
end Tensor

/-- Ranks a layout allows (R159). -/
def TKind.rankOk : TKind → Nat → Bool
  | .dense, r => r = 1 || r = 2
  | .coo, r => 1 ≤ r && r ≤ 4
  | .csf, r => 1 ≤ r && r ≤ 4
  | _, r => r = 2

/-- SHAPE values a layout allows (R159). -/
def TKind.shapeOk (k : TKind) (rank s : Nat) : Bool :=
  match k with
  | .bsr => bitf s 0 3 ≤ 5 && bitf s 4 3 ≤ 5 && !bit s 3 && s < 128
  | .nm => s < 128 && 1 ≤ bitf s 0 4 && bitf s 0 4 ≤ 8 && 1 ≤ bitf s 4 3 && bitf s 4 3 ≤ 5
            && bitf s 0 4 < 2 ^ bitf s 4 3
  | .csf => s < 4 ^ rank && ((List.range rank).map fun l => bitf s (2 * l) 2).Nodup
            && (List.range rank).all fun l => bitf s (2 * l) 2 < rank
  | _ => s = 0

/-- Array fields a layout marks 0 are 0, and A3 is 0 unless it holds separate MX scales (R159). -/
def TKind.arrOk (k : TKind) (e : Elem) (sep : Bool) (rank : Nat) (a : List Nat) : Bool :=
  let a1 := a.getD 1 0; let a2 := a.getD 2 0; let a3 := a.getD 3 0
  (match k with
   | .dense => a2 = 0 && (rank = 2 || a1 = 0)
   | .coo | .nm | .csf => a2 = 0
   | _ => true) && ((e.isMx && sep) || a3 = 0)

/-- Parse a 64-byte tensor entry; none where an encoding is reserved or VALID is 0 (R158, R159, R171). -/
def Tensor.parse (b : List Byte) : Option Tensor :=
  let flags := fld b 3 1
  let rank := fld b 2 1
  let dims := [fld b 0x10 4, fld b 0x14 4, fld b 0x18 4, fld b 0x1C 4]
  let arr := [fld b 0x20 8, fld b 0x28 8, fld b 0x30 8, fld b 0x38 8]
  match TKind.ofCode (fld b 0 1), Elem.ofCode (fld b 1 1) with
  | some k, some e =>
    let sep := bit flags 2
    let dimsOk := (List.range 4).all fun i => if i < rank then decide (1 ≤ dims.getD i 0) else dims.getD i 0 == 0
    if bit flags 0 && flags < 8 && k.rankOk rank && k.shapeOk rank (fld b 6 2) && dimsOk
        && zeroBytes b 0xC 4 && k.arrOk e sep rank arr && (k != .dense || fld b 8 4 = 0) then
      some { kind := k, elem := e, rank := rank, sorted := bit flags 1, sep := sep, region := fld b 4 2,
             shape := fld b 6 2, nnz := fld b 8 4, dims := dims, arr := arr }
    else none
  | _, _ => none

/-- The v3 inline tensor as a dense tensor (R157). -/
def Tensor.parseInline (b : List Byte) : Option Tensor :=
  let rank := fld b 1 1
  match Elem.ofCode (fld b 0 1) with
  | some e =>
    if (rank = 1 || rank = 2) && zeroBytes b 0xC 4 && 1 ≤ fld b 4 4
        && (if rank = 2 then 1 ≤ fld b 8 4 else fld b 8 4 = 0 && fld b 0x18 8 = 0) then
      some { kind := .dense, elem := e, rank := rank, sorted := false, sep := false, region := fld b 2 2,
             shape := 0, nnz := 0, dims := [fld b 4 4, fld b 8 4, 0, 0],
             arr := [fld b 0x10 8, fld b 0x18 8, 0, 0] }
    else none
  | none => none

/-- Region kinds (R161). -/
inductive RKind where
  | invalid | versioned | append | scratch | poolLocal | poolRemote
  deriving DecidableEq, Repr

def RKind.ofCode : Nat → Option RKind
  | 0 => some .invalid | 1 => some .versioned | 2 => some .append | 3 => some .scratch
  | 4 => some .poolLocal | 5 => some .poolRemote | _ => none

def RKind.isPool : RKind → Bool
  | .poolLocal | .poolRemote => true
  | _ => false

/-- A region entry (R161). -/
structure Region where
  kind   : RKind
  rights : Nat
  writer : Nat
  target : Nat
  base   : Nat
  size   : Nat
  window : Nat
  aux    : Nat
  deriving DecidableEq, Repr

namespace Region
def canRead (r : Region) : Bool := bit r.rights 0
def canWrite (r : Region) : Bool := bit r.rights 1
def isProgram (r : Region) : Bool := bit r.rights 2
def mirror (r : Region) : Bool := bit r.rights 3
def recreate (r : Region) : Bool := bit r.rights 4
def atomic (r : Region) : Bool := bit r.rights 5
/-- Quinulait endpoint of a POOL_REMOTE region (R161). -/
def epid (r : Region) : Nat := bitf r.target 0 16
def qlPort (r : Region) : Nat := bitf r.target 16 4
/-- Regions whose writes are transactional: staged until a decision (R78). -/
def transactional (r : Region) : Bool := r.kind = .versioned || r.kind = .append || r.kind.isPool
end Region

/-- Parse a 64-byte region entry; none where an encoding or combination is reserved (R161, R162, R171). -/
def Region.parse (b : List Byte) : Option Region :=
  let rights := fld b 1 1
  match RKind.ofCode (fld b 0 1) with
  | some k =>
    let writer := fld b 2 2
    let target := fld b 4 4
    let aux := fld b 0x20 8
    if rights < 64 && zeroBytes b 0x1C 4 && zeroBytes b 0x28 24
        && (if k = .versioned || k = .append then writer < 64 else writer = 0)
        && (if k = .poolRemote then target < 2 ^ 20 else target = 0)
        && (k.isPool || fld b 0x18 4 = 0)
        && !(bit rights 4 && k = .append) && !(bit rights 4 && bit rights 3)
        && (k = .append || bit rights 4 || aux = 0)
        && fld b 0x10 8 % (if k = .versioned then 65536 else 4096) = 0 then
      some { kind := k, rights := rights, writer := writer, target := target, base := fld b 8 8,
             size := fld b 0x10 8, window := fld b 0x18 4, aux := aux }
    else none
  | none => none

end Sys2Proof
end

