-- ==== Sys2Proof/Config.lean ====
section
/-! DEFINITION. What the manual leaves to the part or to an outside standard, as constants with no body: a statement
holds whatever they are (log entries 7-10). -/

namespace Sys2Proof

/-- The byte read where the manual calls content undefined (R82, R443); by epoch and device address. Log entry 7. -/
opaque Config.undefByte : Nat → Nat → Byte

/-- Fresh values the manual does not state, by number of use. Log entry 8. -/
opaque Config.freeValue : Nat → DWord

/-- SHA-384 of FIPS 180-4 (R14), not modelled bit by bit. Log entry 9. -/
opaque Config.sha384 : List Byte → List Byte

/-- ECDSA P-384 verification of FIPS 186-5: public key, digest, r, s. Log entry 9. -/
opaque Config.ecdsaVerify : List Byte → List Byte → List Byte → List Byte → Bool

/-- An ECDSA P-384 signature, 96 bytes, by key (0, 1: the fabric dies' device keys, 2: the meter's key), digest and
number of use. Log entry 9. -/
opaque Config.ecdsaSign : Nat → List Byte → Nat → List Byte

/-- Fuse contents written at manufacture (R602): package serial, meter serial number. Log entry 10. -/
opaque Config.serial : DWord
opaque Config.mdSerial : DWord

/-- SHA-384 of Skovha's root public key in the fuses (R602) and the boot ROM's own digest (R629). Log entry 10. -/
opaque Config.rootHash : List Byte
opaque Config.bootRomDigest : List Byte

/-- The key that signs meter firmware (R567) and the meter's device certificate (R569). Log entry 10. -/
opaque Config.mdFwKey : List Byte
opaque Config.mdCert : List Byte

/-- Constants of the I3C target that R573 names and does not give: 0 PID, 1 BCR, 2 DCR, 3 MWL, 4 MRL. Log entry 10. -/
opaque Config.i3cConst : Nat → Nat

/-- Hardware revision in the IDENT readout (R569). Log entry 10. -/
opaque Config.mdHwRev : Nat

/-- The certificate chain of a fabric die's slot 0 (R628), by fabric die. Log entry 10. -/
opaque Config.devChain : Nat → List Byte

/-- The device's CDAT, by entry (R128). Log entry 10. -/
opaque Config.cdat : Nat → List Byte

/-- SHA-384 of the meter's legal firmware as it leaves manufacture (R566). Log entry 10. -/
opaque Config.mdFwHash : List Byte

end Sys2Proof
end

