-- ==== Sys2Proof/Machine/Mem.lean ====
section
/-! DEFINITION. Sparse byte memory in one canonical form: addresses strictly rising and no entry equal to what an
unlisted address reads as. An unlisted byte reads as 0 (log entry 2). -/

namespace Sys2Proof

/-- A memory: its listed bytes, addresses strictly rising, none of them zero. -/
abbrev Mem := List Host.Cell

namespace Mem

/-- What a byte that nothing has written reads as. DESIGN CHOICE (log entry 2). -/
def unlisted : Byte := 0

def empty : Mem := []

/-- Whether every listed address is at least `lo`, addresses rise strictly and no byte is the unlisted one. -/
def risesFrom : Nat → Mem → Bool
  | _, [] => true
  | lo, (a, b) :: r => decide (lo ≤ a) && b != unlisted && risesFrom (a + 1) r

/-- One byte. -/
def read (a : Nat) : Mem → Byte
  | [] => unlisted
  | (x, b) :: r => if x = a then b else if a < x then unlisted else read a r

/-- Store one byte, keeping the canonical form. -/
def write (a : Nat) (v : Byte) : Mem → Mem
  | [] => if v = unlisted then [] else [(a, v)]
  | (x, b) :: r =>
    if a < x then (if v = unlisted then (x, b) :: r else (a, v) :: (x, b) :: r)
    else if a = x then (if v = unlisted then r else (a, v) :: r)
    else (x, b) :: write a v r

/-- Consecutive bytes from an address. -/
def readBytes (m : Mem) (a : Nat) : Nat → List Byte
  | 0 => []
  | n + 1 => read a m :: readBytes m (a + 1) n

/-- Store consecutive bytes, lowest address first. -/
def writeBytes (m : Mem) (a : Nat) : List Byte → Mem
  | [] => m
  | b :: bs => writeBytes (write a b m) (a + 1) bs

/-- A little-endian number of n bytes (R6). -/
def readLe (m : Mem) (a n : Nat) : Nat := leNat (readBytes m a n)

def writeLe (m : Mem) (a n v : Nat) : Mem := writeBytes m a (leBytes n v)

/-- Drop every listed byte in [lo, lo + n): the range reads as unlisted again. -/
def clear (m : Mem) (lo n : Nat) : Mem := m.filter fun c => decide (c.1 < lo) || decide (lo + n ≤ c.1)

end Mem

/-- The canonical form of a memory. -/
def Memory.wf (m : Mem) : Bool := m.risesFrom 0

/-! ### Ranges whose content the manual calls undefined -/

/-- An undefined range: start, length, and the free-value epoch it reads as. -/
abbrev Undef := Nat × Nat × Nat

/-- The epoch of an undefined range that covers an address. -/
def undefAt (us : List Undef) (a : Nat) : Option Nat :=
  (us.find? fun u => u.1 ≤ a && a < u.1 + u.2.1).map (·.2.2)

/-- An undefined range with [lo, lo + n) taken out of it, since those bytes are now defined. -/
def cutUndef (lo n : Nat) (u : Undef) : List Undef :=
  if lo < u.1 + u.2.1 ∧ u.1 < lo + n then
    (if u.1 < lo then [(u.1, lo - u.1, u.2.2)] else [])
      ++ (if lo + n < u.1 + u.2.1 then [(lo + n, u.1 + u.2.1 - (lo + n), u.2.2)] else [])
  else [u]

/-- A core store: its bytes, and the ranges whose content is undefined (R369). -/
structure CStore where
  mem   : Mem
  undef : List Undef
  deriving DecidableEq, Repr

namespace CStore

def empty : CStore := { mem := Mem.empty, undef := [] }

def read (c : CStore) (a : Nat) : Byte :=
  match undefAt c.undef a with
  | some e => Config.undefByte e a
  | none => c.mem.read a

def write (c : CStore) (a : Nat) (v : Byte) : CStore :=
  { mem := c.mem.write a v, undef := c.undef.flatMap (cutUndef a 1) }

def readBytes (c : CStore) (a n : Nat) : List Byte := (List.range n).map fun i => c.read (a + i)

def writeBytes (c : CStore) (a : Nat) (bs : List Byte) : CStore :=
  { mem := c.mem.writeBytes a bs, undef := c.undef.flatMap (cutUndef a bs.length) }

def readLe (c : CStore) (a n : Nat) : Nat := leNat (c.readBytes a n)
def writeLe (c : CStore) (a n v : Nat) : CStore := c.writeBytes a (leBytes n v)

/-- Set a range to 0. -/
def clear (c : CStore) (lo n : Nat) : CStore :=
  { mem := c.mem.clear lo n, undef := c.undef.flatMap (cutUndef lo n) }

/-- Make a range undefined. -/
def forget (c : CStore) (lo n epoch : Nat) : CStore := { c with undef := (lo, n, epoch) :: c.undef }

end CStore

end Sys2Proof
end

