-- ==== Sys2Proof/Machine/CoreState.lean ====
section
/-! DEFINITION. The state of one core: sequencer banks, core store, tile queue, arrays and accumulator tiles, stream
engines, token buckets, resident sets and the core's fault counters (chapters 7-12, R541). -/

namespace Sys2Proof.Machine

/-- What a core knows of the operation a segment belongs to: the journaled descriptor, the entries acceptance
checked, the operation window that presents them (R376), and its reserved append slot (R82). -/
structure OpCtx where
  asn     : Nat
  port    : Nat
  func    : Nat
  ring    : Nat
  desc    : Desc
  tensors : List (Option Tensor)
  regions : List (Option Region)
  window  : List Byte
  append  : Option Nat
  deriving DecidableEq, Repr

/-- A loaded operation program: its placement and the header values R370 uses (R365, R368). -/
structure Prog where
  ibase    : Nat
  imageLen : Nat
  wbase    : Nat
  work     : Nat
  stack    : Nat
  entry    : Nat
  evbOff   : Nat
  evbV     : Bool
  items    : Nat
  gang     : Option Nat
  group    : Option Nat
  deriving DecidableEq, Repr

/-- One item placed on a core (R324, R328): its number, estimated cost, and its split with the number of splits and
the receiving core (R281). -/
structure Item where
  num     : Nat
  cost    : Nat
  split   : Nat
  splits  : Nat
  recv    : Nat
  started : Bool
  done    : Bool
  deriving DecidableEq, Repr

/-- The items of one operation on one core (R328), and whether the segment was replaced by a header fault (R366). -/
structure Seg where
  ctx     : OpCtx
  prog    : Option Prog
  items   : List Item
  urgent  : Bool
  started : Bool
  finished : Bool
  deriving DecidableEq, Repr

/-- One sequencer register bank (R372-R374). -/
structure SeqBank where
  g      : Vector Word 32
  pc     : Word
  sta    : Word
  ecause : Word
  era    : Word
  evb    : Word
  slo    : Word
  shi    : Word
  fsb    : Word
  tags   : List Nat
  active : Bool
  item   : Nat
  qts    : Nat
  ctx    : OpCtx
  prog   : Prog
  deriving DecidableEq, Repr

/-- An open loop level: the index after its LOOP and the count left (R339). -/
structure LoopLevel where
  start : Nat
  left  : Nat
  deriving DecidableEq, Repr

/-- Transfer kinds by where they retire (R345). -/
inductive XferKind where
  | read | write | remote
  deriving DecidableEq, Repr

/-- A transfer issued and not yet retired (R345, R346): its instruction index, core store range, slot and region range;
for a remote one its opcode, vector and block arguments, the messages not yet answered, its issue stamp and whether an
answer failed it (R496). -/
structure Xfer where
  id    : Nat
  kind  : XferKind
  index : Nat
  csLo  : Nat
  csLen : Nat
  slot  : Nat
  memLo : Nat
  memLen : Nat
  op    : Nat
  trans : Bool
  vecs  : List (Option Nat)
  blks  : List (Option Nat)
  acks  : Nat
  at_   : Stamp
  failed : Bool
  deriving DecidableEq, Repr

/-- A PUT whose increment waits for the transfers before it (R339). -/
structure PendPut where
  ctr    : Nat
  before : Nat
  deriving DecidableEq, Repr

/-- A stream engine (R334). -/
structure StreamEng where
  s       : Vector DWord 16
  loops   : List (Option LoopLevel)
  tok     : List Nat
  running : Bool
  stopped : Bool
  asn     : Nat
  index   : Nat
  code    : List Word
  queued  : Option (Nat × List Byte)
  xfers   : List Xfer
  puts    : List PendPut
  nextXfer : Nat
  rsent   : Bool
  deriving DecidableEq, Repr

/-- Accumulation kinds (R262). -/
inductive AccKind where
  | fp32 | int32
  deriving DecidableEq, Repr

/-- One spill entry: an X128 or INT64 value in units, or a special code (R269, R273). -/
inductive SpillE where
  | nan
  | inf (neg : Bool)
  | fin (u : Int)
  deriving DecidableEq, Repr

/-- Who holds a physical tile: operation, item, logical tile, shared group (R261, R283). -/
structure TileOwner where
  asn   : Nat
  item  : Nat
  ltile : Nat
  bankU : Bool
  group : Option Nat
  deriving DecidableEq, Repr

/-- What a back set waits for (R288 BACK_ACT). -/
inductive BackAct where
  | none | spill | closeOut | closeChain
  deriving DecidableEq, Repr

/-- A physical accumulator tile with its tile state (R261-R263, R288). Rows are 16 32-bit codes. -/
structure AccTile where
  owner   : Option TileOwner
  kind    : Option AccKind
  front   : List (List Word)
  back    : List (List Word)
  backAct : BackAct
  cursor  : Nat
  isat    : Bool
  xovf    : Bool
  xinx    : Bool
  spilled : Bool
  spill   : List (List SpillE)
  terms   : Nat
  key     : Option Nat
  last    : Option Nat
  exact   : Bool
  xwin    : Int
  interval : Nat
  partials : Nat
  closed  : Bool
  deriving DecidableEq, Repr

/-- A weight set: its format, the W-layout tile bytes and its checksum residues (R227, R246). -/
structure WeightSet where
  elem : Option Elem
  tile : List Byte
  wc   : List Nat
  wr   : List Nat
  deriving DecidableEq, Repr

/-- One array: foreground and background weight sets, eight physical tiles, and whether it is idle for the ramp
(R225, R227, R243, R261). -/
structure ArrayUnit where
  fg    : WeightSet
  bg    : WeightSet
  tiles : List AccTile
  idle  : Bool
  deriving DecidableEq, Repr

/-- A tile queue entry (R398, R399): three words and the captured descriptor block, or a stream start request. -/
structure TileEntry where
  id     : Nat
  bankU  : Bool
  asn    : Nat
  item   : Nat
  w0     : Word
  w1     : Word
  w2     : Word
  block  : List Byte
  start  : Option (Nat × Nat)
  bound  : List (Nat × Nat)
  issued : Bool
  deriving DecidableEq, Repr

/-- The queue-side record of a logical tile in an item record (R399, R400). -/
structure RecTile where
  array : Nat
  ltile : Nat
  kind  : Option AccKind
  last  : Option Nat
  deriving DecidableEq, Repr

/-- An item record (R399): tiles named, loads not yet bound, the current foreground format of each array, and tiles whose
use the item has ended with CLOSE (R284). -/
structure ItemRec where
  asn   : Nat
  item  : Nat
  bankU : Bool
  tiles : List RecTile
  loads : List (Nat × Nat × Elem)
  fg    : List (Nat × Elem)
  closed : List (Nat × Nat)
  deriving DecidableEq, Repr

/-- A tile saved under R288: its array and physical index, its state, and where its record lies in core store. -/
structure SavedTile where
  array : Nat
  phys  : Nat
  tile  : AccTile
  base  : Nat
  deriving DecidableEq, Repr

/-- A resident set's member state on this core (R357-R361). -/
structure Shard where
  member : Bool
  pos    : Nat
  filled : Bool
  bufA   : Option Nat
  bufB   : Option Nat
  deriving DecidableEq, Repr

/-- An operation's ending found on this core, with its STATUS and INFO (R352, R392, R426). -/
structure Ending where
  asn    : Nat
  status : Nat
  info   : Nat
  deriving DecidableEq, Repr

/-- The core's fault counters and records (R537, R541, R392): FT_COREn and FT_COREn_HASN. -/
structure CoreFt where
  csCe     : Nat
  accCe    : Nat
  mismatch : Nat
  halt     : Bool
  csUe     : Bool
  hasn     : Nat
  deriving DecidableEq, Repr

/-- One core. -/
structure Core where
  store   : CStore
  bankN   : SeqBank
  bankU   : SeqBank
  urgent  : Bool
  segs    : List Seg
  queue   : List TileEntry
  nextId  : Nat
  recs    : List ItemRec
  arrays  : List ArrayUnit
  engines : List StreamEng
  bucketR : Nat
  bucketW : Nat
  bucketM : Nat
  shards  : List Shard
  ringIn  : List (Nat × Nat × List Byte)
  guard   : Bool
  frzDry  : Nat
  frzAcc  : Nat
  chkArray : Nat
  chkMv   : Bool
  ft      : CoreFt
  saves   : List SavedTile
  wsaved  : List (Option (WeightSet × WeightSet))
  endings : List Ending
  notes   : List (Nat × Nat)
  aborts  : List (Nat × Nat)
  deriving DecidableEq, Repr

/-- An empty descriptor: a MARK with nothing named. -/
def Desc.idle : Desc :=
  { ver := 3, cls := 0, irqNow := false, opCode := 0, mode := 0, ctl1 := 0, xwinRaw := 0, inl := 7, seed := 0,
    waits := [], sigs := [], tens := [noTensor, noTensor, noTensor, noTensor], outs := [noTensor, noTensor],
    appendMax := 0, arg0 := 0, arg1 := 0, tag := 0, inline := [] }

def OpCtx.idle : OpCtx :=
  { asn := 0, port := 0, func := 0, ring := 0, desc := Desc.idle,
    tensors := List.replicate 6 none, regions := List.replicate 7 none, window := [], append := none }

def Prog.idle : Prog :=
  { ibase := 0, imageLen := 0, wbase := 0, work := 0, stack := 0, entry := 0, evbOff := 0, evbV := false,
    items := 0, gang := none, group := none }

/-- A bank at power-on: every register 0 (R373 Reset column; g0-g31 and pc by log entry 3). -/
def SeqBank.reset : SeqBank :=
  { g := Vector.replicate 32 0, pc := 0, sta := 0, ecause := 0, era := 0, evb := 0, slo := 0, shi := 0, fsb := 0,
    tags := [], active := false, item := 0, qts := 0, ctx := OpCtx.idle, prog := Prog.idle }

def StreamEng.reset : StreamEng :=
  { s := Vector.replicate 16 0, loops := List.replicate 4 none, tok := [0, 0, 0, 0], running := false,
    stopped := false, asn := 0, index := 0, code := [], queued := none, xfers := [], puts := [], nextXfer := 0, rsent := false }

def AccTile.free : AccTile :=
  { owner := none, kind := none, front := [], back := [], backAct := .none, cursor := 0, isat := false,
    xovf := false, xinx := false, spilled := false, spill := [], terms := 0, key := none, last := none,
    exact := false, xwin := -64, interval := 64, partials := 0, closed := false }

def WeightSet.reset : WeightSet := { elem := none, tile := [], wc := [], wr := [] }

def ArrayUnit.reset : ArrayUnit :=
  { fg := WeightSet.reset, bg := WeightSet.reset, tiles := List.replicate 8 AccTile.free, idle := true }

def Shard.none : Shard := { member := false, pos := 0, filled := false, bufA := Option.none, bufB := Option.none }

def CoreFt.reset : CoreFt := { csCe := 0, accCe := 0, mismatch := 0, halt := false, csUe := false, hasn := 0 }

/-- A core after reset; its buckets are full at the reset depths of CO_SBD (R350). -/
def Core.reset : Core :=
  { store := CStore.empty, bankN := SeqBank.reset, bankU := SeqBank.reset, urgent := false, segs := [], queue := [],
    nextId := 0, recs := [], arrays := List.replicate 4 ArrayUnit.reset,
    engines := List.replicate 6 StreamEng.reset, bucketR := 64 * 64, bucketW := 64 * 64, bucketM := 64 * 16,
    shards := List.replicate 4 Shard.none, ringIn := [], guard := false, frzDry := 0, frzAcc := 0, chkArray := 0, chkMv := false,
    ft := CoreFt.reset, saves := [], wsaved := List.replicate 4 Option.none, endings := [], notes := [],
    aborts := [] }

/-! ### Configuration requests (R104, R125, R586) -/

/-- What a configuration request asks of a function beyond the requests that have rows of their own: nothing the model
holds, MSI-X Enable and Function Mask, CXL.mem enabled with the HDM decoder committed, or the uncorrectable error log,
whose bits written 1 clear. -/
inductive CfgReq where
  | other
  | msix (en mask : Bool)
  | mem (on : Bool)
  | aer (clear : Nat)
  deriving DecidableEq, Repr

/-! ### What the journal pass reads (R99) -/

/-- A decision log as read: its header, and the records from APPLIED_OFF on. -/
structure DecLogRead where
  header  : List Byte
  records : List (List Byte)
  deriving DecidableEq, Repr

/-- A ring log as read: page and ring, its header, and the entries from HEAD_IDX on. -/
structure RingLogRead where
  page    : Nat
  ring    : Nat
  header  : List Byte
  entries : List (List Byte)
  deriving DecidableEq, Repr

/-- A completion ring as read: page and number, TAIL, HEAD, and the slots after TAIL. -/
structure CqRead where
  page  : Nat
  cq    : Nat
  tail  : Nat
  head  : Nat
  slots : List (List Byte)
  deriving DecidableEq, Repr

/-- Tensor and region entries of a page that journaled descriptors name. -/
structure PageTables where
  page    : Nat
  tensors : List (Nat × List Byte)
  regions : List (Nat × List Byte)
  deriving DecidableEq, Repr

end Sys2Proof.Machine
end

