-- ==== Sys2Proof/Syntax.lean ====
section
/-! DEFINITION. The commands the block takes: one constructor per row of spec/opcode_table.json. A command's operands
are what its step meets from outside: the stamp `t` (R27, R48), the part, port, function or ring it concerns, register
numbers and immediates of an instruction already decoded, bytes a read returned, faults observed. -/

namespace Sys2Proof

open Sys2Proof.Machine (SpillE CfgReq DecLogRead RingLogRead CqRead PageTables)

/-- One constructor per row of the table, in the table's order. -/
inductive Instr where
  -- Register access (chapter 20)
  | registerWrite (t port : Nat) (vf : Option Nat) (off : Nat) (be : BitVec 4) (v : Word)
  | wsFieldWrite (t port off : Nat) (be : BitVec 4) (v : Word)
  | commitArm (t port off : Nat) (be : BitVec 4) (v : Word)
  | loReadLatch (t port : Nat) (vf : Option Nat) (off : Nat)
  | rcRead (t port : Nat) (vf : Option Nat) (off : Nat)
  -- Frames, votes and mastership (chapters 2, 3)
  | run (t port : Nat) (be : BitVec 4) (v : Word)
  | frameTick (t power hottest : Nat) (sources : List (List Byte)) (consumes : List (Nat × Nat))
  | tickMessage (t die frn token : Nat)
  | tickWatchdog (t die : Nat)
  | subTick (t k : Nat)
  | guardOpen (t : Nat)
  | waitWindowExpired (t asn : Nat)
  | prepareVote (t die sub : Nat)
  | voteEvaluate (t : Nat)
  | lease (t frn token : Nat)
  | decisionDurable (t frn sub : Nat)
  | dieCommitApply (t die frn sub : Nat)
  | completionRecordPosted (t page ring : Nat)
  | moderationTimer (t page cq : Nat)
  | cqHeadRead (t page cq head : Nat)
  | leaseRenewalMissed (t : Nat)
  | takeover (t : Nat) (durable : List (Nat × Nat))
  | fenceTokenMessage (t who token : Nat)
  | fenceAckTimeout (t who : Nat)
  -- Resets and the journal pass (chapters 3, 19)
  | perstN (t port : Nat)
  | hotReset (t port : Nat)
  | fullReset (t port : Nat) (be : BitVec 4) (v : Word)
  | resetRebootReady (t : Nat)
  | recoverGoFresh (t port : Nat) (be : BitVec 4) (v : Word)
  | recoverGoRecover (t port : Nat) (be : BitVec 4) (v : Word) (dlogs : List DecLogRead) (rlogs : List RingLogRead)
      (posted : List CqRead) (tables : List PageTables)
  | journalPassDone (t : Nat)
  -- Time reference (R43-R47)
  | ppsEdge (t : Nat)
  | ppsTimeout (t : Nat)
  | ptpMessage (t qlPort domain : Nat) (offset : Int)
  | timeHoldover (t : Nat)
  | timeLocked (t : Nat)
  -- Doorbells and acceptance (chapters 3-5)
  | snpinv (t port addr : Nat)
  | snpdata (t port addr : Nat)
  | snpcur (t port addr : Nat)
  | pollInterval (t port addr : Nat)
  | doorbellLineReturn (t port addr : Nat) (data : Option (List Byte))
  | descriptorFetched (t page ring : Nat) (desc : List Byte) (tensors regions : List (Nat × List Byte))
  | journalEntryConfirmed (t asn : Nat)
  | journalDeadlineMissed (t asn : Nat)
  | rejectionConfirmed (t page ring : Nat)
  -- Dispatch of work (chapters 2, 9, 11, 12)
  | urgentDispatch (t asn consume : Nat)
  | urgentEndResume (t core : Nat)
  | itemStart (t core : Nat)
  | steal (t core : Nat)
  -- Rings and flags (chapter 5)
  | ringEnable (t port : Nat) (vf : Option Nat) (off : Nat) (be : BitVec 4) (v : Word)
  | ringDisable (t port : Nat) (vf : Option Nat) (off : Nat) (be : BitVec 4) (v : Word)
  | cqEnable (t port : Nat) (vf : Option Nat) (off : Nat) (be : BitVec 4) (v : Word)
  | cqDisable (t port : Nat) (vf : Option Nat) (off : Nat) (be : BitVec 4) (v : Word)
  | flagCfgWrite (t port : Nat) (vf : Option Nat) (off : Nat) (be : BitVec 4) (v : Word)
  | flagValWrite (t port : Nat) (vf : Option Nat) (off : Nat) (be : BitVec 4) (v : Word)
  -- Operations (R155)
  | mark (t asn : Nat)
  | program (t asn core : Nat)
  | spmm (t asn core : Nat) (remote : List (List Byte))
  | spgemm (t asn core : Nat) (remote : List (List Byte))
  | sddmm (t asn core : Nat) (remote : List (List Byte))
  | gemm (t asn core : Nat) (remote : List (List Byte))
  | spattn (t asn core : Nat) (remote : List (List Byte))
  | aggr (t asn core : Nat) (remote : List (List Byte))
  | moeRoute (t asn core : Nat) (remote : List (List Byte))
  | embReduce (t asn core : Nat) (remote : List (List Byte))
  | copy (t asn core : Nat) (remote : List (List Byte))
  | convert (t asn core : Nat) (remote : List (List Byte))
  -- Stream engines (chapter 10)
  | streamProgramStart (core eng : Nat)
  | seEnd (core eng : Nat)
  | seSetw (core eng : Nat) (d : BitVec 4) (pos : BitVec 2) (imm : BitVec 16)
  | seAddi (core eng : Nat) (d a : BitVec 4) (imm : BitVec 14)
  | seAdd (core eng : Nat) (d a b : BitVec 4)
  | seSub (core eng : Nat) (d a b : BitVec 4)
  | seMuli (core eng : Nat) (d a : BitVec 4) (imm : BitVec 14)
  | seShli (core eng : Nat) (d a : BitVec 4) (imm : BitVec 6)
  | seLdw (core eng : Nat) (d a : BitVec 4) (imm : BitVec 14)
  | seLdh (core eng : Nat) (d a : BitVec 4) (imm : BitVec 14)
  | seLoop (core eng : Nat) (lvl : BitVec 2) (reg : Bool) (a : BitVec 4) (imm : BitVec 18)
  | seNext (core eng : Nat) (lvl : BitVec 2)
  | seRdl (core eng idle : Nat) (d a b : BitVec 4) (slot : BitVec 3) (imm : BitVec 11)
  | seWrl (core eng idle : Nat) (d a b : BitVec 4) (slot : BitVec 3) (imm : BitVec 11)
  | seRda (core eng idle : Nat) (d a b : BitVec 4) (slot : BitVec 3) (imm : BitVec 11)
  | seRdw (core eng idle : Nat) (d a b : BitVec 4) (slot : BitVec 3) (imm : BitVec 11)
  | seRdb (core eng idle : Nat) (d a b : BitVec 4) (slot : BitVec 3) (imm : BitVec 11)
  | seGet (core eng : Nat) (d : BitVec 4)
  | sePut (core eng : Nat) (d : BitVec 4)
  | seFence (core eng : Nat)
  | seRstep (core eng : Nat) (d a b : BitVec 4) (set : BitVec 2)
  | transferRetire (core eng xfer : Nat)
  | residentShardFilled (core set : Nat)
  -- Sequencer (chapter 11)
  | add (core : Nat) (rd ra rb : BitVec 5)
  | sub (core : Nat) (rd ra rb : BitVec 5)
  | and (core : Nat) (rd ra rb : BitVec 5)
  | or (core : Nat) (rd ra rb : BitVec 5)
  | xor (core : Nat) (rd ra rb : BitVec 5)
  | shl (core : Nat) (rd ra rb : BitVec 5)
  | shr (core : Nat) (rd ra rb : BitVec 5)
  | sar (core : Nat) (rd ra rb : BitVec 5)
  | clt (core : Nat) (rd ra rb : BitVec 5)
  | cltu (core : Nat) (rd ra rb : BitVec 5)
  | mul (core : Nat) (rd ra rb : BitVec 5)
  | mulHi (core : Nat) (rd ra rb : BitVec 5)
  | mulHiu (core : Nat) (rd ra rb : BitVec 5)
  | quo (core : Nat) (rd ra rb : BitVec 5)
  | quou (core : Nat) (rd ra rb : BitVec 5)
  | mod (core : Nat) (rd ra rb : BitVec 5)
  | modu (core : Nat) (rd ra rb : BitVec 5)
  | min (core : Nat) (rd ra rb : BitVec 5)
  | max (core : Nat) (rd ra rb : BitVec 5)
  | minu (core : Nat) (rd ra rb : BitVec 5)
  | maxu (core : Nat) (rd ra rb : BitVec 5)
  | fadd (core : Nat) (rd ra rb : BitVec 5)
  | fsub (core : Nat) (rd ra rb : BitVec 5)
  | fmul (core : Nat) (rd ra rb : BitVec 5)
  | fmin (core : Nat) (rd ra rb : BitVec 5)
  | fmax (core : Nat) (rd ra rb : BitVec 5)
  | fclt (core : Nat) (rd ra rb : BitVec 5)
  | fceq (core : Nat) (rd ra rb : BitVec 5)
  | addK (core : Nat) (rd ra : BitVec 5) (imm : BitVec 16)
  | andK (core : Nat) (rd ra : BitVec 5) (imm : BitVec 16)
  | orK (core : Nat) (rd ra : BitVec 5) (imm : BitVec 16)
  | xorK (core : Nat) (rd ra : BitVec 5) (imm : BitVec 16)
  | cltK (core : Nat) (rd ra : BitVec 5) (imm : BitVec 16)
  | cltuK (core : Nat) (rd ra : BitVec 5) (imm : BitVec 16)
  | hiK (core : Nat) (rd ra : BitVec 5) (imm : BitVec 16)
  | shlK (core : Nat) (rd ra k : BitVec 5)
  | shrK (core : Nat) (rd ra k : BitVec 5)
  | sarK (core : Nat) (rd ra k : BitVec 5)
  | pcrel (core : Nat) (rd : BitVec 5) (imm : BitVec 16)
  | ldW (core : Nat) (rd ra : BitVec 5) (imm : BitVec 16)
  | ldHs (core : Nat) (rd ra : BitVec 5) (imm : BitVec 16)
  | ldHu (core : Nat) (rd ra : BitVec 5) (imm : BitVec 16)
  | ldBs (core : Nat) (rd ra : BitVec 5) (imm : BitVec 16)
  | ldBu (core : Nat) (rd ra : BitVec 5) (imm : BitVec 16)
  | stW (core : Nat) (rd ra : BitVec 5) (imm : BitVec 16)
  | stH (core : Nat) (rd ra : BitVec 5) (imm : BitVec 16)
  | stB (core : Nat) (rd ra : BitVec 5) (imm : BitVec 16)
  | brEq (core : Nat) (rd ra : BitVec 5) (imm : BitVec 16)
  | brNe (core : Nat) (rd ra : BitVec 5) (imm : BitVec 16)
  | brLt (core : Nat) (rd ra : BitVec 5) (imm : BitVec 16)
  | brGe (core : Nat) (rd ra : BitVec 5) (imm : BitVec 16)
  | brLtu (core : Nat) (rd ra : BitVec 5) (imm : BitVec 16)
  | brGeu (core : Nat) (rd ra : BitVec 5) (imm : BitVec 16)
  | bra (core : Nat) (off : BitVec 26)
  | call (core : Nat) (off : BitVec 26)
  | callr (core : Nat) (rd ra : BitVec 5) (imm : BitVec 16)
  | sget (core : Nat) (rd rb : BitVec 5)
  | sput (core : Nat) (ra rb : BitVec 5)
  | hret (core : Nat)
  | trap (core : Nat) (code : BitVec 5)
  | done (core : Nat) (code : BitVec 5)
  | fence (core : Nat)
  | qt (core : Nat) (rd ra rb : BitVec 5)
  | sest (core : Nat) (ra : BitVec 5) (eng : BitVec 3)
  | tget (core : Nat) (eng : BitVec 3) (ctr : BitVec 2)
  | tput (core : Nat) (eng : BitVec 3) (ctr : BitVec 2)
  | cvt (core : Nat) (rd ra rb : BitVec 5) (site dst : BitVec 4) (src : Bool)
  | dec (core : Nat) (rd ra : BitVec 5) (src : BitVec 4)
  | illegalInstruction (core : Nat) (word : Word)
  -- Tile entries (chapter 12)
  | ldw (core id : Nat)
  | str (core id freezeDry freezeAcc mismatch : Nat)
  | acc (core id mismatch : Nat)
  | mv (core id mismatch : Nat)
  | ew (core id : Nat)
  | close (core id : Nat)
  | drain (core id : Nat)
  | merge (core id : Nat)
  | gather (core id : Nat)
  | tileEntryRetire (core id : Nat)
  | closeDrainEnd (core array tile : Nat)
  | itemEnd (core asn item : Nat)
  | chainPartialReceived (core asn item array ltile terms flags : Nat) (rows : List (List SpillE))
  -- Memory and L2 (chapter 13)
  | l2Read (t src addr len cls err asn : Nat) (size : Option Nat) (mirrored : Bool)
  | l2Write (t src addr cls asn : Nat) (data : List Byte) (size : Option Nat) (mirrored : Bool)
  | l2FillReturn (t slice line err asn : Nat)
  | patrolScrub (t stack corrected uncorrectable : Nat)
  | refresh (t stack bank temp : Nat)
  | maintClean (t port : Nat) (be : BitVec 4) (v : Word)
  | maintInv (t port : Nat) (be : BitVec 4) (v : Word)
  | maintDone (t fd : Nat)
  -- Fabric and Quinulait ports (chapter 14)
  | ucieLinkDown (t : Nat) (links : List (Nat × Nat))
  | linkWatchdog (t : Nat) (links : List (Nat × Nat × Nat))
  | ucieModuleLost (t a b : Nat)
  | routeChange (t : Nat) (atomics sets : List Nat)
  | isolation (t lo hi : Nat)
  | ageLimit (t slice id : Nat)
  | qlPortTrained (t port : Nat) (ql2 ql3 : Bool)
  | qlPortDegraded (t port : Nat)
  | qlPortLost (t port : Nat)
  -- Pool messages, atomics and locks (chapter 15)
  | rd (t port init win off len : Nat)
  | rdr (t core eng xfer status : Nat) (data : List Byte)
  | wr (t port init win off lock : Nat) (data : List Byte)
  | swr (t port init win off frn asn attempt token lock : Nat) (data : List Byte)
  | sacc (t port init win asn attempt token lock : Nat) (data : List Byte)
  | ack (t core eng xfer asn status : Nat)
  | ackDeadline (t core eng xfer asn : Nat)
  | prepSend (t sub : Nat)
  | prep (t port init win frn sub token : Nat) (list : List (Nat × Nat))
  | vote (t epid rwin frn sub : Nat) (yes : Bool)
  | commit (t port init win frn sub token : Nat) (aborted : List Nat)
  | abort (t port init win frn sub token : Nat) (asns : List Nat)
  | cack (t epid rwin frn sub : Nat) (appliedOk : Bool)
  | qlFence (t port init token : Nat)
  | late (t epid rwin frn : Nat)
  | poolHoldExpired (t win init asn : Nat)
  | cas64 (t : Nat) (via : Option (Nat × Option Nat × Nat × BitVec 4 × Word)) (port init win off a b lock : Nat)
  | swap64 (t : Nat) (via : Option (Nat × Option Nat × Nat × BitVec 4 × Word)) (port init win off a lock : Nat)
  | add64 (t : Nat) (via : Option (Nat × Option Nat × Nat × BitVec 4 × Word)) (port init win off a lock : Nat)
  | add32 (t : Nat) (via : Option (Nat × Option Nat × Nat × BitVec 4 × Word)) (port init win off a lock : Nat)
  | lacq (t : Nat) (via : Option (Nat × Option Nat × Nat × BitVec 4 × Word)) (port init win n : Nat)
  | lren (t : Nat) (via : Option (Nat × Option Nat × Nat × BitVec 4 × Word)) (port init win token n : Nat)
  | lrel (t : Nat) (via : Option (Nat × Option Nat × Nat × BitVec 4 × Word)) (port init win token : Nat)
  | lockLeaseExpiry (t win : Nat)
  -- Host ports (chapter 4)
  | linkDown (t port : Nat)
  | hostPortLost (t port : Nat)
  | portReturned (t port : Nat)
  | linkUp (t port rate width proto : Nat) (flit : Bool)
  | dlDown (t port : Nat)
  | cxlCacheToggle (t port : Nat) (on : Bool)
  | busMasterEnable (t port func : Nat) (bme d3 : Bool)
  | vfEnable (t port num : Nat) (on : Bool)
  | initiateFlr (t port func : Nat)
  | msixUnmask (t port func vec : Nat)
  | hostHbmRead (t port : Nat) (cxl : Bool) (addr len func : Nat) (regions : List (List Byte))
  | hostHbmWrite (t port : Nat) (cxl : Bool) (addr : Nat) (data : List Byte) (regions : List (List Byte))
  | heldReadAnswer (t port id : Nat) (regions : List (List Byte))
  | atsInvalidation (t port func : Nat) (done : Bool)
  | atsInvalidationTimeout (t port func : Nat)
  | requestError (t port func kind : Nat)
  | ideIntegrityFailure (t port stream : Nat)
  | ideKm (t port stream op : Nat)
  -- SPDM (R627-R629)
  | getVersion (t port : Nat)
  | getCapabilities (t port : Nat)
  | negotiateAlgorithms (t port algs : Nat)
  | getDigests (t port : Nat)
  | getCertificate (t port slot offset len : Nat)
  | challenge (t port slot : Nat) (nonce : List Byte)
  | getMeasurements (t port index : Nat) (nonce : List Byte)
  | keyExchange (t port reqSession : Nat) (exchange : List Byte)
  | finish (t port session : Nat)
  | heartbeat (t port session : Nat)
  | keyUpdate (t port session : Nat)
  | endSession (t port session : Nat)
  -- Faults (chapter 16)
  | fatalErrorReport (t die : Nat)
  | standbyLeaseAckMissed (t : Nat)
  | checksumReport (t core : Nat)
  | coreStoreUe (t core addr : Nat)
  -- The meter (chapter 17)
  | summary (t link : Nat) (msg : List Byte)
  | summaryApply (t : Nat)
  | mdFence (t session token : Nat)
  | read (t path sel arg : Nat) (nonce : List Byte)
  | param (t id value : Nat)
  | clear (t mask : Nat)
  | fwBegin (t target len : Nat)
  | fwData (t off : Nat) (data : List Byte)
  | fwEnd (t version : Nat) (hash sig : List Byte)
  | i3cPrivateRead (t : Nat)
  | entdaa (t addr : Nat)
  | setdasa (t static addr : Nat)
  | rstdaa (t : Nat)
  | enec (t : Nat)
  | disec (t : Nat)
  | getpid (t : Nat)
  | getbcr (t : Nat)
  | getdcr (t : Nat)
  | getstatus (t : Nat)
  | getmwl (t : Nat)
  | getmrl (t : Nat)
  | rstact (t action : Nat)
  | sealChange (t : Nat) (sealed : Bool)
  | clockCheck (t ppm : Nat)
  | fwHashCheck (t : Nat) (good : Bool)
  | nvSnapshot (t : Nat) (verified : Bool)
  | mdBranchFall (t : Nat) (verified : Bool)
  | mdPowerOn (t rtcNow : Nat)
  | statusWord (t fd : Nat)
  | statusWordTimeout (t fd : Nat)
  | mbxGo (t port : Nat) (be : BitVec 4) (v : Word)
  | mbxTimeout (t fd : Nat)
  -- Power, resets and signals (chapter 18)
  | vinLoss (t input : Nat)
  | vinReconnect (t input : Nat)
  | vinOvervoltage (t input : Nat)
  | modfail (t : Nat)
  | supplyTrip (t kind index : Nat)
  | thermalTrip (t kind index : Nat)
  | pwrOk (t : Nat) (msel recov test cold : Bool)
  | perstRelease (t port : Nat)
  | pwrDnN (t : Nat)
  | pwrDnRelease (t : Nat)
  | coldRstN (t : Nat)
  | coldResetRelease (t : Nat) (msel recov test : Bool)
  | refclkLoss (t : Nat)
  | refclkReturn (t : Nat)
  | qlRefclkLoss (t fd : Nat)
  | testPortAccess (t : Nat)
  -- Boot and flash (chapter 19)
  | slotVerified (t fd slot : Nat) (dead : List Nat)
  | imageCompare (t : Nat)
  | recoveryGo (t port : Nat) (v : Word)
  | svnCommit (t port : Nat) (be : BitVec 4) (v : Word)
  | flashErase (t port : Nat) (be : BitVec 4) (v : Word)
  | flashProgram (t port : Nat) (be : BitVec 4) (v : Word)
  | flashCheck (t port : Nat) (be : BitVec 4) (v : Word)
  | flashDone (t fd : Nat)
  -- Further events
  | energySample (t : Nat) (va ia vb ib : Int)
  | lidLoopOpen (t : Nat) (opened : Bool)
  | completionTimeout (t port func : Nat)
  | throttleThreshold (t die : Nat) (rising : Bool)
  | fenceAcknowledgement (t who : Nat)
  | readoutRecord (t fd : Nat) (bytes : List Byte)
  | doeDiscovery (t port index : Nat)
  | cdatTableAccess (t port entry : Nat)
  | configurationRequest (t port func : Nat) (req : CfgReq)
  deriving DecidableEq, Repr

end Sys2Proof
end

