-- ==== Sys2Proof/Machine/RegMap.lean ====
section
/-! DEFINITION. The register map of chapter 20: every register by name, its reset value, its fields with their access
codes and valid encodings (chapters 2-5, 7, 9, 10, 13-20), and the BAR0 offsets at which each port reaches it. -/

namespace Sys2Proof.Machine

/-- Blocks with a commit control (R646). -/
inductive Blk where
  | gx | fr | co | mc | ar | ft | pl
  deriving DecidableEq, Repr

/-- Register names. A pair is one name, its halves told apart by `Reg.hi`. -/
inductive RegName where
  | gxId | gxCap | gxSerial | gxCtl | gxCommit | cfgErr | cfgErrInfo | gxPwrCfg | gxPwrStat | gxPwrAvg | gxTempMax
  | coArrayCfg | coCommit | coSbw | coSbd | coRsCfg | coRsSz | coRsCs | coRsSrc | coRsStat | coFrz | coChk
  | mcSysBase | mcMirrorOff | mcDirty | mcScrub | mcCommit | mcErr | mcHbm
  | arPrio | arBl | arAge | arCommit | arIso
  | ftFailed | ftQlfail | ftCfg | ftCommit | ftCore | ftCoreHasn
  | plFmCtl | plCtl | plCommit | plStat | plExpSel | plImpSel | plLkSel | plExpD | plImpD | plLkD
  | frCtl | frLen | frGuard | frCommit | frEpoch | frStat | frSplitCfg | frPtb | frFrn | frPpsSec
  | hlCtl | hlLstat | hlHdmBase | hlWinBase | hlWedged
  | cmDlogBase | cmDlogCtl | cmRecover | cmToken | cmDecided
  | qlCfg | qlStat | qlEpid
  | maintAddr | maintLen | maintCtl
  | mtState | mtEvcnt | mtLastFrn | mtRsp
  | ftHae
  | scBootStat | scDieCfg | scSvnCommit | scFlashCtl | scFlashOff | scMbxCtl | scMbxNonce | scRcvCtl | scFlashBuf | scRcvBuf
  | rgTtBase | rgRtBase | rgTtCount | rgRtCount | rgFlagSel | rgFlagCfg | rgFlagVal | pgErr | pgErrInfo
  | evqBase | evqHead | evqTail | evqCfg | evqStat
  | amOff | amA | amB | amRes | amCmd
  | sqBase | sqDb | sqCons | sqLog | sqCfg | sqPoll | sqStat
  | cqBase | cqHead | cqTail | cqCfg | cqMod
  | msix | msixPba
  deriving DecidableEq, Repr

/-- One register: its name, the fabric die, port, core or function page it belongs to (`dev`; page `64 * port + f`,
with port 0 for every function in MULTIPATH, R636), its number within that, and which half of a pair it is. -/
structure Reg where
  name : RegName
  dev  : Nat := 0
  n    : Nat := 0
  hi   : Bool := false
  deriving DecidableEq, Repr

/-- Access codes of R7. -/
inductive Acc where
  | ro | rw | w1c | ws | rc
  deriving DecidableEq, Repr

/-- One register field: low bit, width, access code, and which encodings are valid (R10). -/
structure Field where
  lo  : Nat
  len : Nat
  acc : Acc
  ok  : Nat → Bool := fun _ => true

def inRange (lo hi v : Nat) : Bool := lo ≤ v && v ≤ hi

/-- The fields of a register that are not reserved. -/
def Reg.fields (r : Reg) : List Field :=
  let rw (lo len : Nat) (ok : Nat → Bool := fun _ => true) : Field := ⟨lo, len, .rw, ok⟩
  let ws (lo len : Nat) (ok : Nat → Bool := fun _ => true) : Field := ⟨lo, len, .ws, ok⟩
  let ro (lo len : Nat) : Field := ⟨lo, len, .ro, fun _ => true⟩
  let w1c (lo len : Nat) : Field := ⟨lo, len, .w1c, fun _ => true⟩
  let rc (lo len : Nat) : Field := ⟨lo, len, .rc, fun _ => true⟩
  let pairRw (al : Nat) : List Field := if r.hi then [rw 0 32] else [rw al (32 - al)]
  match r.name with
  | .gxId => [ro 0 16, ro 16 8, ro 24 8]
  | .gxCap => [ro 0 8, ro 8 4, ro 12 4, ro 16 8, ro 24 8]
  | .gxSerial => [ro 0 32]
  | .gxCtl => [rw 0 16]
  | .gxCommit | .coCommit | .mcCommit | .arCommit | .ftCommit | .plCommit | .frCommit => [rw 0 1]
  | .cfgErr | .pgErr => [w1c 0 1, w1c 1 1, w1c 2 1, w1c 3 1, w1c 4 1]
  | .cfgErrInfo | .pgErrInfo => [ro 0 24, ro 24 3, ro 27 1, ro 28 1, ro 31 1]
  | .gxPwrCfg => [ws 0 11 (inRange 600 1650)]
  | .gxPwrStat => [ro 0 1, ro 1 1, ro 2 1, ro 8 9]
  | .gxPwrAvg => [ro 0 12]
  | .gxTempMax => [ro 0 8]
  | .coArrayCfg => [ws 0 7 (inRange 16 64), ws 8 10 (inRange 8 1023)]
  | .coSbw => [ws 0 10 (inRange 16 1023), ws 10 10 (inRange 16 1023), ws 20 10 (inRange 16 1023)]
  | .coSbd => [ws 0 8 (inRange 1 255), ws 8 8 (inRange 1 255), ws 16 8 (inRange 1 255)]
  | .coRsCfg => [ws 0 1, ws 1 6 (inRange 1 32), ws 7 6, ws 13 1, ws 14 12]
  | .coRsSz => [ws 0 9 (inRange 1 256)]
  | .coRsCs => [ws 0 11]
  | .coRsSrc => if r.hi then [ws 0 32] else [ws 12 20]
  | .coRsStat => [ro 0 1, ro 1 1]
  | .coFrz => [rc 0 16, rc 16 16]
  | .coChk => [rc 0 4, rc 4 1]
  | .mcSysBase => pairRw 27
  | .mcMirrorOff => pairRw 12
  | .mcDirty => [ws 0 8 (inRange 1 128)]
  | .mcScrub => [rw 0 8 (inRange 0 168)]
  | .mcErr => [rc 0 8, rc 8 8, rc 16 8, w1c 24 1]
  | .mcHbm => [ro 0 2, ro 2 8]
  | .arPrio => [ws 0 2 (inRange 1 2), ws 2 2 (inRange 0 1), ws 4 2 (inRange 0 2), ws 6 2 (inRange 0 2),
                ws 8 2 (inRange 0 2)]
  | .arBl => [ws 0 7 (inRange 1 64), ws 8 7 (inRange 1 64), ws 16 7 (inRange 1 64), ws 24 7 (inRange 1 64)]
  | .arAge => [ws 0 10 (inRange 1 1000)]
  | .arIso => [ro 0 32]
  | .ftFailed => [ro 0 9, ro 9 9, ro 18 2, ro 20 2, ro 22 1, ro 23 1, ro 24 4]
  | .ftQlfail => [ro 0 16]
  | .ftCfg => [ws 0 4, ws 4 8 (inRange 1 255)]
  | .ftCore => [rc 0 8, rc 8 8, rc 16 8, w1c 24 1, w1c 25 1]
  | .ftCoreHasn => [ro 0 32]
  | .plFmCtl => [rw 0 1, rw 1 1]
  | .plCtl => [ws 0 16 (inRange 1 65535)]
  | .plStat => [ro 0 11]
  | .plExpSel | .plImpSel | .plLkSel => [rw 0 8]
  | .plExpD | .plImpD => [rw 0 32]
  | .plLkD => [ro 0 32]
  | .frCtl => [rw 0 1, rw 1 2 (inRange 0 2), rw 3 7, rw 10 16]
  | .frLen => [ws 0 13 (inRange 50 5000)]
  | .frGuard => [ws 0 7 (inRange 2 100), ws 16 14 (inRange 500 10000)]
  | .frEpoch | .frPpsSec => [rw 0 32]
  | .frStat => [ro 0 1, ro 1 1, ro 2 1, ro 3 1, ro 16 16]
  | .frSplitCfg => [ws 0 8 (inRange 0 128), ws 8 1]
  | .frPtb | .frFrn => [ro 0 32]
  | .hlCtl => [rw 0 2 (inRange 0 1), rw 2 2 (inRange 0 1), rw 4 1]
  | .hlLstat => [ro 0 3, ro 3 2, ro 5 1, ro 6 2, ro 8 1, ro 9 1, ro 10 1, ro 11 1, ro 12 1, ro 16 16]
  | .hlHdmBase | .hlWinBase => pairRw 28
  | .hlWedged => [ro 0 32]
  | .cmDlogBase => pairRw 12
  | .cmDlogCtl => [rw 0 5 (inRange 20 30), rw 5 1]
  | .cmRecover => [ro 0 1, rw 1 1, rw 2 1, ro 3 1]
  | .cmToken | .cmDecided => [ro 0 32]
  | .qlCfg => [rw 0 1, rw 1 1, rw 2 4, rw 6 1]
  | .qlStat => [ro 0 2, ro 2 1, ro 3 1, ro 4 1, rc 8 8]
  | .qlEpid => [rw 0 16]
  | .maintAddr => pairRw 7
  | .maintLen => [rw 0 32 (fun v => v ≠ 0)]
  | .maintCtl => [rw 0 2 (inRange 1 2), rw 2 1, ro 3 1, w1c 4 1]
  | .mtState => [ro 0 1, ro 1 1, ro 2 1, ro 3 1, ro 4 1, ro 5 1, ro 6 1, ro 16 16]
  | .mtEvcnt | .mtLastFrn | .mtRsp => [ro 0 32]
  | .ftHae => [w1c 0 1, w1c 1 1, w1c 2 1, w1c 3 1]
  | .scBootStat => [ro 0 1, ro 1 1, ro 2 1, ro 3 1, ro 4 1, ro 8 7]
  | .scDieCfg => [rw 0 4 (inRange 0 8), rw 4 1]
  | .scSvnCommit => [rw 0 16, w1c 16 1]
  | .scFlashCtl => [rw 0 2 (inRange 1 3), rw 2 1, rw 3 1, ro 4 1, w1c 5 1, ro 6 1]
  | .scFlashOff => [rw 12 11]
  | .scMbxCtl => [rw 0 8, rw 8 16, rw 24 1, ro 25 1, w1c 26 1, ro 27 1]
  | .scMbxNonce => [rw 0 32]
  | .scRcvCtl => [rw 0 1, ro 1 1, ro 2 1]
  | .scFlashBuf | .scRcvBuf => [rw 0 32]
  | .msixPba => [ro 0 32]
  | .rgTtBase | .rgRtBase => pairRw 6
  | .rgTtCount => [rw 0 16 (fun v => v ≠ 0)]
  | .rgRtCount => [rw 0 13 (inRange 1 4096)]
  | .rgFlagSel => [rw 0 10]
  | .rgFlagCfg => [rw 0 8, rw 8 1]
  | .rgFlagVal => if r.hi then [rw 0 16] else [rw 0 32]
  | .evqBase => pairRw 12
  | .evqHead => [rw 0 32]
  | .evqTail => [ro 0 32]
  | .evqCfg => [rw 0 4 (inRange 6 12), rw 4 1]
  | .evqStat => [rc 0 16]
  | .amOff | .amA | .amB | .amRes => [rw 0 32]
  | .amCmd => [rw 0 4 (fun v => inRange 1 4 v || inRange 9 11 v), rw 4 8, rw 12 1, ro 13 1, ro 16 8]
  | .sqBase | .sqLog | .cqBase => pairRw 12
  | .sqDb => pairRw 2
  | .sqCons | .cqHead | .cqTail => pairRw 6
  | .sqCfg => [rw 0 2 (inRange 1 3), rw 2 5 (inRange 6 16), rw 7 1, rw 8 6, rw 14 4 (inRange 1 15),
               rw 18 3 (inRange 0 4), rw 31 1]
  | .sqPoll => [rw 0 14 (inRange 5 10000)]
  | .sqStat => [ro 0 1, w1c 1 1, ro 2 1, ro 3 1, ro 4 1, ro 16 13]
  | .cqCfg => [rw 0 5 (inRange 6 16), rw 5 5, rw 10 1, rw 31 1]
  | .cqMod => [rw 0 8 (inRange 1 255), rw 8 14 (inRange 0 10000)]
  | .msix => if r.n % 4 = 3 then [rw 0 1] else if r.n % 4 = 0 then [rw 2 30] else [rw 0 32]

/-- Reset values (R648 and the owning chapters). The running counts of R643 and the registers whose value another
part of the state holds are 0 here and are answered from there. MSI-X vectors reset masked: PRESUMED from the PCIe
base specification (log entry 6). -/
def Reg.reset (r : Reg) : Word :=
  match r.name with
  | .gxId => 0x01100C12
  | .gxCap => 0x30102924
  | .gxPwrCfg => 0x672
  | .gxPwrStat => 0x00010000
  | .coArrayCfg => 0x4020
  | .coSbw => 0x04030180
  | .coSbd => 0x00104040
  | .coRsCfg => 0x2
  | .coRsSz => 0x1
  | .mcSysBase => if r.hi then 0x6B else 0xF8000000
  | .mcMirrorOff => if r.hi then 0x36 else 0x1000
  | .mcDirty => 16
  | .mcScrub => 24
  | .arPrio => 0x162
  | .arBl => 0x08080808
  | .arAge => 0x14
  | .ftFailed => 0x0F000000
  | .ftCfg => 0x103
  | .plCtl => 0x1388
  | .frCtl => 0x03FFFC00
  | .frLen => 0xC8
  | .frGuard => 0x07D00006
  | .frSplitCfg => 0x110
  | .hlLstat => 0x01000000
  | .cmDlogCtl => 0x14
  | .qlCfg => 0x2
  | .maintLen => 1
  | .maintCtl => 1
  | .mtState => 0x60
  | .scDieCfg => 8
  | .scFlashCtl => 3
  | .evqCfg => 6
  | .sqCfg => 0x4018
  | .sqPoll => 40
  | .cqCfg => 6
  | .cqMod => 1
  | .msix => if r.n % 4 = 3 then 1 else 0
  | _ => 0

/-- The WS fields' block of a register (R646); none where it has no WS field. -/
def Reg.wsBlk (r : Reg) : Option Blk :=
  match r.name with
  | .gxPwrCfg => some .gx
  | .frLen | .frGuard | .frSplitCfg => some .fr
  | .coArrayCfg | .coSbw | .coSbd | .coRsCfg | .coRsSz | .coRsCs | .coRsSrc => some .co
  | .mcDirty => some .mc
  | .arPrio | .arBl | .arAge => some .ar
  | .ftCfg => some .ft
  | .plCtl => some .pl
  | _ => none

/-- The commit control of a block. -/
def Blk.commit : Blk → RegName
  | .gx => .gxCommit | .fr => .frCommit | .co => .coCommit | .mc => .mcCommit
  | .ar => .arCommit | .ft => .ftCommit | .pl => .plCommit

/-- BAR0 offset of a block's commit control (R648), the OFFSET of a tick evaluation (R644). -/
def Blk.offset : Blk → Nat
  | .gx => 0x14 | .fr => 0x40000C | .co => 0x10004 | .mc => 0x30018
  | .ar => 0x4000C | .ft => 0x5000C | .pl => 0x60008

/-- Block of a commit control register. -/
def RegName.blk : RegName → Option Blk
  | .gxCommit => some .gx | .frCommit => some .fr | .coCommit => some .co | .mcCommit => some .mc
  | .arCommit => some .ar | .ftCommit => some .ft | .plCommit => some .pl | _ => none

/-- A pair's register at a 4-byte step: even steps are LO, odd steps HI. -/
def pairAt (nm : RegName) (dev n k : Nat) : Option Reg := some { name := nm, dev := dev, n := n, hi := k % 2 = 1 }

/-- Registers of a function page at a page offset (R632, R648). -/
def pageReg (pg off : Nat) : Option Reg :=
  let one (nm : RegName) (n : Nat := 0) : Option Reg := some { name := nm, dev := pg, n := n }
  let k := off / 4
  if off % 4 ≠ 0 then none
  else if off < 0x08 then pairAt .rgTtBase pg 0 k
  else if off < 0x10 then pairAt .rgRtBase pg 0 k
  else if off = 0x10 then one .rgTtCount
  else if off = 0x14 then one .rgRtCount
  else if off = 0x20 then one .rgFlagSel
  else if off = 0x24 then one .rgFlagCfg
  else if off = 0x28 ∨ off = 0x2C then pairAt .rgFlagVal pg 0 k
  else if off = 0x30 then one .pgErr
  else if off = 0x34 then one .pgErrInfo
  else if off = 0x100 ∨ off = 0x104 then pairAt .evqBase pg 0 k
  else if off = 0x108 then one .evqHead
  else if off = 0x10C then one .evqTail
  else if off = 0x110 then one .evqCfg
  else if off = 0x114 then one .evqStat
  else if off = 0x200 ∨ off = 0x204 then pairAt .amOff pg 0 k
  else if off = 0x208 ∨ off = 0x20C then pairAt .amA pg 0 k
  else if off = 0x210 ∨ off = 0x214 then pairAt .amB pg 0 k
  else if off = 0x218 ∨ off = 0x21C then pairAt .amRes pg 0 k
  else if off = 0x220 then one .amCmd
  else if 0x1000 ≤ off ∧ off < 0x2000 then
    let n := (off - 0x1000) / 0x40
    match (off - 0x1000) % 0x40 / 4 with
    | 0 => pairAt .sqBase pg n 0 | 1 => pairAt .sqBase pg n 1
    | 2 => pairAt .sqDb pg n 0 | 3 => pairAt .sqDb pg n 1
    | 4 => pairAt .sqCons pg n 0 | 5 => pairAt .sqCons pg n 1
    | 6 => pairAt .sqLog pg n 0 | 7 => pairAt .sqLog pg n 1
    | 8 => one .sqCfg n | 9 => one .sqPoll n | 10 => one .sqStat n
    | _ => none
  else if 0x2000 ≤ off ∧ off < 0x2800 then
    let n := (off - 0x2000) / 0x20
    match (off - 0x2000) % 0x20 / 4 with
    | 0 => pairAt .cqBase pg n 0 | 1 => pairAt .cqBase pg n 1
    | 2 => pairAt .cqHead pg n 0 | 3 => pairAt .cqHead pg n 1
    | 4 => pairAt .cqTail pg n 0 | 5 => pairAt .cqTail pg n 1
    | 6 => one .cqCfg n | 7 => one .cqMod n
    | _ => none
  else none

/-- Package block registers (R648). -/
def pkgReg (off : Nat) : Option Reg :=
  let one (nm : RegName) (dev : Nat := 0) (n : Nat := 0) : Option Reg := some { name := nm, dev := dev, n := n }
  let b := off / 0x10000
  let o := off % 0x10000
  let k := o / 4
  if o % 4 ≠ 0 then none
  else match b with
  | 0 => match k with
    | 0 => one .gxId | 1 => one .gxCap | 2 => pairAt .gxSerial 0 0 0 | 3 => pairAt .gxSerial 0 0 1
    | 4 => one .gxCtl | 5 => one .gxCommit | 8 => one .cfgErr | 9 => one .cfgErrInfo
    | 16 => one .gxPwrCfg | 17 => one .gxPwrStat | 18 => one .gxPwrAvg | 19 => one .gxTempMax
    | _ => none
  | 1 => match k with
    | 0 => one .coArrayCfg | 1 => one .coCommit | 2 => one .coSbw | 3 => one .coSbd
    | _ =>
      if 0x100 ≤ o ∧ o < 0x180 then
        let n := (o - 0x100) / 0x20
        match (o - 0x100) % 0x20 / 4 with
        | 0 => one .coRsCfg 0 n | 1 => one .coRsSz 0 n | 2 => one .coRsCs 0 n
        | 3 => pairAt .coRsSrc 0 n 0 | 4 => pairAt .coRsSrc 0 n 1 | 5 => one .coRsStat 0 n
        | _ => none
      else none
  | 2 => if o / 0x100 < 36 then
      match o % 0x100 with
      | 0 => one .coFrz (o / 0x100) | 4 => one .coChk (o / 0x100) | _ => none
    else none
  | 3 => match k with
    | 0 => pairAt .mcSysBase 0 0 0 | 1 => pairAt .mcSysBase 0 0 1
    | 2 => pairAt .mcMirrorOff 0 0 0 | 3 => pairAt .mcMirrorOff 0 0 1
    | 4 => one .mcDirty | 5 => one .mcScrub | 6 => one .mcCommit
    | _ => if 64 ≤ k ∧ k < 73 then one .mcErr 0 (k - 64)
           else if 80 ≤ k ∧ k < 89 then one .mcHbm 0 (k - 80) else none
  | 4 => match k with
    | 0 => one .arPrio | 1 => one .arBl | 2 => one .arAge | 3 => one .arCommit
    | 4 => pairAt .arIso 0 0 0 | 5 => pairAt .arIso 0 0 1 | _ => none
  | 5 => match k with
    | 0 => one .ftFailed | 1 => one .ftQlfail | 2 => one .ftCfg | 3 => one .ftCommit
    | _ => if 0x100 ≤ o ∧ o < 0x340 then
        match o % 0x10 with
        | 0 => one .ftCore ((o - 0x100) / 0x10)
        | 8 => pairAt .ftCoreHasn ((o - 0x100) / 0x10) 0 0
        | 0xC => pairAt .ftCoreHasn ((o - 0x100) / 0x10) 0 1
        | _ => none
      else none
  | 6 => match k with
    | 0 => one .plFmCtl | 1 => one .plCtl | 2 => one .plCommit | 3 => one .plStat
    | 4 => one .plExpSel | 5 => one .plImpSel | 6 => one .plLkSel
    | _ => if 64 ≤ k ∧ k < 96 then one .plExpD 0 (k - 64)
           else if 96 ≤ k ∧ k < 104 then one .plImpD 0 (k - 96)
           else if 104 ≤ k ∧ k < 108 then one .plLkD 0 (k - 104) else none
  | _ => none

/-- Registers of a fabric die block at an offset within it (R635, R648). The shared registers are held once. -/
def fdReg (fd o : Nat) : Option Reg :=
  let one (nm : RegName) (n : Nat := 0) : Option Reg := some { name := nm, dev := fd, n := n }
  let shared (nm : RegName) : Option Reg := some { name := nm }
  let k := o % 0x1000 / 4
  if o % 4 ≠ 0 then none
  else match o / 0x1000 with
  | 0 => match k with
    | 0 => shared .frCtl | 1 => shared .frLen | 2 => shared .frGuard | 3 => shared .frCommit
    | 4 => pairAt .frEpoch 0 0 0 | 5 => pairAt .frEpoch 0 0 1 | 6 => one .frStat | 7 => shared .frSplitCfg
    | 8 => pairAt .frPtb 0 0 0 | 9 => pairAt .frPtb 0 0 1 | 10 => pairAt .frFrn 0 0 0 | 11 => pairAt .frFrn 0 0 1
    | 12 => pairAt .frPpsSec 0 0 0 | 13 => pairAt .frPpsSec 0 0 1 | _ => none
  | 1 => match k with
    | 0 => one .hlCtl | 1 => one .hlLstat | 2 => pairAt .hlHdmBase fd 0 0 | 3 => pairAt .hlHdmBase fd 0 1
    | 4 => pairAt .hlWinBase fd 0 0 | 5 => pairAt .hlWinBase fd 0 1
    | 6 => pairAt .hlWedged fd 0 0 | 7 => pairAt .hlWedged fd 0 1 | _ => none
  | 2 => match k with
    | 0 => pairAt .cmDlogBase fd 0 0 | 1 => pairAt .cmDlogBase fd 0 1 | 2 => one .cmDlogCtl | 3 => one .cmRecover
    | 4 => pairAt .cmToken fd 0 0 | 5 => pairAt .cmToken fd 0 1
    | 6 => pairAt .cmDecided fd 0 0 | 7 => pairAt .cmDecided fd 0 1 | _ => none
  | 3 => if k < 32 then
      let p := 8 * fd + k / 4
      match k % 4 with
      | 0 => one .qlCfg p | 1 => one .qlStat p | 2 => one .qlEpid p | _ => none
    else none
  | 4 => match k with
    | 0 => pairAt .maintAddr fd 0 0 | 1 => pairAt .maintAddr fd 0 1 | 2 => one .maintLen | 3 => one .maintCtl
    | _ => none
  | 5 => match k with
    | 0 => one .mtState | 1 => one .mtEvcnt | 2 => pairAt .mtLastFrn fd 0 0 | 3 => pairAt .mtLastFrn fd 0 1
    | _ => if 64 ≤ k ∧ k < 128 then one .mtRsp (k - 64) else none
  | 6 => if k = 0 then one .ftHae else none
  | 8 => match k with
    | 0 => one .scBootStat | 1 => shared .scDieCfg | 2 => one .scSvnCommit | 3 => one .scFlashCtl
    | 4 => one .scFlashOff | 8 => one .scMbxCtl | 32 => one .scRcvCtl
    | _ => if 16 ≤ k ∧ k < 24 then one .scMbxNonce (k - 16) else none
  | 9 => one .scFlashBuf k
  | _ => none

/-- Page number of a function seen through a port (R636): in MULTIPATH both ports reach one page. -/
def pageOf (multipath : Bool) (port func : Nat) : Nat := if multipath then func else 64 * port + func

/-- The register at a BAR0 offset of the physical function of a port, or of a virtual function `vf` (R631, R632).
A virtual function's MSI-X table stands in its BAR0 at 0x8000 and its PBA at 0xC000; the physical function's BAR4/5
is given as offsets 0x0100_0000 and above (R124). None where the offset is reserved or unassigned (R639). -/
def regAt (multipath : Bool) (port : Nat) (vf : Option Nat) (off : Nat) : Option Reg :=
  match vf with
  | some f =>
    let pg := pageOf multipath port f
    if off < 0x8000 then pageReg pg off
    else if off < 0x8200 ∧ off % 4 = 0 then some { name := .msix, dev := 64 * port + f, n := (off - 0x8000) / 4 }
    else if off = 0xC000 then some { name := .msixPba, dev := 64 * port + f }
    else none
  | none =>
    if off < 0x70000 then pkgReg off
    else if 0x400000 ≤ off ∧ off < 0x40A000 then fdReg port (off - 0x400000)
    else if 0x800000 ≤ off ∧ off < 0xC00000 ∧ off % 0x10000 < 0x8000 then
      pageReg (pageOf multipath port ((off - 0x800000) / 0x10000)) (off % 0x10000)
    else if 0x1000000 ≤ off ∧ off < 0x1000200 ∧ off % 4 = 0 then
      some { name := .msix, dev := 64 * port, n := (off - 0x1000000) / 4 }
    else if off = 0x1008000 then some { name := .msixPba, dev := 64 * port }
    else none

/-- Registers of a function page. -/
def RegName.inPage : RegName → Bool
  | .rgTtBase | .rgRtBase | .rgTtCount | .rgRtCount | .rgFlagSel | .rgFlagCfg | .rgFlagVal | .pgErr | .pgErrInfo
  | .evqBase | .evqHead | .evqTail | .evqCfg | .evqStat | .amOff | .amA | .amB | .amRes | .amCmd
  | .sqBase | .sqDb | .sqCons | .sqLog | .sqCfg | .sqPoll | .sqStat
  | .cqBase | .cqHead | .cqTail | .cqCfg | .cqMod => true
  | _ => false

/-- A register file: the registers whose value is not their reset value. -/
abbrev RegFile := List (Reg × Word)

/-- The value a register holds. -/
def RegFile.get (f : RegFile) (r : Reg) : Word :=
  match f.lookup r with
  | some v => v
  | none => r.reset

/-- A register file with one register set. -/
def RegFile.set (f : RegFile) (r : Reg) (v : Word) : RegFile :=
  let rest := f.filter fun p => p.1 ≠ r
  if v = r.reset then rest else (r, v) :: rest

end Sys2Proof.Machine
end

