-- ==== Sys2Proof/Machine/PkgState.lean ====
section
/-! DEFINITION. The state of the package outside the cores: frames and time, accepted operations and decisions, rings,
host ports, memory and L2, the fabric, the pool, faults, the meter, power and boot (chapters 2-5 and 13-19). -/

namespace Sys2Proof.Machine

/-! ### Frames and time (chapter 2) -/

/-- What a compute die or fabric die (9, 10) holds of the frame law: last tick accepted, highest fencing token, whether
it holds for want of a tick (R42), whether it withholds its vote at the next frame decision (R450, R466, R528). -/
structure DieSeq where
  frn      : Option Nat
  token    : Nat
  hold     : Bool
  withhold : Bool
  deriving DecidableEq, Repr

/-- One item of an operation as the splitter estimated it (R324, R325, R367): its number, cost, spill groups, and
whether it may be split over K (R327). -/
structure ItemEst where
  num   : Nat
  cost  : Nat
  group : Nat
  split : Bool
  deriving DecidableEq, Repr

/-- What the splitter worked out during a guard for the frame that follows (R51, R328): the guard opening, the
scheduled cores, and each considered operation's items and program header. -/
structure Plan where
  cutoff : Stamp
  cores  : List Nat
  ests   : List (Nat × List ItemEst)
  heads  : List (Nat × List Byte)
  deriving DecidableEq, Repr

/-- Frame schedule and time reference (R30-R34, R45-R47). -/
structure Frames where
  first    : Option (Stamp × Nat)
  ticking  : Bool
  frn      : Nat
  tick     : Stamp
  guard    : Bool
  sub      : Nat
  lastFrn  : Option Nat
  dies     : List DieSeq
  ppsDone  : Bool
  ppsLast  : Option Stamp
  ppsSec   : Nat
  ppsBad   : Nat
  hot      : Bool
  plan     : Option Plan
  deriving DecidableEq, Repr

/-- Commit mastership (R19, R93-R95, R530). -/
structure Masters where
  master   : Nat
  token    : Nat
  leaseFrn : Option Nat
  missed   : Nat
  ackMiss  : Nat
  fenceAt  : Option Stamp
  waiting  : List Nat
  standby  : Bool
  deriving DecidableEq, Repr

/-! ### Accepted work (chapter 3) -/

/-- A remote target (R74, R490). -/
structure RTarget where
  epid : Nat
  port : Nat
  rwin : Nat
  deriving DecidableEq, Repr

/-- Where an operation stands between fetch and completion record. -/
inductive Stage where
  | issued | accepted | running | finished | resolved
  deriving DecidableEq, Repr

/-- How an operation resolved (R92, R175). -/
structure Resolution where
  status    : Nat
  info      : Nat
  frn       : Nat
  sub       : Nat
  appendOff : Nat
  appendLen : Nat
  munits    : Nat
  deriving DecidableEq, Repr

/-- A journaled operation, from the issue of its ring log entry to its durable completion record. -/
structure OpRec where
  ctx      : OpCtx
  page     : Nat
  slot     : Nat
  fmt      : Nat
  raw      : List Byte
  logSlot  : Nat
  lap      : Nat
  issue    : Stamp
  deadline : Stamp
  accept   : Option Stamp
  stage    : Stage
  targets  : List RTarget
  replays  : Nat
  ovr      : Bool
  rfail    : Nat
  rfailTgt : Nat
  bad      : List Nat
  cores    : List Nat
  firstFrn : Option Nat
  ended    : Option (Nat × Nat)
  notes    : Nat
  units    : Nat
  voted    : Bool
  guards   : Nat
  held     : Bool
  pages    : List Nat
  homes    : List Nat
  sent     : List (Nat × Nat)
  remoteNo : List Nat
  acks     : Nat
  votes    : List (Nat × Bool)
  append   : Option (Nat × Nat)
  appendHi : Nat
  deltas   : List (Nat × Nat × Nat × Nat)
  us       : List (Nat × Nat)
  res      : Option Resolution
  deriving DecidableEq, Repr

/-- A die's PREPARE vote (R84): decision point, die, aborted operations with their causes. -/
structure Vote where
  frn    : Nat
  sub    : Nat
  die    : Nat
  stamp  : Stamp
  aborts : List (Nat × Nat)
  deriving DecidableEq, Repr

/-- An operation's outcome at a decision (R77): outcome 0 commits with OK, 0xFF replays; cause and target index. -/
structure OpOutcome where
  asn     : Nat
  outcome : Nat
  cause   : Nat
  tgt     : Nat
  info    : Nat
  deriving DecidableEq, Repr

/-- A decision point decided by the master (R86, R87): scope, outcome of each operation decided, whether the record is
durable or came late, dies that applied it, whether it is in force, remote targets with their acknowledgement, where the
record lies in each port's decision log, and account and work units of each operation it commits (R554, R555). -/
structure Decision where
  frn      : Nat
  sub      : Nat
  token    : Nat
  stamp    : Stamp
  deadline : Stamp
  allAbort : Bool
  fence    : Bool
  scope    : List Nat
  outs     : List OpOutcome
  durable  : Bool
  late     : Bool
  applied  : List Nat
  inForce  : Bool
  remote   : List (RTarget × Bool)
  offs     : List (Nat × Nat)
  sums     : List (Nat × Nat)
  deriving DecidableEq, Repr

/-- A decision log's header values (R76), per host port. -/
structure DLog where
  writeOff   : Nat
  appliedOff : Nat
  lap        : Nat
  deriving DecidableEq, Repr

/-- A reserved slot of an APPEND region (R82, R649): its start as a byte count, its length, bytes skipped before it,
its owner, and how it settled: 0 undecided, 1 settled, 2 released. -/
structure ASlot where
  start : Nat
  len   : Nat
  skip  : Nat
  asn   : Nat
  state : Nat
  deriving DecidableEq, Repr

/-- An APPEND region's counts (R82, R163). -/
structure AppendRegion where
  base    : Nat
  size    : Nat
  tail    : Nat
  resv    : Nat
  consume : Nat
  slots   : List ASlot
  deriving DecidableEq, Repr

/-- Accepted work; `sets` holds each resident set's source region entry as last evaluated (R357). -/
structure Ops where
  list    : List OpRec
  votes   : List Vote
  decs    : List Decision
  dlogs   : List DLog
  append  : List AppendRegion
  lastAsn : List Nat
  asnFloor : Nat
  chks    : List (Nat × Nat)
  sets    : List (List Byte)
  deriving DecidableEq, Repr

/-! ### Rings (chapter 5) -/

/-- A rejection whose record is not yet durable (R174). -/
structure Reject where
  status : Nat
  info   : Nat
  tag    : Nat
  fmt    : Nat
  deriving DecidableEq, Repr

/-- A submission ring's own counts beside its registers (R72-R75, R140-R144). `written`, `durable` and `freed` count
ring log entries written, completed durably, and freed; entry i lies in slot i mod N with LAP i div N + 1. -/
structure Ring where
  page     : Nat
  n        : Nat
  consumed : Nat
  produce  : Nat
  fetched  : Nat
  lastDb   : Option Nat
  pending  : Bool
  serving  : Nat
  lastAsn  : Nat
  written  : Nat
  durable  : Nat
  freed    : Nat
  posted   : Nat
  lastFrn  : Nat
  missed   : Nat
  lineAt   : Option Stamp
  lineDue  : Bool
  reject   : Option Reject
  recover  : Bool
  deriving DecidableEq, Repr

/-- A completion ring's own counts (R145-R147, R179). -/
structure CRing where
  page : Nat
  n    : Nat
  tail : Nat
  head : Nat
  pend : List Stamp
  deriving DecidableEq, Repr

/-- An event ring's phase and overflow memory (R511). -/
structure EvRing where
  page : Nat
  ovf  : Bool
  deriving DecidableEq, Repr

structure Rings where
  sq   : List Ring
  cq   : List CRing
  ev   : List EvRing
  deriving DecidableEq, Repr

/-! ### Host ports (chapter 4) -/

/-- A function's PCIe state (R125, R126, R137); `aer` holds its logged uncorrectable errors (R104). -/
structure Func where
  bme    : Bool
  d3     : Bool
  msixEn : Bool
  fmask  : Bool
  pend   : Nat
  errs   : Nat
  aer    : Nat
  wedged : Bool
  deriving DecidableEq, Repr

/-- A watched doorbell line (R109, R110). -/
structure DbLine where
  addr    : Nat
  held    : Bool
  reading : Bool
  deriving DecidableEq, Repr

/-- A host read held under R122: identifier, device address, length, and whether it came by CXL.mem. -/
structure HeldRead where
  id   : Nat
  addr : Nat
  len  : Nat
  cxl  : Bool
  deriving DecidableEq, Repr

/-- An IDE stream (R127, R129). -/
structure Ide where
  keyed    : Bool
  secure   : Bool
  insecure : Bool
  deriving DecidableEq, Repr

/-- The SPDM responder of a port (R627): negotiation progress and the session. -/
structure Spdm where
  version   : Bool
  caps      : Bool
  algs      : Bool
  session   : Option Nat
  finished  : Bool
  updates   : Nat
  deriving DecidableEq, Repr

/-- A host port: link state, retraining failures, steady time since the link came up (R103, R132), whether its rings
are left out of placement and scopes (R133), and what its functions hold. -/
structure HostPort where
  up       : Bool
  downAt   : Option Stamp
  fails    : Nat
  steady   : Option Stamp
  returned : Bool
  excluded : Bool
  perst    : Bool
  cfgReady : Bool
  numVfs   : Nat
  vfEn     : Bool
  funcs    : List Func
  lines    : List DbLine
  heldRds  : List HeldRead
  nextId   : Nat
  tracked  : List Nat
  ats      : List (Nat × Stamp)
  ide      : List Ide
  spdm     : Spdm
  deriving DecidableEq, Repr

/-! ### Memory and L2 (chapter 13) -/

/-- The HBM stacks by stack-local address, device ranges whose content the manual calls undefined (start, length and the
free-value epoch they read as), and the SCRATCH regions operations named, which a full reset makes undefined (R443). -/
structure Hbm where
  dram    : List Mem
  undef   : List (Nat × Nat × Nat)
  scratch : List (Nat × Nat)
  deriving DecidableEq, Repr

/-- An L2 line (R444, R445): stack-local line number, way, valid and dirty bits of its two sectors, and its bytes. -/
structure L2Line where
  line   : Nat
  way    : Nat
  valid  : List Bool
  dirty  : List Bool
  data   : List Byte
  deriving DecidableEq, Repr

/-- A request to an L2 slice: identifier, source ID, level, arrival stamp, stack-local address, length, write data and
whether it is written through. -/
structure L2Req where
  id    : Nat
  src   : Nat
  level : Nat
  stamp : Stamp
  addr  : Nat
  len   : Nat
  data  : Option (List Byte)
  thru  : Bool
  deriving DecidableEq, Repr

/-- A miss register (R446): its line, reserved way, merged requests in arrival order, and the drop-on-fill mark. -/
structure Mshr where
  line : Nat
  way  : Nat
  reqs : List L2Req
  drop : Bool
  deriving DecidableEq, Repr

/-- An L2 slice. `plru` holds the 15-bit tree of each set used, keyed by bank * 1024 + set; `order` lists dirty
sectors oldest first as line * 2 + sector. -/
structure L2Slice where
  lines : List L2Line
  plru  : List (Nat × Nat)
  mshrs : List Mshr
  waitq : List L2Req
  order : List Nat
  next  : Nat
  deriving DecidableEq, Repr

/-- A maintenance engine's operation (R451-R454): INV or CLEAN, and the lines it still waits for. -/
structure Maint where
  inv  : Bool
  left : List Nat
  deriving DecidableEq, Repr

structure MemSys where
  hbm    : Hbm
  slices : List L2Slice
  maint  : List (Option Maint)
  parity : List Nat
  deriving DecidableEq, Repr

/-! ### Fabric and Quinulait (chapter 14) -/

structure QlPort where
  downAt : Option Stamp
  fails  : Nat
  cur    : Nat
  deriving DecidableEq, Repr

/-- A REQ message kept for resending until its response arrives (R464-R466): source ID, sequence number, home slice and
the slice's identifier, and the dies its route passes. -/
structure KeptMsg where
  src   : Nat
  seq   : Nat
  slice : Nat
  id    : Nat
  path  : List Nat
  deriving DecidableEq, Repr

/-- The fabric: failed links and links on one module as pairs of dies (0-8 CD0-CD8, 9 FD0, 10 FD1), whether a failure
still awaits its route change, kept messages, the next sequence number of each source on REQ (R464). -/
structure Fabric where
  deadLinks : List (Nat × Nat)
  halfLinks : List (Nat × Nat)
  changed   : Bool
  kept      : List KeptMsg
  seqs      : List Nat
  ports     : List QlPort
  deriving DecidableEq, Repr

/-! ### Pool (chapter 15) -/

/-- An export entry, kept as its 128 bytes (R485), or an import entry, as its 32 bytes (R486). -/
structure PoolEntry where
  num   : Nat
  bytes : List Byte
  deriving DecidableEq, Repr

/-- A pool lock (R507). -/
structure Lock where
  win   : Nat
  held  : Bool
  owner : Nat
  leaseEnd : Nat
  token : Nat
  deriving DecidableEq, Repr

/-- State of a remote scope (R499). -/
inductive ScopeState where
  | receiving | votedYes | votedNo | committing
  deriving DecidableEq, Repr

/-- A remote scope at this far side (R498, R499): its place in the table of 1,024, what it stages, the messages received,
the status of its first refusal, the decision point of its PREP, the frame it voted in, and the lock tokens its writes
carried (R508). -/
structure Scope where
  num     : Nat
  win     : Nat
  init    : Nat
  asn     : Nat
  attempt : Nat
  state   : ScopeState
  count   : Nat
  refused : Nat
  pages   : List Nat
  deltas  : List (Nat × Nat × Nat)
  frn     : Nat
  sub     : Nat
  since   : Nat
  lockTok : List Nat
  deriving DecidableEq, Repr

/-- The pool (chapter 15): export and import entries active and staged, locks, remote scopes, the highest token seen of
each initiator, YES votes still without a decision as window, initiator, FRN and sub-tick, and for each sharer that had a
scope applied in a window its window, ID, port and last FRN (R501). -/
structure Pool where
  exps    : List PoolEntry
  imps    : List PoolEntry
  expNew  : List PoolEntry
  impNew  : List PoolEntry
  locks   : List Lock
  scopes  : List Scope
  tokens  : List (Nat × Nat)
  yes     : List (Nat × Nat × Nat × Nat)
  applied : List (Nat × Nat × Nat × Nat)
  deriving DecidableEq, Repr

/-! ### Faults (chapter 16) -/

/-- Retained failure record and quarantine reports (R517, R539): counted failures, retired dies, and for each core
report the frame it fell in. `linkDies` are the dies a failed link was counted for (R457). -/
structure Faults where
  count    : Nat
  retired  : List Nat
  linkDies : List Nat
  moveAt   : List (Nat × Stamp)
  roles    : List (Nat × Nat)
  reports  : List (Nat × Nat)
  shunned  : List Nat
  banked   : Option Nat
  deriving DecidableEq, Repr

/-! ### The meter (chapter 17) -/

/-- A held frame summary (R557). -/
structure HeldSum where
  frn     : Nat
  token   : Nat
  fus     : Nat
  nops    : Nat
  entries : List (Nat × Nat)
  arrived : Stamp
  deriving DecidableEq, Repr

/-- An MD log entry (R565). -/
structure LogEnt where
  evcnt : Nat
  typ   : Nat
  id    : Nat
  rtc   : Nat
  old   : Nat
  new   : Nat
  deriving DecidableEq, Repr

/-- The legal registers of R549. -/
structure Legal where
  eA : Nat
  eB : Nat
  eTot : Nat
  eRev : Nat
  eIdle : Nat
  ePend : Nat
  eFn : List Nat
  mwuFn : List Nat
  mwuTot : Nat
  frFn : List Nat
  frSeen : Nat
  frCommit : Nat
  gaps : Nat
  deriving DecidableEq, Repr

/-- A non-volatile snapshot slot (R574): its number in writing order, the legal registers with the integrators' carried
fractions, the RTC, the log position, whether it verified, and whether it was written as the branch fell. -/
structure Snap where
  seq    : Nat
  legal  : Legal
  fracA  : Nat
  fracB  : Nat
  fracR  : Nat
  rtc    : Nat
  logLen : Nat
  valid  : Bool
  final  : Bool
  deriving DecidableEq, Repr

/-- What reaches the legal partition over the protective interface (R544, R573): a message of an inbound link as its
bytes, a FENCE, a READ from fabric die 0 or 1 or from I3C (2), and the I3C commands. -/
inductive MdReq where
  | message (bytes : List Byte)
  | fence (session token : Nat)
  | read (sel arg : Nat) (nonce : List Byte)
  | param (id value : Nat)
  | clear (mask : Nat)
  | fwBegin (target len : Nat)
  | fwData (off : Nat) (data : List Byte)
  | fwEnd (version : Nat) (hash sig : List Byte)
  deriving DecidableEq, Repr

/-- A request queued while the legal partition restarts (R545, R567): link (2 for I3C), arrival, and what it asks. -/
structure Queued where
  link  : Nat
  stamp : Stamp
  req   : MdReq
  deriving DecidableEq, Repr

/-- The meter (chapter 17). `frac` hold what the integrators carry below 1 uWh and `win` what the running 1 s interval has
gathered and not yet registered (R548, R551); `conds` are the conditions of the health flags present now; `rtc` is the
RTC at `rtcAt` of the MD's own clock; `fwImage` is empty for the firmware of manufacture. -/
structure Meter where
  on        : Bool
  restart   : Bool
  legal     : Legal
  fracA     : Nat
  fracB     : Nat
  fracR     : Nat
  winA      : Nat
  winB      : Nat
  winR      : Nat
  winN      : Nat
  winP      : Int
  winOpen   : Bool
  session   : Option Nat
  token     : Nat
  lastFrn   : Nat
  fresh     : Bool
  lastClose : Stamp
  held      : List HeldSum
  queue     : List Queued
  dropped   : Nat
  invalid   : Nat
  sealedIn  : Bool
  trade     : Bool
  health    : Nat
  conds     : Nat
  gain      : List Word
  offset    : List Int
  rtc       : Nat
  rtcAt     : Stamp
  log       : List LogEnt
  fwVer     : Nat
  ifVer     : Nat
  fwTarget  : Option Nat
  fwLen     : Nat
  fwBuf     : Mem
  fwImage   : List Byte
  powerOns  : Nat
  rseq      : Nat
  snaps     : List Snap
  snapSeq   : Nat
  lastRec   : List Byte
  addr      : Option Nat
  ibi       : Bool
  rstAct    : Nat
  instant   : List Int
  deriving DecidableEq, Repr

/-! ### Power and boot (chapters 18, 19) -/

/-- Power entry and pins. `waits` holds declarations that wait for a master, as KIND of R515, index and reason (R516). -/
structure Power where
  vin      : List Bool
  pwrOk    : Bool
  pwrDn    : Bool
  coldLow  : Bool
  inReset  : Bool
  refclk1  : Bool
  thermN   : Bool
  straps   : List Bool
  hotDies  : List Nat
  waits    : List (Nat × Nat × Nat)
  deriving DecidableEq, Repr

/-- Boot progress of one fabric die: its image store, fuse SVN, whether its stoker runs, recovery boot, the slot it is
reading from flash, whether that is the second one tried, and whether it is reading at all (R602-R612); its boot flash,
the flash operation under way, the two buffers, and when the last status word came and the mailbox READ went out. -/
structure FdBoot where
  store    : List Byte
  fuseSvn  : Nat
  stoker   : Bool
  recovery : Bool
  slot     : Nat
  second   : Bool
  reading  : Bool
  flash    : CStore
  flashOp  : Option Nat
  rcvBuf   : Mem
  flashBuf : Mem
  statusAt : Option Stamp
  mbxAt    : Option Stamp
  deriving DecidableEq, Repr

/-- Reset and journal-pass progress (R96-R100, R616-R625), and the stamp from which a released PERST_N counts (R586). -/
structure Boot where
  fds      : List FdBoot
  ready    : Bool
  pass     : Option Bool
  done     : Bool
  resetAt  : Option Stamp
  perstFrom : Stamp
  session  : Nat
  dieCfg   : Nat
  ident    : List Byte
  deriving DecidableEq, Repr

/-! ### Messages the package sends -/

/-- What leaves the package or crosses between its parts, oldest first. -/
inductive Msg where
  | hostWrite (port addr : Nat) (bytes : List Byte)
  | hostRead (port func addr len : Nat)
  | flushRead (port : Nat)
  | msix (port func vec : Nat)
  | regValue (port : Nat) (v : Word)
  | completion (port id status : Nat) (bytes : List Byte)
  | snoopRsp (port addr : Nat) (shared : Bool)
  | bisnp (port line : Nat)
  | tick (frn token : Nat)
  | lease (frn token : Nat)
  | fence (dst token : Nat)
  | fenceAck (src : Nat)
  | prepare (die frn sub : Nat)
  | decide (frn sub token : Nat) (aborts : List Nat)
  | l2Data (slice id : Nat) (bytes : List Byte)
  | l2Ack (slice id : Nat)
  | chain (core asn item array ltile : Nat)
  | isolate (src : Nat)
  | resend (src seq : Nat)
  | ql (port code : Nat) (fields : List Nat) (bytes : List Byte)
  | md (link : Nat) (bytes : List Byte)
  | readout (fd : Nat) (bytes : List Byte)
  | i3c (bytes : List Byte)
  | ibi (code : Nat)
  | spdm (port code : Nat) (bytes : List Byte)
  | doe (port proto : Nat) (bytes : List Byte)
  | cfg (port : Nat) (retry : Bool)
  | pin (name : String) (level : Bool)
  | report (core : Nat)
  | ats (port func : Nat)
  | test (responds : Bool)
  deriving DecidableEq, Repr

end Sys2Proof.Machine
end

