-- ==== Sys2Proof/Machine/State.lean ====
section
/-! DEFINITION. The state of the block: plain data, every piece of state the manual gives the package, and the queue of
commands that wait. -/

namespace Sys2Proof.Machine

/-- The package's state. -/
structure State where
  /-- Stamp of the latest command (R27). -/
  now     : Stamp
  frames  : Frames
  cm      : Masters
  /-- Registers whose value is not their reset value (chapter 20). -/
  regs    : RegFile
  /-- WS shadows that differ from the reset value (R647). -/
  shadow  : RegFile
  /-- Armed blocks with the stamp of the commit write (R646, R647). -/
  armed   : List (Blk × Stamp)
  /-- HI halves latched by a LO read, by requester (R641). -/
  latches : List (Nat × Reg × Word)
  ops     : Ops
  rings   : Rings
  ports   : List HostPort
  cores   : List Core
  mem     : MemSys
  fab     : Fabric
  pool    : Pool
  flt     : Faults
  md      : Meter
  pwr     : Power
  boot    : Boot
  /-- The model's own counter of free values taken (log entry 8). -/
  free    : Nat
  /-- The model's own record of what left the package, newest first (log entry 5). -/
  out     : List Msg
  /-- Commands that wait, first in, first out. -/
  pending : List Instr
  deriving DecidableEq, Repr

/-- The reasons a step can stop with a fault. The manual gives every command an effect, so none is ever raised. -/
inductive Fault where
  /-- Raised by no command. Safe: a stop where the hardware goes on. -/
  | none
  deriving DecidableEq, Repr

/-- The reasons a command has no meaning. -/
inductive Refusal where
  /-- Raised by a dispatch arm whose command is not modelled, by its mnemonic. Safe. -/
  | notModelled (mnemonic : String)
  deriving DecidableEq, Repr

def DieSeq.reset : DieSeq := { frn := none, token := 0, hold := false, withhold := false }

def Frames.reset : Frames :=
  { first := none, ticking := false, frn := 0, tick := 0, guard := false, sub := 0, lastFrn := none,
    dies := List.replicate 11 DieSeq.reset, ppsDone := false, ppsLast := none, ppsSec := 0, ppsBad := 0,
    hot := false, plan := none }

/-- The fencing token is 1 at the first tick after power-on (R603). -/
def Masters.reset : Masters :=
  { master := 0, token := 1, leaseFrn := none, missed := 0, ackMiss := 0, fenceAt := none,
    waiting := [], standby := true }

def DLog.reset : DLog := { writeOff := 64, appliedOff := 64, lap := 1 }

def Ops.reset : Ops :=
  { list := [], votes := [], decs := [], dlogs := List.replicate 2 DLog.reset, append := [], lastAsn := [0, 0],
    asnFloor := 0, chks := [],
    sets := List.replicate 4 [] }

def Rings.reset : Rings := { sq := [], cq := [], ev := [] }

/-- A function after power-on: bus mastering and MSI-X off, as PCIe leaves them (log entry 6). -/
def Func.reset : Func :=
  { bme := false, d3 := false, msixEn := false, fmask := false, pend := 0, errs := 0, aer := 0, wedged := false }

def Spdm.reset : Spdm :=
  { version := false, caps := false, algs := false, session := none, finished := false, updates := 0 }

def HostPort.reset : HostPort :=
  { up := false, downAt := none, fails := 0, steady := none, returned := true, excluded := false, perst := true, cfgReady := false,
    numVfs := 0, vfEn := false, funcs := List.replicate 64 Func.reset, lines := [], heldRds := [], nextId := 0,
    tracked := [], ats := [], ide := List.replicate 3 { keyed := false, secure := false, insecure := false },
    spdm := Spdm.reset }

def L2Slice.reset : L2Slice :=
  { lines := [], plru := [], mshrs := [], waitq := [], order := [], next := 0 }

def MemSys.reset : MemSys :=
  { hbm := { dram := List.replicate 9 Mem.empty, undef := [], scratch := [] }, slices := List.replicate 9 L2Slice.reset,
    maint := [none, none], parity := List.replicate 9 0 }

def Fabric.reset : Fabric :=
  { deadLinks := [], halfLinks := [], changed := false, kept := [],
    seqs := List.replicate 64 0,
    ports := (List.range 16).map fun p => { downAt := none, fails := 0, cur := p } }

def Pool.reset : Pool :=
  { exps := [], imps := [], expNew := [], impNew := [], locks := [], scopes := [], tokens := [], yes := [], applied := [] }

/-- CD8 is the banked die by default (R20). -/
def Faults.reset : Faults :=
  { count := 0, retired := [], linkDies := [], moveAt := [], roles := [], reports := [], shunned := [],
    banked := some 8 }

def Legal.zero : Legal :=
  { eA := 0, eB := 0, eTot := 0, eRev := 0, eIdle := 0, ePend := 0, eFn := List.replicate 128 0,
    mwuFn := List.replicate 128 0, mwuTot := 0, frFn := List.replicate 128 0, frSeen := 0, frCommit := 0, gaps := 0 }

def Snap.none : Snap :=
  { seq := 0, legal := Legal.zero, fracA := 0, fracB := 0, fracR := 0, rtc := 0, logLen := 0, valid := false,
    final := false }

/-- The meter as it leaves manufacture (log entry 11): unit gain, no offset, an empty log, TRADE 0, jumper fitted. -/
def Meter.reset : Meter :=
  { on := true, restart := false, legal := Legal.zero, fracA := 0, fracB := 0, fracR := 0, winA := 0, winB := 0,
    winR := 0, winN := 0, winP := 0, winOpen := false, session := none, token := 0, lastFrn := 0, fresh := true,
    lastClose := 0, held := [], queue := [], dropped := 0, invalid := 0, sealedIn := true, trade := false, health := 0,
    conds := 0, gain := [0x3F800000, 0x3F800000], offset := [0, 0], rtc := 0, rtcAt := 0, log := [], fwVer := 0,
    ifVer := 0, fwTarget := none, fwLen := 0, fwBuf := Mem.empty, fwImage := [], powerOns := 1, rseq := 0,
    snaps := [Snap.none, Snap.none], snapSeq := 0, lastRec := List.replicate 256 0, addr := none, ibi := false,
    rstAct := 0, instant := [0, 0, 0, 0] }

/-- Just before PWR_OK: both inputs up, rails in regulation, straps not yet sampled (log entry 12). -/
def Power.reset : Power :=
  { vin := [true, true], pwrOk := false, pwrDn := false, coldLow := false, inReset := true, refclk1 := false,
    thermN := true, straps := [false, false, false], hotDies := [], waits := [] }

def FdBoot.reset : FdBoot :=
  { store := [], fuseSvn := 0, stoker := false, recovery := false, slot := 0, second := false, reading := false,
    flash := CStore.empty, flashOp := none, rcvBuf := Mem.empty, flashBuf := Mem.empty, statusAt := none, mbxAt := none }

def Boot.reset : Boot :=
  { fds := [FdBoot.reset, FdBoot.reset], ready := false, pass := none, done := false, resetAt := none, perstFrom := 0,
    session := 0, dieCfg := 8, ident := [] }

/-- The package right after reset. -/
def State.reset : State :=
  { now := 0, frames := Frames.reset, cm := Masters.reset, regs := [], shadow := [], armed := [], latches := [],
    ops := Ops.reset, rings := Rings.reset, ports := [HostPort.reset, HostPort.reset],
    cores := List.replicate 36 Core.reset, mem := MemSys.reset, fab := Fabric.reset, pool := Pool.reset,
    flt := Faults.reset, md := Meter.reset, pwr := Power.reset, boot := Boot.reset, free := 0, out := [],
    pending := [] }

end Sys2Proof.Machine
end

