-- ==== Sys2Proof/Machine/Operands.lean ====
section
/-! DEFINITION. Operand forms of the product and output paths: element packing (R188-R191), A-layout and W-layout
tiles (R232-R234), operand pairs (R194, R226), and rows of converted output elements. -/

namespace Sys2Proof

/-- Ceiling division. -/
def cdiv (a b : Nat) : Nat := (a + b - 1) / b

/-- Bytes of one 32-element block of a format (R188). -/
def Elem.blockBytes (e : Elem) : Nat := 4 * e.bits

/-- Row bytes B per vector of a tile layout (R232). -/
def Elem.rowBytes : Elem → Nat
  | .fp16 | .bf16 => 64
  | .fp32 | .int32 => 128
  | _ => 32

/-- Scale bytes H per row per vector (R232). -/
def Elem.scaleBytes (e : Elem) : Nat := if e = .e2m1 then 2 else if e.isMx then 1 else 0

/-- Code i of a packed little-endian group of elements (R188). -/
def packedCode (bits : Nat) (bytes : List Byte) (i : Nat) : Nat := leNat bytes / 2 ^ (bits * i) % 2 ^ bits

/-- Codes packed into n bytes, the rest 0 (R188). -/
def packCodes (bits n : Nat) (codes : List Nat) : List Byte :=
  leBytes n (codes.foldr (fun c acc => c % 2 ^ bits + 2 ^ bits * acc) 0)

/-! ### Operand pairs (R194, R226) -/

/-- How an operand pair runs: accumulation kind, vector interval V, K chunk, and the matrix-vector cycles per tile. -/
structure Pair where
  int : Bool
  v   : Nat
  kc  : Nat
  ct  : Nat
  deriving DecidableEq, Repr

def isFp8 : Elem → Bool | .e4m3 | .e5m2 => true | _ => false
def isFp6 : Elem → Bool | .e3m2 | .e2m3 => true | _ => false

/-- The row of R194 and R226 for a pair, whichever operand holds which format. -/
def pairOf (a b : Elem) : Pair :=
  if a = .fp32 || b = .fp32 then ⟨false, 8, 256, 16⟩
  else if (isFp8 a && isFp8 b) || (isFp6 a && isFp6 b) || (a = .mxint8 && b = .mxint8) then ⟨false, 1, 256, 2⟩
  else if a = .int8 && b = .int8 then ⟨true, 1, 256, 2⟩
  else if a = .e2m1 && b = .e2m1 then ⟨false, 1, 512, 4⟩
  else if a = .int4 && b = .int4 then ⟨true, 1, 512, 4⟩
  else if (a = .bf16 && b = .bf16) || (a = .fp16 && b = .fp16) then ⟨false, 2, 256, 4⟩
  else if a.isInt && b.isInt then ⟨true, 2, 256, 4⟩
  else ⟨false, 2, 256, 4⟩

/-! ### Tile layouts (R232, R233) -/

/-- Offset of byte b of row r of vector m from the tile's base (R232). -/
def tileByte (bRow m r b : Nat) : Nat :=
  let t := m * bRow + b
  64 * (8 * (t / 64) + r) + t % 64

/-- Offset of the scale part of a tile of M vectors (R232). -/
def tileScaleBase (bRow vecs : Nat) : Nat := 512 * cdiv (vecs * bRow) 64

/-- A-layout size AT(M, e) (chapter 12). -/
def atSize (m : Nat) (e : Elem) : Nat := 512 * cdiv (m * e.rowBytes) 64 + 64 * cdiv (8 * m * e.scaleBytes) 64

/-- W-layout size WT(e) (chapter 12). -/
def wtSize (e : Elem) : Nat := 64 * (2 * e.rowBytes + cdiv (128 * e.scaleBytes) 64)

/-- Block h of row r of vector m of a tile of `vecs` vectors, read through `rd` at offsets from the tile's base: its
scale exponent and its 32 unscaled elements. -/
def tileBlock (rd : Nat → Byte) (e : Elem) (vecs m r h : Nat) : Option Int × List Val :=
  let bytes := (List.range e.blockBytes).map fun i => rd (tileByte e.rowBytes m r (h * e.blockBytes + i))
  let vals := (List.range 32).map fun i => e.decode (packedCode e.bits bytes i)
  let sc := if e.isMx then
      scaleExp (rd (tileScaleBase e.rowBytes vecs + (8 * m + r) * e.scaleBytes + h)).toNat
    else some 0
  (sc, vals)

/-- The scaled block sums column n receives for vector m: eight, or sixteen in matched 4-bit mode (R225, R264). In a
mixed pair a 4-bit operand gives the first block of each row (log entry 24). -/
def columnSums (p : Pair) (wrd ard : Nat → Byte) (we ae : Elem) (vecs m n : Nat) : List Val :=
  (List.range 8).flatMap fun r => (List.range (p.kc / 256)).map fun h =>
    let w := tileBlock wrd we 16 n r h
    let a := tileBlock ard ae vecs m r h
    blockDot w.1 a.1 w.2 a.2

/-! ### Residues (7.9) -/

/-- R(x) modulo 32,767. -/
def resInt (x : Int) : Nat := (x % 32767).toNat

/-- R(v) of a dyadic value; 0 for a special value, whose row is not compared (R247). -/
def residue : Val → Nat
  | .fin s m e => resInt (Val.signed s m) * 2 ^ (e % 15).toNat % 32767
  | _ => 0

/-- Scaled weight of row r, lane k, column n. -/
def tileLane (rd : Nat → Byte) (e : Elem) (n r h k : Nat) : Val :=
  let b := tileBlock rd e 16 n r h
  scaled b.1 (b.2.getD k Val.zero)

/-- Checksum column weights, row by row, block by block, lane by lane (R246). -/
def checkColumn (rd : Nat → Byte) (e : Elem) : List Nat :=
  let hs := if e.bits = 4 then 2 else 1
  (List.range 8).flatMap fun r => (List.range hs).flatMap fun h => (List.range 32).map fun k =>
    ((List.range 16).foldl (fun acc n => acc + residue (tileLane rd e n r h k)) 0) % 32767

/-- Checksum row, column by column (R246). -/
def checkRow (rd : Nat → Byte) (e : Elem) : List Nat :=
  let hs := if e.bits = 4 then 2 else 1
  (List.range 16).map fun n =>
    ((List.range 8).foldl (fun acc r => (List.range hs).foldl (fun acc h =>
      (List.range 32).foldl (fun acc k => acc + residue (tileLane rd e n r h k)) acc) acc) 0) % 32767

/-! ### Packed rows (R188, R189) -/

/-- Element n of a packed row whose bytes are read through `rd` from offset 0; MX blocks carry their scale byte
behind them. -/
def rowElem (rd : Nat → Byte) (e : Elem) (n : Nat) : Val :=
  if e.isMx then
    let blk := n / 32 * (e.blockBytes + 1)
    let bytes := (List.range e.blockBytes).map fun i => rd (blk + i)
    scaled (scaleExp (rd (blk + e.blockBytes)).toNat) (e.decode (packedCode e.bits bytes (n % 32)))
  else
    let lo := n * e.bits / 8
    let bytes := (List.range (cdiv e.bits 8)).map fun i => rd (lo + i)
    e.decode (leNat bytes / 2 ^ (n * e.bits % 8) % 2 ^ e.bits)

/-- Consecutive groups of n. -/
def chunks {α : Type} (n : Nat) : Nat → List α → List (List α)
  | 0, _ => []
  | f + 1, xs => if xs.isEmpty then [] else xs.take n :: chunks n f (xs.drop n)

/-- The conversion modes of an operation (R204, R217). -/
structure Modes where
  floor : Bool
  rnd   : Rnd
  ieee  : Bool
  deriving DecidableEq, Repr

/-- A converted row: element codes, block scales (MX), and INFO bits [0] and [2]. -/
structure ConvRow where
  codes  : List Nat
  scales : List Nat
  info   : Nat
  deriving DecidableEq, Repr

/-- Convert a row of values; `dr` gives the draw of column n (R202-R218). MX rows are converted in blocks of 32 from
the row's first column (R295). -/
def convRow (f : Elem) (md : Modes) (dr : Nat → Nat) (vals : List Val) : ConvRow :=
  if f.isMx then
    let bs := (chunks 32 vals.length vals).zipIdx.map fun (vs, b) =>
      convBlock f md.floor md.rnd md.ieee ((List.range vs.length).map fun i => dr (32 * b + i)) vs
    { codes := bs.flatMap (·.codes), scales := bs.map (·.scale),
      info := (if bs.any (·.sat) then 1 else 0) + (if bs.any (·.ovf) then 4 else 0) }
  else
    let cs := vals.zipIdx.map fun (v, n) => convElem f md.rnd md.ieee (dr n) v
    { codes := cs.map (·.code), scales := [],
      info := (if cs.any (·.sat) then 1 else 0) + (if cs.any (·.ovf) then 4 else 0) }

/-- Bytes of a packed row: plain elements, or MX blocks each followed by its scale (R188, R189). A last partial block
occupies a whole block with code 0 above (R190). -/
def rowBytes (f : Elem) (r : ConvRow) : List Byte :=
  if f.isMx then
    (List.zipWith (fun cs sc => packCodes f.bits f.blockBytes cs ++ leBytes 1 sc)
      (chunks 32 r.codes.length r.codes) r.scales).flatten
  else packCodes f.bits (cdiv (f.bits * r.codes.length) 8) r.codes

/-- OR two INFO values. -/
def orInfo (a b : Nat) : Nat := a ||| b

end Sys2Proof
end

