-- ==== Sys2Proof/Machine/Flags.lean ====
section
/-! DEFINITION. Accumulation, spill and the output channel (chapter 8): the sticky flags ISAT, XOVF and XINX, X128 and
INT64 terms, passes, swaps, the final value and the channel's steps. -/

namespace Sys2Proof.Machine

/-- RNE32 with an exact zero as +0 (R264). -/
def rne32z (v : Val) : Word := if v.isZero then 0 else rne32 v

/-- One FP32 accumulation: RNE32(f + sum of D), formed exactly and rounded once (R264, R265). -/
def accFp32 (f : Word) (ds : List Val) : Word := rne32z (ds.foldl Val.add (f32 f))

/-- The integer a finite integral value stands for. -/
def valInt : Val → Int
  | .fin s m e => Val.signed s (m * 2 ^ e.toNat)
  | _ => 0

def int32Max : Int := 2147483647
def int32Min : Int := -2147483648

/-- One INT32 accumulation and whether it saturated (R266). -/
def accInt32 (f : Word) (ds : List Val) : Word × Bool :=
  let x := f.toInt + (ds.map valInt).foldl (· + ·) 0
  if x > int32Max then (0x7FFFFFFF#32, true)
  else if x < int32Min then (0x80000000#32, true)
  else (BitVec.ofInt 32 x, false)

/-! ### Terms (R271-R273) -/

/-- A spill entry with the flags adding a term raised. -/
structure TermSum where
  e    : SpillE
  xovf : Bool
  xinx : Bool
  deriving DecidableEq, Repr

def x128Clamp : Int := 2 ^ 114 - 1
def x128Max : Int := 2 ^ 127 - 2
def int64Max : Int := 2 ^ 63 - 1
def int64Min : Int := -(2 ^ 63)

/-- The quotient of a finite term by 2^xwin truncated toward zero, and whether nonzero bits were discarded (R271). -/
def termUnits (xwin : Int) (s : Bool) (m : Nat) (e : Int) : Int × Bool :=
  if e ≥ xwin then (Val.signed s (m * 2 ^ (e - xwin).toNat), false)
  else
    let d := (xwin - e).toNat
    (Val.signed s (m / 2 ^ d), m % 2 ^ d ≠ 0)

/-- Add one term to an X128 entry that has received `n` terms (R271, R272). -/
def addTerm (xwin : Int) (n : Nat) (x : SpillE) (t : Val) : TermSum :=
  match x, t with
  | .nan, _ => ⟨.nan, false, false⟩
  | _, .nan => ⟨.nan, false, false⟩
  | .inf a, .inf b => ⟨if a = b then .inf a else .nan, false, false⟩
  | .inf a, .fin _ _ _ => ⟨.inf a, false, false⟩
  | .fin _, .inf b => ⟨.inf b, false, false⟩
  | .fin u, .fin s m e =>
    let q := termUnits xwin s m e
    let v := max (-x128Clamp) (min x128Clamp q.1)
    let sum := u + v
    let sat := if n ≥ 4096 then max (-x128Max) (min x128Max sum) else sum
    ⟨.fin sat, v != q.1 || sat != sum, q.2⟩

/-- Add an INT32 or INT64 value to an INT64 entry, saturating (R273). -/
def addInt64 (x : SpillE) (v : Int) : TermSum :=
  match x with
  | .fin u =>
    let sum := u + v
    let sat := max int64Min (min int64Max sum)
    ⟨.fin sat, sat != sum, false⟩
  | e => ⟨e, false, false⟩

/-- The value a spill entry stands for (R269, R273). -/
def SpillE.value (kind : AccKind) (xwin : Int) : SpillE → Val
  | .nan => .nan
  | .inf s => .inf s
  | .fin u => Val.ofInt u (if kind = .fp32 then xwin else 0)

/-- Combine an entry of another tile's spill (a chain partial) into an entry as one term (R281). -/
def addPartial (kind : AccKind) (xwin : Int) (n : Nat) (x y : SpillE) : TermSum :=
  match kind with
  | .fp32 => match x, y with
    | .fin u, .fin w =>
      let sum := u + w
      let sat := if n ≥ 4096 then max (-x128Max) (min x128Max sum) else sum
      ⟨.fin sat, sat != sum, false⟩
    | _, _ => addTerm xwin n x (SpillE.value .fp32 xwin y)
  | .int32 => match y with | .fin w => addInt64 x w | _ => ⟨x, false, false⟩

/-! ### Rows and passes -/

def zeroRow : List Word := List.replicate 16 0
def zeroSpill : List SpillE := List.replicate 16 (.fin 0)

/-- Row m of a set; a row never written reads 0 (R262). -/
def rowAt (rows : List (List Word)) (m : Nat) : List Word := rows.getD m zeroRow

/-- Add a row of front codes into a spill row as terms (R274). -/
def spillRow (kind : AccKind) (xwin : Int) (n : Nat) (x : List SpillE) (r : List Word) : List TermSum :=
  List.zipWith (fun e w => match kind with
    | .fp32 => addTerm xwin n e (f32 w)
    | .int32 => addInt64 e w.toInt) x r

/-- A tile whose front set has been swapped out and drained into its spill tile (R274, R276). -/
def AccTile.spillFront (t : AccTile) : AccTile :=
  let kind := t.kind.getD .fp32
  let rows := (List.range t.front.length).map fun m =>
    spillRow kind t.xwin t.terms (t.spill.getD m zeroSpill) (rowAt t.front m)
  { t with front := [], spilled := true,
           spill := rows.map (·.map (·.e)) ++ t.spill.drop t.front.length,
           xovf := t.xovf || rows.any (·.any (·.xovf)), xinx := t.xinx || rows.any (·.any (·.xinx)),
           terms := min 65535 (t.terms + 1) }

/-- The effective spill interval: min(S, 256) for INT32 tiles, 1 in exact mode (R267, R274). -/
def effInterval (kind : AccKind) (s : Nat) (exact : Bool) : Nat :=
  if exact then 1 else match kind with | .fp32 => s | .int32 => min s 256

/-- The spill-group key of a pass: floor(p / S), per operation on a shared tile (R274, R284). -/
def passKey (interval asn pass : Nat) : Nat := asn * 2 ^ 24 + pass / interval

/-- Start a pass: set the kind at the first pass, swap and spill when the key differs (R262, R274). -/
def AccTile.beginPass (t : AccTile) (kind : AccKind) (asn pass : Nat) : AccTile :=
  let interval := effInterval (t.kind.getD kind) t.interval t.exact
  let key := passKey interval asn pass
  let t := { t with kind := some (t.kind.getD kind) }
  let t := if t.key.isSome && t.key != some key then t.spillFront else t
  { t with key := some key, last := some pass }

/-- Accumulate M vectors: `ds m n` gives the block sums of entry (m, n) (R264, R266). -/
def AccTile.accumulate (t : AccTile) (m : Nat) (ds : Nat → Nat → List Val) : AccTile :=
  match t.kind.getD .fp32 with
  | .fp32 =>
    let rows := (List.range m).map fun i => (rowAt t.front i).zipIdx.map fun (f, n) => accFp32 f (ds i n)
    { t with front := rows ++ t.front.drop m }
  | .int32 =>
    let rows := (List.range m).map fun i => (rowAt t.front i).zipIdx.map fun (f, n) => accInt32 f (ds i n)
    { t with front := rows.map (·.map (·.1)) ++ t.front.drop m, isat := t.isat || rows.any (·.any (·.2)) }

/-- One entry of an element-wise instruction and whether it saturated (R255). -/
def ewEntry (kind : AccKind) (mul : Bool) (x y : Word) : Word × Bool :=
  match kind with
  | .fp32 => (rne32 (if mul then Val.mul (f32 x) (f32 y) else Val.add (f32 x) (f32 y)), false)
  | .int32 =>
    let z := if mul then x.toInt * y.toInt else x.toInt + y.toInt
    if z > int32Max then (0x7FFFFFFF#32, true) else if z < int32Min then (0x80000000#32, true)
    else (BitVec.ofInt 32 z, false)

/-- The exact final value of entry (m, n) of a tile that leaves for the output channel (R276, R291). -/
def AccTile.final (t : AccTile) (m n : Nat) : Val :=
  let kind := t.kind.getD .fp32
  if t.spilled then SpillE.value kind t.xwin ((t.spill.getD m zeroSpill).getD n (.fin 0))
  else match kind with
    | .fp32 => f32 ((rowAt t.front m).getD n 0)
    | .int32 => Val.ofZ ((rowAt t.front m).getD n 0).toInt

/-- A tile ready to drain: a spilled tile's last group joins its spill entries (R276). -/
def AccTile.combined (t : AccTile) : AccTile := if t.spilled && t.front.length > 0 then t.spillFront else t

/-- INFO bits a tile's flags set (R263). -/
def AccTile.info (t : AccTile) : Nat := (if t.isat || t.xovf then 1 else 0) + (if t.xinx then 2 else 0)

/-! ### The output channel (R289-R294) -/

/-- The control word's fields (R289). -/
structure Ctrl where
  act   : Nat
  floor : Bool
  ew    : Nat
  ewPos : Bool
  raw   : Bool
  param : Nat
  scale : Nat
  deriving DecidableEq, Repr

def Ctrl.parse (w : Nat) : Ctrl :=
  { act := bitf w 0 3, floor := bit w 3, ew := bitf w 4 2, ewPos := bit w 6, raw := bit w 7,
    param := bitf w 16 16, scale := bitf w 32 32 }

/-- The scale s: code 0 stands for 1.0 (R289). -/
def Ctrl.scaleVal (c : Ctrl) : Val := if c.scale = 0 then Val.ofZ 1 else Elem.fp32.decode c.scale

/-- PARAM as a value; -0 acts as +0 for the clamps (R290). -/
def Ctrl.paramVal (c : Ctrl) : Val := let p := Elem.bf16.decode c.param; if p.isZero then Val.zero else p

/-- The activation of R292 on a binary32 value. -/
def actStep (c : Ctrl) (t : Word) : Word :=
  let v := f32 t
  if v.isNan then t
  else match c.act with
    | 1 => if Val.lt Val.zero v then t else 0
    | 2 => if Val.lt v Val.zero then rne32z (Val.mul v (Elem.bf16.decode c.param)) else t
    | 3 =>
      let p := c.paramVal
      if Val.lt v p.neg then rne32 p.neg else if Val.lt p v then rne32 p else t
    | 4 =>
      let p := c.paramVal
      if !Val.lt Val.zero v then 0 else if Val.lt p v then rne32 p else t
    | _ => t

/-- The element-wise step of R293. -/
def ewStep (c : Ctrl) (t : Word) (r : Val) : Word :=
  match c.ew with
  | 1 => rne32z (Val.add (f32 t) r)
  | 2 => rne32z (Val.mul (f32 t) r)
  | _ => t

/-- The channel's binary32 result t of R291. -/
def channel (c : Ctrl) (v bias r : Val) : Word :=
  let t := rne32z (Val.add (Val.mul v c.scaleVal) bias)
  if c.ewPos then actStep c (ewStep c t r) else ewStep c (actStep c t) r

/-- The value handed to conversion: the raw integer under INT_RAW (R294), else t. -/
def channelOut (c : Ctrl) (v bias r : Val) : Val := if c.raw then v else f32 (channel c v bias r)

end Sys2Proof.Machine
end

