-- ==== Sys2Proof/Machine/SeqOps.lean ====
section
/-! DEFINITION. Shared operations of the core sequencer (chapter 11): banks and registers, addresses, taking an
exception, returning from one, the double fault, and the ending of an operation on a core. -/

namespace Sys2Proof.Machine

/-! ### Banks and registers -/

/-- The bank the sequencer runs (R374, R397). -/
def Core.bank (k : Core) : SeqBank := if k.urgent then k.bankU else k.bankN

/-- Replace the running bank. -/
def Core.setBank (k : Core) (b : SeqBank) : Core :=
  { k with bankN := if k.urgent then k.bankN else b, bankU := if k.urgent then b else k.bankU }

/-- Read g[n]; g0 reads 0 (R372). -/
def SeqBank.reg (b : SeqBank) (n : BitVec 5) : Word := if n = 0 then 0 else b.g[n.toNat]'n.isLt

/-- Write g[n]; a write to g0 is discarded (R372). -/
def SeqBank.setReg (b : SeqBank) (n : BitVec 5) (v : Word) : SeqBank :=
  if n = 0 then b else { b with g := b.g.set n.toNat v n.isLt }

/-- Fetch-buffer tags after the line at pc was fetched; 16 lines, oldest dropped (R374, 11.8; log entry 20). -/
def SeqBank.touched (b : SeqBank) : List Nat :=
  if b.tags.contains (b.pc.toNat / 64) then b.tags else (b.pc.toNat / 64 :: b.tags).take 16

/-- Continue at an address after the instruction at pc. -/
def SeqBank.jump (b : SeqBank) (t : Word) : SeqBank := { b with pc := t, tags := b.touched }

/-- Continue at the next instruction. -/
def SeqBank.next (b : SeqBank) : SeqBank := b.jump (b.pc + 4)

/-- Write a register and continue at the next instruction. -/
def Core.putReg (k : Core) (rd : BitVec 5) (v : Word) : Core := k.setBank (k.bank.setReg rd v).next

/-- Handler level, STA[1:0]: 0b01 first level, 0b10 second level (R373, log entry 21). -/
def SeqBank.hlv (b : SeqBank) : Nat := b.sta.toNat % 4

/-! ### Special registers (R373) -/

/-- Read special register number n; none for a reserved number. -/
def SeqBank.special (b : SeqBank) : Nat → Option Word
  | 0 => some b.sta | 1 => some b.ecause | 2 => some b.era | 3 => some b.evb
  | 4 => some b.slo | 5 => some b.shi | 6 => some b.fsb | _ => none

/-- Write special register number n under the access codes of R373; RO fields and reserved bits keep their value. -/
def SeqBank.setSpecial (b : SeqBank) (n : Nat) (v : Word) : Option SeqBank :=
  match n with
  | 0 => some { b with sta := (b.sta &&& 0x7#32) ||| (v &&& 0x8#32) }
  | 1 => some { b with ecause := v &&& 0xFF#32 }
  | 2 => some { b with era := v &&& 0x7FFFFC#32 }
  | 3 => some { b with evb := v &&& 0x7FFF01#32 }
  | 4 => some { b with slo := v &&& 0x7FFFF0#32 }
  | 5 => some { b with shi := v &&& 0x7FFFF0#32 }
  | 6 => some { b with fsb := v }
  | _ => none

/-! ### Addresses (R375) -/

def SeqBank.inImage (b : SeqBank) (a n : Nat) : Bool :=
  b.prog.ibase ≤ a && a + n ≤ b.prog.ibase + b.prog.imageLen

def SeqBank.inWork (b : SeqBank) (a n : Nat) : Bool :=
  b.prog.wbase ≤ a && a + n ≤ b.prog.wbase + b.prog.work

/-- The program range: image and workspace (R375). -/
def SeqBank.inProgram (b : SeqBank) (a n : Nat) : Bool := b.inImage a n || b.inWork a n

def opWindow : Nat := 0x01000000

/-- The operation window, 0x500 bytes, load only (R375, R376). -/
def inWindow (a n : Nat) : Bool := opWindow ≤ a && a + n ≤ opWindow + 0x500

/-- FSB_BASE is valid when 64-byte aligned with its 64 bytes in the workspace (R387). -/
def SeqBank.fsbValid (b : SeqBank) : Bool := b.fsb.toNat % 64 = 0 && b.inWork b.fsb.toNat 64

/-! ### Ending an operation on a core -/

/-- Record an ending; the first in time gives STATUS and INFO (R352). -/
def Core.recordEnd (k : Core) (asn status info : Nat) : List Ending :=
  if k.endings.any (·.asn = asn) then k.endings else k.endings ++ [{ asn := asn, status := status, info := info }]

/-- Clear a bank that runs an operation's program. -/
def SeqBank.drop (b : SeqBank) (asn : Nat) : SeqBank := if b.active && b.ctx.asn = asn then SeqBank.reset else b

/-- Stop the operation's stream programs at their next instruction, discard its entries not yet issued (R352, R392,
R426) and clear the bank of its program (log entry 26); instructions and transfers in flight complete. -/
def Core.stopOp (k : Core) (asn : Nat) : Core :=
  { k with
    bankN := k.bankN.drop asn, bankU := k.bankU.drop asn,
    engines := k.engines.map fun e =>
      { e with stopped := e.stopped || (e.running && e.asn = asn),
               queued := match e.queued with | some q => if q.1 = asn then none else some q | none => none },
    queue := k.queue.filter fun q => q.asn != asn || q.issued,
    segs := k.segs.map fun g => if g.ctx.asn = asn then { g with finished := true } else g }

/-- End the operation on this core with a status (R352 for STREAM_FAULT). -/
def Core.endOp (k : Core) (asn status info : Nat) : Core :=
  { k.stopOp asn with endings := k.recordEnd asn status info }

/-- End the running program: the operation ends and the bank is cleared (R392, R395, R426). -/
def Core.endProgram (k : Core) (status info : Nat) : Core :=
  (if k.bank.active then k.endOp k.bank.ctx.asn status info else k).setBank SeqBank.reset

/-- INFO of SEQ_ILLEGAL and SEQ_DOUBLE_FAULT (R393): cause, address bits [22:2], double-fault kind. -/
def seqInfo (cause : Nat) (addr : Word) (kind : Nat) : Nat :=
  cause % 256 + bitf addr.toNat 2 21 * 2 ^ 8 + kind * 2 ^ 29

/-! ### Exceptions (R387-R392) -/

/-- A precise exception: cause, EADDR, the faulting instruction's address and the address ERA receives (R387). -/
structure Exc where
  cause : Nat
  eaddr : Word
  addr  : Word
  ret   : Word
  deriving DecidableEq, Repr

/-- Double fault (R392): the program halts, the halt is recorded, the operation ends with SEQ_DOUBLE_FAULT. -/
def Core.doubleFault (k : Core) (x : Exc) (kind : Nat) : Core :=
  let k' := k.endProgram 0x21 (seqInfo x.cause x.addr kind)
  { k' with ft := { k'.ft with halt := true, hasn := k.bank.ctx.asn } }

/-- The bytes of the fault save block (R390). -/
def fsbBlock (b : SeqBank) (x : Exc) (reason : Nat) : List Byte :=
  leBytes 4 b.era.toNat ++ leBytes 4 b.sta.toNat ++ leBytes 4 b.ecause.toNat ++ leBytes 4 x.eaddr.toNat
    ++ leBytes 4 (b.reg 31).toNat ++ leBytes 4 (b.reg 30).toNat ++ leBytes 4 x.cause ++ leBytes 4 x.addr.toNat
    ++ leBytes 1 reason ++ leBytes 31 0

/-- Second-level entry (R390): 1 STACK, 2 NESTED. An invalid FSB_BASE is a double fault of kind 0b01. -/
def Core.enterSecond (k : Core) (x : Exc) (reason : Nat) : Core :=
  let b := k.bank
  if !b.fsbValid then k.doubleFault x 1
  else
    { k.setBank { b with era := x.ret &&& 0x7FFFFC#32, ecause := BitVec.ofNat 32 x.cause,
                         sta := (b.sta &&& 0xC#32) ||| 0x2#32, pc := (b.evb &&& 0x7FFF00#32) + 0x100,
                         tags := b.touched }
      with store := k.store.writeBytes b.fsb.toNat (fsbBlock b x reason) }

/-- The vector of a first-level entry (R389). -/
def firstVector (evb : Word) (cause : Nat) : Word :=
  (evb &&& 0x7FFF00#32) + (if cause < 0x10 then 0 else 0x40)

/-- The 16-byte frame of a first-level entry: ERA, STA, ECAUSE before entry, then EADDR (R389). -/
def excFrame (b : SeqBank) (x : Exc) : List Byte :=
  leBytes 4 b.era.toNat ++ leBytes 4 b.sta.toNat ++ leBytes 4 b.ecause.toNat ++ leBytes 4 x.eaddr.toNat

/-- First-level entry (R389). -/
def Core.enterFirst (k : Core) (x : Exc) : Core :=
  let b := k.bank
  let sp := b.reg 31 - 16
  { k.setBank { (b.setReg 31 sp) with
      era := x.ret &&& 0x7FFFFC#32, ecause := BitVec.ofNat 32 x.cause, sta := (b.sta &&& 0xC#32) ||| 0x1#32,
      pc := firstVector b.evb x.cause, tags := b.touched }
    with store := k.store.writeBytes sp.toNat (excFrame b x) }

/-- Whether the frame at sp - 16 fits: 16-byte aligned and within [SLO, SHI - 16] (R389). -/
def SeqBank.stackFits (b : SeqBank) : Bool :=
  let a := (b.reg 31 - 16).toNat
  a % 16 = 0 && b.slo.toNat ≤ a && a + 16 ≤ b.shi.toNat

/-- TAKING AN EXCEPTION: the first row of R389 that applies. Cause 0x09 is HEADER. -/
def Core.raise (k : Core) (x : Exc) : Core :=
  let b := k.bank
  if x.cause = 9 || !bit b.evb.toNat 0 then
    k.endProgram 0x20 (seqInfo x.cause (if x.cause = 9 then 0 else x.addr) 0)
  else if b.hlv = 2 then k.doubleFault x 2
  else if b.hlv = 1 then k.enterSecond x 2
  else if !b.stackFits then k.enterSecond x 1
  else k.enterFirst x

/-- An exception of the instruction at pc: ERA receives its own address (R387). -/
def Core.raiseAt (k : Core) (cause : Nat) (eaddr : Word) : Core :=
  k.raise { cause := cause, eaddr := eaddr, addr := k.bank.pc, ret := k.bank.pc }

/-- RETURN FROM AN EXCEPTION (R389, R390): first level restores STA from the frame at sp and pops it; second level
restores STA and g31 from the fault save block. URG is never restored. -/
def Core.handlerReturn (k : Core) : Core :=
  let b := k.bank
  let staFrom (a : Nat) : Word := (BitVec.ofNat 32 (k.store.readLe a 4) &&& 0xB#32) ||| (b.sta &&& 0x4#32)
  if b.hlv = 1 then
    k.setBank { (b.setReg 31 (b.reg 31 + 16)) with
      sta := staFrom ((b.reg 31).toNat + 4), pc := b.era, tags := b.touched }
  else
    k.setBank { (b.setReg 31 (BitVec.ofNat 32 (k.store.readLe (b.fsb.toNat + 0x10) 4))) with
      sta := staFrom (b.fsb.toNat + 4), pc := b.era, tags := b.touched }

/-! ### Instruction words (11.5), which EADDR receives where no data address applies (R387) -/

def wordR (op : Nat) (rd ra rb : BitVec 5) (fn : Nat) : Word :=
  BitVec.ofNat 32 (op * 2 ^ 26 + rd.toNat * 2 ^ 21 + ra.toNat * 2 ^ 16 + rb.toNat * 2 ^ 11 + fn)

def wordI (op : Nat) (rd ra : BitVec 5) (imm : BitVec 16) : Word :=
  BitVec.ofNat 32 (op * 2 ^ 26 + rd.toNat * 2 ^ 21 + ra.toNat * 2 ^ 16 + imm.toNat)

def wordC (rd ra rb : BitVec 5) (site dst : BitVec 4) (src : Bool) : Word :=
  BitVec.ofNat 32 (0x34 * 2 ^ 26 + rd.toNat * 2 ^ 21 + ra.toNat * 2 ^ 16 + rb.toNat * 2 ^ 11
    + site.toNat * 2 ^ 7 + dst.toNat * 2 ^ 3 + (if src then 4 else 0))

def wordE (op : Nat) (ra : BitVec 5) (eng : BitVec 3) (ctr : BitVec 2) : Word :=
  BitVec.ofNat 32 (op * 2 ^ 26 + ra.toNat * 2 ^ 16 + eng.toNat * 2 ^ 13 + ctr.toNat * 2 ^ 11)

/-- Cause 0x03 FIELD with the instruction word in EADDR. -/
def Core.raiseWord (k : Core) (cause : Nat) (w : Word) : Core := k.raiseAt cause w

/-! ### Loads and stores -/

/-- Data bytes the sequencer reads: the operation window or core store (R375, R376). -/
def Core.loadNat (k : Core) (a n : Nat) : Nat :=
  if inWindow a n then fld k.bank.ctx.window (a - opWindow) n else k.store.readLe a n

/-- A load: alignment, then reach, then the register (R379, R388). `ext` widens the loaded number. -/
def Core.load (k : Core) (rd ra : BitVec 5) (imm : BitVec 16) (n : Nat) (ext : Nat → Word) : Core :=
  let a := k.bank.reg ra + imm.signExtend 32
  if a.toNat % n ≠ 0 then k.raiseAt 4 a
  else if !(k.bank.inProgram a.toNat n || inWindow a.toNat n) then k.raiseAt 5 a
  else k.putReg rd (ext (k.loadNat a.toNat n))

/-- A store of the low n bytes of g[rd] (R379, R388). -/
def Core.storeReg (k : Core) (rd ra : BitVec 5) (imm : BitVec 16) (n : Nat) : Core :=
  let a := k.bank.reg ra + imm.signExtend 32
  if a.toNat % n ≠ 0 then k.raiseAt 4 a
  else if !(k.bank.inProgram a.toNat n) then k.raiseAt 5 a
  else { k.setBank k.bank.next with store := k.store.writeLe a.toNat n (k.bank.reg rd).toNat }

/-- A conditional branch (R379). -/
def Core.branch (k : Core) (taken : Bool) (off : BitVec 16) : Core :=
  k.setBank (if taken then k.bank.jump (k.bank.pc + (off.signExtend 32 <<< 2)) else k.bank.next)

/-! ### Undefined words (R394) -/

def aluFnDefined (fn : Nat) : Bool := fn ≤ 0x14 || (0x20 ≤ fn && fn ≤ 0x26)

/-- DEC source codes and CVT dst codes that are defined (R384, R385). -/
def decSrcDefined (c : Nat) : Bool := (1 ≤ c && c ≤ 7) || (9 ≤ c && c ≤ 0xB)

def sysCause (rd ra rb fn : Nat) : Option Nat :=
  match fn with
  | 0 => if ra ≠ 0 then some 3 else if 7 ≤ rb then some 6 else none
  | 1 => if rd ≠ 0 then some 3 else if 7 ≤ rb then some 6 else none
  | 2 => if rd ≠ 0 || ra ≠ 0 || rb ≠ 0 then some 3 else none
  | 3 => if rd ≠ 0 || ra ≠ 0 || 16 ≤ rb then some 3 else none
  | 4 => if rd ≠ 0 || ra ≠ 0 || 2 ≤ rb then some 3 else none
  | 5 => if rd ≠ 0 || ra ≠ 0 || rb ≠ 0 then some 3 else none
  | _ => some 2

/-- The cause of R394 for an undefined word, none for a defined one: 1 OPCODE, 2 FUNC, 3 FIELD, 6 SPECIAL. -/
def illegalCause (w : Nat) : Option Nat :=
  let rd := bitf w 21 5
  let ra := bitf w 16 5
  let rb := bitf w 11 5
  let eng := bitf w 13 3
  match bitf w 26 6 with
  | 0x01 => if !aluFnDefined (w % 64) then some 2 else if bitf w 6 5 ≠ 0 then some 3 else none
  | 0x02 | 0x03 | 0x04 | 0x05 | 0x06 | 0x07 | 0x08 => none
  | 0x09 | 0x0A | 0x0B => if bitf w 5 11 ≠ 0 then some 3 else none
  | 0x0C => if ra ≠ 0 then some 3 else none
  | 0x10 | 0x11 | 0x12 | 0x13 | 0x14 | 0x15 | 0x16 | 0x17 => none
  | 0x18 | 0x19 | 0x1A | 0x1B | 0x1C | 0x1D | 0x1E | 0x1F | 0x20 => none
  | 0x28 => if 5 < w % 64 then some 2 else if bitf w 6 5 ≠ 0 then some 3 else sysCause rd ra rb (w % 64)
  | 0x30 => if w % 2 ^ 11 ≠ 0 then some 3 else none
  | 0x31 => if rd ≠ 0 || w % 2 ^ 13 ≠ 0 || 6 ≤ eng then some 3 else none
  | 0x32 | 0x33 => if rd ≠ 0 || ra ≠ 0 || w % 2 ^ 11 ≠ 0 || 6 ≤ eng then some 3 else none
  | 0x34 => if w % 4 ≠ 0 || 0xC ≤ bitf w 3 4 || bitf w 7 4 < 2 then some 3 else none
  | 0x35 => if w % 2 ^ 12 ≠ 0 || !decSrcDefined (bitf w 12 4) then some 3 else none
  | _ => some 1

/-- The step of an undefined word: the cause of R394. -/
def Core.illegalWord (k : Core) (w : Word) : Core :=
  match illegalCause w.toNat with
  | some c => k.raiseAt c w
  | none => k

/-- One sequencer instruction: none runs without a program or while a guard is open (R396); a fetch outside the image
is an ACCESS exception (R375, R388). -/
def Core.seq (k : Core) (f : Core → Core) : Core :=
  if !k.bank.active || k.guard then k
  else if !(k.bank.inImage k.bank.pc.toNat 4) then k.raiseAt 5 k.bank.pc
  else f k

/-- g[rd] from two registers. -/
def Core.alu (k : Core) (rd ra rb : BitVec 5) (f : Word → Word → Word) : Core :=
  k.putReg rd (f (k.bank.reg ra) (k.bank.reg rb))

/-- A conditional branch on g[ra] and g[rb]. -/
def Core.branchIf (k : Core) (ra rb : BitVec 5) (off : BitVec 16) (p : Word → Word → Bool) : Core :=
  k.branch (p (k.bank.reg ra) (k.bank.reg rb)) off

/-- BRA and CALL target: pc + sext(off26) * 4 (R379). -/
def SeqBank.target (b : SeqBank) (off : BitVec 26) : Word := b.pc + (off.signExtend 32 <<< 2)

/-- CALL (R379). -/
def Core.call (k : Core) (off : BitVec 26) : Core :=
  k.setBank ((k.bank.setReg 30 (k.bank.pc + 4)).jump (k.bank.target off))

/-- CALLR (R379); a misaligned target is ALIGN (R388). -/
def Core.callr (k : Core) (rd ra : BitVec 5) (imm : BitVec 16) : Core :=
  let t := k.bank.reg ra + imm.signExtend 32
  if t.toNat % 4 ≠ 0 then k.raiseWord 4 (wordI 0x20 rd ra imm)
  else k.setBank ((k.bank.setReg rd (k.bank.pc + 4)).jump t)

/-- SGET (R381). -/
def Core.sget (k : Core) (rd rb : BitVec 5) : Core :=
  match k.bank.special rb.toNat with
  | some v => k.putReg rd v
  | none => k.raiseWord 6 (wordR 0x28 rd 0 rb 0)

/-- SPUT (R381). -/
def Core.sput (k : Core) (ra rb : BitVec 5) : Core :=
  match k.bank.setSpecial rb.toNat (k.bank.reg ra) with
  | some b => k.setBank b.next
  | none => k.raiseWord 6 (wordR 0x28 0 ra rb 1)

/-- HRET (R381, R388, R389, R390). -/
def Core.hret (k : Core) : Core := if k.bank.hlv = 0 then k.raiseWord 7 (wordR 0x28 0 0 0 2) else k.handlerReturn

/-- TRAP (R381, R387): ERA receives the address of the next instruction. -/
def Core.trap (k : Core) (code : BitVec 5) : Core :=
  let w := wordR 0x28 0 0 code 3
  if 16 ≤ code.toNat then k.raiseWord 3 w
  else k.raise { cause := 0x10 + code.toNat, eaddr := w, addr := k.bank.pc, ret := k.bank.pc + 4 }

/-- Whether a stream program that the operation started on this core has not ended (R337, R395). -/
def Core.streaming (k : Core) (asn : Nat) : Bool :=
  (k.engines.any fun e => (e.running && e.asn = asn) || (match e.queued with | some q => q.1 = asn | none => false))
    || k.queue.any fun q => q.asn = asn && q.start.isSome

/-- Mark an item of an operation done. -/
def Core.itemDone (k : Core) (asn item : Nat) : Core :=
  { k with segs := k.segs.map fun g =>
      if g.ctx.asn = asn then { g with items := g.items.map fun i => if i.num = item then { i with done := true } else i }
      else g }

/-- DONE (R381, R395): DONE 0 waits for the operation's stream programs, then ends the item; DONE 1 ends the
operation, with cause ABANDON outside a handler and ECAUSE inside one (R393). -/
def Core.done (k : Core) (code : BitVec 5) : Core :=
  let b := k.bank
  if 2 ≤ code.toNat then k.raiseWord 3 (wordR 0x28 0 0 code 4)
  else if code = 1 then
    k.endProgram 0x20 (seqInfo (if b.hlv = 0 then 0xF else b.ecause.toNat % 256) b.pc 0)
  else if k.streaming b.ctx.asn then k
  else (k.itemDone b.ctx.asn b.item).setBank SeqBank.reset

/-! ### Integer and float results (R380, R382, R383) -/

def quo (a b : Word) : Word :=
  if b = 0 then (if a.toInt < 0 then 0x80000000#32 else 0x7FFFFFFF#32)
  else if a = 0x80000000#32 && b = 0xFFFFFFFF#32 then 0x7FFFFFFF#32
  else BitVec.ofInt 32 (a.toInt.tdiv b.toInt)

def quou (a b : Word) : Word := if b = 0 then 0xFFFFFFFF#32 else BitVec.ofNat 32 (a.toNat / b.toNat)

def modS (a b : Word) : Word := if b = 0 then a else BitVec.ofInt 32 (a.toInt.tmod b.toInt)

def modU (a b : Word) : Word := if b = 0 then a else BitVec.ofNat 32 (a.toNat % b.toNat)

def mulHi (a b : Word) : Word := BitVec.ofInt 32 (a.toInt * b.toInt / 2 ^ 32)

def mulHiU (a b : Word) : Word := BitVec.ofNat 32 (a.toNat * b.toNat / 2 ^ 32)

def flag (p : Bool) : Word := if p then 1 else 0

def fadd (a b : Word) : Word := rne32z (Val.add (f32 a) (f32 b))
def fsub (a b : Word) : Word := rne32z (Val.sub (f32 a) (f32 b))
def fmul (a b : Word) : Word := rne32z (Val.mul (f32 a) (f32 b))

/-- -0 orders below +0; NaN if either operand is NaN (R383). -/
def fbelow (a b : Word) : Bool :=
  Val.lt (f32 a) (f32 b) || ((f32 a).isZero && (f32 b).isZero && bit a.toNat 31 && !bit b.toNat 31)

def nan32 : Word := 0x7FC00000#32

def fmin (a b : Word) : Word :=
  if (f32 a).isNan || (f32 b).isNan then nan32 else if fbelow b a then b else a

def fmax (a b : Word) : Word :=
  if (f32 a).isNan || (f32 b).isNan then nan32 else if fbelow a b then b else a

/-- CVT dst codes (R384). -/
def cvtFormat : Nat → Option Elem
  | 0 => some .fp32 | 1 => some .bf16 | 2 => some .fp16 | 3 => some .e4m3 | 4 => some .e5m2 | 5 => some .e3m2
  | 6 => some .e2m3 | 7 => some .e2m1 | 8 => some .int32 | 9 => some .int8 | 10 => some .int4 | 11 => some .mxint8
  | _ => none

/-- INFO bits of a conversion: [0] saturated, [2] overflowed (R210, R218). -/
def convInfo (c : Conv) : Nat := (if c.sat then 1 else 0) + (if c.ovf then 4 else 0)

/-- OR INFO bits into the operation's notes on this core. -/
def Core.note (k : Core) (asn bits : Nat) : List (Nat × Nat) :=
  if bits = 0 then k.notes
  else if k.notes.any (·.1 = asn) then k.notes.map fun n => if n.1 = asn then (asn, n.2 ||| bits) else n
  else k.notes ++ [(asn, bits)]

/-- The conversion of CVT under the operation's modes (R384). -/
def SeqBank.cvt (b : SeqBank) (f : Elem) (site : Nat) (fromInt : Bool) (v c0 : Word) : Conv :=
  convElem f b.ctx.desc.rnd b.ctx.desc.ieee (draw b.ctx.desc.seed site c0.toNat 0 0 0)
    (if fromInt then Val.ofZ v.toInt else f32 v)

/-- CVT (R384): a block that would become NaN writes code 0 and sets STA.CBLK. -/
def Core.convert (k : Core) (rd ra rb : BitVec 5) (site dst : BitVec 4) (src : Bool) : Core :=
  let b := k.bank
  match cvtFormat dst.toNat with
  | none => k.raiseWord 3 (wordC rd ra rb site dst src)
  | some f =>
    if site.toNat < 2 then k.raiseWord 3 (wordC rd ra rb site dst src)
    else
      let c := b.cvt f site.toNat src (b.reg ra) (b.reg rb)
      let sta := if c.blockNan then b.sta ||| 0x8#32 else b.sta
      let code := if c.blockNan then 0 else c.code
      { k.setBank ({ b with sta := sta }.setReg rd (BitVec.ofNat 32 code)).next
        with notes := k.note b.ctx.asn (convInfo c) }

/-- DEC (R385). -/
def Core.decode (k : Core) (rd ra : BitVec 5) (src : BitVec 4) : Core :=
  match cvtFormat src.toNat with
  | none => k.raiseWord 3 (wordI 0x35 rd ra (src.zeroExtend 16 <<< 12))
  | some f =>
    if decSrcDefined src.toNat then
      k.putReg rd (rne32 (f.decode ((k.bank.reg ra).toNat % 2 ^ f.bits)))
    else k.raiseWord 3 (wordI 0x35 rd ra (src.zeroExtend 16 <<< 12))

/-! ### Entry state (R370) -/

/-- The bank at the entry of item `num` of a loaded program. -/
def SeqBank.entry (ctx : OpCtx) (p : Prog) (num : Nat) (urgent : Bool) : SeqBank :=
  let w (n : Nat) : Word := BitVec.ofNat 32 n
  let g : Vector Word 32 := Vector.ofFn fun i => match i.val with
    | 1 => w (ctx.desc.arg0 % 2 ^ 32) | 2 => w (ctx.desc.arg0 / 2 ^ 32) | 3 => w num | 4 => w p.items
    | 5 => w p.wbase | 6 => w p.ibase | 7 => w opWindow | 31 => w (p.wbase + p.stack) | _ => 0
  { SeqBank.reset with
    g := g, pc := w (p.ibase + p.entry), sta := if urgent then 4 else 0,
    evb := if p.evbV then w (p.ibase + p.evbOff + 1) else w (p.ibase + p.evbOff),
    slo := w p.wbase, shi := w (p.wbase + p.stack),
    fsb := if p.work ≥ p.stack + 64 then w (p.wbase + p.stack) else 0xFFFFFFFF#32,
    active := true, item := num, ctx := ctx, prog := p }

end Sys2Proof.Machine
end

