-- ==== Sys2Proof/Machine/TileOps.lean ====
section
/-! DEFINITION. Shared operations of tile instructions (chapter 12): word fields, the checks made at the queueing
word, item records, the allocator, issue conditions, and the effects of each instruction on a core. -/

namespace Sys2Proof.Machine

/-! ### Word fields (R401-R403) -/

namespace TileEntry
def top (q : TileEntry) : Nat := bitf q.w0.toNat 27 5
def wen (q : TileEntry) : Bool := bit q.w0.toNat 26
def weng (q : TileEntry) : Nat := bitf q.w0.toNat 23 3
def wctr (q : TileEntry) : Nat := bitf q.w0.toNat 21 2
def sen (q : TileEntry) : Bool := bit q.w0.toNat 20
def seng (q : TileEntry) : Nat := bitf q.w0.toNat 17 3
def sctr (q : TileEntry) : Nat := bitf q.w0.toNat 15 2
def f0 (q : TileEntry) (lo n : Nat) : Nat := bitf q.w0.toNat lo n
def f1 (q : TileEntry) (lo n : Nat) : Nat := bitf q.w1.toNat lo n
def f2 (q : TileEntry) (lo n : Nat) : Nat := bitf q.w2.toNat lo n
def amask (q : TileEntry) : Nat := q.f0 11 4
def gmode (q : TileEntry) : Nat := q.f0 9 2
/-- A line index as a core store offset (12.3). -/
def line (q : TileEntry) : Nat := q.f1 0 17 * 64
end TileEntry

/-- TOP values (R401). -/
def topLDW : Nat := 1
def topSTR : Nat := 2
def topACC : Nat := 3
def topMV : Nat := 4
def topEW : Nat := 5
def topCLOSE : Nat := 6
def topDRAIN : Nat := 7
def topMERGE : Nat := 8
def topGATHER : Nat := 9

/-- Arrays named by a mask, ascending. -/
def maskArrays (m : Nat) : List Nat := (List.range 4).filter (bit m)

/-- Rank of array j in a mask. -/
def maskRank (m j : Nat) : Nat := ((List.range j).filter (bit m)).length

/-- Arrays an entry drives (R408-R413). -/
def TileEntry.arrays (q : TileEntry) : List Nat :=
  if q.start.isSome then []
  else if q.top = topLDW || q.top = topSTR || q.top = topCLOSE || q.top = topDRAIN then maskArrays q.amask
  else if q.top = topACC || q.top = topEW then [q.f0 13 2]
  else if q.top = topMV then (List.range (min 4 (q.f0 7 5 + 1)))
  else []

/-- Logical tiles an entry names, as (array, logical tile) pairs. -/
def TileEntry.tiles (q : TileEntry) : List (Nat × Nat) :=
  if q.start.isSome then []
  else if q.top = topSTR then q.arrays.map fun j => (j, q.f0 5 3)
  else if q.top = topACC then [(q.f0 13 2, q.f0 10 3)]
  else if q.top = topMV then (List.range (q.f0 7 5 + 1)).map fun g => (g % 4, q.f0 12 3 + g / 4)
  else if q.top = topEW then [(q.f0 13 2, q.f0 10 3), (q.f0 13 2, q.f0 7 3), (q.f0 13 2, q.f0 4 3)]
  else if q.top = topCLOSE then q.arrays.map fun j => (j, q.f0 8 3)
  else []

/-! ### Core store ranges of an entry (R420) -/

/-- A core store range: offset and length. -/
abbrev CsRange := Nat × Nat

def overlaps (a b : CsRange) : Bool := a.2 > 0 && b.2 > 0 && a.1 < b.1 + b.2 && b.1 < a.1 + a.2

def hit (xs ys : List CsRange) : Bool := xs.any fun x => ys.any (overlaps x)

def welemOf (q : TileEntry) : Elem := (Elem.ofCode (if q.top = topMV then q.f1 25 5 else q.f1 17 5)).getD .int8
def aelemOf (q : TileEntry) : Elem := (Elem.ofCode (if q.top = topMV then q.f2 11 5 else q.f2 24 5)).getD .int8

/-- Descriptor block fields (R404-R406). -/
def TileEntry.blk (q : TileEntry) (off n : Nat) : Nat := fld q.block off n
def TileEntry.bElem (q : TileEntry) (off : Nat) : Elem := (Elem.ofCode (q.blk off 1)).getD .int8

/-- Columns a CLOSE supplies: 16 per named array (R413). -/
def TileEntry.columns (q : TileEntry) : Nat := 16 * (maskArrays q.amask).length

/-- Bytes of a packed row of n elements, MX scales included (R188, R189). -/
def rowLen (e : Elem) (n : Nat) : Nat :=
  if e.isMx then cdiv n 32 * (e.blockBytes + 1) else cdiv (n * e.bits) 8

def closeReads (q : TileEntry) : List CsRange :=
  let bias := q.blk 0x28 4
  let ew := q.blk 0x2C 4
  (if bias = 0xFFFFFFFF then [] else [(bias, rowLen (q.bElem 0x34) q.columns)])
    ++ (if ew = 0xFFFFFFFF then [] else
        [(ew, (q.blk 0xA 2 - 1) * q.blk 0x30 4 + rowLen (q.bElem 0x35) q.columns)])

def closeWrites (q : TileEntry) : List CsRange :=
  match q.blk 9 1 with
  | 0 => [(q.blk 0x10 4, (q.blk 0xA 2 - 1) * q.blk 0x14 4 + rowLen (q.bElem 8) q.columns)]
  | 1 => [(q.blk 0x10 4, atSize (q.blk 0xA 2) (q.bElem 8))]
  | _ => []

def gatherReads (q : TileEntry) : List CsRange :=
  let n := q.blk 0x1C 4 + q.blk 0x20 4
  if bit (q.blk 1 1) 2 || q.f0 14 1 = 1 then []
  else [(q.blk 8 4, 4 * (q.blk 2 2 + 1)), (q.blk 0xC 4 + 4 * q.blk 0x1C 4, 4 * q.blk 0x20 4),
        (q.blk 0x10 4 + q.blk 0x1C 4 * (q.bElem 0).bits / 8,
          cdiv (n * (q.bElem 0).bits) 8 - q.blk 0x1C 4 * (q.bElem 0).bits / 8)]
       ++ (if bit (q.blk 1 1) 0 then [] else [(q.blk 0x14 4, 16 * q.blk 0x18 4)])

/-- Core store ranges an entry reads and writes (the table of R420). -/
def TileEntry.reads (q : TileEntry) : List CsRange :=
  if q.start.isSome then []
  else if q.top = topLDW then
    [(q.line, (if q.f0 10 1 = 1 then 1 else (maskArrays q.amask).length) * wtSize (welemOf q))]
  else if q.top = topSTR then
    [(q.line, (if q.gmode % 2 = 1 then 1 else (maskArrays q.amask).length) * atSize (q.f1 17 9 + 1) (aelemOf q))]
  else if q.top = topACC then [(q.line, 64 * (q.f1 17 9 + 1))]
  else if q.top = topMV then
    [(q.line, (q.f1 17 8 + 1) * wtSize (welemOf q)),
     (q.f2 0 11 * 4096, cdiv (q.f1 17 8 + 1) (q.f0 7 5 + 1) * atSize (q.f0 4 3 + 1) (aelemOf q))]
  else if q.top = topCLOSE then (if q.f0 6 2 = 0 then closeReads q else [])
  else if q.top = topMERGE then [(q.blk 0 4, 4 * q.blk 4 4), (q.blk 0xC 4, 4 * q.blk 0x10 4)]
  else if q.top = topGATHER then gatherReads q
  else []

def TileEntry.writes (q : TileEntry) : List CsRange :=
  if q.start.isSome then []
  else if q.top = topCLOSE then (if q.f0 6 2 = 0 then closeWrites q else [])
  else if q.top = topMERGE then [(q.blk 0x18 4, 16 * q.blk 0x1C 4), (q.line, 64)]
  else if q.top = topGATHER then [(q.blk 0x28 4, atSize (q.blk 2 2) (q.bElem 0))]
  else []

/-- Units an entry occupies (R420): loaders 0-3, arrays 4-7, MV 8, merge units 9-10, gather 11, drain engine 12. -/
def TileEntry.units (q : TileEntry) : List Nat :=
  if q.start.isSome then []
  else if q.top = topLDW then q.arrays
  else if q.top = topSTR || q.top = topACC || q.top = topEW then q.arrays.map (· + 4)
  else if q.top = topMV then [8]
  else if q.top = topCLOSE then [12]
  else if q.top = topMERGE then [9 + q.f0 14 1]
  else if q.top = topGATHER then [11]
  else []

/-! ### Item records (R399) -/

def Core.rec? (k : Core) (asn item : Nat) : Option ItemRec := k.recs.find? fun r => r.asn = asn && r.item = item

def Core.recOf (k : Core) (asn item : Nat) (bankU : Bool) : ItemRec :=
  (k.rec? asn item).getD { asn := asn, item := item, bankU := bankU, tiles := [], loads := [], fg := [],
                             closed := [] }

def Core.putRec (k : Core) (r : ItemRec) : List ItemRec :=
  r :: k.recs.filter fun x => !(x.asn = r.asn && x.item = r.item)

def ItemRec.tile? (r : ItemRec) (j l : Nat) : Option RecTile := r.tiles.find? fun t => t.array = j && t.ltile = l

def ItemRec.putTile (r : ItemRec) (t : RecTile) : ItemRec :=
  { r with tiles := t :: r.tiles.filter fun x => !(x.array = t.array && x.ltile = t.ltile),
           closed := r.closed.filter (· != (t.array, t.ltile)) }

/-- The latest load of the item on array j not yet bound (R411). -/
def ItemRec.load? (r : ItemRec) (j : Nat) : Option (Nat × Nat × Elem) := r.loads.reverse.find? (·.1 = j)

def ItemRec.fg? (r : ItemRec) (j : Nat) : Option Elem := (r.fg.find? (·.1 = j)).map (·.2)

/-! ### Checks at the queueing word (R426) -/

/-- One failed check: cause, word (3 for a descriptor block), bit or byte offset. -/
abbrev TileFault := Nat × Nat × Nat

def chk (bad : Bool) (cause word at_ : Nat) : List TileFault := if bad then [(cause, word, at_)] else []

/-- Lowest cause, then lowest word and bit (R426). -/
def faultLt (a b : TileFault) : Bool :=
  a.1 < b.1 || (a.1 = b.1 && (a.2.1 < b.2.1 || (a.2.1 = b.2.1 && a.2.2 < b.2.2)))

def firstFault : List TileFault → Option TileFault
  | [] => none
  | f :: fs => match firstFault fs with | none => some f | some g => if faultLt g f then some g else some f

/-- Masks of the defined bits of F0, word 1 and word 2 per TOP (R403). -/
def definedBits (q : TileEntry) : Nat × Nat × Nat :=
  match q.top with
  | 1 => (0x7C00, 0x3FFFFF, 0)
  | 2 => (0x7FE0, 0x3FFFFFF, 0x1FFFFFFF)
  | 3 => (0x7E00, 0x3FFFFFF, 0xFFFFFF)
  | 4 => (0x7FF0, 0x3FFFFFFF, 0xFFFFFFFF)
  | 5 => (0x7FF8, 0x1FF, 0)
  | 6 => (0x7FC0, if q.f0 6 2 = 0 then 0x1FFFF else 0, 0xFFFFFFFF)
  | 7 => (0x7800, 0, 0)
  | 8 => (0x7F00, 0x1FFFF, 0)
  | _ => (0x4000, 0x1FFFF, 0)

/-- Must-be-zero bits set in a word: the lowest of them. -/
def strayBits (w allowed word : Nat) : List TileFault :=
  match (List.range 32).find? fun i => bit w i && !bit allowed i with
  | some i => [(2, word, i)]
  | none => []

def wordFaults (q : TileEntry) : List TileFault :=
  let m := definedBits q
  let tok0 := 0xF8000000 + 0x4000000 + (if q.wen then 0x3E00000 else 0) + 0x100000 + (if q.sen then 0xF8000 else 0)
  strayBits q.w0.toNat (tok0 + m.1) 0 ++ strayBits q.w1.toNat m.2.1 1 ++ strayBits q.w2.toNat m.2.2 2
    ++ chk (q.wen && q.weng ≥ 6) 2 0 23 ++ chk (q.sen && q.seng ≥ 6) 2 0 17

def gmodeOk (q : TileEntry) : Bool :=
  match q.gmode with
  | 0 => q.amask ≠ 0
  | 3 => q.amask = 3 || q.amask = 12
  | _ => q.amask = 15

def shapeFaults (q : TileEntry) : List TileFault :=
  match q.top with
  | 1 => chk (q.amask = 0) 2 0 11
  | 2 => chk (!gmodeOk q) 2 0 11
  | 4 => chk (q.f0 12 3 + q.f0 7 5 / 4 > 7) 2 0 12
  | 6 => chk (q.amask = 0) 2 0 11 ++ chk (q.f0 6 2 = 3) 2 0 6
  | 7 => chk (q.amask = 0) 2 0 11
  | _ => []

/-- A product operand format code: defined and not INT32 (R196). -/
def badProduct (c : Nat) : Bool := match Elem.ofCode c with | none => true | some e => e = .int32

/-- Weight formats a STR will use on its arrays, from the item record (R408, R411). -/
def strWelems (q : TileEntry) (r : ItemRec) : List (Option Elem) :=
  q.arrays.map fun j => if q.f0 8 1 = 1 then (r.load? j).map (·.2.2) else r.fg? j

def strPair (q : TileEntry) (r : ItemRec) : Pair :=
  pairOf (aelemOf q) (((strWelems q r).headD none).getD (aelemOf q))

def formatFaults (q : TileEntry) (r : ItemRec) : List TileFault :=
  match q.top with
  | 1 => chk (badProduct (q.f1 17 5)) 3 1 17
  | 2 =>
    let ws := (strWelems q r).filterMap id
    chk (badProduct (q.f2 24 5)) 3 2 24 ++ chk (ws.any (· != ws.headD .int8)) 3 0 11
  | 4 => chk (badProduct (q.f1 25 5)) 3 1 25 ++ chk (badProduct (q.f2 11 5)) 3 2 11
  | _ => []

def lengthFaults (q : TileEntry) (r : ItemRec) : List TileFault :=
  match q.top with
  | 2 => chk ((q.f1 17 9 + 1) * (strPair q r).v > 512) 4 1 17
  | 4 => chk ((q.f1 17 8 + 1) * (pairOf (welemOf q) (aelemOf q)).ct > 512) 4 1 17
  | _ => []

/-- Whether pass `p` is not above the item's last on a tile (R279). -/
def stalePass (r : ItemRec) (p : Nat) (jl : Nat × Nat) : Bool :=
  match (r.tile? jl.1 jl.2).bind (·.last) with | some x => p ≤ x | none => false

def passFaults (q : TileEntry) (r : ItemRec) : List TileFault :=
  match q.top with
  | 2 => chk (q.tiles.any (stalePass r (q.f2 0 24))) 5 2 0
  | 3 => chk (q.tiles.any (stalePass r (q.f2 0 24))) 5 2 0
  | 4 => chk (q.tiles.any (stalePass r (q.f2 16 16))) 5 2 16
  | _ => []

/-- The kind a pass of this entry gives a tile (R194, R409). -/
def entryKind (q : TileEntry) (r : ItemRec) : AccKind :=
  if q.top = topACC then (if q.f0 9 1 = 1 then .int32 else .fp32)
  else if q.top = topMV then (if (pairOf (welemOf q) (aelemOf q)).int then .int32 else .fp32)
  else (if (strPair q r).int then .int32 else .fp32)

/-- The recorded kind of a logical tile: the item's own, or the physical tile of the group (R256, R262). -/
def Core.kindOf (k : Core) (r : ItemRec) (group : Option Nat) (jl : Nat × Nat) : Option AccKind :=
  match (r.tile? jl.1 jl.2).bind (·.kind) with
  | some x => some x
  | none => match group with
    | none => none
    | some g => ((((k.arrays.getD jl.1 ArrayUnit.reset).tiles).find? fun t =>
        match t.owner with | some o => o.group = some g && o.ltile = jl.2 | none => false).bind (·.kind))

def clash (a : Option AccKind) (b : AccKind) : Bool := match a with | some x => x != b | none => false

def Core.kindFaults (k : Core) (q : TileEntry) (r : ItemRec) (group : Option Nat) : List TileFault :=
  match q.top with
  | 2 => chk (q.tiles.any fun jl => clash (k.kindOf r group jl) (entryKind q r)) 6 0 5
  | 3 => chk (q.tiles.any fun jl => clash (k.kindOf r group jl) (entryKind q r)) 6 0 9
  | 4 => chk (q.tiles.any fun jl => clash (k.kindOf r group jl) (entryKind q r)) 6 0 12
  | 5 =>
    let kx := k.kindOf r group (q.f0 13 2, q.f0 10 3)
    let clashes (jl : Nat × Nat) : Bool :=
      match kx, k.kindOf r group jl with | some a, some b => a != b | _, _ => false
    chk (clashes (q.f0 13 2, q.f0 7 3)) 6 0 7 ++ chk (clashes (q.f0 13 2, q.f0 4 3)) 6 0 4
  | _ => []

def wsetFaults (q : TileEntry) (r : ItemRec) : List TileFault :=
  if q.top = topSTR then chk ((strWelems q r).any Option.isNone) 7 0 8 else []

/-- The enabled resident ranges LDW and MV may read (RANGE of R426). -/
abbrev Resident := List CsRange

def inResident (rs : Resident) (a n : Nat) : Bool := rs.any fun r => r.1 ≤ a && a + n ≤ r.1 + r.2

def outside (b : SeqBank) (rs : Resident) (useRs : Bool) (x : CsRange) : Bool :=
  !(b.inProgram x.1 x.2 || (useRs && inResident rs x.1 x.2))

def rangeFaults (b : SeqBank) (rs : Resident) (q : TileEntry) : List TileFault :=
  let out := outside b rs
  match q.top with
  | 1 => chk (q.reads.any (out true)) 8 1 0
  | 2 => chk (q.reads.any (out false)) 8 1 0
  | 3 => chk (q.reads.any (out false)) 8 1 0
  | 4 => chk ((q.reads.take 1).any (out true)) 8 1 0 ++ chk ((q.reads.drop 1).any (out false)) 8 2 0
  | 6 =>
    if q.f0 6 2 ≠ 0 then []
    else chk (out false (q.line, 64)) 8 1 0
      ++ chk ((closeWrites q).any fun x => x.1 % 64 ≠ 0 || out false x) 8 3 0x10
      ++ chk (q.blk 9 1 = 0 && q.blk 0x14 4 % 64 ≠ 0) 8 3 0x14
      ++ chk (q.blk 0x28 4 ≠ 0xFFFFFFFF && ((closeReads q).take 1).any (out false)) 8 3 0x28
      ++ chk (q.blk 0x2C 4 ≠ 0xFFFFFFFF && ((closeReads q).reverse.take 1).any (out false)) 8 3 0x2C
  | 8 =>
    chk (out false (q.line, 64)) 8 1 0
      ++ chk (q.blk 0 4 % 4 ≠ 0 || out false (q.blk 0 4, 4 * q.blk 4 4)) 8 3 0
      ++ chk (q.blk 0xC 4 % 4 ≠ 0 || (q.blk 0x10 4 ≠ 0 && out false (q.blk 0xC 4, 4 * q.blk 0x10 4))) 8 3 0xC
      ++ chk (q.blk 0x18 4 % 64 ≠ 0 || out false (q.blk 0x18 4, 16 * q.blk 0x1C 4)) 8 3 0x18
  | 9 =>
    let rd := gatherReads q
    chk (out false (q.line, 64)) 8 1 0
      ++ chk (q.blk 8 4 % 4 ≠ 0 || (rd.take 1).any (out false)) 8 3 8
      ++ chk (q.blk 0xC 4 % 4 ≠ 0 || ((rd.drop 1).take 1).any fun x => x.2 > 0 && out false x) 8 3 0xC
      ++ chk (q.blk 0x10 4 % 4 ≠ 0 || ((rd.drop 2).take 1).any fun x => x.2 > 0 && out false x) 8 3 0x10
      ++ chk (((rd.drop 3).take 1).any fun x => x.2 > 0 && out false x) 8 3 0x14
      ++ chk (q.blk 0x28 4 % 64 ≠ 0 || q.writes.any (out false)) 8 3 0x28
  | _ => []

def mapFaults (q : TileEntry) (r : ItemRec) : List TileFault :=
  let unmapped (jl : Nat × Nat) : Bool := (r.tile? jl.1 jl.2).isNone
  match q.top with
  | 5 => chk (unmapped (q.f0 13 2, q.f0 10 3)) 9 0 10 ++ chk (unmapped (q.f0 13 2, q.f0 7 3)) 9 0 7
  | 6 => chk (q.tiles.any unmapped) 9 0 8
  | _ => []

/-- Control word cases of R290 that do not depend on a tensor slot; `mx` whether the output is MX, `int` whether it
is INT4, INT8 or INT32, `prodInt` whether the accumulation is integer. -/
def ctrlBad (w : Nat) (mx int prodInt bias ew : Bool) : Bool :=
  let c := Ctrl.parse w
  let p := Elem.bf16.decode c.param
  c.act > 4 || c.ew = 3 || bitf w 8 8 ≠ 0 || (c.floor && !mx)
    || p.isNan || p.isInf || (Elem.fp32.decode c.scale).isNan || (Elem.fp32.decode c.scale).isInf
    || ((c.act = 3 || c.act = 4) && Val.lt p Val.zero)
    || (!(c.act = 2 || c.act = 3 || c.act = 4) && c.param ≠ 0)
    || (c.raw && (c.act ≠ 0 || c.ew ≠ 0 || c.scale ≠ 0 || bias || !prodInt || !int))
    || (c.ew ≠ 0 && !ew) || (c.ew = 0 && ew)

def pdbFaults (q : TileEntry) (ctx : OpCtx) (kind : Option AccKind) : List TileFault :=
  let dk := q.blk 9 1
  let oe := Elem.ofCode (q.blk 8 1)
  let o := oe.getD .int8
  let rows := q.blk 0xA 2
  let hasBias := q.blk 0x28 4 ≠ 0xFFFFFFFF
  let hasEw := q.blk 0x2C 4 ≠ 0xFFFFFFFF
  let isOut := dk = 2 || dk = 3
  let slot := (ctx.tensors.getD (dk + 2) none)
  let c0 := q.blk 0x18 4
  let kc := if o.bits = 4 then 512 else 256
  let slotBad := match slot with | some t => t.kind != .dense || t.elem != o | none => true
  let t := slot.getD { kind := .dense, elem := o, rank := 1, sorted := false, sep := false, region := 0, shape := 0,
                       nnz := 0, dims := [], arr := [] }
  chk (ctrlBad (q.blk 0 8) o.isMx (o.isInt) (kind = some .int32) hasBias hasEw) 0xD 3 0
    ++ chk (oe.isNone || (isOut && slotBad)) 0xD 3 8
    ++ chk (dk > 3) 0xD 3 9
    ++ chk (rows = 0 || rows > 512) 0xD 3 0xA
    ++ chk (if isOut then q.blk 0xC 1 ≠ 0 else (q.blk 0xC 1 < 2 || q.blk 0xC 1 > 15)) 0xD 3 0xC
    ++ chk (!zeroBytes q.block 0xD 3) 0xD 3 0xD
    ++ chk (isOut && q.blk 0x10 4 ≠ 0) 0xD 3 0x10
    ++ chk (dk ≠ 0 && q.blk 0x14 4 ≠ 0) 0xD 3 0x14
    ++ chk (dk = 1 && (c0 % 16 ≠ 0 || c0 + q.columns > kc)) 0xD 3 0x18
    ++ chk (isOut && !slotBad && (c0 ≥ t.dim 0
            || (o.isMx && (c0 % 32 ≠ 0 || ((c0 + q.columns) % 32 ≠ 0 && c0 + q.columns < t.dim 0))))) 0xD 3 0x18
    ++ chk (isOut && !slotBad && q.blk 0x1C 4 + rows > max 1 (t.dim 1)) 0xD 3 0x1C
    ++ chk (isOut && q.blk 0x20 4 ≠ 0) 0xD 3 0x20
    ++ chk (isOut && q.blk 0x24 4 ≠ 0) 0xD 3 0x24
    ++ chk (!hasEw && q.blk 0x30 4 ≠ 0) 0xD 3 0x30
    ++ chk (if hasBias then (Elem.ofCode (q.blk 0x34 1)).isNone else q.blk 0x34 1 ≠ 0) 0xD 3 0x34
    ++ chk (if hasEw then (Elem.ofCode (q.blk 0x35 1)).isNone else q.blk 0x35 1 ≠ 0) 0xD 3 0x35
    ++ chk (!zeroBytes q.block 0x36 10) 0xD 3 0x36

def mdbFaults (q : TileEntry) : List TileFault :=
  chk (q.blk 4 4 > 4096) 0xD 3 4
    ++ chk (q.blk 0x10 4 > 4096 || (q.f0 12 2 = 3 && q.blk 0x10 4 ≠ 0)) 0xD 3 0x10
    ++ chk (q.blk 0x1C 4 = 0 || q.blk 0x1C 4 > 8192) 0xD 3 0x1C
    ++ chk (q.blk 0x20 1 > 31) 0xD 3 0x20
    ++ chk (!zeroBytes q.block 0x21 7) 0xD 3 0x21
    ++ chk (!zeroBytes q.block 0x2D 19) 0xD 3 0x2D

def gdbElemOk : Option Elem → Bool
  | some .int4 | some .int8 | some .fp16 | some .bf16 | some .fp32 => true
  | _ => false

def gdbFaults (q : TileEntry) : List TileFault :=
  let ud := bit (q.blk 1 1) 0
  chk (!gdbElemOk (Elem.ofCode (q.blk 0 1))) 0xD 3 0
    ++ chk (q.blk 1 1 > 3) 0xD 3 1
    ++ chk (q.blk 2 2 = 0 || q.blk 2 2 > 512 || atSize (q.blk 2 2) (q.bElem 0) > 131072) 0xD 3 2
    ++ chk (ud && q.blk 0x14 4 ≠ 0) 0xD 3 0x14
    ++ chk (ud && q.blk 0x18 4 ≠ 0) 0xD 3 0x18
    ++ chk (q.blk 0x20 4 > 1024 || (q.f0 14 1 = 1 && q.blk 0x20 4 ≠ 0)) 0xD 3 0x20
    ++ chk (!zeroBytes q.block 0x2C 20) 0xD 3 0x2C

def Core.blockFaults (k : Core) (q : TileEntry) (r : ItemRec) (ctx : OpCtx) (group : Option Nat) :
    List TileFault :=
  match q.top with
  | 6 => if q.f0 6 2 = 0 then pdbFaults q ctx ((q.tiles.head?).bind (k.kindOf r group)) else []
  | 8 => mdbFaults q
  | 9 => gdbFaults q
  | _ => []

/-- Whether an engine serves a program of the operation, or a start request for it stands in the queue (R402). -/
def Core.engineServes (k : Core) (asn eng : Nat) : Bool :=
  (match k.engines[eng]? with
   | some e => (e.running && e.asn = asn) || (match e.queued with | some q => q.1 = asn | none => false)
   | none => false)
  || k.queue.any fun q => q.asn = asn && (match q.start with | some s => s.1 = eng | none => false)

def Core.tokenFaults (k : Core) (q : TileEntry) : List TileFault :=
  chk (q.wen && !k.engineServes q.asn q.weng) 0xC 0 23 ++ chk (q.sen && !k.engineServes q.asn q.seng) 0xC 0 17

/-- Every failed check of a word (R426). -/
def Core.tileFaults (k : Core) (rs : Resident) (q : TileEntry) : List TileFault :=
  let b := k.bank
  let r := k.recOf q.asn q.item q.bankU
  let group := b.prog.group
  if q.top = 0 || q.top > 9 then [(1, 0, 27)]
  else wordFaults q ++ shapeFaults q ++ formatFaults q r ++ lengthFaults q r ++ passFaults q r
    ++ k.kindFaults q r group ++ wsetFaults q r ++ rangeFaults b rs q ++ mapFaults q r
    ++ chk (q.top = topEW && group.isSome) 0xA 0 10
    ++ chk (q.top = topCLOSE && b.ctx.desc.opCode = 1 && q.f0 6 2 = 1) 0xB 0 6
    ++ chk (q.top = topCLOSE && b.ctx.desc.opCode = 1 && q.w2 ≠ 0) 0xB 2 0
    ++ k.tokenFaults q ++ k.blockFaults q r b.ctx group

/-- INFO of TILE_ILLEGAL (R426). -/
def tileInfo (f : TileFault) (qts : Nat) : Nat :=
  f.1 % 256 + f.2.1 % 4 * 2 ^ 8 + f.2.2 % 64 * 2 ^ 10 + min qts 0xFFFF * 2 ^ 16

/-- TILE_ILLEGAL at the queueing word (R426): the operation ends, its bank is cleared, without a halt record. -/
def Core.tileIllegal (k : Core) (f : TileFault) : Core := k.endProgram 0x22 (tileInfo f k.bank.qts)

/-! ### Queueing (R398-R400) -/

def Core.share (k : Core) (u : Bool) : Nat := (k.queue.filter (·.bankU = u)).length

/-- Whether the bank's share of the queue is full: 28 entries for N, 4 for U (R398). -/
def Core.shareFull (k : Core) (u : Bool) : Bool := if u then 4 ≤ k.share u else 28 ≤ k.share u

/-- Pass index the item's record keeps after an entry. -/
def entryPass (q : TileEntry) : Option Nat :=
  if q.top = topSTR || q.top = topACC then some (q.f2 0 24)
  else if q.top = topMV then some (q.f2 16 16 + q.f1 17 8 / (q.f0 7 5 + 1))
  else none

/-- Loads a STR binds, one per array it drives (R411). -/
def strBinds (q : TileEntry) (r : ItemRec) : List (Nat × Nat) :=
  if q.top = topSTR && q.f0 8 1 = 1 then
    q.arrays.filterMap fun j => (r.load? j).map fun l => (j, l.2.1)
  else []

/-- The item record after an entry is queued (R399, R411, R413). -/
def recordEntry (r : ItemRec) (q : TileEntry) : ItemRec :=
  match q.top with
  | 1 => { r with loads := r.loads ++ q.arrays.map fun j => (j, q.id, welemOf q) }
  | 2 =>
    let bs := strBinds q r
    let r' := q.tiles.foldl (fun (acc : ItemRec) jl => acc.putTile
      { array := jl.1, ltile := jl.2, kind := some (entryKind q r), last := entryPass q }) r
    { r' with
      fg := (bs.filterMap fun b => (r.load? b.1).map fun l => (b.1, l.2.2))
              ++ r.fg.filter fun x => !(bs.any (·.1 = x.1)),
      loads := r.loads.filter fun l => !(bs.any fun b => b.1 = l.1 && b.2 = l.2.1) }
  | 3 | 4 => q.tiles.foldl (fun acc jl => acc.putTile
      { array := jl.1, ltile := jl.2, kind := some (entryKind q r), last := entryPass q }) r
  | 5 =>
    let z := (q.f0 13 2, q.f0 4 3)
    if (r.tile? z.1 z.2).isSome then r
    else r.putTile { array := z.1, ltile := z.2, kind := (r.tile? z.1 (q.f0 10 3)).bind (·.kind), last := none }
  | 6 => { r with tiles := r.tiles.filter fun t => !(q.tiles.any fun jl => jl.1 = t.array && jl.2 = t.ltile),
                  closed := q.tiles ++ r.closed }
  | _ => r

/-- The entry a QT would place: its words, and the captured descriptor block (R400). -/
def Core.newEntry (k : Core) (w0 w1 w2 : Word) : TileEntry :=
  let b := k.bank
  let top := bitf w0.toNat 27 5
  let names := top = 8 || top = 9 || (top = 6 && bitf w0.toNat 6 2 = 0)
  { id := k.nextId, bankU := k.urgent, asn := b.ctx.asn, item := b.item, w0 := w0, w1 := w1, w2 := w2,
    block := if names then k.store.readBytes (bitf w1.toNat 0 17 * 64) 64 else [],
    start := none, bound := [], issued := false }

/-- QT (R386, R398-R400): waits while the bank's share is full; an undefined word is TILE_ILLEGAL. -/
def Core.queueTile (k : Core) (rs : Resident) (w0 w1 w2 : Word) : Core :=
  let b := k.bank
  if k.shareFull k.urgent then k
  else
    let q := k.newEntry w0 w1 w2
    match firstFault (k.tileFaults rs q) with
    | some f => k.tileIllegal f
    | none =>
      let r := k.recOf q.asn q.item q.bankU
      { k.setBank { b.next with qts := b.qts + 1 } with
        queue := k.queue ++ [{ q with bound := strBinds q r }], nextId := k.nextId + 1,
        recs := k.putRec (recordEntry r q) }

/-- SEST (R386, R398): checks in the order reserved engine, ENGINE, ALIGN, ACCESS (log entry 25); waits while the
bank's share of the queue is full. -/
def Core.sest (k : Core) (ra : BitVec 5) (eng : BitVec 3) : Core :=
  let b := k.bank
  let w := wordE 0x31 ra eng 0
  let a := b.reg ra
  if 6 ≤ eng.toNat then k.raiseWord 3 w
  else if eng = 5 && !b.ctx.desc.isUrgent then k.raiseWord 8 w
  else if a.toNat % 64 ≠ 0 then k.raiseAt 4 a
  else if !(b.inProgram a.toNat 192) then k.raiseAt 5 a
  else if k.shareFull k.urgent then k
  else
    let q : TileEntry := { id := k.nextId, bankU := k.urgent, asn := b.ctx.asn, item := b.item, w0 := 0, w1 := 0,
                           w2 := 0, block := [], start := some (eng.toNat, a.toNat), bound := [], issued := false }
    { k.setBank b.next with queue := k.queue ++ [q], nextId := k.nextId + 1 }

/-- Whether an engine runs a program of an operation now. -/
def Core.engineRuns (k : Core) (asn eng : Nat) : Bool :=
  match k.engines[eng]? with | some e => e.running && e.asn = asn | none => false

/-- TGET (R379, R386): waits until the counter of the operation's own running program is above 0. -/
def Core.tget (k : Core) (eng : BitVec 3) (ctr : BitVec 2) : Core :=
  let b := k.bank
  let w := wordE 0x32 0 eng ctr
  if 6 ≤ eng.toNat then k.raiseWord 3 w
  else if !(k.engineServes b.ctx.asn eng.toNat) then k.raiseWord 8 w
  else
    let e := k.engines.getD eng.toNat StreamEng.reset
    let c := e.tok.getD ctr.toNat 0
    if !(k.engineRuns b.ctx.asn eng.toNat) || c = 0 then k
    else { k.setBank b.next with engines := k.engines.set eng.toNat { e with tok := e.tok.set ctr.toNat (c - 1) } }

/-! ### The allocator (R418) -/

def Core.array (k : Core) (j : Nat) : ArrayUnit := k.arrays.getD j ArrayUnit.reset
def Core.putArray (k : Core) (j : Nat) (a : ArrayUnit) : Core := { k with arrays := k.arrays.set j a }
def ArrayUnit.tile (a : ArrayUnit) (p : Nat) : AccTile := a.tiles.getD p AccTile.free
def Core.putTile (k : Core) (j p : Nat) (t : AccTile) : Core :=
  k.putArray j { k.array j with tiles := (k.array j).tiles.set p t }

/-- Whether a physical tile was allocated for a logical tile of an item or its group. -/
def AccTile.ownedBy (t : AccTile) (asn item ltile : Nat) (group : Option Nat) : Bool :=
  match t.owner with
  | some o => o.ltile = ltile && (if group.isSome then o.group = group else o.asn = asn && o.item = item)
  | none => false

/-- Whether a physical tile is the mapping of a logical tile for an item or its group. -/
def AccTile.mapsTo (t : AccTile) (asn item ltile : Nat) (group : Option Nat) : Bool :=
  !t.closed && t.ownedBy asn item ltile group

/-- The physical tile a logical tile is mapped to. -/
def Core.physOf (k : Core) (j asn item ltile : Nat) (group : Option Nat) : Option Nat :=
  (k.array j).tiles.findIdx? fun t => t.mapsTo asn item ltile group

/-- The lowest free physical tile of an array. -/
def Core.freeTile (k : Core) (j : Nat) : Option Nat := (k.array j).tiles.findIdx? fun t => t.owner.isNone

/-- A tile newly allocated to an owner under an operation's spill settings (R261, R263). -/
def freshTile (o : TileOwner) (d : Desc) : AccTile :=
  { AccTile.free with owner := some o, exact := d.exact, xwin := d.xwin, interval := d.spill }

/-- The segment an entry belongs to. -/
def Core.segOf (k : Core) (asn : Nat) : Option Seg := k.segs.find? (·.ctx.asn = asn)

def Core.descOf (k : Core) (asn : Nat) : Desc := match k.segOf asn with | some g => g.ctx.desc | none => Desc.idle

def Core.groupOf (k : Core) (asn : Nat) : Option Nat := ((k.segOf asn).bind (·.prog)).bind (·.group)

/-- The descriptor whose spill settings a tile takes: that of the group's member with the smallest ASN (R283). -/
def Core.settingsOf (k : Core) (asn : Nat) : Desc :=
  match k.groupOf asn with
  | none => k.descOf asn
  | some g => k.descOf ((k.segs.filter fun s => (s.prog.bind (·.group)) = some g).foldl (fun m s => min m s.ctx.asn) asn)

/-- Map one logical tile, allocating when it has no mapping; none when no tile is free (R418). -/
def Core.mapTile (k : Core) (q : TileEntry) (jl : Nat × Nat) : Option Core :=
  let g := k.groupOf q.asn
  match k.physOf jl.1 q.asn q.item jl.2 g with
  | some _ => some k
  | none => match k.freeTile jl.1 with
    | none => none
    | some p => some (k.putTile jl.1 p (freshTile
        { asn := q.asn, item := q.item, ltile := jl.2, bankU := q.bankU, group := g } (k.settingsOf q.asn)))

def Core.mapTiles (k : Core) (q : TileEntry) : List (Nat × Nat) → Option Core
  | [] => some k
  | jl :: r => match k.mapTile q jl with | some k' => k'.mapTiles q r | none => none

/-! ### Context save for an URGENT allocation (R288, R424) -/

/-- The save record bytes of a tile (R288). -/
def saveRecord (t : AccTile) (spillBase : Nat) : List Byte :=
  let kind := if t.kind = some .int32 then 1 else 0
  let fl := (if t.isat then 1 else 0) + (if t.xovf then 2 else 0) + (if t.xinx then 4 else 0)
    + (if t.spilled then 8 else 0)
  let act := match t.backAct with | .none => 0 | .spill => 1 | .closeOut => 2 | .closeChain => 3
  leBytes 1 kind ++ leBytes 1 fl ++ leBytes 2 t.front.length ++ leBytes 2 t.back.length ++ leBytes 2 t.cursor
    ++ leBytes 1 act ++ leBytes 1 (if t.exact then 1 else 0) ++ leBytes 2 (twosCode 16 t.xwin)
    ++ leBytes 2 (effInterval (t.kind.getD .fp32) t.interval t.exact - 1) ++ leBytes 2 t.terms
    ++ leBytes 4 (t.last.getD 0) ++ leBytes 4 spillBase
    ++ leBytes 8 (match t.owner with | some o => o.asn | none => 0)
    ++ leBytes 2 (match t.owner with | some o => o.group.getD 0xFFFF | none => 0xFFFF)
    ++ leBytes 2 t.partials ++ leBytes 28 0
    ++ (t.front ++ t.back).flatMap fun row => row.flatMap fun w => leBytes 4 w.toNat

/-- Whether some issued entry still uses physical tile p of array j. -/
def Core.tileInUse (k : Core) (j : Nat) (t : AccTile) : Bool :=
  k.queue.any fun q => q.issued && q.tiles.any fun jl =>
    jl.1 = j && t.mapsTo q.asn q.item jl.2 (k.groupOf q.asn)

/-- The bank N tile of an array with the highest physical index that no issued entry uses (R424). -/
def Core.victim (k : Core) (j : Nat) : Option Nat :=
  ((List.range 8).reverse).find? fun p =>
    let t := (k.array j).tile p
    (match t.owner with | some o => !o.bankU | none => false) && !k.tileInUse j t

/-- Where the allocator places save records: 64 KiB units counted down from the weight save area (R418), and the spill
tile of a physical tile: units counted up from the start of its range (log entry 40). -/
def saveBase (n : Nat) : Nat := 0x006E0000 - (n + 1) * 0x10000
def spillBase (j p : Nat) : Nat := 0x004E0000 + (8 * j + p) * 0x10000

/-- Save a bank N tile and free it (R288, R424). -/
def Core.saveTile (k : Core) (j p : Nat) : Core :=
  let t := (k.array j).tile p
  let base := saveBase k.saves.length
  { k.putTile j p AccTile.free with
    saves := k.saves ++ [{ array := j, phys := p, tile := t, base := base }],
    store := k.store.writeBytes base (saveRecord t (if t.spilled then spillBase j p else 0)) }

/-- Give up a bank N tile for a bank U entry where its array has no free tile (R424). -/
def Core.makeRoom (k : Core) (q : TileEntry) (j : Nat) : Core :=
  if q.bankU && (k.freeTile j).isNone then
    match k.victim j with | some p => k.saveTile j p | none => k
  else k

/-- Save both weight sets of an array before the first bank U load on it (R424). -/
def Core.saveWeights (k : Core) (q : TileEntry) (j : Nat) : Core :=
  if q.bankU && ((k.wsaved.getD j none).isNone) then
    let a := k.array j
    let base := 0x006E0000 + j * 0x8000
    { k with wsaved := k.wsaved.set j (some (a.fg, a.bg)),
             store := (k.store.writeBytes base a.fg.tile).writeBytes (base + 0x4000) a.bg.tile }
  else k

/-! ### Issue conditions (R420) -/

def Core.entry? (k : Core) (id : Nat) : Option TileEntry := k.queue.find? (·.id = id)

/-- Entries of the same bank queued before `q`. -/
def Core.earlier (k : Core) (q : TileEntry) : List TileEntry :=
  k.queue.filter fun x => x.id < q.id && x.bankU = q.bankU

/-- Items 1, 2, 3, 4 and 6 of R420; no further entry of an operation on the abort list issues (R58, R249). -/
def Core.orderOk (k : Core) (q : TileEntry) : Bool :=
  !k.guard && (q.bankU || !k.urgent) && !(k.aborts.any (·.1 = q.asn))
    && (k.earlier q).all (fun x => x.issued || !(x.units.any q.units.contains))
    && (!q.wen || (match k.engines[q.weng]? with | some e => e.tok.getD q.wctr 0 > 0 | none => false))
    && (k.earlier q).all (fun x => !(hit x.writes q.reads || hit x.reads q.writes || hit x.writes q.writes))
    && (q.bound.all fun b => !(k.queue.any fun x => x.id = b.2 && !x.issued))
    && (q.top != topLDW || (k.earlier q).all fun x =>
          x.issued || !(x.top = topSTR && x.f0 8 1 = 1 && x.arrays.any q.arrays.contains))

/-- Whether an entry is a pass into FP32 tiles, by the formats it will run with (R194, R409). -/
def Core.floatPass (k : Core) (q : TileEntry) : Bool :=
  if q.top = topACC then q.f0 9 1 = 0
  else if q.top = topMV then !(pairOf (aelemOf q) (welemOf q)).int
  else if q.top = topSTR then
    q.arrays.any fun j =>
      let ws := if q.f0 8 1 = 1 then (k.arrays.getD j ArrayUnit.reset).bg else (k.arrays.getD j ArrayUnit.reset).fg
      !(pairOf (aelemOf q) (ws.elem.getD (aelemOf q))).int
  else false

/-- Whether an FP32 pass on a shared tile waits for an earlier member of its group, one of whose items has neither ended
nor closed the tile (R284). -/
def Core.groupWaits (k : Core) (q : TileEntry) : Bool :=
  match k.groupOf q.asn with
  | none => false
  | some g => k.floatPass q && k.segs.any fun s =>
      s.ctx.asn < q.asn && (s.prog.bind (·.group)) = some g && !s.finished && !(k.endings.any (·.asn = s.ctx.asn))
        && s.items.any fun i => !i.done && q.tiles.any fun jl =>
            match k.rec? s.ctx.asn i.num with | some r => !r.closed.contains jl | none => true

/-- Whether two entries name one tile of an item, or of a group's members. -/
def Core.shareTile (k : Core) (x q : TileEntry) : Bool :=
  ((x.asn = q.asn && x.item = q.item) || ((k.groupOf q.asn).isSome && k.groupOf x.asn = k.groupOf q.asn))
    && x.tiles.any q.tiles.contains

/-- Item 5 of R420: named tiles have no undrained back rows, earlier writers have issued, shared tiles are free. -/
def Core.tilesOk (k : Core) (q : TileEntry) : Bool :=
  q.tiles.all (fun jl => match k.physOf jl.1 q.asn q.item jl.2 (k.groupOf q.asn) with
    | some p => ((k.array jl.1).tile p).back.isEmpty
    | none => true)
  && !(k.groupWaits q)
  && (k.earlier q).all fun x => x.issued || !(k.shareTile x q)

/-- Mark an entry issued and take its waited token (R402). -/
def Core.markIssued (k : Core) (q : TileEntry) : Core :=
  { k with
    queue := k.queue.map fun x => if x.id = q.id then { x with issued := true } else x,
    segs := k.segs.map fun g => if g.ctx.asn = q.asn then
      { g with items := g.items.map fun i => if i.num = q.item then { i with started := true } else i } else g,
    engines := if q.wen then k.engines.modify q.weng fun e =>
        { e with tok := e.tok.set q.wctr (e.tok.getD q.wctr 0 - 1) } else k.engines }

/-- Issue entry `id` if it is a queued entry of this TOP and R420 lets it issue; otherwise it waits. -/
def Core.issue (k : Core) (top id : Nat) (effect : TileEntry → Core → Core) : Core :=
  match k.entry? id with
  | none => k
  | some q =>
    if q.start.isNone && q.top = top && !q.issued && k.orderOk q && k.tilesOk q then
      let roomed := q.tiles.foldl (fun acc jl =>
        if (acc.physOf jl.1 q.asn q.item jl.2 (acc.groupOf q.asn)).isNone then acc.makeRoom q jl.1 else acc) k
      match roomed.mapTiles q q.tiles with
      | none => k
      | some k' => effect q (k'.markIssued q)
    else k

/-! ### Effects -/

/-- Reader of core store bytes at offsets from a base. -/
def Core.rd (k : Core) (base : Nat) : Nat → Byte := fun i => k.store.read (base + i)

def tileRd (tile : List Byte) : Nat → Byte := fun i => tile.getD i 0

/-- The weight set a load of format e forms from the tile at `base` (R246, R407). -/
def Core.loadSet (k : Core) (e : Elem) (base : Nat) : WeightSet :=
  let bytes := k.store.readBytes base (wtSize e)
  { elem := some e, tile := bytes, wc := checkColumn (tileRd bytes) e, wr := checkRow (tileRd bytes) e }

/-- LDW (R407). -/
def Core.ldw (q : TileEntry) (k : Core) : Core :=
  let e := welemOf q
  q.arrays.foldl (fun acc j =>
    let acc := acc.saveWeights q j
    let base := q.line + (if q.f0 10 1 = 1 then 0 else maskRank q.amask j * wtSize e)
    acc.putArray j { acc.array j with bg := k.loadSet e base }) k

/-- Update the physical tile an entry's logical tile is mapped to. -/
def Core.onTile (k : Core) (q : TileEntry) (jl : Nat × Nat) (f : AccTile → AccTile) : Core :=
  match k.physOf jl.1 q.asn q.item jl.2 (k.groupOf q.asn) with
  | some p => k.putTile jl.1 p (f ((k.array jl.1).tile p))
  | none => k

/-- STR on one array: the bound set becomes the foreground (R227), then one pass of M vectors (R264, R408). -/
def Core.strArray (q : TileEntry) (k : Core) (j : Nat) : Core :=
  let k := if q.f0 8 1 = 1 then k.putArray j { k.array j with fg := (k.array j).bg } else k
  let ws := (k.array j).fg
  let we := ws.elem.getD (aelemOf q)
  let ae := aelemOf q
  let p := pairOf ae we
  let m := q.f1 17 9 + 1
  let base := q.line + (if q.gmode % 2 = 1 then 0 else maskRank q.amask j * atSize m ae)
  k.onTile q (j, q.f0 5 3) fun t =>
    (t.beginPass (if p.int then .int32 else .fp32) q.asn (q.f2 0 24)).accumulate m fun i n =>
      columnSums p (tileRd ws.tile) (k.rd base) we ae m i n

/-- STR (R408). -/
def Core.str (q : TileEntry) (k : Core) : Core := q.arrays.foldl (Core.strArray q) k

/-- A residue or weight-scrub mismatch found by the hardware (R249): the operation joins the abort list with cause
CHECKSUM and its entries not yet issued are discarded. -/
def Core.checksum (k : Core) (asn : Nat) (arrays : Nat) (mv : Bool) : Core :=
  if arrays = 0 && !mv then k
  else { k with
    chkArray := k.chkArray ||| arrays % 16, chkMv := k.chkMv || mv,
    ft := { k.ft with mismatch := min 0xFF (k.ft.mismatch + 1) },
    queue := k.queue.filter fun x => x.asn != asn || x.issued,
    aborts := if k.aborts.any (·.1 = asn) then k.aborts else k.aborts ++ [(asn, 6)] }

/-- Count freeze cycles in CO_FRZ, saturating (R238). -/
def Core.freeze (k : Core) (dry acc : Nat) : Core :=
  { k with frzDry := min 0xFFFF (k.frzDry + dry), frzAcc := min 0xFFFF (k.frzAcc + acc) }

/-- ACC (R409). -/
def Core.acc (q : TileEntry) (k : Core) : Core :=
  let kind := if q.f0 9 1 = 1 then AccKind.int32 else .fp32
  k.onTile q (q.f0 13 2, q.f0 10 3) fun t =>
    (t.beginPass kind q.asn (q.f2 0 24)).accumulate (q.f1 17 9 + 1) fun i n =>
      let w := BitVec.ofNat 32 (k.store.readLe (q.line + 64 * i + 4 * n) 4)
      [if kind = .int32 then Val.ofZ w.toInt else f32 w]

/-- MV (R410): tile after tile, each a pass of M vectors. -/
def Core.mv (q : TileEntry) (k : Core) : Core :=
  let we := welemOf q
  let ae := aelemOf q
  let p := pairOf ae we
  let m := q.f0 4 3 + 1
  let ng := q.f0 7 5 + 1
  (List.range (q.f1 17 8 + 1)).foldl (fun acc j =>
    let g := j % ng
    let wbase := q.line + j * wtSize we
    let abase := q.f2 0 11 * 4096 + j / ng * atSize m ae
    acc.onTile q (g % 4, q.f0 12 3 + g / 4) fun t =>
      (t.beginPass (if p.int then .int32 else .fp32) q.asn (q.f2 16 16 + j / ng)).accumulate m fun i n =>
        columnSums p (k.rd wbase) (k.rd abase) we ae m i n) k

/-- EW (R254, R255, R412). -/
def Core.ew (q : TileEntry) (k : Core) : Core :=
  let j := q.f0 13 2
  let tile (l : Nat) : AccTile := match k.physOf j q.asn q.item l (k.groupOf q.asn) with
    | some p => (k.array j).tile p
    | none => AccTile.free
  let x := tile (q.f0 10 3)
  let y := tile (q.f0 7 3)
  let kind := x.kind.getD .fp32
  let rw := q.f1 0 9 + 1
  let rows := (List.range rw).map fun m =>
    List.zipWith (ewEntry kind (q.f0 3 1 = 1)) (rowAt x.front m) (rowAt y.front m)
  k.onTile q (j, q.f0 4 3) fun z =>
    { z with kind := some (z.kind.getD kind), front := rows.map (·.map (·.1)) ++ z.front.drop rw,
             isat := z.isat || rows.any (·.any (·.2)) }

/-- The rows a CLOSE hands to the output channel: entry (m, 16·rank + n) over the named arrays (R413). -/
def Core.closeRow (k : Core) (q : TileEntry) (m : Nat) : List Val :=
  q.arrays.flatMap fun j => match k.physOf j q.asn q.item (q.f0 8 3) (k.groupOf q.asn) with
    | some p => (List.range 16).map fun n => ((k.array j).tile p).combined.final m n
    | none => List.replicate 16 Val.zero

/-- Channel results of row m of a CLOSE POST (R291). -/
def Core.postRow (k : Core) (q : TileEntry) (m : Nat) : List Val :=
  let c := Ctrl.parse (q.blk 0 8)
  let bias := q.blk 0x28 4
  let ew := q.blk 0x2C 4
  (k.closeRow q m).zipIdx.map fun (v, n) =>
    let b := if bias = 0xFFFFFFFF then Val.zero else rowElem (k.rd bias) (q.bElem 0x34) n
    let r := if ew = 0xFFFFFFFF then Val.zero else rowElem (k.rd (ew + m * q.blk 0x30 4)) (q.bElem 0x35) n
    channelOut c v b r

/-- The site and modes of a post block (R204, R206, R413). -/
def postModes (q : TileEntry) (d : Desc) : Modes :=
  { floor := (Ctrl.parse (q.blk 0 8)).floor, rnd := d.rnd, ieee := d.ieee }

def postSite (q : TileEntry) : Nat := if q.blk 9 1 = 2 then 0 else if q.blk 9 1 = 3 then 1 else q.blk 0xC 1

/-- A converted row of a CLOSE POST (R295). An MX tile in A-layout has its blocks at multiples of 32 of K, so a row that
starts at an odd multiple of 16 begins with half a block (R232, R413; log entry 73). -/
def Core.postConv (k : Core) (q : TileEntry) (d : Desc) (m : Nat) : ConvRow :=
  let dr (n : Nat) : Nat :=
    draw d.seed (postSite q) (q.blk 0x18 4 + n) (q.blk 0x1C 4 + m) (q.blk 0x20 4) (q.blk 0x24 4)
  let half := if q.blk 9 1 = 1 && (q.bElem 8).isMx then q.blk 0x18 4 % 32 else 0
  let row := k.postRow q m
  let a := convRow (q.bElem 8) (postModes q d) dr (row.take half)
  let b := convRow (q.bElem 8) (postModes q d) (fun n => dr (half + n)) (row.drop half)
  { codes := a.codes ++ b.codes, scales := a.scales ++ b.scales, info := a.info ||| b.info }

/-- Write one CS_A element code and its block scale into an A-layout tile at `base` (R413). -/
def putTileCode (mem : CStore) (base : Nat) (e : Elem) (vecs m pos code : Nat) : CStore :=
  let perRow := if e.bits = 4 then 64 else 32
  let r := pos / perRow
  let lo := pos % perRow * e.bits
  let at_ (b : Nat) : Nat := base + tileByte e.rowBytes m r b
  let n := if e.bits % 8 = 0 then e.bits / 8 else 2
  let cur := (List.range n).map fun i => mem.read (at_ (lo / 8 + i))
  let v := leNat cur
  let sh := lo % 8
  let v' := v - bitf v sh e.bits * 2 ^ sh + code * 2 ^ sh
  let _ := vecs
  ((leBytes n v').zipIdx).foldl (fun acc bi => acc.write (at_ (lo / 8 + bi.2)) bi.1) mem

def putTileScale (mem : CStore) (base : Nat) (e : Elem) (vecs m pos scale : Nat) : CStore :=
  let perRow := if e.bits = 4 then 64 else 32
  let r := pos / perRow
  let h := pos % perRow / 32
  mem.write (base + tileScaleBase e.rowBytes vecs + (8 * m + r) * e.scaleBytes + h) (BitVec.ofNat 8 scale)

/-- Write one converted row into an A-layout tile from K position c0 (R232, R413). -/
def putTileRow (mem : CStore) (base : Nat) (e : Elem) (vecs m c0 : Nat) (r : ConvRow) : CStore :=
  let mem := r.codes.zipIdx.foldl (fun acc ci => putTileCode acc base e vecs m (c0 + ci.2) ci.1) mem
  r.scales.zipIdx.foldl (fun acc si => putTileScale acc base e vecs m (c0 + 32 * si.2) si.1) mem

/-- The core store writes of a CLOSE POST to CS_ROW or CS_A (R413). -/
def Core.postStore (k : Core) (q : TileEntry) (d : Desc) : CStore :=
  (List.range (q.blk 0xA 2)).foldl (fun mem m =>
    let r := k.postConv q d m
    if q.blk 9 1 = 0 then mem.writeBytes (q.blk 0x10 4 + m * q.blk 0x14 4) (rowBytes (q.bElem 8) r)
    else putTileRow mem (q.blk 0x10 4) (q.bElem 8) (q.blk 0xA 2) m (q.blk 0x18 4) r) k.store

/-- INFO bits a CLOSE POST raises: conversion notes and the tiles' flags (R263, R295). -/
def Core.postInfo (k : Core) (q : TileEntry) (d : Desc) : Nat :=
  let conv := (List.range (q.blk 0xA 2)).foldl (fun acc m => acc ||| (k.postConv q d m).info) 0
  q.arrays.foldl (fun acc j => match k.physOf j q.asn q.item (q.f0 8 3) (k.groupOf q.asn) with
    | some p => acc ||| ((k.array j).tile p).combined.info
    | none => acc) conv

/-- Whether this operation is the member of its group that finalises the tile (R285). -/
def Core.lastMember (k : Core) (asn : Nat) : Bool :=
  match k.groupOf asn with
  | none => true
  | some g => !(k.segs.any fun s => asn < s.ctx.asn && (s.prog.bind (·.group)) = some g)

/-- The swap of a CLOSE: the front set becomes the back set, waiting for its drain to end (R275, R413). -/
def closeSwap (act : BackAct) (t : AccTile) : AccTile :=
  let t' := t.combined
  { t' with back := t'.front, backAct := act, cursor := 0, front := [], closed := true }

/-- CLOSE on the core: core store output, notes, and the swapped tiles (R413). A member that is not the last of its
group releases only its mapping (R285); DISCARD releases the tile (R414). -/
def Core.close (q : TileEntry) (k : Core) : Core :=
  let d := k.descOf q.asn
  let dest := q.f0 6 2
  if !k.lastMember q.asn then k
  else
    let k' := if dest = 0 && q.blk 9 1 < 2 then { k with store := k.postStore q d } else k
    let k' := if dest = 0 then { k' with notes := k.note q.asn (k.postInfo q d) } else k'
    q.arrays.foldl (fun acc j => acc.onTile q (j, q.f0 8 3) fun t =>
      if dest = 2 then AccTile.free else closeSwap (if dest = 1 then .closeChain else .closeOut) t) k'

/-- The element rows a CLOSE writes to OUT0 or OUT1: slot 4 or 5, and per row its first coordinates and conversion
(R413). Empty for any other destination. -/
def Core.closeOut (k : Core) (q : TileEntry) : List (Nat × Nat × ConvRow) :=
  if q.f0 6 2 = 0 && q.blk 9 1 ≥ 2 && k.lastMember q.asn then
    (List.range (q.blk 0xA 2)).map fun m => (q.blk 0x18 4, q.blk 0x1C 4 + m, k.postConv q (k.descOf q.asn) m)
  else []

/-! ### Merge (R299-R304, R416) -/

/-- A merge output entry (R299). -/
structure MergeEnt where
  coord : Nat
  idxA  : Nat
  idxB  : Nat
  cntA  : Nat
  cntB  : Nat
  deriving DecidableEq, Repr

/-- A coordinate run after duplicate-combine: coordinate, index, count. -/
abbrev Run := Nat × Nat × Nat

/-- The fault of a coordinate stream, if any: ORDER on a decrease, or on an equal pair under FAULT; RUN above 65,535
under SUM (R298, R300). The lowest-numbered cause at the first faulting entry. -/
def streamFault (pol : Nat) : List Nat → Nat → Option Nat
  | [], _ => none
  | [_], _ => none
  | x :: y :: r, run =>
    if y < x || (y = x && pol = 0) then some 0xC01
    else if y = x && pol = 3 && run + 1 > 65535 then some 0xC04
    else streamFault pol (y :: r) (if y = x then run + 1 else 1)

/-- Duplicate-combine (R300): runs of equal coordinates under a policy; `i` is the first element's index. -/
def combine (pol : Nat) : List Nat → Nat → List Run
  | [], _ => []
  | x :: r, i =>
    match combine pol r (i + 1) with
    | [] => [(x, i, 1)]
    | (y, j, c) :: t =>
      if x = y then
        (match pol with
         | 2 => (y, j, c) :: t
         | 3 => (x, i, c + 1) :: t
         | _ => (x, i, 1) :: t)
      else (x, i, 1) :: (y, j, c) :: t

/-- Merge two strictly increasing run streams by mode (R301); fuel bounds the number of entries. -/
def mergeRuns (mode : Nat) : Nat → List Run → List Run → List MergeEnt
  | 0, _, _ => []
  | _ + 1, [], [] => []
  | f + 1, a :: as, [] =>
    if mode = 0 then [] else ⟨a.1, a.2.1, 0, a.2.2, 0⟩ :: mergeRuns mode f as []
  | f + 1, [], b :: bs => if mode = 1 then ⟨b.1, 0, b.2.1, 0, b.2.2⟩ :: mergeRuns mode f [] bs else []
  | f + 1, a :: as, b :: bs =>
    if a.1 < b.1 then
      (if mode = 0 then mergeRuns mode f as (b :: bs)
       else ⟨a.1, a.2.1, 0, a.2.2, 0⟩ :: mergeRuns mode f as (b :: bs))
    else if b.1 < a.1 then
      (if mode = 1 then ⟨b.1, 0, b.2.1, 0, b.2.2⟩ :: mergeRuns mode f (a :: as) bs
       else mergeRuns mode f (a :: as) bs)
    else
      (if mode = 2 then mergeRuns mode f as bs
       else ⟨a.1, a.2.1, b.2.1, a.2.2, b.2.2⟩ :: mergeRuns mode f as bs)

def MergeEnt.bytes (e : MergeEnt) : List Byte :=
  leBytes 4 e.coord ++ leBytes 4 e.idxA ++ leBytes 4 e.idxB ++ leBytes 2 e.cntA ++ leBytes 2 e.cntB

/-- Coordinates of one merge input: shifted right by SHIFT (R416). -/
def Core.mergeIn (k : Core) (off cnt shift : Nat) : List Nat :=
  (List.range cnt).map fun i => k.store.readLe (off + 4 * i) 4 / 2 ^ shift

/-- STREAM_FAULT of a tile instruction: INFO bits [31:16] zero (R419). -/
def Core.tileStreamFault (k : Core) (asn cause : Nat) : Core := k.endOp asn 0x23 cause

/-- MERGE (R416, R419): output entries up to OUT_CAP, EMITTED and FULL into the MDB line. -/
def Core.merge (q : TileEntry) (k : Core) : Core :=
  let a := k.mergeIn (q.blk 0 4) (q.blk 4 4) (q.blk 0x20 1)
  let b := k.mergeIn (q.blk 0xC 4) (q.blk 0x10 4) (q.blk 0x20 1)
  let pa := q.f0 10 2
  let pb := q.f0 8 2
  match streamFault pa a 1, streamFault pb b 1 with
  | some c, _ => k.tileStreamFault q.asn c
  | none, some c => k.tileStreamFault q.asn c
  | none, none =>
    let ra := (combine pa a (q.blk 8 4))
    let rb := (combine pb b (q.blk 0x14 4))
    let mode := q.f0 12 2
    let es := if mode = 3 then ra.map (fun r => ⟨r.1, r.2.1, 0, r.2.2, 0⟩)
              else mergeRuns mode (ra.length + rb.length + 1) ra rb
    let cap := q.blk 0x1C 4
    let kept := es.take cap
    let st := k.store.writeBytes (q.blk 0x18 4) (kept.flatMap MergeEnt.bytes)
    let full := if es.length > cap then 1 else 0
    { k with store := (st.writeLe (q.line + 0x28) 4 kept.length).writeLe (q.line + 0x2C) 1 full }

/-! ### Gather (R417, R419) -/

/-- Whether a list of numbers decreases somewhere. -/
def decreases : List Nat → Bool
  | x :: y :: r => y < x || decreases (y :: r)
  | _ => false

/-- Whether a list of numbers is not strictly increasing. -/
def notStrict : List Nat → Bool
  | x :: y :: r => y ≤ x || notStrict (y :: r)
  | _ => false

/-- Column index of stored element e, and the row of a panel it lies in (R417). -/
def Core.gatherCol (k : Core) (q : TileEntry) (e : Nat) : Nat := k.store.readLe (q.blk 0xC 4 + 4 * e) 4
def gatherRow (q : TileEntry) (rp : List Nat) (e : Nat) : Option Nat :=
  (List.range (q.blk 2 2)).find? fun r => rp.getD r 0 ≤ e && e < rp.getD (r + 1) 0

/-- Whether a scanned row's column indices decrease somewhere (R298, R419). -/
def Core.gatherUnsorted (k : Core) (q : TileEntry) (rp : List Nat) : Bool :=
  (List.range (q.blk 0x20 4 - 1)).any fun i =>
    let e := q.blk 0x1C 4 + i
    k.gatherCol q (e + 1) < k.gatherCol q e && (gatherRow q rp e).isSome && gatherRow q rp e = gatherRow q rp (e + 1)

/-- Place one stored element (R417). -/
def Core.gatherOne (k : Core) (q : TileEntry) (rp us : List Nat) (mem : CStore) (e : Nat) : CStore :=
  let el := q.bElem 0
  let w := (if bit (q.blk 1 1) 1 then 512 else 256) / 32
  let j := k.gatherCol q e
  let c := q.blk 4 4
  let row := gatherRow q rp e
  let i? := if bit (q.blk 1 1) 0 then some (j / 32) else us.findIdx? (· = j / 32)
  match row, i? with
  | some r, some i =>
    if c * w ≤ i && i < c * w + w then
      let lo := e * el.bits
      let v := k.store.readLe (q.blk 0x10 4 + lo / 8) (if el.bits < 8 then 1 else el.bits / 8)
      putTileCode mem (q.blk 0x28 4) el (q.blk 2 2) r (32 * (i - c * w) + j % 32) (v / 2 ^ (lo % 8) % 2 ^ el.bits)
    else mem
  | _, _ => mem

/-- GATHER (R417): clear the tile, or place scanned elements; POINTER and ORDER faults first (R419). -/
def Core.gather (q : TileEntry) (k : Core) : Core :=
  if q.f0 14 1 = 1 then
    { k with store := k.store.clear (q.blk 0x28 4) (atSize (q.blk 2 2) (q.bElem 0)) }
  else
    let rp := (List.range (q.blk 2 2 + 1)).map fun i =>
      k.store.readLe (q.blk 8 4 + 4 * i) 4 - q.blk 0x24 4
    let us := (List.range (q.blk 0x18 4)).map fun i => k.store.readLe (q.blk 0x14 4 + 16 * i) 4
    if decreases ((List.range (q.blk 2 2 + 1)).map fun i => k.store.readLe (q.blk 8 4 + 4 * i) 4) then
      k.tileStreamFault q.asn 0xC03
    else if notStrict us || k.gatherUnsorted q rp then k.tileStreamFault q.asn 0xC01
    else
      let place (mem : CStore) (i : Nat) : CStore := k.gatherOne q rp us mem (q.blk 0x1C 4 + i)
      { k with store := (List.range (q.blk 0x20 4)).foldl place k.store }

/-! ### Retirement, drain end, item end -/

/-- Increment a token counter; 255 is a TOKEN fault of the engine's current instruction (R347, R402). -/
def Core.signal (k : Core) (asn eng ctr : Nat) : Core :=
  match k.engines[eng]? with
  | none => k
  | some e =>
    if !(e.running && e.asn = asn) then k
    else if e.tok.getD ctr 0 ≥ 255 then k.endOp asn 0x23 (0xA06 + eng * 2 ^ 16 + e.index % 256 * 2 ^ 19)
    else { k with engines := k.engines.set eng { e with tok := e.tok.set ctr (e.tok.getD ctr 0 + 1) } }

/-- TPUT (R379, R386, R347): the increment reaches a running program of the operation; a program not yet started
clears its counters when it starts (log entry 27). -/
def Core.tput (k : Core) (eng : BitVec 3) (ctr : BitVec 2) : Core :=
  let b := k.bank
  let w := wordE 0x33 0 eng ctr
  if 6 ≤ eng.toNat then k.raiseWord 3 w
  else if !(k.engineServes b.ctx.asn eng.toNat) then k.raiseWord 8 w
  else (k.setBank b.next).signal b.ctx.asn eng.toNat ctr.toNat

/-- Whether the drain of a CLOSE entry is still open: a tile it closed is not yet released (R414, R417). -/
def Core.drainOpen (k : Core) (q : TileEntry) : Bool :=
  q.start.isNone && q.top = topCLOSE && q.arrays.any fun j => (k.array j).tiles.any fun t =>
    t.closed && t.ownedBy q.asn q.item (q.f0 8 3) (k.groupOf q.asn)

/-- An issued entry retires, a CLOSE at the end of its drain, and signals its token (R402, R417). -/
def Core.retire (k : Core) (id : Nat) : Core :=
  match k.entry? id with
  | some q =>
    if q.issued && !k.drainOpen q then
      let k' := { k with queue := k.queue.filter (·.id != id) }
      if q.sen then k'.signal q.asn q.seng q.sctr else k'
    else k
  | none => k

/-- The end of a CLOSE drain releases the tile and its spill tile (R414). -/
def Core.drainEnd (k : Core) (j p : Nat) : Core :=
  if ((k.array j).tile p).closed then k.putTile j p AccTile.free else k

/-- Whether a segment's item has ended: DONE 0 completed and no entry of it queued (R414). -/
def Core.itemEnded (k : Core) (asn item : Nat) : Bool :=
  (match k.segOf asn with
   | some g => g.items.any fun i => i.num = item && i.done
   | none => false) && !(k.queue.any fun q => q.asn = asn && q.item = item)

/-- Release an item's record and the tiles still mapped to it without drain (R399, R414). -/
def Core.endItem (k : Core) (asn item : Nat) : Core :=
  if k.itemEnded asn item then
    { k with
      recs := k.recs.filter fun r => !(r.asn = asn && r.item = item),
      arrays := k.arrays.map fun a => { a with tiles := a.tiles.map fun t =>
        match t.owner with
        | some o => if o.asn = asn && o.item = item && o.group.isNone && !t.closed then AccTile.free else t
        | none => t } }
  else k

/-! ### Chain partials (R281, R282) -/

/-- Add a received chain partial into the tile of its output; it waits until the tile is allocated (R282). -/
def Core.addChain (k : Core) (asn item j ltile : Nat) (rows : List (List SpillE)) (terms : Nat)
    (isat xovf xinx : Bool) : Core :=
  match k.physOf j asn item ltile none with
  | none => k
  | some p =>
    let t := (k.array j).tile p
    let kind := t.kind.getD .fp32
    let add := (List.range rows.length).map fun m =>
      List.zipWith (fun x y => addPartial kind t.xwin (t.terms + terms) x y)
        (t.spill.getD m zeroSpill) (rows.getD m zeroSpill)
    let t := if t.spilled then t else { t with spilled := true }
    k.putTile j p { t with
      spill := add.map (·.map (·.e)) ++ t.spill.drop rows.length,
      isat := t.isat || isat, xovf := t.xovf || xovf || add.any (·.any (·.xovf)),
      xinx := t.xinx || xinx || add.any (·.any (·.xinx)),
      terms := min 65535 (t.terms + terms), partials := t.partials - 1 }

end Sys2Proof.Machine
end

