-- ==== Sys2Proof/Machine/StreamOps.lean ====
section
/-! DEFINITION. Shared operations of the stream engines (chapter 10): word checks, faults, tokens, program start,
loops, and the token buckets. -/

namespace Sys2Proof.Machine

def Core.engine (k : Core) (e : Nat) : StreamEng := k.engines.getD e StreamEng.reset
def Core.putEngine (k : Core) (e : Nat) (x : StreamEng) : Core := { k with engines := k.engines.set e x }

def StreamEng.next (e : StreamEng) : StreamEng := { e with index := e.index + 1 }
def StreamEng.sreg (e : StreamEng) (n : BitVec 4) : DWord := e.s[n.toNat]'n.isLt
def StreamEng.setS (e : StreamEng) (n : BitVec 4) (v : DWord) : StreamEng := { e with s := e.s.set n.toNat v n.isLt }

/-- STREAM_FAULT (R352): cause, engine and instruction index; the operation's streams and entries stop. -/
def Core.seFault (k : Core) (eng cause : Nat) : Core :=
  let e := k.engine eng
  k.endOp e.asn 0x23 (cause % 2 ^ 16 + eng % 8 * 2 ^ 16 + e.index % 256 * 2 ^ 19)

/-- Causes of R352. -/
def seOPCODE : Nat := 0xA01
def seEXTENT : Nat := 0xA02
def seSLOT : Nat := 0xA03
def seALIGN : Nat := 0xA04
def seCSTORE : Nat := 0xA05
def seTOKEN : Nat := 0xA06
def seLOOP : Nat := 0xA07
def seTRANSPOSE : Nat := 0xA08
def seLIST : Nat := 0xA09
def seRING : Nat := 0xA0A
def seIMAGE : Nat := 0xA0B

/-- Whether a stream word is an OPCODE fault: reserved OP, nonzero unused field, out-of-range field (R339). -/
def seWordBad (w : Nat) : Bool :=
  match bitf w 26 6 with
  | 0x01 => w % 2 ^ 26 ≠ 0
  | 0x02 => bitf w 16 4 ≠ 0
  | 0x03 => bitf w 14 4 ≠ 0
  | 0x04 | 0x05 => w % 2 ^ 14 ≠ 0
  | 0x06 => bitf w 14 4 ≠ 0
  | 0x07 => bitf w 14 4 ≠ 0 || 63 < w % 2 ^ 14
  | 0x08 | 0x09 => bitf w 14 4 ≠ 0
  | 0x0A => bit w 22 || (if bit w 23 then w % 2 ^ 18 ≠ 0 else bitf w 18 4 ≠ 0)
  | 0x0B => w % 2 ^ 24 ≠ 0
  | 0x10 | 0x11 => bitf w 14 4 ≠ 0 || bit w 0
  | 0x12 => bit w 0
  | 0x13 => bit w 0 || 16 < bitf w 2 9 + 1
  | 0x14 => bit w 0
  | 0x18 | 0x19 => 3 < bitf w 22 4 || w % 2 ^ 22 ≠ 0
  | 0x1A => w % 2 ^ 26 ≠ 0
  | 0x1C => bitf w 2 12 ≠ 0
  | _ => true

/-- The fault the next instruction of a running program meets before it executes (R338, R339). -/
def StreamEng.preFault (e : StreamEng) : Option Nat :=
  if !e.running then none
  else match e.code[e.index]? with
    | none => some seIMAGE
    | some w => if seWordBad w.toNat then some seOPCODE else none

/-- One stream instruction: nothing runs on an idle or stopped engine or while a guard is open (R352, R353). -/
def Core.seStep (k : Core) (eng : Nat) (f : StreamEng → Core) : Core :=
  let e := k.engine eng
  if !e.running || e.stopped || k.guard then k
  else match e.preFault with
    | some c => k.seFault eng c
    | none => f e

/-- A register result. -/
def Core.sePut (k : Core) (eng : Nat) (d : BitVec 4) (f : StreamEng → DWord) : Core :=
  k.seStep eng fun e => k.putEngine eng (e.setS d (f e)).next

/-! ### Tokens (R347) -/

/-- Increment counter t; 255 is a TOKEN fault. -/
def Core.seIncr (k : Core) (eng t : Nat) : Core :=
  let e := k.engine eng
  if e.tok.getD t 0 ≥ 255 then k.seFault eng seTOKEN
  else k.putEngine eng { e with tok := e.tok.set t (e.tok.getD t 0 + 1) }

/-- PUTs whose earlier transfers have all retired (R339). -/
def StreamEng.ripePuts (e : StreamEng) : List PendPut :=
  e.puts.filter fun p => !(e.xfers.any fun x => x.id < p.before)

/-- Apply the ripe PUTs, oldest first. -/
def Core.sePuts (k : Core) (eng : Nat) : Core :=
  let e := k.engine eng
  let ripe := e.ripePuts
  let k' := k.putEngine eng { e with puts := e.puts.filter fun p => !(ripe.contains p) }
  ripe.foldl (fun acc p => acc.seIncr eng p.ctr) k'

/-- PUT (R339): the increment waits for earlier transfers, the engine does not. -/
def Core.sePutTok (k : Core) (eng : Nat) (d : BitVec 4) : Core :=
  k.seStep eng fun e =>
    if d.toNat > 3 then k.seFault eng seOPCODE
    else if e.xfers.isEmpty then
      let k' := k.seIncr eng d.toNat
      k'.putEngine eng (k'.engine eng).next
    else k.putEngine eng { e.next with puts := e.puts ++ [{ ctr := d.toNat, before := e.nextXfer }] }

/-- GET (R339): waits while the counter is 0. -/
def Core.seGetTok (k : Core) (eng : Nat) (d : BitVec 4) : Core :=
  k.seStep eng fun e =>
    if d.toNat > 3 then k.seFault eng seOPCODE
    else if e.tok.getD d.toNat 0 = 0 then k
    else k.putEngine eng { e.next with tok := e.tok.set d.toNat (e.tok.getD d.toNat 0 - 1) }

/-! ### Loops (R339, R340) -/

/-- Index after the NEXT that matches a LOOP of a level, searching from an index. -/
def afterNext (code : List Word) (lvl start : Nat) : Nat :=
  match (code.drop start).findIdx? fun w => bitf w.toNat 26 6 = 0x0B && bitf w.toNat 24 2 = lvl with
  | some i => start + i + 1
  | none => code.length

def Core.seLoop (k : Core) (eng : Nat) (lvl : BitVec 2) (count : StreamEng → Nat) : Core :=
  k.seStep eng fun e =>
    match e.loops.getD lvl.toNat none with
    | some _ => k.seFault eng seLOOP
    | none =>
      if count e = 0 then k.putEngine eng { e with index := afterNext e.code lvl.toNat (e.index + 1) }
      else k.putEngine eng { e.next with
        loops := e.loops.set lvl.toNat (some { start := e.index + 1, left := count e }) }

def Core.seNext (k : Core) (eng : Nat) (lvl : BitVec 2) : Core :=
  k.seStep eng fun e =>
    match e.loops.getD lvl.toNat none with
    | none => k.seFault eng seLOOP
    | some l =>
      if l.left = 1 then k.putEngine eng { e.next with loops := e.loops.set lvl.toNat none }
      else k.putEngine eng { e with
        index := l.start, loops := e.loops.set lvl.toNat (some { l with left := l.left - 1 }) }

/-- END (R339, R340): waits for every transfer to retire, then ends the program. -/
def Core.seEnd (k : Core) (eng : Nat) : Core :=
  k.seStep eng fun e =>
    if e.loops.any Option.isSome then k.seFault eng seLOOP
    else if !e.xfers.isEmpty then k
    else k.putEngine eng { e with running := false, puts := [] }

def Core.seFence (k : Core) (eng : Nat) : Core :=
  k.seStep eng fun e => if e.xfers.isEmpty then k.putEngine eng e.next else k

/-- LDW and LDH of a stream (R339): n bytes at s[a] + sext(imm14). -/
def Core.seLoad (k : Core) (eng : Nat) (d a : BitVec 4) (imm : BitVec 14) (n : Nat) : Core :=
  k.seStep eng fun e =>
    let addr := (e.sreg a + imm.signExtend 64).toNat
    if addr % n ≠ 0 then k.seFault eng seALIGN
    else if 0x800000 ≤ addr then k.seFault eng seCSTORE
    else k.putEngine eng (e.setS d (BitVec.ofNat 64 (k.store.readLe addr n))).next

/-! ### Program start (R336, R338) -/

/-- The image at a core store offset: S_INIT, LEN, reserved bytes and CODE. -/
def Core.imageBytes (k : Core) (off : Nat) : List Byte :=
  k.store.readBytes off (0xC0 + 4 * min 256 (k.store.readLe (off + 0x80) 2))

/-- Whether a start request may leave the tile queue: its bank may issue and its operation is not on the abort list
(R398, R423, R249). -/
def Core.startMay (k : Core) (q : TileEntry) : Bool :=
  (q.bankU || !k.urgent) && !(k.aborts.any (·.1 = q.asn))

/-- Move the oldest start request for the engine from the tile queue into its empty start queue (R336). -/
def Core.takeStart (k : Core) (eng : Nat) : Core :=
  let e := k.engine eng
  if e.queued.isSome then k
  else match k.queue.find? fun q =>
        k.startMay q && (match q.start with | some s => s.1 = eng | none => false) with
    | none => k
    | some q => match q.start with
      | none => k
      | some s =>
        { k.putEngine eng { e with queued := some (q.asn, k.imageBytes s.2) } with
          queue := k.queue.filter (·.id != q.id) }

/-- The engine as a queued image starts on it (R338). -/
def StreamEng.started (e : StreamEng) (asn : Nat) (img : List Byte) : StreamEng :=
  { e with
    s := Vector.ofFn fun i => BitVec.ofNat 64 (fld img (8 * i.val) 8),
    loops := List.replicate 4 none, tok := [0, 0, 0, 0], running := true, stopped := false, asn := asn,
    index := 0, code := (List.range (fld img 0x80 2)).map fun i => BitVec.ofNat 32 (fld img (0xC0 + 4 * i) 4),
    queued := none, xfers := [], puts := [], rsent := false }

/-- STREAM_PROGRAM_START (R336, R338): an idle engine starts its queued image; a bad image is an IMAGE fault. -/
def Core.startStream (k0 : Core) (eng : Nat) : Core :=
  if k0.guard then k0
  else
    let k := k0.takeStart eng
    let e := k.engine eng
    if e.running then k
    else match e.queued with
      | none => k
      | some (asn, img) =>
        let len := fld img 0x80 2
        if len = 0 || 256 < len || !zeroBytes img 0x82 62 then
          (k.putEngine eng { e with queued := none }).endOp asn 0x23 (seIMAGE + eng % 8 * 2 ^ 16)
        else k.putEngine eng (e.started asn img)

/-! ### Token buckets (R349, R350) -/

/-- A bucket after one 64-byte request: the fewest cycles of refill that reach 64, at least the cycle of the request
itself, then minus 64 (R350). -/
def chargeLine (rate cap tokens : Nat) : Nat :=
  let need := if tokens + rate ≥ 64 then 1 else cdiv (64 - tokens) (max 1 rate)
  min cap (tokens + need * rate) - 64

def chargeLines (rate cap : Nat) : Nat → Nat → Nat
  | 0, t => t
  | n + 1, t => chargeLines rate cap n (chargeLine rate cap t)

/-- Buckets of R349. -/
inductive Bucket where
  | read | write | remote
  deriving DecidableEq, Repr

/-- Charge n memory lines to a bucket; `idle` cycles of refill went before the first request. -/
def Core.charge (k : Core) (b : Bucket) (rate depth idle n : Nat) : Core :=
  let go (t : Nat) : Nat := chargeLines rate (64 * depth) n (min (64 * depth) (t + idle * rate))
  match b with
  | .read => { k with bucketR := go k.bucketR }
  | .write => { k with bucketW := go k.bucketW }
  | .remote => { k with bucketM := go k.bucketM }

/-- A transfer's retirement (R345) and the PUTs it releases. -/
def Core.retireXfer (k : Core) (eng id : Nat) : Core :=
  let e := k.engine eng
  if e.xfers.any (·.id = id) then
    (k.putEngine eng { e with xfers := e.xfers.filter (·.id != id) }).sePuts eng
  else k

/-- Record a transfer issued by the engine. -/
def StreamEng.issued (e : StreamEng) (x : Xfer) : StreamEng :=
  { e.next with nextXfer := e.nextXfer + 1, xfers := e.xfers ++ [{ x with id := e.nextXfer, index := e.index }] }

end Sys2Proof.Machine
end

