-- ==== Sys2Proof/Machine/Ops.lean ====
section
/-! DEFINITION. Named operations over the whole state that every family uses: stamps, cores and ports, registers and
their fields, configuration errors, messages, interrupts, events and CRC-32C. -/

namespace Sys2Proof.Machine

/-! ### Stamps, cores, ports -/

/-- The state once a command stamped t has arrived (R27). -/
def State.stamped (s : State) (t : Stamp) : State := { s with now := max s.now t }

/-- Apply a change to one core. -/
def State.onCore (s : State) (c : Nat) (f : Core → Core) : State := { s with cores := s.cores.modify c f }

/-- A core by number. -/
def State.core (s : State) (c : Nat) : Core := s.cores.getD c Core.reset

/-- Apply a change to one host port. -/
def State.onPort (s : State) (p : Nat) (f : HostPort → HostPort) : State := { s with ports := s.ports.modify p f }

def State.port (s : State) (p : Nat) : HostPort := s.ports.getD p HostPort.reset

/-- Apply a change to one function of a port. -/
def State.onFunc (s : State) (p f : Nat) (g : Func → Func) : State :=
  s.onPort p fun h => { h with funcs := h.funcs.modify f g }

def State.func (s : State) (p f : Nat) : Func := (s.port p).funcs.getD f Func.reset

/-- Record a message that leaves a part (log entry 5). -/
def State.say (s : State) (m : Msg) : State := { s with out := m :: s.out }

def State.sayAll (s : State) (ms : List Msg) : State := { s with out := ms.reverse ++ s.out }

/-- Take a fresh free value (log entry 8). -/
def State.takeFree (s : State) : State := { s with free := s.free + 1 }

/-! ### Registers -/

/-- The stored value of a register. -/
def State.reg (s : State) (r : Reg) : Nat := (s.regs.get r).toNat

/-- A field of a stored register. -/
def State.fieldOf (s : State) (r : Reg) (lo len : Nat) : Nat := bitf (s.reg r) lo len

def State.bitOf (s : State) (r : Reg) (i : Nat) : Bool := bit (s.reg r) i

/-- A 64-bit pair. -/
def State.pairOf (s : State) (nm : RegName) (dev : Nat := 0) (n : Nat := 0) : Nat :=
  s.reg { name := nm, dev := dev, n := n } + 2 ^ 32 * s.reg { name := nm, dev := dev, n := n, hi := true }

/-- Replace bits [lo, lo + len) of a number. -/
def putBits (v lo len x : Nat) : Nat := v - bitf v lo len * 2 ^ lo + x % 2 ^ len * 2 ^ lo

/-- Store a register's value. -/
def State.setReg (s : State) (r : Reg) (v : Nat) : State := { s with regs := s.regs.set r (BitVec.ofNat 32 v) }

/-- Store one field. -/
def State.setField (s : State) (r : Reg) (lo len x : Nat) : State := s.setReg r (putBits (s.reg r) lo len x)

def State.setBit (s : State) (r : Reg) (i : Nat) (b : Bool) : State := s.setField r i 1 (if b then 1 else 0)

/-- Add to a saturating counter field. -/
def State.bump (s : State) (r : Reg) (lo len : Nat) : State :=
  s.setField r lo len (min (2 ^ len - 1) (s.fieldOf r lo len + 1))

def State.setPair (s : State) (nm : RegName) (dev n v : Nat) : State :=
  (s.setReg { name := nm, dev := dev, n := n } (v % 2 ^ 32)).setReg
    { name := nm, dev := dev, n := n, hi := true } (v / 2 ^ 32 % 2 ^ 32)

def rFrCtl : Reg := { name := .frCtl }
def rFtFailed : Reg := { name := .ftFailed }

/-- FR_CTL.RUN. -/
def State.running (s : State) : Bool := s.bitOf rFrCtl 0

/-- Active F in ns (R30-R32). -/
def State.lenF (s : State) : Nat := s.fieldOf { name := .frLen } 0 13 * 1000
/-- Active G in ns (R33). -/
def State.lenG (s : State) : Nat := s.fieldOf { name := .frGuard } 0 7 * 1000
/-- Active J in ns (2.3). -/
def State.lenJ (s : State) : Nat := s.fieldOf { name := .frGuard } 16 14

/-- Both ports in MULTIPATH (R130); a difference behaves as TWO_HOST. -/
def State.multipath (s : State) : Bool :=
  s.fieldOf { name := .hlCtl, dev := 0 } 0 2 = 1 && s.fieldOf { name := .hlCtl, dev := 1 } 0 2 = 1

/-- A lost host port (R103). -/
def State.portLost (s : State) (p : Nat) : Bool := s.bitOf { name := .hlLstat, dev := p } 11

/-- The port and function of a page. -/
def pagePort (pg : Nat) : Nat := pg / 64
def pageFunc (pg : Nat) : Nat := pg % 64

/-- The page of a function seen from a port. -/
def State.page (s : State) (port func : Nat) : Nat := pageOf s.multipath port func

/-- The port through which a page's host structures are reached: its own in TWO_HOST; in MULTIPATH port 0, or port 1
while port 0 is lost (R131; log entry 13). -/
def State.viaPort (s : State) (pg : Nat) : Nat :=
  if s.multipath then (if s.portLost 0 then 1 else 0) else pagePort pg

/-- Whether a function exists on a port: the physical one, or a virtual one enabled there. -/
def State.funcOn (s : State) (p f : Nat) : Bool := f = 0 || ((s.port p).vfEn && f ≤ (s.port p).numVfs)

/-- Whether a function of a page may fetch and post: bus mastering in D0, not wedged, existing on its port and in
MULTIPATH on every port that is not lost (R126, R131, R138). -/
def State.funcServed (s : State) (pg : Nat) : Bool :=
  let p := s.viaPort pg
  let f := pageFunc pg
  let x := s.func p f
  x.bme && !x.d3 && !x.wedged
    && (if s.multipath then [0, 1].all fun q => s.portLost q || s.funcOn q f else s.funcOn p f)

/-! ### Configuration errors (R644, R645) -/

/-- CFG_ERR bit numbers (20.5). -/
def errRSVD : Nat := 0
def errBUSY : Nat := 1
def errGUARD : Nat := 2
def errWIDTH : Nat := 3
def errDENIED : Nat := 4

/-- Set a CFG_ERR bit of an instance, capturing the first error while every bit of the instance is 0 (R645). -/
def State.cfgErrAt (s : State) (err info : Reg) (cause off port : Nat) (tick : Bool) : State :=
  let s' := if s.reg err = 0 then
      s.setReg info (off % 2 ^ 24 + cause * 2 ^ 24 + port % 2 * 2 ^ 27 + (if tick then 2 ^ 28 else 0) + 2 ^ 31)
    else s
  s'.setBit err cause true

/-- An error of a write through a port: in the page's instance for a function page, else in the GX_ one (R644). -/
def State.cfgErr (s : State) (pg : Option Nat) (cause off port : Nat) : State :=
  match pg with
  | some g => s.cfgErrAt { name := .pgErr, dev := g } { name := .pgErrInfo, dev := g } cause off port false
  | none => s.cfgErrAt { name := .cfgErr } { name := .cfgErrInfo } cause off port false

/-- An error of the evaluation at a tick (R644). -/
def State.cfgErrTick (s : State) (cause : Nat) (b : Blk) : State :=
  s.cfgErrAt { name := .cfgErr } { name := .cfgErrInfo } cause b.offset 0 true

/-! ### CRC-32C (R74) -/

/-- One byte of the Castagnoli CRC, least significant bit first. -/
def crcByte (c : Word) (b : Byte) : Word :=
  (List.range 8).foldl (fun c _ => if c.getLsbD 0 then (c >>> 1) ^^^ 0x82F63B78#32 else c >>> 1)
    (c ^^^ b.zeroExtend 32)

def crc32c (bs : List Byte) : Nat := (bs.foldl crcByte 0xFFFFFFFF#32 ^^^ 0xFFFFFFFF#32).toNat

/-- Bytes with the n bytes at an offset replaced. -/
def patch (bs : List Byte) (off : Nat) (x : List Byte) : List Byte :=
  bs.take off ++ x ++ bs.drop (off + x.length)

/-! ### Interrupts and events (R125, R511-R515) -/

/-- An MSI-X message: dropped while MSI-X is disabled; held by its pending bit while masked, without bus mastering or
in D3hot; sent otherwise (R125). -/
def State.msix (s : State) (port func vec : Nat) : State :=
  let f := s.func port func
  if !f.msixEn then s
  else if f.fmask || !f.bme || f.d3 || s.bitOf { name := .msix, dev := 64 * port + func, n := 4 * vec + 3 } 0 then
    s.onFunc port func fun x => { x with pend := x.pend ||| 2 ^ vec }
  else s.say (.msix port func vec)

/-- An event's contents (R512). -/
structure Event where
  code    : Nat
  kind    : Nat := 0
  index   : Nat := 0
  detail  : Nat := 0
  frn     : Nat := 0
  detail2 : Nat := 0

/-- The 32-byte event record (R512). -/
def Event.bytes (e : Event) (phase ovf : Bool) (stamp : Stamp) : List Byte :=
  leBytes 1 ((if phase then 1 else 0) + (if ovf then 2 else 0)) ++ leBytes 1 e.code ++ leBytes 1 e.kind
    ++ leBytes 1 e.index ++ leBytes 4 e.detail ++ leBytes 8 e.frn ++ leBytes 8 stamp ++ leBytes 8 e.detail2

def State.evRing (s : State) (pg : Nat) : EvRing :=
  (s.rings.ev.find? (·.page = pg)).getD { page := pg, ovf := false }

def State.putEv (s : State) (r : EvRing) : State :=
  { s with rings := { s.rings with ev := r :: s.rings.ev.filter (·.page != r.page) } }

/-- Write an event record to a page's event ring, or drop and count it (R511). The record is confirmed and announced
within the same step (log entry 14). -/
def State.eventTo (s : State) (e : Event) (pg : Nat) : State :=
  let size := 2 ^ s.fieldOf { name := .evqCfg, dev := pg } 0 4
  let tail := s.reg { name := .evqTail, dev := pg }
  let used := (tail + 2 ^ 32 - s.reg { name := .evqHead, dev := pg }) % 2 ^ 32
  if !s.bitOf { name := .evqCfg, dev := pg } 4 || size ≤ used then
    (s.bump { name := .evqStat, dev := pg } 0 16).putEv { page := pg, ovf := true }
  else
    let p := s.viaPort pg
    let s := s.say (.hostWrite p (s.pairOf .evqBase pg + 32 * (tail % size))
      (e.bytes (tail / size % 2 = 0) (s.evRing pg).ovf s.now))
    let s := (s.setReg { name := .evqTail, dev := pg } ((tail + 1) % 2 ^ 32)).putEv { page := pg, ovf := false }
    s.msix p (pageFunc pg) 0

/-- Pages that receive package events (R513): the physical function of each host port that is not lost; one page in
MULTIPATH. -/
def State.eventPages (s : State) : List Nat :=
  if s.multipath then (if s.portLost 0 && s.portLost 1 then [] else [0])
  else ([0, 1].filter fun p => !s.portLost p).map (64 * ·)

/-- Raise a package event; FRN is the current frame unless the event names one (R512, R513). -/
def State.event (s : State) (e : Event) : State :=
  let e := if e.frn = 0 then { e with frn := s.frames.frn } else e
  s.eventPages.foldl (fun acc pg => acc.eventTo e pg) s

/-- Raise a function event (R513). -/
def State.funcEvent (s : State) (pg : Nat) (e : Event) : State := s.eventTo { e with frn := s.frames.frn } pg

/-! ### Resident sets -/

/-- Core store ranges of the enabled resident sets a core is a member of, which LDW and MV may read (R426). -/
def State.resident (s : State) (core : Nat) : List CsRange :=
  (List.range 4).filterMap fun n =>
    if s.bitOf { name := .coRsCfg, n := n } 0 && ((s.core core).shards.getD n Shard.none).member then
      some (s.fieldOf { name := .coRsCs, n := n } 0 11 * 4096, 3 * s.fieldOf { name := .coRsSz, n := n } 0 9 * 4096)
    else none

/-- What a command answers. -/
abbrev Out := Host.Outcome State Fault Refusal

end Sys2Proof.Machine
end

