-- ==== Sys2Proof/Machine/MemOps.lean ====
section
/-! DEFINITION. Device memory (chapter 13, 3.4): the granule and mirror maps, the system area, page maps and flags,
frame translation, staged writes and page forks, append slots, and the L2 slices. -/

namespace Sys2Proof.Machine

/-! ### Addresses (R427-R435) -/

/-- Size of device memory, T (R427). -/
def devT : Nat := 0x6C00000000

/-- Stack of a device address (R428). -/
def stackOf (a : Nat) : Nat := a / 4096 % 9

/-- Stack-local address (R428). -/
def localOf (a : Nat) : Nat := a / 4096 / 9 * 4096 + a % 4096

/-- Device address of a stack-local address: the inverse of R428. -/
def deviceOf (h s : Nat) : Nat := (s / 4096 * 9 + h) * 4096 + s % 4096

/-- Pseudo-channel of a stack-local address (R429). -/
def pseudoChannel (s : Nat) : Nat := bitf s 8 6 ^^^ bitf s 14 6

/-- A stack declared failed (FT_FAILED.STACK). -/
def State.stackDead (s : State) (h : Nat) : Bool := s.bitOf rFtFailed (9 + h)

/-- A compute die declared failed or retired (FT_FAILED.CD). -/
def State.dieDead (s : State) (d : Nat) : Bool := s.bitOf rFtFailed d

/-- Mirror address (R435). -/
def State.mirror (s : State) (a : Nat) : Nat := (a + s.pairOf .mcMirrorOff) % devT

/-! ### Bytes -/

/-- The L2 copy of a byte where its sector is valid (R444). -/
def L2Slice.byte? (sl : L2Slice) (x : Nat) : Option Byte :=
  match sl.lines.find? (·.line = x / 128) with
  | some l => if l.valid.getD (x % 128 / 64) false then l.data[x % 128]? else none
  | none => none

def State.slice (s : State) (h : Nat) : L2Slice := s.mem.slices.getD h L2Slice.reset
def State.stack (s : State) (h : Nat) : Mem := s.mem.hbm.dram.getD h Mem.empty

/-- One device byte: undefined content, the L2 copy, or the stack. -/
def State.devByte (s : State) (a : Nat) : Byte :=
  match undefAt s.mem.hbm.undef a with
  | some e => Config.undefByte e a
  | none =>
    match (s.slice (stackOf a)).byte? (localOf a) with
    | some b => b
    | none => (s.stack (stackOf a)).read (localOf a)

/-- Consecutive device bytes, at physical addresses. -/
def State.devRead (s : State) (a n : Nat) : List Byte := (List.range n).map fun i => s.devByte (a + i)

def State.devLe (s : State) (a n : Nat) : Nat := leNat (s.devRead a n)

/-- Store a byte in its stack, and in the L2 copy where one is valid. -/
def MemSys.put (m : MemSys) (a : Nat) (b : Byte) : MemSys :=
  let x := localOf a
  { m with
    hbm := { m.hbm with
      dram := m.hbm.dram.modify (stackOf a) (Mem.write x b), undef := m.hbm.undef.flatMap (cutUndef a 1) },
    slices := m.slices.modify (stackOf a) fun sl =>
      { sl with lines := sl.lines.map fun l => if l.line = x / 128 then { l with data := l.data.set (x % 128) b } else l } }

/-- Store bytes at physical device addresses. -/
def MemSys.putAll (m : MemSys) (a : Nat) : List Byte → MemSys
  | [] => m
  | b :: bs => (m.put a b).putAll (a + 1) bs

def State.devWrite (s : State) (a : Nat) (bs : List Byte) : State := { s with mem := s.mem.putAll a bs }

/-- Make a device range undefined from now on. -/
def State.makeUndef (s : State) (a n : Nat) : State :=
  { s with mem := { s.mem with hbm := { s.mem.hbm with undef := (a, n, s.free) :: s.mem.hbm.undef } },
           free := s.free + 1 }

/-! ### Failed stacks (R437, R438, R525, R526) -/

/-- Where a byte is served: its own address, its mirror while its stack has failed, or nowhere (R525). -/
def State.serve (s : State) (mirrored : Bool) (a : Nat) : Option Nat :=
  if !s.stackDead (stackOf a) then some a
  else if mirrored then some (s.mirror a)
  else none

/-- Read a range with the failure rules; a RECREATE region's lost bytes come from its source, which software keeps
equal to the committed content the stack held (R438; log entry 15). None where a granule is lost (R526). -/
def State.readRange (s : State) (mirrored recreate : Bool) (a n : Nat) : Option (List Byte) :=
  if recreate then some (s.devRead a n)
  else if (List.range n).any fun i => (s.serve mirrored (a + i)).isNone then none
  else some ((List.range n).map fun i => s.devByte ((s.serve mirrored (a + i)).getD 0))

/-- Write a range with the failure rules: both copies of a mirrored range, each where its stack is in service (R436,
R525). None where a granule is lost; nothing changes there (R526). -/
def State.writeRange (s : State) (mirrored : Bool) (a : Nat) (bs : List Byte) : Option State :=
  if mirrored then
    let s := if s.stackDead (stackOf a) then s else s.devWrite a bs
    some (if s.stackDead (stackOf (s.mirror a)) then s else s.devWrite (s.mirror a) bs)
  else if (List.range bs.length).any fun i => s.stackDead (stackOf (a + i)) then none
  else some (s.devWrite a bs)

/-! ### The system area: page map and flags (R164, R430, R432) -/

def State.sysBase (s : State) : Nat := s.pairOf .mcSysBase

def State.sysRead (s : State) (off n : Nat) : Nat := leNat ((s.readRange true false (s.sysBase + off) n).getD [])

def State.sysWrite (s : State) (off n v : Nat) : State :=
  (s.writeRange true (s.sysBase + off) (leBytes n v)).getD s

/-- A page map entry (R432). -/
structure PageEntry where
  cur   : Bool
  stg   : Bool
  owner : Nat
  deriving DecidableEq, Repr

def State.pageEntry (s : State) (i : Nat) : PageEntry :=
  let f := s.sysRead (16 * i) 1
  { cur := bit f 0, stg := bit f 1, owner := s.sysRead (16 * i + 8) 8 }

def State.setPageEntry (s : State) (i : Nat) (e : PageEntry) : State :=
  (s.sysWrite (16 * i) 8 ((if e.cur then 1 else 0) + (if e.stg then 2 else 0))).sysWrite (16 * i + 8) 8
    (if e.stg then e.owner else 0)

/-- A flag of a page: value, level, VALID (R430). -/
structure Flag where
  value : Nat
  level : Nat
  valid : Bool
  deriving DecidableEq, Repr

def flagOff (pg i : Nat) : Nat := 0x06C00000 + 8 * (pg * 1024 + i)

def State.flag (s : State) (pg i : Nat) : Flag :=
  let w := s.sysRead (flagOff pg i) 8
  { value := bitf w 0 48, level := bitf w 48 8, valid := bit w 56 }

def State.setFlag (s : State) (pg i : Nat) (f : Flag) : State :=
  s.sysWrite (flagOff pg i) 8 (f.value % 2 ^ 48 + f.level % 256 * 2 ^ 48 + (if f.valid then 2 ^ 56 else 0))

/-! ### Operations -/

def State.op? (s : State) (asn : Nat) : Option OpRec := s.ops.list.find? (·.ctx.asn = asn)

/-- Apply a change to an operation's record. -/
def State.onOp (s : State) (asn : Nat) (f : OpRec → OpRec) : State :=
  { s with ops := { s.ops with list := s.ops.list.map fun o => if o.ctx.asn = asn then f o else o } }

/-- Unresolved operations of the same ring with a smaller ASN (R80, R81). -/
def State.earlierOnRing (s : State) (o : OpRec) : List OpRec :=
  s.ops.list.filter fun x => x.page = o.page && x.ctx.ring = o.ctx.ring && x.ctx.asn < o.ctx.asn
    && x.stage != .resolved

/-! ### Windows (R484-R486) -/

def expEntry (ps : List PoolEntry) (w : Nat) : Option (List Byte) := (ps.find? (·.num = w)).map (·.bytes)

def expKind (b : List Byte) : Nat := bitf (fld b 0 1) 1 2
def expMirror (b : List Byte) : Bool := bit (fld b 0 1) 3
def expGuard (b : List Byte) : Bool := bit (fld b 0 1) 4
def expXwin (b : List Byte) : Int := twos 16 (fld b 2 2)
def expStage (b : List Byte) : Nat := fld b 4 4
def expBase (b : List Byte) : Nat := fld b 8 8
def expSize (b : List Byte) : Nat := fld b 0x10 8

/-- Sharer words of an export entry (R485). -/
def expSharers (b : List Byte) : List Nat := (List.range 16).map fun i => fld b (0x40 + 4 * i) 4

/-- The VALID sharer with a remote endpoint ID. -/
def remoteSharer (b : List Byte) (init : Nat) : Option Nat :=
  (expSharers b).find? fun w => bit w 31 && !bit w 16 && bitf w 0 16 = init

/-- The VALID local sharer of a function on a port. -/
def localSharer (b : List Byte) (port func : Nat) : Option Nat :=
  (expSharers b).find? fun w => bit w 31 && bit w 16 && bitf w 0 6 = func && bitf w 6 1 = port

/-- The active export entry of a window, VALID only. -/
def State.window (s : State) (w : Nat) : Option (List Byte) :=
  match expEntry s.pool.exps w with
  | some b => if bit (fld b 0 1) 0 then some b else none
  | none => none

def State.import (s : State) (w : Nat) : Option (List Byte) :=
  match expEntry s.pool.imps w with
  | some b => if bit (fld b 0 1) 0 then some b else none
  | none => none

/-! ### Regions as device ranges -/

/-- Where a region's bytes stand: device base, size of one frame, and whether pages are versioned (R431, R484). -/
structure Place where
  base      : Nat
  size      : Nat
  versioned : Bool
  mirrored  : Bool
  recreate  : Bool
  deriving DecidableEq, Repr

def State.place (s : State) (r : Region) : Option Place :=
  match r.kind with
  | .versioned => some { base := r.base, size := r.size, versioned := true, mirrored := r.mirror, recreate := r.recreate }
  | .append | .scratch =>
    some { base := r.base, size := r.size, versioned := false, mirrored := r.mirror, recreate := r.recreate }
  | .poolLocal =>
    (s.window r.window).map fun b =>
      { base := expBase b + r.base, size := expSize b, versioned := expKind b = 0, mirrored := expMirror b,
        recreate := false }
  | _ => none

/-- Outcome of an access by an operation. -/
inductive MemAcc (α : Type) where
  | ok (x : α)
  | wait
  | lost

/-- Nothing of a segment is left to do on its core (R58, 2.7): its items have ended, and the queue, the stream engines
and the output channel hold no work of it. -/
def Core.segDone (k : Core) (g : Seg) : Bool :=
  g.finished || (g.started && g.items.all (·.done) && !(k.queue.any (·.asn = g.ctx.asn)) && !k.streaming g.ctx.asn
    && !(k.arrays.any fun a => a.tiles.any fun t =>
      (t.closed || t.backAct != .none) && (match t.owner with | some w => w.asn = g.ctx.asn | none => false)))

/-- Every segment of an operation has finished. -/
def State.opFinished (s : State) (o : OpRec) : Bool :=
  o.stage = .finished || (o.stage = .running && !o.cores.isEmpty && o.cores.all fun c =>
    (s.core c).segs.all fun g => g.ctx.asn != o.ctx.asn || (s.core c).segDone g)

/-- The frame of a versioned byte an operation reads (R81): its own staged copy, that of an earlier undecided
operation of its ring once its segments have finished, else the committed copy. None while a forwarding read waits.
`own` is false for COPY, which never reads its own staged copy (R364). -/
def State.readFrame (s : State) (o : OpRec) (e : PageEntry) (own : Bool := true) : Option Bool :=
  if !e.stg then some e.cur
  else if e.owner = o.ctx.asn then some (if own then !e.cur else e.cur)
  else match (s.earlierOnRing o).find? (·.ctx.asn = e.owner) with
    | some x => if s.opFinished x then some (!e.cur) else none
    | none => some e.cur

/-- Read within one 64 KiB page, for an operation (R81, R433). -/
def State.opReadPage (s : State) (o : OpRec) (p : Place) (off n : Nat) (own : Bool := true) : MemAcc (List Byte) :=
  let fr := if p.versioned then s.readFrame o (s.pageEntry ((p.base + off) / 65536)) own else some false
  match fr with
  | none => .wait
  | some b =>
    match s.readRange p.mirrored p.recreate (p.base + off + (if b then p.size else 0)) n with
    | some bs => .ok bs
    | none => .lost

/-- Read consecutive bytes of a place, page by page. -/
def State.opReadFrom (s : State) (o : OpRec) (p : Place) (own : Bool := true) : Nat → Nat → Nat → MemAcc (List Byte)
  | 0, _, _ => .ok []
  | fuel + 1, off, n =>
    if n = 0 then .ok []
    else
      let here := min n (65536 - (p.base + off) % 65536)
      match s.opReadPage o p off here own with
      | .ok bs =>
        match s.opReadFrom o p own fuel (off + here) (n - here) with
        | .ok rest => .ok (bs ++ rest)
        | .wait => .wait
        | .lost => .lost
      | .wait => .wait
      | .lost => .lost

/-- Offset in an APPEND region of a byte of the operation's slot (R82, R163). -/
def slotOffset (size start off : Nat) : Nat := (start + off) % max 1 size

/-- A read of a region by an operation; `rel` for an output slot, whose APPEND offsets count from the operation's
reserved slot (R82). -/
def State.opRead (s : State) (o : OpRec) (r : Region) (rel : Bool) (off n : Nat) (own : Bool := true) :
    MemAcc (List Byte) :=
  match s.place r with
  | none => .lost
  | some p =>
    let off := match rel, r.kind, o.append with
      | true, .append, some a => slotOffset r.size a.1 off
      | _, _, _ => off
    s.opReadFrom o p own (n / 65536 + 2) off n

/-- Fork a page (R79): unless the write covers it, the committed copy is copied into the staged one; the entry names
the owner. None where the committed copy is lost (R526). -/
def State.forkPage (s : State) (owner : Nat) (p : Place) (page : Nat) (whole : Bool) : Option State :=
  let e := s.pageEntry page
  let fr (b : Bool) : Nat := page * 65536 + (if b then p.size else 0)
  let copied : Option State :=
    if whole then some s
    else match s.readRange p.mirrored false (fr e.cur) 65536 with
      | none => none
      | some bs => s.writeRange p.mirrored (fr !e.cur) bs
  copied.map fun s => s.setPageEntry page { e with stg := true, owner := owner }

/-- The stacks a place's page is homed on, for R86: the die that drives the staged byte. -/
def noteStage (asn page home : Nat) (s : State) : State :=
  s.onOp asn fun o => { o with
    pages := if o.pages.contains page then o.pages else page :: o.pages,
    homes := if o.homes.contains home then o.homes else home :: o.homes }

/-- Write within one page, for an operation (R79, R80, R83, R526). -/
def State.opWritePage (s : State) (o : OpRec) (p : Place) (off : Nat) (bs : List Byte) : MemAcc State :=
  let fin (x : Option State) : MemAcc State := match x with | some s => .ok s | none => .lost
  if !p.versioned then fin (s.writeRange p.mirrored (p.base + off) bs)
  else
    let page := (p.base + off) / 65536
    let e := s.pageEntry page
    if e.stg && e.owner != o.ctx.asn then .wait
    else
      let at_ (cur : Bool) : Nat := p.base + off + (if cur then 0 else p.size)
      let forked := if e.stg then some s else s.forkPage o.ctx.asn p page (bs.length = 65536)
      match forked with
      | none => .lost
      | some s =>
        let home := stackOf ((s.serve p.mirrored (at_ e.cur)).getD (at_ e.cur))
        fin ((s.writeRange p.mirrored (at_ e.cur) bs).map (noteStage o.ctx.asn page home))

def State.opWriteFrom (s : State) (o : OpRec) (p : Place) : Nat → Nat → List Byte → MemAcc State
  | 0, _, _ => .ok s
  | fuel + 1, off, bs =>
    if bs.isEmpty then .ok s
    else
      let here := 65536 - (p.base + off) % 65536
      match s.opWritePage o p off (bs.take here) with
      | .ok s => s.opWriteFrom o p fuel (off + here) (bs.drop here)
      | .wait => .wait
      | .lost => .lost

/-! ### Deltas of ACCUM windows (R503, R504) -/

/-- A delta: offset, VTYPE and VALUE of a SACC record. -/
abbrev Delta := Nat × Nat × Nat

/-- The 16-byte records a message carries (R503). -/
def saccRecords (bs : List Byte) : List (List Byte) := chunks 16 bs.length bs

/-- Bytes of a record's target word; 1 for a skipped record. -/
def vtypeSize : Nat → Nat
  | 1 => 4
  | 2 => 8
  | 3 => 16
  | _ => 1

/-- Status the far side gives one record: KIND, RANGE or SPECIAL, else OK (R503). -/
def recordStatus (size : Nat) (r : List Byte) : Nat :=
  let ty := fld r 6 1
  let off := fld r 0 6
  if 3 < ty || fld r 7 1 ≠ 0 || ((ty = 1 || ty = 3) && fld r 12 4 ≠ 0) then 0x0A
  else if ty ≠ 0 && (off % vtypeSize ty ≠ 0 || size < off + vtypeSize ty) then 0x01
  else if ty = 3 && ((f32 (BitVec.ofNat 32 (fld r 8 4))).isNan || (f32 (BitVec.ofNat 32 (fld r 8 4))).isInf) then 0x07
  else 0

/-- Deltas of the records of an accepted message; VTYPE 0 is skipped. -/
def deltasOf (bs : List Byte) : List Delta :=
  (saccRecords bs).filterMap fun r =>
    if fld r 6 1 = 0 then none else some (fld r 0 6, fld r 6 1, fld r 8 8)

/-- Status of a whole message, the refusals taken in R503's order; `room` is what STAGE_SIZE still holds, in
deltas of 16 bytes. -/
def saccStatus (size room : Nat) (bs : List Byte) : Nat :=
  let st := (saccRecords bs).map (recordStatus size)
  if st.contains 0x0A then 0x0A
  else if st.contains 0x01 then 0x01
  else if st.contains 0x07 then 0x07
  else if room < (deltasOf bs).length then 0x05
  else 0

/-- Deltas a window's staging still has room for. -/
def State.stageRoom (s : State) (win : Nat) (b : List Byte) : Nat :=
  let scopes := ((s.pool.scopes.filter (·.win = win)).map (·.deltas.length)).foldl (· + ·) 0
  let ops := (s.ops.list.map fun o => (o.deltas.filter (·.1 = win)).length).foldl (· + ·) 0
  expStage b / 16 - (scopes + ops)

/-- What a delta adds to its word: the integer, or the term of R271 steps 1 and 2 under the window's XWIN. -/
def deltaAmount (xwin : Int) (ty value : Nat) : Int :=
  match ty with
  | 1 => twos 32 (value % 2 ^ 32)
  | 2 => twos 64 value
  | _ => match f32 (BitVec.ofNat 32 (value % 2 ^ 32)) with
    | .fin sg m e => max (-x128Clamp) (min x128Clamp (termUnits xwin sg m e).1)
    | _ => 0

/-- Apply one delta to its target word, modulo the word's width (R504). -/
def State.applyDelta (s : State) (b : List Byte) (d : Delta) : State :=
  let n := vtypeSize d.2.1
  let at_ := expBase b + d.1
  let old := leNat ((s.readRange (expMirror b) false at_ n).getD [])
  let sum := ((old : Int) + deltaAmount (expXwin b) d.2.1 d.2.2) % ((2 ^ (8 * n) : Nat) : Int)
  (s.writeRange (expMirror b) at_ (leBytes n sum.toNat)).getD s

/-- Apply a scope's deltas (R504). -/
def State.applyDeltas (s : State) (win : Nat) (ds : List Delta) : State :=
  match s.window win with
  | some b => ds.foldl (fun acc d => acc.applyDelta b d) s
  | none => s

/-- A 64-byte line an operation writes to a local ACCUM window: its records become deltas of the operation; a message
that R503 refuses stores nothing (log entry 33). -/
def State.accumLine (s : State) (asn : Nat) (r : Region) (b line : List Byte) : State :=
  if saccStatus (expSize b) (s.stageRoom r.window b) line ≠ 0 then s
  else s.onOp asn fun o => { o with deltas := o.deltas ++ (deltasOf line).map fun d => (r.window, d.1, d.2.1, d.2.2) }

/-- The window of a local ACCUM region (R484). -/
def State.localAccum (s : State) (r : Region) : Option (List Byte) :=
  if r.kind = .poolLocal then
    match s.window r.window with
    | some b => if expKind b = 2 then some b else none
    | none => none
  else none

/-- A write of a region by an operation: versioned and local transactional pages are staged, an APPEND slot records
its highest byte written, scratch is written at once, an ACCUM window's records become deltas (R78-R83, R504). -/
def State.opWrite (s : State) (o : OpRec) (r : Region) (off : Nat) (bs : List Byte) : MemAcc State :=
  match s.localAccum r with
  | some b => .ok ((chunks 64 bs.length bs).foldl (fun acc l => acc.accumLine o.ctx.asn r b l) s)
  | none =>
  match s.place r with
  | none => .lost
  | some p =>
    match r.kind, o.append with
    | .append, some a =>
      match s.opWriteFrom o p (bs.length / 65536 + 2) (slotOffset r.size a.1 off) bs with
      | .ok s => .ok (s.onOp o.ctx.asn fun x => { x with appendHi := max x.appendHi (off + bs.length) })
      | x => x
    | _, _ => s.opWriteFrom o p (bs.length / 65536 + 2) off bs

/-- Commit or free an operation's staged pages (R88): the staged copy becomes the committed one, or is freed. -/
def State.settlePages (s : State) (owner : Nat) (commit : Bool) (pages : List Nat) : State :=
  pages.foldl (fun acc i =>
    let e := acc.pageEntry i
    if e.stg && e.owner = owner then
      acc.setPageEntry i { cur := if commit then !e.cur else e.cur, stg := false, owner := 0 }
    else acc) s

/-- Committed bytes of a place, page by page (R81). -/
def State.committedFrom (s : State) (p : Place) : Nat → Nat → Nat → List Byte
  | 0, _, _ => []
  | fuel + 1, off, n =>
    if n = 0 then []
    else
      let here := min n (65536 - (p.base + off) % 65536)
      let cur := p.versioned && (s.pageEntry ((p.base + off) / 65536)).cur
      (s.readRange p.mirrored p.recreate (p.base + off + (if cur then p.size else 0)) here).getD (List.replicate here 0)
        ++ s.committedFrom p fuel (off + here) (n - here)

def State.committed (s : State) (r : Region) (off n : Nat) : List Byte :=
  match s.place r with
  | some p => s.committedFrom p (n / 65536 + 2) off n
  | none => List.replicate n 0

/-- Bytes of shard i of a resident set, from the committed copy of its source (R357, R358). -/
def State.shardSource (s : State) (set i size : Nat) : List Byte :=
  match Region.parse (s.ops.sets.getD set []) with
  | some r => s.committed r (s.pairOf .coRsSrc 0 set + i * size) size
  | none => List.replicate size 0

/-! ### Append regions (R82, R163, R649) -/

def State.appendOf (s : State) (base size : Nat) : AppendRegion :=
  (s.ops.append.find? (·.base = base)).getD { base := base, size := size, tail := 0, resv := 0, consume := 0, slots := [] }

def State.putAppend (s : State) (r : AppendRegion) : State :=
  { s with ops := { s.ops with append := r :: s.ops.append.filter (·.base != r.base) } }

/-- Reserve a slot at the reservation pointer, skipping the end of the region where it would cross it; none where it
does not fit (R82, R163). -/
def AppendRegion.reserve (r : AppendRegion) (asn len : Nat) : Option (AppendRegion × Nat) :=
  let off := r.resv % max 1 r.size
  let skip := if off + len ≤ r.size then 0 else r.size - off
  if r.resv + skip + len ≤ r.consume + r.size then
    let st := r.resv + skip
    some ({ r with resv := st + len,
                   slots := r.slots ++ [{ start := st, len := len, skip := skip, asn := asn, state := 0 }] }, st)
  else none

/-- A pad record: its length, all ones, then zero bytes (R82). -/
def padRecord (n : Nat) : List Byte :=
  if n < 8 then [] else leBytes 4 n ++ leBytes 4 0xFFFFFFFF ++ leBytes (n - 8) 0

/-- Write at a byte count of an APPEND region; mirrored as the region is. -/
def State.appendPut (s : State) (r : AppendRegion) (mirrored : Bool) (count : Nat) (bs : List Byte) : State :=
  (s.writeRange mirrored (r.base + count % max 1 r.size) bs).getD s

/-- Advance the committed tail over settled slots, padding the bytes skipped before each (R649). -/
def State.advanceTail (s : State) (mirrored : Bool) (r : AppendRegion) : List ASlot → State × AppendRegion
  | [] => (s, { r with slots := [] })
  | x :: xs =>
    if x.state = 0 then (s, { r with slots := x :: xs })
    else
      let s := s.appendPut r mirrored (x.start - x.skip) (padRecord x.skip)
      s.advanceTail mirrored { r with tail := x.start + x.len } xs

/-- Drop released slots at the end, moving the reservation pointer back (R649). -/
def dropReleased : List ASlot → Nat → List ASlot × Nat
  | [], p => ([], p)
  | x :: xs, p => if x.state = 2 then dropReleased xs (x.start - x.skip) else (x :: xs, p)

/-- Settle an operation's slot (R649): 0 committed with data length d, 1 ended, 2 aborted. -/
def State.settleSlot (s : State) (base size asn how hi : Nat) (mirrored : Bool) : State :=
  let r := s.appendOf base size
  match r.slots.find? (fun x => x.asn = asn && x.state = 0) with
  | none => s
  | some x =>
    let d := (hi + 7) / 8 * 8
    let mark (st : Nat) : AppendRegion :=
      { r with slots := r.slots.map fun y => if y.start = x.start ∧ y.asn = asn then { y with state := st } else y }
    if how = 2 then
      let r2 := mark 2
      let back := dropReleased r2.slots.reverse r2.resv
      if back.1.length < r2.slots.length then s.putAppend { r2 with slots := back.1.reverse, resv := back.2 }
      else
        let s := s.appendPut r mirrored x.start (padRecord x.len)
        let done := s.advanceTail mirrored (mark 1) (mark 1).slots
        done.1.putAppend done.2
    else
      let s := if how = 0 then
          (s.appendPut r mirrored (x.start + hi) (leBytes (d - hi) 0)).appendPut r mirrored (x.start + d)
            (padRecord (x.len - d))
        else s.appendPut r mirrored x.start (padRecord x.len)
      let done := s.advanceTail mirrored (mark 1) (mark 1).slots
      done.1.putAppend done.2

/-! ### L2 slices (R444-R449) -/

/-- Bank of a line (s[10:7]) and key of its set: bank and set together are the low 14 bits of the line number. -/
def l2Bank (ln : Nat) : Nat := ln % 16
def l2Set (ln : Nat) : Nat := ln % 16384

def L2Slice.line? (sl : L2Slice) (ln : Nat) : Option L2Line := sl.lines.find? (·.line = ln)
def L2Slice.mshr? (sl : L2Slice) (ln : Nat) : Option Mshr := sl.mshrs.find? (·.line = ln)
def L2Slice.tree (sl : L2Slice) (ln : Nat) : Nat := (sl.plru.lookup (l2Set ln)).getD 0

/-- Point the tree away from a way: at each node on its path, remember the other side (log entry 16). -/
def treeTouch (t way : Nat) : Nat :=
  ((List.range 4).foldl (fun (a : Nat × Nat) lvl =>
    let right := bit way (3 - lvl)
    (2 * a.1 + (if right then 1 else 0), putBits a.2 (a.1 - 1) 1 (if right then 0 else 1))) (1, t)).2

/-- The way the tree points to, never a reserved one (R445; log entry 16). -/
def treeVictim (t : Nat) (reserved : List Nat) : Nat :=
  let free (lo n : Nat) : Bool := (List.range n).any fun i => !reserved.contains (lo + i)
  ((List.range 4).foldl (fun (a : Nat × Nat) lvl =>
    let half := 2 ^ (3 - lvl)
    let want := bit t (a.1 - 1)
    let right := if free (a.2 + (if want then half else 0)) half then want else !want
    (2 * a.1 + (if right then 1 else 0), a.2 + (if right then half else 0))) (1, 0)).2

def L2Slice.touch (sl : L2Slice) (ln way : Nat) : L2Slice :=
  { sl with plru := (l2Set ln, treeTouch (sl.tree ln) way) :: sl.plru.filter (·.1 != l2Set ln) }

/-- Ways of a line's set in use, and ways reserved for fills in flight. -/
def L2Slice.usedWays (sl : L2Slice) (ln : Nat) : List Nat :=
  (sl.lines.filter fun l => l2Set l.line = l2Set ln).map (·.way)
def L2Slice.reservedWays (sl : L2Slice) (ln : Nat) : List Nat :=
  (sl.mshrs.filter fun m => l2Set m.line = l2Set ln).map (·.way)

/-- The way a new line takes: the lowest-numbered invalid way, else the tree's victim; none while all 16 are reserved
(R445). -/
def L2Slice.pickWay (sl : L2Slice) (ln : Nat) : Option Nat :=
  let res := sl.reservedWays ln
  match (List.range 16).find? fun w => !(sl.usedWays ln).contains w && !res.contains w with
  | some w => some w
  | none => if (List.range 16).all fun w => res.contains w then none else some (treeVictim (sl.tree ln) res)

def State.onSlice (s : State) (h : Nat) (f : L2Slice → L2Slice) : State :=
  { s with mem := { s.mem with slices := s.mem.slices.modify h f } }

/-- Write one sector of a line to its stack (a write-back or write-through, R442, R447). -/
def State.sectorOut (s : State) (h : Nat) (l : L2Line) (sec : Nat) : State :=
  { s with mem := { s.mem with hbm := { s.mem.hbm with
      dram := s.mem.hbm.dram.modify h fun m =>
        m.writeBytes (l.line * 128 + 64 * sec) ((l.data.drop (64 * sec)).take 64) } } }

/-- Write back a line's dirty sectors; the line stays, clean (R445, R448, R451). -/
def State.cleanLine (s : State) (h : Nat) (l : L2Line) : State :=
  let s := if l.dirty.getD 0 false then s.sectorOut h l 0 else s
  let s := if l.dirty.getD 1 false then s.sectorOut h l 1 else s
  s.onSlice h fun sl => { sl with
    lines := sl.lines.map fun x => if x.line = l.line then { x with dirty := [false, false] } else x,
    order := sl.order.filter fun k => k / 2 != l.line }

/-- Take a line out of a slice. -/
def State.dropLine (s : State) (h ln : Nat) : State :=
  s.onSlice h fun sl => { sl with lines := sl.lines.filter (·.line != ln), order := sl.order.filter fun k => k / 2 != ln }

/-- Free a way for a line: a dirty victim is written back first (R445). -/
def State.evict (s : State) (h ln way : Nat) : State :=
  match (s.slice h).lines.find? fun l => l2Set l.line = l2Set ln && l.way = way with
  | some l => (s.cleanLine h l).dropLine h l.line
  | none => s

/-- The dirty budget in sectors, D / 64 (R449). -/
def State.budget (s : State) : Nat := s.fieldOf { name := .mcDirty } 0 8 * 4096

/-- Sectors of a request within its line. -/
def L2Req.sectors (r : L2Req) : List Nat := (List.range 2).filter fun k =>
  r.addr % 128 < 64 * (k + 1) && 64 * k < r.addr % 128 + r.len

/-- A request lies within valid sectors of a line. -/
def hits (l : L2Line) (r : L2Req) : Bool := r.sectors.all fun k => l.valid.getD k false

/-- A write that covers whole sectors needs no fill (R445). -/
def L2Req.wholeSectors (r : L2Req) : Bool := r.addr % 64 = 0 && r.len % 64 = 0 && 0 < r.len

/-- A line's bytes with a write merged. -/
def mergeWrite (data : List Byte) (r : L2Req) : List Byte :=
  match r.data with
  | some bs => patch data (r.addr % 128) bs
  | none => data

/-- Mark sectors of a line after a write: valid, and dirty unless written through. -/
def L2Line.written (l : L2Line) (r : L2Req) : L2Line :=
  { l with data := mergeWrite l.data r,
           valid := (List.range 2).map fun k => l.valid.getD k false || r.sectors.contains k,
           dirty := (List.range 2).map fun k => l.dirty.getD k false || (r.sectors.contains k && !r.thru) }

/-- Bytes of a write to the stack itself. -/
def State.thruOut (s : State) (h : Nat) (r : L2Req) : State :=
  match r.data with
  | some bs => { s with mem := { s.mem with hbm := { s.mem.hbm with
      dram := s.mem.hbm.dram.modify h fun m => m.writeBytes r.addr bs } } }
  | none => s

/-- Answer a request: read data or a write acknowledgement. The source keeps the request no longer (R465), and what a
write stored is no longer undefined. -/
def State.answer (s : State) (h : Nat) (r : L2Req) (data : List Byte) : State :=
  let s := { s with fab := { s.fab with kept := s.fab.kept.filter fun m => !(m.slice = h && m.id = r.id) } }
  match r.data with
  | some bs =>
    let cut := s.mem.hbm.undef.flatMap (cutUndef (deviceOf h r.addr) bs.length)
    { s with mem := { s.mem with hbm := { s.mem.hbm with undef := cut } } }.say (.l2Ack h r.id)
  | none => s.say (.l2Data h r.id ((data.drop (r.addr % 128)).take r.len))

/-- Replace a line and record newly dirty sectors, oldest first. -/
def L2Slice.putLine (sl : L2Slice) (l : L2Line) : L2Slice :=
  let keys := ((List.range 2).filter fun k => l.dirty.getD k false).map fun k => l.line * 2 + k
  { sl with lines := l :: sl.lines.filter (·.line != l.line),
            order := sl.order ++ keys.filter fun k => !sl.order.contains k }

/-- Serve a request that hits or needs no fill; none where it must miss or wait. -/
def State.l2Serve (s : State) (h : Nat) (r : L2Req) : Option State :=
  let ln := r.addr / 128
  match (s.slice h).line? ln with
  | some l =>
    match r.data with
    | none => if hits l r then some ((s.onSlice h (·.touch ln l.way)).answer h r l.data) else none
    | some _ =>
      if hits l r || r.wholeSectors then
        let s := if r.thru then s.thruOut h r else s
        some ((s.onSlice h fun sl => (sl.putLine (l.written r)).touch ln l.way).answer h r [])
      else none
  | none =>
    if r.data.isSome && r.thru then some ((s.thruOut h r).answer h r [])
    else if r.data.isSome && r.wholeSectors then
      match (s.slice h).pickWay ln with
      | none => none
      | some w =>
        let fresh : L2Line := { line := ln, way := w, valid := [false, false], dirty := [false, false],
                                data := List.replicate 128 0 }
        some (((s.evict h ln w).onSlice h fun sl => (sl.putLine (fresh.written r)).touch ln w).answer h r [])
    else none

/-- A request to a slice (R445, R446): merge into the line's MSHR, serve, allocate an MSHR, or wait at the bank
input. -/
def State.l2Request (s : State) (h : Nat) (r : L2Req) : State :=
  let ln := r.addr / 128
  let sl := s.slice h
  let wait := s.onSlice h fun x => { x with waitq := x.waitq ++ [r] }
  if sl.waitq.any fun q => q.addr / 128 = ln then wait
  else match sl.mshr? ln with
    | some m =>
      if m.reqs.length < 17 then
        s.onSlice h fun x => { x with mshrs := x.mshrs.map fun y =>
          if y.line = ln then { y with reqs := y.reqs ++ [r] } else y }
      else wait
    | none =>
      match s.l2Serve h r with
      | some s' => s'
      | none =>
        if 48 ≤ (sl.mshrs.filter fun m => l2Bank m.line = l2Bank ln).length then wait
        else
          let way := match sl.line? ln with | some l => some l.way | none => sl.pickWay ln
          match way with
          | none => wait
          | some w =>
            let s := if (sl.line? ln).isSome then s else s.evict h ln w
            s.onSlice h fun x => { x with mshrs := x.mshrs ++ [{ line := ln, way := w, reqs := [r], drop := false }] }

/-- One request of a retiring MSHR: a read returns the data with every earlier merged write; a write merges (R446). -/
def serveMerged (h : Nat) (drop : Bool) (a : State × L2Line) (r : L2Req) : State × L2Line :=
  match r.data with
  | none => (a.1.answer h r a.2.data, a.2)
  | some _ =>
    let s := if drop || r.thru then a.1.thruOut h r else a.1
    (s.answer h r [], { a.2.written r with
      dirty := if drop then [false, false] else (a.2.written r).dirty })

/-- The line a fill brings, merged with valid sectors a partial line already held (R445). -/
def fillLine (sl : L2Slice) (ln way : Nat) (data : List Byte) : L2Line :=
  match sl.line? ln with
  | some l =>
    { l with valid := [true, true],
             data := (if l.valid.getD 0 false then l.data.take 64 else data.take 64)
                       ++ (if l.valid.getD 1 false then l.data.drop 64 else data.drop 64) }
  | none => { line := ln, way := way, valid := [true, true], dirty := [false, false], data := data }

/-- The order in which waiting requests are presented again: higher levels first (R477), the requests of one line in
arrival order (R446), so an earlier one takes the level of a later one of its line. -/
def grantOrder (q : List L2Req) : List L2Req :=
  let eff (i : Nat) (r : L2Req) : Nat :=
    ((q.drop i).filter (·.addr / 128 = r.addr / 128)).foldl (fun m x => max m x.level) 0
  let ranked := q.zipIdx.map fun x => (eff x.2 x.1, x.1)
  [3, 2, 1, 0].flatMap fun l => (ranked.filter (·.1 = l)).map (·.2)

/-- Requests that waited at the bank inputs are presented again (R446, R477). -/
def State.l2Retry (s : State) (h : Nat) : State :=
  let q := (s.slice h).waitq
  (grantOrder q).foldl (fun acc r => acc.l2Request h r) (s.onSlice h fun x => { x with waitq := [] })

/-- A fill arrives (R446, R452): the MSHR's requests are satisfied in arrival order; the line is installed unless the
MSHR is marked drop-on-fill. -/
def State.l2Fill (s : State) (h ln : Nat) (data : List Byte) : State :=
  match (s.slice h).mshr? ln with
  | none => s
  | some m =>
    let r := m.reqs.foldl (serveMerged h m.drop) (s, fillLine (s.slice h) ln m.way data)
    let s := r.1.onSlice h fun x => { x with mshrs := x.mshrs.filter (·.line != ln) }
    let s := if m.drop then s.dropLine h ln
             else s.onSlice h fun x => (x.putLine r.2).touch ln m.way
    s.l2Retry h

/-- Write back every dirty sector of a slice, oldest first: the guard clean (R448). -/
def State.cleanSlice (s : State) (h : Nat) : State :=
  (s.slice h).lines.foldl (fun acc l => if l.dirty.any id then acc.cleanLine h l else acc) s

/-- At half the budget the slice also writes back its oldest dirty sector in an idle slot (R449; log entry 17). -/
def State.idleClean (s : State) (h : Nat) : State :=
  let sl := s.slice h
  if s.budget / 2 ≤ sl.order.length ∧ 0 < sl.order.length then
    match sl.line? (sl.order.headD 0 / 2) with
    | some l => s.cleanLine h l
    | none => s
  else s

/-- Level of a request by its source and class (R464, R478). -/
def State.levelOf (s : State) (src cls : Nat) : Nat :=
  let prio (lo : Nat) : Nat := s.fieldOf { name := .arPrio } lo 2
  if cls = 2 then 3
  else if src < 36 then (if cls = 1 then prio 2 else prio 0)
  else if src < 48 then prio 8
  else if src = 50 ∨ src = 51 then prio 6
  else prio 4

/-- A fill whose data is lost (R450): the requests' reads are answered poisoned, with no bytes, their writes are written
through, and nothing is installed. -/
def State.l2Poison (s : State) (h ln : Nat) : State :=
  match (s.slice h).mshr? ln with
  | none => s
  | some m =>
    let one (a : State) (r : L2Req) : State :=
      match r.data with
      | some _ => (a.thruOut h r).answer h r []
      | none => a.answer h r []
    let s := m.reqs.foldl one s
    let s := s.onSlice h fun x => { x with mshrs := x.mshrs.filter (·.line != ln) }
    s.l2Retry h

end Sys2Proof.Machine
end

