-- ==== Sys2Proof/Machine/RegOps.lean ====
section
/-! DEFINITION. Register reads and writes (chapter 20): what a read returns, how a write is judged field by field,
which fields a state condition holds, WS shadows, and the WS values a tick makes active. -/

namespace Sys2Proof.Machine

/-! ### Values held elsewhere -/

/-- Half of a 64-bit value. -/
def halfOf (v : Nat) (hi : Bool) : Nat := if hi then v / 2 ^ 32 % 2 ^ 32 else v % 2 ^ 32

/-- A submission ring's counts; a fresh ring where none is kept. -/
def State.ring (s : State) (pg n : Nat) : Ring :=
  (s.rings.sq.find? fun r => r.page = pg && r.n = n).getD
    { page := pg, n := n, consumed := 0, produce := 0, fetched := 0, lastDb := none, pending := false,
      serving := 0, lastAsn := 0, written := 0, durable := 0, freed := 0, posted := 0,
      lastFrn := 0, missed := 0, lineAt := none, lineDue := false, reject := none, recover := false }

def State.putRing (s : State) (r : Ring) : State :=
  { s with rings := { s.rings with sq := r :: s.rings.sq.filter fun x => !(x.page = r.page && x.n = r.n) } }

def State.cring (s : State) (pg n : Nat) : CRing :=
  (s.rings.cq.find? fun r => r.page = pg && r.n = n).getD { page := pg, n := n, tail := 0, head := 0, pend := [] }

def State.putCring (s : State) (r : CRing) : State :=
  { s with rings := { s.rings with cq := r :: s.rings.cq.filter fun x => !(x.page = r.page && x.n = r.n) } }

/-- Journaled operations of a ring whose completion record is not durable. -/
def State.ringOps (s : State) (pg n : Nat) : List OpRec :=
  s.ops.list.filter fun o => o.page = pg && o.ctx.ring = n

/-- Accepted, unresolved operations of a ring (R73). -/
def State.unres (s : State) (pg n : Nat) : Nat :=
  ((s.ringOps pg n).filter fun o => o.stage != .issued && o.stage != .resolved).length

def State.sqEnabled (s : State) (pg n : Nat) : Bool := s.bitOf { name := .sqCfg, dev := pg, n := n } 31
def State.cqEnabled (s : State) (pg n : Nat) : Bool := s.bitOf { name := .cqCfg, dev := pg, n := n } 31

/-- RG_SQn_STAT.ACTIVE. -/
def State.sqActive (s : State) (pg n : Nat) : Bool :=
  s.sqEnabled pg n || (s.ringOps pg n).any fun o => o.stage != .issued

/-- Completion ring a submission ring names. -/
def State.cqOf (s : State) (pg n : Nat) : Nat := s.fieldOf { name := .sqCfg, dev := pg, n := n } 8 6

def State.cqSize (s : State) (pg n : Nat) : Nat := 2 ^ s.fieldOf { name := .cqCfg, dev := pg, n := n } 0 5

/-- Free slots of a completion ring (R147). -/
def State.cqFree (s : State) (pg n : Nat) : Nat :=
  let c := s.cring pg n
  s.cqSize pg n - (c.tail + 2 ^ 32 - c.head) % 2 ^ 32

/-- Slots of a ring log (R74). -/
def State.logSize (s : State) (pg n : Nat) : Nat := 2 ^ (12 + s.fieldOf { name := .sqCfg, dev := pg, n := n } 18 3)

/-- Home fabric die of a ring: SERVE in MULTIPATH, the port's own in TWO_HOST (R182). -/
def State.homeFd (s : State) (pg n : Nat) : Nat :=
  if s.multipath then s.fieldOf { name := .sqCfg, dev := pg, n := n } 7 1 else pagePort pg

/-- The fabric die serving a ring now: its home unless R131 has moved it. -/
def State.serving (s : State) (pg n : Nat) : Nat :=
  let r := s.ring pg n
  if r.serving = 0 then s.homeFd pg n else r.serving - 1

/-- Whether the ring log has no free slot: slots taken count from the last one freed (R73, R75). -/
def State.logFull (s : State) (pg n : Nat) : Bool := s.logSize pg n ≤ ((s.ring pg n).written - (s.ring pg n).freed)

/-- Fetch is paused: 4,096 unresolved operations or no free log slot (R73). -/
def State.atLimit (s : State) (pg n : Nat) : Bool := 4096 ≤ s.unres pg n || s.logFull pg n

/-- Staged bytes of an export or import entry (15.9). -/
def stagedEntry (ps : List PoolEntry) (sel len : Nat) : List Byte :=
  (expEntry ps sel).getD (List.replicate len 0)

def putEntry (ps : List PoolEntry) (sel : Nat) (b : List Byte) : List PoolEntry :=
  { num := sel, bytes := b } :: ps.filter (·.num != sel)

def State.lock (s : State) (w : Nat) : Lock :=
  (s.pool.locks.find? (·.win = w)).getD { win := w, held := false, owner := 0, leaseEnd := 0, token := 0 }

/-- PL_LK_D0-D3 (15.9): D0 HELD and OWNER, D1 LEASE_END low half, D2 and D3 TOKEN (log entry 18). -/
def lockWord (l : Lock) : Nat → Nat
  | 0 => (if l.held then 1 else 0) + l.owner * 2
  | 1 => l.leaseEnd % 2 ^ 32
  | 2 => l.token % 2 ^ 32
  | _ => l.token / 2 ^ 32

/-- The value a read returns. -/
def State.readReg (s : State) (r : Reg) : Nat :=
  match r.name with
  | .gxSerial => halfOf Config.serial.toNat r.hi
  | .gxCommit | .frCommit | .coCommit | .mcCommit | .arCommit | .ftCommit | .plCommit =>
    if s.armed.any fun a => r.name.blk = some a.1 then 1 else 0
  | .coFrz => (s.core r.dev).frzDry + (s.core r.dev).frzAcc * 2 ^ 16
  | .coChk => (s.core r.dev).chkArray + (if (s.core r.dev).chkMv then 16 else 0)
  | .ftCore =>
    let f := (s.core r.dev).ft
    f.csCe + f.accCe * 2 ^ 8 + f.mismatch * 2 ^ 16 + (if f.halt then 2 ^ 24 else 0) + (if f.csUe then 2 ^ 25 else 0)
  | .ftCoreHasn => halfOf (s.core r.dev).ft.hasn r.hi
  | .frPtb => halfOf s.now r.hi
  | .frFrn => halfOf s.frames.frn r.hi
  | .frPpsSec => if s.frames.ppsDone && s.frames.ppsLast.isNone then 0 else halfOf s.frames.ppsSec r.hi
  | .frStat => putBits (putBits (s.reg r) 2 1 (if s.cm.master = r.dev then 1 else 0)) 3 1 (if s.frames.ticking then 1 else 0)
  | .cmToken => halfOf s.cm.token r.hi
  | .hlWedged =>
    let bits := (List.range 64).foldl (fun v f => v + (if (s.func r.dev f).wedged then 2 ^ f else 0)) 0
    halfOf bits r.hi
  | .rgFlagCfg =>
    let f := s.flag r.dev (s.fieldOf { name := .rgFlagSel, dev := r.dev } 0 10)
    f.level + (if f.valid then 256 else 0)
  | .rgFlagVal => halfOf (s.flag r.dev (s.fieldOf { name := .rgFlagSel, dev := r.dev } 0 10)).value r.hi
  | .plExpD => fld (stagedEntry s.pool.expNew (s.reg { name := .plExpSel }) 128) (4 * r.n) 4
  | .plImpD => fld (stagedEntry s.pool.impNew (s.reg { name := .plImpSel }) 32) (4 * r.n) 4
  | .plLkD => lockWord (s.lock (s.reg { name := .plLkSel })) r.n
  | .plStat => s.pool.scopes.length % 2048
  | .sqCfg => putBits (s.reg r) 7 1 (s.homeFd r.dev r.n)
  | .sqStat =>
    (if s.sqActive r.dev r.n then 1 else 0) + bitf (s.reg r) 1 1 * 2
      + (if s.cqFree r.dev (s.cqOf r.dev r.n) = 0 then 4 else 0) + (if s.atLimit r.dev r.n then 8 else 0)
      + s.serving r.dev r.n * 16 + s.unres r.dev r.n % 8192 * 2 ^ 16
  | .scFlashBuf => ((s.boot.fds.getD r.dev FdBoot.reset).flashBuf.readLe (4 * r.n) 4)
  | .scRcvBuf => ((s.boot.fds.getD r.dev FdBoot.reset).rcvBuf.readLe (4 * r.n) 4)
  | .msixPba => (s.func (r.dev / 64) (r.dev % 64)).pend
  | .scSvnCommit | .gxCtl => bitf (s.reg r) 16 16 * 2 ^ 16
  | _ => s.reg r

/-- RO pairs whose LO read latches HI, and RG_FLAG_VAL (R65, R641). -/
def RegName.latched : RegName → Bool
  | .gxSerial | .arIso | .frPtb | .frFrn | .hlWedged | .cmToken | .cmDecided | .mtLastFrn | .ftCoreHasn
  | .rgFlagVal => true
  | _ => false

/-! ### Writes -/

/-- Judge a write's RW and W1C fields (R10, R640): the new stored value and whether an encoding was reserved. -/
def judge (fs : List Field) (old v : Nat) : Nat × Bool :=
  fs.foldl (fun a f =>
    match f.acc with
    | .rw => if f.ok (bitf v f.lo f.len) then (putBits a.1 f.lo f.len (bitf v f.lo f.len), a.2) else (a.1, true)
    | .w1c => (if bit v f.lo then putBits a.1 f.lo f.len 0 else a.1, a.2)
    | _ => a) (old, false)

/-- Judge a write's WS fields against the shadow (R647). -/
def judgeWs (fs : List Field) (old v : Nat) : Nat × Bool :=
  fs.foldl (fun a f =>
    if f.acc = .ws then
      if f.ok (bitf v f.lo f.len) then (putBits a.1 f.lo f.len (bitf v f.lo f.len), a.2) else (a.1, true)
    else a) (old, false)

/-- RG_CQn_MOD: TIME 0 is valid only with COUNT 1 (R182). -/
def judgeMod (old v : Nat) : Nat × Bool :=
  let c := if 1 ≤ bitf v 0 8 then bitf v 0 8 else bitf old 0 8
  let t := bitf v 8 14
  let tOk := t ≤ 10000 && (t ≠ 0 || c = 1)
  (c + (if tOk then t else bitf old 8 14) * 256, !(1 ≤ bitf v 0 8 && tOk))

def State.anyRing (s : State) (pg : Nat) : Bool := (List.range 64).any fun n => s.sqActive pg n || s.cqEnabled pg n

/-- Bits a state condition holds now (R64, R182, 4.11, 13.10, 14.10, 16.12). -/
def State.heldBits (s : State) (r : Reg) : List (Nat × Nat) :=
  let all := r.fields.map fun f => (f.lo, f.len)
  match r.name with
  | .frCtl => if s.running then [(1, 2), (3, 7), (10, 16)] else []
  | .frEpoch | .frPpsSec | .mcSysBase | .mcMirrorOff | .qlEpid => if s.running then all else []
  | .hlCtl => if s.running then [(0, 2), (4, 1)] else []
  | .sqBase | .sqDb | .sqCons | .sqLog | .sqPoll => if s.sqActive r.dev r.n then all else []
  | .sqCfg => if s.sqActive r.dev r.n then all.filter fun f => f.1 != 31 && (f.1 != 7 || s.multipath) else []
  | .cqBase | .cqHead | .cqTail => if s.cqEnabled r.dev r.n then all else []
  | .cqCfg => if s.cqEnabled r.dev r.n then all.filter (·.1 != 31) else []
  | .rgTtBase | .rgRtBase | .rgTtCount | .rgRtCount => if s.anyRing r.dev then all else []
  | .evqBase => if s.bitOf { name := .evqCfg, dev := r.dev } 4 then all else []
  | .evqCfg => if s.bitOf r 4 then [(0, 4)] else []
  | _ => []

/-- Writes refused whatever value they carry (R46, R454, R577, R618). -/
def State.blocked (s : State) (r : Reg) : Bool :=
  match r.name with
  | .frPpsSec => s.frames.ppsDone
  | .maintAddr | .maintLen | .maintCtl => s.bitOf { name := .maintCtl, dev := r.dev } 3
  | .scMbxCtl | .scMbxNonce => s.bitOf { name := .scMbxCtl, dev := r.dev } 25
  | .scDieCfg => s.boot.pass.isSome || s.boot.done
  | _ => false

/-- Writes only the fabric manager's port may make (R637). -/
def State.denied (s : State) (r : Reg) (port : Nat) : Bool :=
  match r.name with
  | .plFmCtl => s.bitOf { name := .plFmCtl } 1
  | .plCtl | .plCommit | .plExpSel | .plExpD | .plImpSel | .plImpD =>
    port % 2 != s.fieldOf { name := .plFmCtl } 0 1
  | _ => false

/-- Whether a fabric die is in recovery boot (R612). -/
def State.recovery (s : State) (fd : Nat) : Bool := (s.boot.fds.getD fd FdBoot.reset).recovery

/-- A register a port reaches; during recovery boot only SC_RCV_CTL and SC_RCV_BUF answer, and only then (R633). -/
def State.target (s : State) (port : Nat) (vf : Option Nat) (off : Nat) : Option Reg :=
  if s.recovery port && vf.isNone && 0x200000 ≤ off && off < 0x400000 && off % 4 = 0 then
    some { name := .scRcvBuf, dev := port, n := (off - 0x200000) / 4 }
  else match regAt s.multipath port vf off with
  | some r => if s.recovery port = (r.name = .scRcvCtl) then some r else none
  | none => none

/-- A register's page, for R644. -/
def Reg.page (r : Reg) : Option Nat := if r.name.inPage then some r.dev else none

/-- The offset CFG_ERR_INFO records: within BAR0, or within the page (20.5). -/
def errOffset (r : Reg) (vf : Option Nat) (off : Nat) : Nat :=
  if r.name.inPage && vf.isNone then off % 0x10000 else off

/-- A write's reach (R633, R636-R639): the state with an access error recorded, and the register where the write goes
on. -/
def State.wrFront (s : State) (port : Nat) (vf : Option Nat) (off : Nat) (be : BitVec 4) : State × Option Reg :=
  match s.target port vf off with
  | none => (s, none)
  | some r =>
    if r.name.inPage && (s.func (s.viaPort r.dev) (pageFunc r.dev)).wedged then (s, none)
    else if be ≠ 15#4 then (s.cfgErr r.page errWIDTH (errOffset r vf off) port, none)
    else if s.denied r port then (s.cfgErr r.page errDENIED (errOffset r vf off) port, none)
    else if s.blocked r then (s.cfgErr r.page errBUSY (errOffset r vf off) port, none)
    else (s, some r)

/-- A write would change a held field (R640). -/
def State.refuses (s : State) (r : Reg) (v : Nat) : Bool :=
  (s.heldBits r).any fun h => bitf v h.1 h.2 != bitf (s.readReg r) h.1 h.2

/-- Where the stored value of a register lies when it is not the register file. -/
def State.store (s : State) (r : Reg) (v : Nat) : State :=
  match r.name with
  | .plExpD =>
    let sel := s.reg { name := .plExpSel }
    { s with pool := { s.pool with
        expNew := putEntry s.pool.expNew sel (patch (stagedEntry s.pool.expNew sel 128) (4 * r.n) (leBytes 4 v)) } }
  | .plImpD =>
    let sel := s.reg { name := .plImpSel }
    { s with pool := { s.pool with
        impNew := putEntry s.pool.impNew sel (patch (stagedEntry s.pool.impNew sel 32) (4 * r.n) (leBytes 4 v)) } }
  | .scFlashBuf =>
    { s with boot := { s.boot with
        fds := s.boot.fds.modify r.dev fun f => { f with flashBuf := f.flashBuf.writeLe (4 * r.n) 4 v } } }
  | .scRcvBuf =>
    { s with boot := { s.boot with
        fds := s.boot.fds.modify r.dev fun f => { f with rcvBuf := f.rcvBuf.writeLe (4 * r.n) 4 v } } }
  | .ftCore => s.onCore r.dev fun k => { k with ft := { k.ft with halt := bit v 24, csUe := bit v 25 } }
  | .frPpsSec =>
    let hiV := if r.hi then v else s.frames.ppsSec / 2 ^ 32
    let loV := if r.hi then s.frames.ppsSec % 2 ^ 32 else v
    { s with frames := { s.frames with ppsSec := hiV * 2 ^ 32 + loV } }
  | .sqCfg => s.setReg r (if s.multipath then v else putBits v 7 1 (bitf (s.reg r) 7 1))
  | _ => s.setReg r v

/-- Clear a CFG_ERR_INFO once software has cleared every bit of its instance (R645). -/
def State.releaseInfo (s : State) (r : Reg) : State :=
  match r.name with
  | .cfgErr => if s.reg r = 0 then s.setReg { name := .cfgErrInfo } 0 else s
  | .pgErr => if s.reg r = 0 then s.setReg { name := .pgErrInfo, dev := r.dev } 0 else s
  | _ => s

/-- The judged effect of a write on a register's RW and W1C fields (R640). -/
def State.applyWrite (s : State) (port : Nat) (vf : Option Nat) (off : Nat) (r : Reg) (v : Nat) : State :=
  if s.refuses r v then s.cfgErr r.page errBUSY (errOffset r vf off) port
  else
    let j := if r.name = .cqMod then judgeMod (s.readReg r) v else judge r.fields (s.readReg r) v
    let s := (s.store r j.1).releaseInfo r
    if j.2 then s.cfgErr r.page errRSVD (errOffset r vf off) port else s

/-- Writes that are the step of another row: a commit control, RUN, FULL_RESET, a GO, ENABLE, a flag, SVN (their rows
of the table). -/
def State.rowOwned (s : State) (r : Reg) (v : Nat) : Bool :=
  match r.name with
  | .gxCtl | .rgFlagCfg | .rgFlagVal | .scSvnCommit => true
  | .frCtl => bit v 0 && !s.running
  | .cmRecover => bit v 1
  | .sqCfg | .cqCfg => bit v 31 != s.bitOf r 31
  | .maintCtl => bit v 2
  | .scMbxCtl => bit v 24
  | .scFlashCtl => bit v 3
  | .scRcvCtl => bit v 0
  | .amCmd => bit v 12
  | .msix => r.n % 4 = 3 && !bit v 0 && s.bitOf r 0
  | _ => r.name.blk.isSome || r.wsBlk.isSome

/-- A plain register write. -/
def State.writeReg (s : State) (port : Nat) (vf : Option Nat) (off : Nat) (be : BitVec 4) (v : Nat) : State :=
  match s.wrFront port vf off be with
  | (s, none) => s
  | (s, some r) => if s.rowOwned r v then s else s.applyWrite port vf off r v

/-- A write of WS fields enters the shadow (R647). -/
def State.writeWs (s : State) (port off : Nat) (be : BitVec 4) (v : Nat) : State :=
  match s.wrFront port none off be with
  | (s, none) => s
  | (s, some r) =>
    if r.wsBlk.isNone then s
    else
      let j := judgeWs r.fields (s.shadow.get r).toNat v
      let s := { s with shadow := s.shadow.set r (BitVec.ofNat 32 j.1) }
      if j.2 then s.cfgErr none errRSVD off port else s

/-- Arm a block (R646, R9); writing 0 has no effect. -/
def State.arm (s : State) (t port off : Nat) (be : BitVec 4) (v : Nat) : State :=
  match s.wrFront port none off be with
  | (s, none) => s
  | (s, some r) =>
    match r.name.blk with
    | none => s
    | some b =>
      if bit v 0 && !(s.armed.any fun a => a.1 = b) then { s with armed := (b, t) :: s.armed } else s

/-- A read of RC fields returns and clears them for every requester (R642). -/
def State.clearRc (s : State) (r : Reg) : State :=
  match r.name with
  | .coFrz => s.onCore r.dev fun k => { k with frzDry := 0, frzAcc := 0 }
  | .coChk => s.onCore r.dev fun k => { k with chkArray := 0, chkMv := false }
  | .ftCore => s.onCore r.dev fun k => { k with ft := { k.ft with csCe := 0, accCe := 0, mismatch := 0 } }
  | _ => s.setReg r (r.fields.foldl (fun v f => if f.acc = .rc then putBits v f.lo f.len 0 else v) (s.reg r))

/-- A read of a register: the value sent, HI latched on a LO read, a latched HI answered once taken (R65, R641). -/
def State.readLatch (s : State) (port : Nat) (vf : Option Nat) (off : Nat) : State :=
  let req := 64 * port + vf.getD 0
  match s.target port vf off with
  | none => s.say (.regValue port 0)
  | some r =>
    let s' := s.say (.regValue port (BitVec.ofNat 32 (s.readReg r)))
    if r.name.latched && !r.hi then
      let h := { r with hi := true }
      { s' with latches := (req, h, BitVec.ofNat 32 (s.readReg h)) :: s.latches.filter fun l => !(l.1 = req && l.2.1 = h) }
    else s'

/-! ### Values that become active at a tick (R35, R357, R487, R647) -/

/-- WS registers of a block. -/
def Blk.regs : Blk → List Reg
  | .gx => [{ name := .gxPwrCfg }]
  | .fr => [{ name := .frLen }, { name := .frGuard }, { name := .frSplitCfg }]
  | .co => [{ name := .coArrayCfg }, { name := .coSbw }, { name := .coSbd }]
  | .mc => [{ name := .mcDirty }]
  | .ar => [{ name := .arPrio }, { name := .arBl }, { name := .arAge }]
  | .ft => [{ name := .ftCfg }]
  | .pl => [{ name := .plCtl }]

/-- The registers of R35. -/
def guardRegs : List Reg := [{ name := .frLen }, { name := .frGuard }, { name := .mcDirty }]

/-- R35 on F, G, J and the dirty budget; times in picoseconds, C = D / 2.048 TB/s. -/
def guardFits (lenUs guardUs jrnNs budget : Nat) : Bool :=
  2 ≤ guardUs && 8 * guardUs ≤ lenUs && inRange 500 10000 jrnNs
    && 900000 + budget * 262144 * 1000 / 2048 + jrnNs * 1000 ≤ guardUs * 1000000

/-- The value a register would have after a tick that arms these blocks. -/
def State.wouldBe (s : State) (bs : List Blk) (r : Reg) : Nat :=
  match r.wsBlk with
  | some b => if bs.contains b then (s.shadow.get r).toNat else s.reg r
  | none => s.reg r

/-- Make a block's shadows active, leaving out refused registers. -/
def State.activate (s : State) (refused : List Reg) (b : Blk) : State :=
  (b.regs.filter fun r => !refused.contains r).foldl (fun acc r => { acc with regs := acc.regs.set r (acc.shadow.get r) }) s

/-- Resident set registers of set n (R357). -/
def rsRegs (n : Nat) : List Reg :=
  [{ name := .coRsCfg, n := n }, { name := .coRsSz, n := n }, { name := .coRsCs, n := n },
   { name := .coRsSrc, n := n }, { name := .coRsSrc, n := n, hi := true }]

/-- Core store range of a resident set from its CS and SHARD values. -/
def rsRange (cs shard : Nat) : Nat × Nat := (cs * 4096, 3 * shard * 4096)

/-- Whether a resident set's new values pass R357: the range, its overlap with other enabled sets, its source. -/
def State.rsFits (s : State) (n : Nat) (source : List Byte) : Bool :=
  let g (k : Nat) : Nat := (s.shadow.get ((rsRegs n).getD k { name := .coRsCfg, n := n })).toNat
  let cfg := g 0
  let shard := bitf (g 1) 0 9
  let rg := rsRange (bitf (g 2) 0 11) shard
  if !bit cfg 0 then true
  else
    rg.1 + rg.2 ≤ 0x800000
      && ((List.range 4).all fun m => m = n || !s.bitOf { name := .coRsCfg, n := m } 0 ||
          !overlaps rg (rsRange (s.fieldOf { name := .coRsCs, n := m } 0 11) (s.fieldOf { name := .coRsSz, n := m } 0 9)))
      && (match Region.parse source with
          | some r => r.kind != .invalid && r.canRead
              && decide ((g 3) + 2 ^ 32 * (g 4) + bitf cfg 1 6 * shard * 4096 ≤ r.size)
          | none => false)

/-- An export entry passes R487. -/
def expOk (b : List Byte) : Bool :=
  let k := expKind b
  bitf (fld b 0 1) 5 3 = 0 && k ≠ 3 && zeroBytes b 1 1 && zeroBytes b 0x20 32
    && expBase b + (if k = 0 then 2 else 1) * expSize b ≤ devT
    && (if k = 0 then expSize b % 65536 = 0 else expSize b % 4096 = 0)
    && (if k = 2 then decide (-256 ≤ expXwin b) && decide (expXwin b ≤ 127) && expStage b % 65536 = 0
          && fld b 0x18 8 + expStage b ≤ devT
        else fld b 2 2 = 0 && expStage b = 0 && fld b 0x18 8 = 0)
    && (expSharers b).all fun w => !bit w 31 && w = 0 || bit w 31 && bitf w 20 11 = 0

/-- An import entry passes R487. -/
def impOk (b : List Byte) : Bool :=
  bitf (fld b 0 1) 3 5 = 0 && bitf (fld b 0 1) 1 2 ≠ 3 && bitf (fld b 1 1) 4 4 = 0 && bitf (fld b 0x10 1) 3 5 = 0
    && zeroBytes b 0x11 3 && inRange 1000 100000 (fld b 0x14 4)

/-- A staged table entry becomes active, is removed, or is refused (R487). -/
def activateEntries (ok : List Byte → Bool) (act new : List PoolEntry) : List PoolEntry × Bool :=
  new.foldl (fun a e =>
    if !bit (fld e.bytes 0 1) 0 then (a.1.filter (·.num != e.num), a.2)
    else if ok e.bytes then (putEntry a.1 e.num e.bytes, a.2)
    else (a.1, true)) (act, false)

/-- The pool part of an activation. -/
def State.activatePool (s : State) : State :=
  let x := activateEntries expOk s.pool.exps s.pool.expNew
  let i := activateEntries impOk s.pool.imps s.pool.impNew
  let s := { s with pool := { s.pool with exps := x.1, imps := i.1 } }
  if x.2 || i.2 then s.cfgErrTick errRSVD .pl else s

/-- The resident-set part of an activation; `sources` holds each set's source region entry as read at the tick. -/
def State.activateSets (s : State) (sources : List (List Byte)) : State :=
  (List.range 4).foldl (fun acc n =>
    if (rsRegs n).all fun r => acc.shadow.get r = acc.regs.get r then acc
    else if acc.rsFits n (sources.getD n []) then
      let acc := (rsRegs n).foldl (fun a r => { a with regs := a.regs.set r (a.shadow.get r) }) acc
      { acc with ops := { acc.ops with sets := acc.ops.sets.set n (sources.getD n []) } }
    else acc.cfgErrTick errRSVD .co) s

/-- SHADOW_ACTIVATION and GUARD_FIT_CHECK at a tick (R35, R647). -/
def State.activateAt (s : State) (t : Stamp) (sources : List (List Byte)) : State :=
  let bs := (s.armed.filter fun a => a.2 ≤ t).map (·.1)
  let nlen := bitf (s.wouldBe bs { name := .frLen }) 0 13
  let ng := s.wouldBe bs { name := .frGuard }
  let changes := guardRegs.any fun r => s.wouldBe bs r != s.reg r
  let fits := guardFits nlen (bitf ng 0 7) (bitf ng 16 14) (bitf (s.wouldBe bs { name := .mcDirty }) 0 8)
  let refused := if changes && !fits then guardRegs else []
  let first : Blk := if bs.contains .fr && (guardRegs.take 2).any (fun r => s.wouldBe bs r != s.reg r) then .fr else .mc
  let s' := bs.foldl (fun acc b => acc.activate refused b) { s with armed := s.armed.filter fun a => t < a.2 }
  let s' := if changes && !fits then s'.cfgErrTick errGUARD first else s'
  let s' := if bs.contains .co then s'.activateSets sources else s'
  if bs.contains .pl then s'.activatePool else s'

end Sys2Proof.Machine
end

