-- ==== Sys2Proof/Machine/TensorOps.lean ====
section
/-! DEFINITION. How tensors lie in a region (chapters 5, 6): dense elements and blocks, extents, and array tiles built
from dense tensors by the stream engines (chapter 10). -/

namespace Sys2Proof

/-- A region as an operation reads it: byte at an offset. -/
abbrev Rd := Nat → Byte

def Rd.bytes (rd : Rd) (off n : Nat) : List Byte := (List.range n).map fun i => rd (off + i)
def Rd.le (rd : Rd) (off n : Nat) : Nat := leNat (Rd.bytes rd off n)

/-- A range of region bytes: offset and length. -/
abbrev Piece := Nat × Nat

/-- 32 element codes along K with their block scale; scale 0 where the format has none. -/
structure Block where
  codes : List Nat
  scale : Nat
  deriving DecidableEq, Repr

def Block.zero : Block := { codes := List.replicate 32 0, scale := 0 }

namespace Tensor

/-- Bytes of one row of n elements of a dense tensor (R188-R190). -/
def rowSize (t : Tensor) (n : Nat) : Nat :=
  if t.elem.isMx then cdiv n 32 * (t.elem.blockBytes + (if t.sep then 0 else 1)) else cdiv (n * t.elem.bits) 8

/-- Rows of a dense tensor. -/
def rows (t : Tensor) : Nat := if t.rank = 1 then 1 else t.dim 1

/-- Offset of row i of a dense tensor. -/
def rowOff (t : Tensor) (i : Nat) : Nat := t.a 0 + i * (if t.rank = 1 then 0 else t.a 1)

/-- Offset of the scale byte of block b of row i (R189). -/
def scaleOff (t : Tensor) (i b : Nat) : Nat :=
  if t.sep then t.a 3 + i * cdiv (t.dim 0) 32 + b
  else t.rowOff i + b * (t.elem.blockBytes + 1) + t.elem.blockBytes

/-- Offset of block b of row i. -/
def blockOff (t : Tensor) (i b : Nat) : Nat :=
  t.rowOff i + b * (t.elem.blockBytes + (if t.elem.isMx && !t.sep then 1 else 0))

/-- Bytes of block b that belong to the tensor: a last plain block may be shorter (R190). -/
def blockLen (t : Tensor) (b : Nat) : Nat :=
  if t.elem.isMx then t.elem.blockBytes else cdiv ((min (t.dim 0) (32 * b + 32) - 32 * b) * t.elem.bits) 8

/-- The range of bytes a dense tensor covers, elements and separate scales (R173). -/
def denseExtents (t : Tensor) : List Piece :=
  (t.rowOff 0, t.rowOff (t.rows - 1) + t.rowSize (t.dim 0) - t.rowOff 0)
    :: (if t.elem.isMx && t.sep then [(t.a 3, t.rows * cdiv (t.dim 0) 32)] else [])

/-- Block kb of row v with K innermost; positions at and above DIM0 read 0 (R190). -/
def blockK (t : Tensor) (rd : Rd) (v kb : Nat) : Block :=
  let bytes := Rd.bytes rd (t.blockOff v kb) (t.blockLen kb)
  { codes := (List.range 32).map fun i =>
      if 32 * kb + i < t.dim 0 then packedCode t.elem.bits bytes i else 0,
    scale := if t.elem.isMx then (rd (t.scaleOff v kb)).toNat else 0 }

/-- Code of element (i0, i1) of a dense tensor of a plain format. -/
def codeAt (t : Tensor) (rd : Rd) (i0 i1 : Nat) : Nat :=
  let lo := i0 * t.elem.bits
  Rd.le rd (t.rowOff i1 + lo / 8) (cdiv t.elem.bits 8) / 2 ^ (lo % 8) % 2 ^ t.elem.bits

/-- Block kb of vector v of a tensor stored K outermost (DIM1 = K), plain formats only (R343). -/
def blockT (t : Tensor) (rd : Rd) (v kb : Nat) : Block :=
  { codes := (List.range 32).map fun i => if 32 * kb + i < t.rows then t.codeAt rd v (32 * kb + i) else 0, scale := 0 }

def block (t : Tensor) (rd : Rd) (trans : Bool) (v kb : Nat) : Block :=
  if trans then t.blockT rd v kb else t.blockK rd v kb

/-- Region bytes one block is read from. -/
def pieces (t : Tensor) (trans : Bool) (v kb : Nat) : List Piece :=
  if trans then
    ((List.range 32).filter fun i => 32 * kb + i < t.rows).map fun i =>
      (t.rowOff (32 * kb + i) + v * t.elem.bits / 8, cdiv t.elem.bits 8)
  else
    (t.blockOff v kb, t.blockLen kb) :: (if t.elem.isMx then [(t.scaleOff v kb, 1)] else [])

/-- Value of element (i0, i1) of a dense tensor, block scale applied. -/
def valAt (t : Tensor) (rd : Rd) (i0 i1 : Nat) : Val :=
  if t.elem.isMx then
    let b := t.blockK rd i1 (i0 / 32)
    scaled (scaleExp b.scale) (t.elem.decode (b.codes.getD (i0 % 32) 0))
  else t.elem.decode (t.codeAt rd i0 i1)

/-- K length and vector count of a dense operand. -/
def kDim (t : Tensor) (trans : Bool) : Nat := if trans then t.rows else t.dim 0
def vecDim (t : Tensor) (trans : Bool) : Nat := if trans then t.dim 0 else t.rows

end Tensor

/-- Blocks of a K chunk: 8, or 16 for 4-bit elements (R226, R232). -/
def chunkBlocks (e : Elem) : Nat := if e.bits = 4 then 16 else 8

/-- K blocks of chunk c, none beyond the operand's K. -/
def chunkList (e : Elem) (k c : Nat) : List (Option Nat) :=
  (List.range (chunkBlocks e)).map fun i =>
    let b := chunkBlocks e * c + i
    if 32 * b < k then some b else none

/-- Pad bytes of a 6-bit row block (R232), which the manual leaves without a value. -/
def padBytes (e : Elem) (pad : Byte) : List Byte := if e.bits = 6 then List.replicate 8 pad else []

/-- Write one block of row r, half h of vector m of a tile. -/
def putBlock (mem : CStore) (base : Nat) (e : Elem) (vecs m r h : Nat) (pad : Byte) (b : Block) : CStore :=
  let bytes := packCodes e.bits e.blockBytes b.codes ++ padBytes e pad
  let mem := bytes.zipIdx.foldl (fun acc x =>
    acc.write (base + tileByte e.rowBytes m r (h * e.blockBytes + x.2)) x.1) mem
  if e.isMx then
    mem.write (base + tileScaleBase e.rowBytes vecs + (8 * m + r) * e.scaleBytes + h) (BitVec.ofNat 8 b.scale)
  else mem

/-- Write a tile: `blk v b` gives block b of vector v; an absent vector or block is code 0 with scale 0
(R342, R343, R344; log entry 28). -/
def putTile (mem : CStore) (base : Nat) (e : Elem) (vecs : List (Option Nat)) (blks : List (Option Nat)) (pad : Byte)
    (blk : Nat → Nat → Block) : CStore :=
  vecs.zipIdx.foldl (fun acc v => blks.zipIdx.foldl (fun acc b =>
    let hs := if e.bits = 4 then 2 else 1
    let x := match v.1, b.1 with | some i, some k => blk i k | _, _ => Block.zero
    putBlock acc base e vecs.length v.2 (b.2 / hs) (b.2 % hs) pad x) acc) mem

/-- Every region range a tile is read from. -/
def tilePieces (t : Tensor) (trans : Bool) (vecs blks : List (Option Nat)) : List Piece :=
  (vecs.filterMap id).flatMap fun v => (blks.filterMap id).flatMap fun b => t.pieces trans v b

/-- Distinct 64-byte memory lines that cover ranges of a region at a base (R345). -/
def linesOf (base : Nat) (ps : List Piece) : List Nat :=
  (ps.flatMap fun p =>
    if p.2 = 0 then [] else
      (List.range ((base + p.1 + p.2 - 1) / 64 + 1 - (base + p.1) / 64)).map (· + (base + p.1) / 64)).eraseDups

/-- Arrays of a compressed layout (R159). -/
def Tensor.arrays (t : Tensor) : List Nat :=
  (match t.kind with
   | .dense => []
   | .csr | .csc | .bsr | .bitmap => [t.a 0, t.a 1, t.a 2]
   | .coo | .nm | .csf => [t.a 0, t.a 1]) ++ (if t.elem.isMx && t.sep && t.kind != .dense then [t.a 3] else [])

end Sys2Proof
end

