-- ==== Sys2Proof/Machine/Streams.lean ====
section
/-! DEFINITION. The commands of the stream engines (chapter 10): programs, their instructions, transfers between device
memory and core store, their retirement, and the weight ring. -/

namespace Sys2Proof.Machine

/-! ### Slots and reads -/

/-- The tensor and region an operand slot names: 0-5 the descriptor's slots, 6 the program region (R341). -/
def OpCtx.slot (x : OpCtx) (n : Nat) : Option Tensor × Option Region :=
  if n < 6 then (x.tensors.getD n none, x.regions.getD n none)
  else if n = 6 ∧ x.desc.opCode = 1 then (none, x.regions.getD 6 none)
  else (none, none)

/-- Whether a transfer's slot is a SLOT fault (R341). -/
def OpCtx.slotBad (x : OpCtx) (n : Nat) (write : Bool) : Bool :=
  (x.slot n).2.isNone || (write && n != 4 && n != 5)

/-- Bytes of a slot's region that an operation may reach: SIZE, or APPEND_MAX for an APPEND output (R342). -/
def OpCtx.limit (x : OpCtx) (n : Nat) (r : Region) : Nat :=
  if (n = 4 ∨ n = 5) ∧ r.kind = .append then x.desc.appendMax else r.size

/-- Region bytes by piece. -/
abbrev PieceBytes := List (Piece × List Byte)

/-- A reader over pieces already fetched; 0 outside them. -/
def pieceRd (ps : PieceBytes) : Rd := fun i =>
  match ps.find? fun p => p.1.1 ≤ i && i < p.1.1 + p.1.2 with
  | some p => p.2.getD (i - p.1.1) 0
  | none => 0

/-- Read pieces of a region for an operation. -/
def State.readPieces (s : State) (o : OpRec) (r : Region) (rel : Bool) (ps : List Piece) (own : Bool := true) :
    MemAcc PieceBytes :=
  match ps with
  | [] => .ok []
  | p :: ps =>
    match s.opRead o r rel p.1 p.2 own, s.readPieces o r rel ps own with
    | .ok b, .ok rest => .ok ((p, b) :: rest)
    | .lost, _ => .lost
    | _, .lost => .lost
    | _, _ => .wait

/-! ### Messages to remote windows (R493, R496) -/

/-- The Quinulait port that carries a remote window's traffic now (R471). -/
def State.qlNow (s : State) (p : Nat) : Nat := (s.fab.ports.getD p { downAt := none, fails := 0, cur := p }).cur

/-- QL_EPID0, the INIT of every message (R493). -/
def State.initId (s : State) : Nat := s.reg { name := .qlEpid } % 2 ^ 16

/-- KIND of a region's remote window (R486). -/
def State.importKind (s : State) (r : Region) : Nat :=
  match s.import r.window with | some b => bitf (fld b 0 1) 1 2 | none => 0

def State.importRwin (s : State) (r : Region) : Nat :=
  match s.import r.window with | some b => fld b 4 4 | none => 0

def State.ackNs (s : State) (r : Region) : Nat :=
  match s.import r.window with | some b => fld b 0x14 4 | none => 0

/-- Index of a region's remote target in the operation's list (R74, R490). -/
def State.targetOf (s : State) (o : OpRec) (r : Region) : Nat :=
  o.targets.findIdx fun t => t.epid = r.epid && t.rwin = s.importRwin r

/-- Count messages sent to a target (R497). -/
def countSent (l : List (Nat × Nat)) (tgt n : Nat) : List (Nat × Nat) :=
  (tgt, (l.lookup tgt).getD 0 + n) :: l.filter fun x => x.1 != tgt

/-- One line written to a remote window: SWR, WR or SACC by the window's kind (R496). -/
def State.remoteLine (s : State) (o : OpRec) (r : Region) (lock off : Nat) (line : List Byte) : State :=
  let p := s.qlNow r.qlPort
  let base := [s.initId, s.importRwin r]
  match s.importKind r with
  | 1 => s.say (.ql p 0x03 (base ++ [off, line.length]) line)
  | 2 => s.say (.ql p 0x05 (base ++ [o.ctx.asn, o.replays, s.cm.token, lock]) line)
  | _ => s.say (.ql p 0x04 (base ++ [off, line.length, s.frames.frn, o.ctx.asn, o.replays, s.cm.token, lock]) line)

/-- Write bytes to a remote region, a line at a time; returns the number of messages. -/
def State.remoteWrite (s : State) (o : OpRec) (r : Region) (lock off : Nat) (bs : List Byte) : State × Nat :=
  let lines := chunks 64 bs.length bs
  let s := lines.zipIdx.foldl (fun acc l => acc.remoteLine o r lock (r.base + off + 64 * l.2) l.1) s
  let counted := s.importKind r ≠ 1
  (if counted then s.onOp o.ctx.asn fun x => { x with sent := countSent x.sent (s.targetOf o r) lines.length } else s,
   lines.length)

/-- RD requests for the lines a remote read covers (R493). -/
def State.remoteRead (s : State) (r : Region) (ps : List Piece) : State :=
  s.sayAll ((linesOf r.base ps).map fun l =>
    .ql (s.qlNow r.qlPort) 0x01 [s.initId, s.importRwin r, 64 * l, 64] [])

/-! ### Transfers (R341-R346) -/

/-- A transfer as decoded: opcode, core store offset, region arguments, count, transpose, slot. -/
structure XferReq where
  op   : Nat
  cs   : Nat
  a    : Nat
  b    : Nat
  cnt  : Nat
  t    : Bool
  slot : Nat
  s14  : Nat
  list : List Nat

namespace XferReq
def write (x : XferReq) : Bool := x.op = 0x11
def line (x : XferReq) : Bool := x.op = 0x10 || x.op = 0x11

/-- Vectors or columns of the tile; columns beyond DIM1 or beyond cnt are absent (R342). -/
def vecs (x : XferReq) (t : Tensor) : List (Option Nat) :=
  if x.op = 0x12 then (List.range x.cnt).map fun i => some (x.a + i)
  else (List.range 16).map fun i =>
    if (x.op = 0x14 || i < x.cnt) && x.a + i < t.vecDim x.t then some (x.a + i) else none

/-- K blocks of the tile: a chunk, or the listed blocks in compacted order (R344). -/
def blks (x : XferReq) (t : Tensor) : List (Option Nat) :=
  if x.op = 0x14 then
    (List.range (chunkBlocks t.elem)).map fun i => x.list[i]?
  else chunkList t.elem (t.kDim x.t) x.b

/-- Core store bytes the transfer reads or writes. -/
def csLen (x : XferReq) (t : Option Tensor) : Nat :=
  if x.line then 64 * x.cnt
  else match t with
    | some t => if x.op = 0x12 then atSize x.cnt t.elem else wtSize t.elem
    | none => 64

/-- Region bytes the transfer covers. -/
def pieces (x : XferReq) (t : Option Tensor) : List Piece :=
  if x.line then [(x.a, 64 * x.cnt)]
  else match t with | some t => tilePieces t x.t (x.vecs t) (x.blks t) | none => []

/-- A block list that breaks R344. -/
def listBad (x : XferReq) (t : Tensor) : Bool :=
  x.cnt > chunkBlocks t.elem || notStrict x.list || x.list.any fun b => cdiv (t.dim 0) 32 ≤ b

end XferReq

/-- The core store range of an enabled resident set on this core meets a range. -/
def State.inSet (s : State) (core lo n : Nat) : Bool := hit [(lo, n)] (s.resident core)

/-- The fault of a transfer, if any: SLOT first, then the lowest cause number (R341-R344, R359; log entry 30). -/
def State.xferFault (s : State) (core : Nat) (ctx : OpCtx) (x : XferReq) : Option Nat :=
  let sl := ctx.slot x.slot
  if ctx.slotBad x.slot x.write then some seSLOT
  else match sl.2 with
  | none => some seSLOT
  | some r =>
    let dense := match sl.1 with | some t => t.kind = .dense | none => false
    let lim := ctx.limit x.slot r
    let mx := match sl.1 with | some t => t.elem.isMx | none => false
    let extent := (!x.line && (!dense || x.s14 ≠ 0)) || (x.pieces sl.1).any (fun p => lim < p.1 + p.2)
      || (x.op = 0x12 && match sl.1 with | some t => t.vecDim x.t < x.a + x.cnt | none => true)
    let tbad := x.t && (mx || x.line || x.op = 0x14)
    if extent then some seEXTENT
    else if x.cs % 64 ≠ 0 || (x.line && x.a % 64 ≠ 0) || (x.op = 0x14 && x.b % 64 ≠ 0) then some seALIGN
    else if 0x800000 < x.cs + x.csLen sl.1 || (x.op = 0x14 && 0x800000 < x.b + 4 * x.cnt)
        || (!x.write && s.inSet core x.cs (x.csLen sl.1)) then some seCSTORE
    else if tbad then some seTRANSPOSE
    else if x.op = 0x14 && (match sl.1 with | some t => x.listBad t | none => true) then some seLIST
    else none

/-- Rates and depths of the buckets (CO_SBW, CO_SBD). -/
def State.bucketRate (s : State) (b : Bucket) : Nat × Nat :=
  let w (i : Nat) : Nat := s.fieldOf { name := .coSbw } (10 * i) 10
  let d (i : Nat) : Nat := s.fieldOf { name := .coSbd } (8 * i) 8
  match b with | .read => (w 0, d 0) | .write => (w 1, d 1) | .remote => (w 2, d 2)

/-- Charge line requests to a bucket of a core (R349, R350). -/
def State.chargeOn (s : State) (core : Nat) (b : Bucket) (idle lines : Nat) : State :=
  s.onCore core fun k => k.charge b (s.bucketRate b).1 (s.bucketRate b).2 idle lines

/-- Write a fetched transfer's data into core store (R339, R343, R344). -/
def Core.fill (k : Core) (x : XferReq) (t : Option Tensor) (pad : Byte) (rd : Rd) : Core :=
  if x.line then { k with store := k.store.writeBytes x.cs (Rd.bytes rd x.a (64 * x.cnt)) }
  else match t with
    | some t => { k with store := Sys2Proof.putTile k.store x.cs t.elem (x.vecs t) (x.blks t) pad (t.block rd x.t) }
    | none => k

/-- A byte the manual leaves open, from the free-value counter (log entry 8). -/
def State.freeByte (s : State) : Byte := (Config.freeValue s.free).setWidth 8

/-- The record of a transfer. -/
def XferReq.record (x : XferReq) (t : Option Tensor) (kind : XferKind) (acks : Nat) (now : Stamp) : Xfer :=
  { id := 0, kind := kind, index := 0, csLo := x.cs, csLen := x.csLen t, slot := x.slot, memLo := x.a,
    memLen := ((x.pieces t).foldl (fun m p => max m (p.1 + p.2)) 0) - x.a, op := x.op, trans := x.t,
    vecs := match t with | some t => x.vecs t | none => [], blks := match t with | some t => x.blks t | none => [],
    acks := acks, at_ := now, failed := false }

/-- Issue a transfer on an engine. -/
def State.issueOn (s : State) (core eng : Nat) (x : Xfer) : State :=
  s.onCore core fun k => k.putEngine eng ((k.engine eng).issued x)

/-- A transfer waits for an earlier remote transfer of the engine to the same core store or memory lines (R346). -/
def StreamEng.blocked (e : StreamEng) (x : XferReq) (t : Option Tensor) : Bool :=
  e.xfers.any fun y => y.kind = .remote &&
    (overlaps (y.csLo, y.csLen) (x.cs, x.csLen t)
      || (y.op = 0x11 && y.slot = x.slot && (x.pieces t).any fun p => overlaps (y.memLo, y.memLen) p))

/-- The effect of a transfer that raises no fault. A read that must wait for an earlier operation's pages (R81), or a
write for a page another operation has staged (R80), does not execute yet. A lost granule is INPUT_LOST (R526). -/
def State.runXfer (s : State) (core eng idle : Nat) (o : OpRec) (ctx : OpCtx) (x : XferReq) : State :=
  let sl := ctx.slot x.slot
  let out := x.slot = 4 ∨ x.slot = 5
  let ps := x.pieces sl.1
  let e := (s.core core).engine eng
  let lock := (e.sreg 13).toNat % 2 ^ 48
  let lines (r : Region) : Nat := (linesOf r.base ps).length
  let lost := s.onCore core fun k => k.endOp ctx.asn 0x13 0
  match sl.2 with
  | none => s
  | some r =>
    if e.blocked x sl.1 then s
    else if r.kind = .poolRemote then
      let s := s.chargeOn core .remote idle (lines r)
      if x.write then
        let w := s.remoteWrite o r lock x.a ((s.core core).store.readBytes x.cs (64 * x.cnt))
        w.1.issueOn core eng (x.record sl.1 .remote w.2 s.now)
      else (s.remoteRead r ps).issueOn core eng (x.record sl.1 .remote 1 s.now)
    else if x.write then
      match s.opWrite o r x.a ((s.core core).store.readBytes x.cs (64 * x.cnt)) with
      | .ok s => (s.chargeOn core .write idle (lines r)).issueOn core eng (x.record sl.1 .write 0 s.now)
      | .wait => s
      | .lost => lost
    else
      match s.readPieces o r out ps with
      | .ok bs =>
        let s' := s.chargeOn core .read idle (lines r)
        let s' := s'.onCore core fun k => k.fill x sl.1 s.freeByte (pieceRd bs)
        (s'.issueOn core eng (x.record sl.1 .read 0 s.now)).takeFree
      | .wait => s
      | .lost => lost

/-- A transfer instruction (R339). -/
def State.transfer (s : State) (core eng idle op : Nat) (c a b : BitVec 4) (slot : BitVec 3) (imm : BitVec 11) :
    State :=
  let k := s.core core
  let e := k.engine eng
  let fault (n : Nat) : State := s.onCore core fun k => k.seFault eng n
  if !e.running || e.stopped || k.guard then s
  else match e.preFault with
    | some n => fault n
    | none =>
      let cnt := bitf imm.toNat 2 9 + 1
      let x : XferReq := { op := op, cs := (e.sreg c).toNat, a := (e.sreg a).toNat, b := (e.sreg b).toNat, cnt := cnt,
                           t := bit imm.toNat 1, slot := slot.toNat, s14 := (e.sreg 14).toNat,
                           list := (List.range cnt).map fun i => k.store.readLe ((e.sreg b).toNat + 4 * i) 4 }
      if bit imm.toNat 0 || (op = 0x13 && 16 < cnt) then fault seOPCODE
      else match k.segOf e.asn, s.op? e.asn with
        | some g, some o =>
          match s.xferFault core g.ctx x with
          | some n => fault n
          | none => s.runXfer core eng idle o g.ctx x
        | _, _ => s

/-! ### Answers to remote transfers (R495, R496) -/

/-- A transfer outstanding on an engine. -/
def Core.xfer? (k : Core) (eng id : Nat) : Option Xfer := (k.engine eng).xfers.find? (·.id = id)

def Core.onXfer (k : Core) (eng id : Nat) (f : Xfer → Xfer) : Core :=
  let e := k.engine eng
  k.putEngine eng { e with xfers := e.xfers.map fun x => if x.id = id then f x else x }

/-- Data of a remote read (R493): with status OK the bytes the transfer covers, from its lowest region offset; a refused
read's data is a free value (log entry 29). -/
def State.remoteData (s : State) (core eng id status : Nat) (data : List Byte) : State :=
  let k := s.core core
  match k.xfer? eng id with
  | none => s
  | some y =>
    if y.kind != .remote || y.op = 0x11 || y.acks = 0 then s
    else
      let rd : Rd := fun i => if status = 0 then data.getD (i - y.memLo) 0 else Config.undefByte s.free i
      let tensor := match k.segOf (k.engine eng).asn with | some g => (g.ctx.slot y.slot).1 | none => none
      let s' := s.onCore core fun k =>
        if y.op = 0x10 then { k with store := k.store.writeBytes y.csLo (Rd.bytes rd y.memLo y.csLen) }
        else match tensor with
          | some t => { k with store := Sys2Proof.putTile k.store y.csLo t.elem y.vecs y.blks s.freeByte (t.block rd y.trans) }
          | none => k
      (s'.onCore core fun k => k.onXfer eng id fun x => { x with acks := 0 }).takeFree

/-- A transfer's effect is complete (R345): local ones at once, remote ones when every message is answered. -/
def Xfer.ripe (x : Xfer) : Bool := x.kind != .remote || x.acks = 0

/-! ### The weight ring (R355-R361) -/

/-- A compute die no longer scheduled: declared failed or retired, and the tick of R521 has passed. -/
def State.dieGone (s : State) (d : Nat) : Bool := s.dieDead d && !(s.flt.moveAt.any (·.1 = d))

/-- Ring order of the scheduled dies, a banked die that took a role standing in its place (R355, R522, R534). -/
def State.ringDies (s : State) : List Nat :=
  let inPlace (d : Nat) : Option Nat :=
    match s.flt.roles.lookup d with
    | some b => if s.dieGone b then none else some b
    | none => if s.dieGone d || s.flt.banked = some d || s.flt.roles.any (·.2 = d) then none else some d
  [0, 1, 2, 5, 4, 3, 6, 7, 8].filterMap inPlace

/-- Scheduled cores in ring order (R355). -/
def State.ringCores (s : State) : List Nat := s.ringDies.flatMap fun d => (List.range 4).map (4 * d + ·)

/-- The core after a member of set n in ring order. -/
def State.ringNext (s : State) (n pos : Nat) : Option Nat :=
  let nsh := s.fieldOf { name := .coRsCfg, n := n } 1 6
  s.ringCores[(pos + 1) % max 1 nsh]?

/-- RSTEP (R361): the shard at s[a] goes to the next member; once the previous member's has come it is written at s[b]
and s[d] receives its number; a buffer that never received one sends a free number (log entry 131). An offset other than the set's shard and buffers, a set not enabled, or an operation
that is no gang of the set is a RING fault (R360). -/
def State.rstep (s : State) (core eng : Nat) (d a b : BitVec 4) (set : Nat) : State :=
  let k := s.core core
  let e := k.engine eng
  let fault (n : Nat) : State := s.onCore core fun k => k.seFault eng n
  if !e.running || e.stopped || k.guard then s
  else match e.preFault with
    | some n => fault n
    | none =>
      let sh := k.shards.getD set Shard.none
      let gang := ((k.segOf e.asn).bind (·.prog)).bind (·.gang)
      let base := s.fieldOf { name := .coRsCs, n := set } 0 11 * 4096
      let size := s.fieldOf { name := .coRsSz, n := set } 0 9 * 4096
      let src := (e.sreg a).toNat
      let dst := (e.sreg b).toNat
      if !s.bitOf { name := .coRsCfg, n := set } 0 || gang != some set || !sh.member
          || !([base, base + size, base + 2 * size].contains src) || !([base + size, base + 2 * size].contains dst) then
        fault seRING
      else
        let num := if src = base then some sh.pos else if src = base + size then sh.bufA else sh.bufB
        if src = base && !sh.filled then s
        else
          let s := if e.rsent then s else
            match s.ringNext set sh.pos with
            | none => s
            | some dst =>
              let m := (set, num.getD (Config.freeValue s.free).toNat, k.store.readBytes src size)
              (s.takeFree.onCore dst fun t => { t with ringIn := t.ringIn ++ [m] }).onCore core fun k =>
                k.putEngine eng { k.engine eng with rsent := true }
          let k := s.core core
          match k.ringIn.find? (·.1 = set) with
          | none => s
          | some m =>
            s.onCore core fun k =>
              let e := k.engine eng
              let k := k.putEngine eng { (e.setS d (BitVec.ofNat 64 m.2.1)).next with rsent := false }
              let first := k.ringIn.findIdx (·.1 = set)
              { k with ringIn := k.ringIn.eraseIdx first, store := k.store.writeBytes dst m.2.2,
                       shards := k.shards.modify set fun x =>
                         if dst = base + size then { x with bufA := some m.2.1 } else { x with bufB := some m.2.1 } }

/-! ### The commands -/

/-- STREAM_PROGRAM_START (R336, R338). -/
def execStreamProgramStart (core eng : Nat) (s : State) : Out :=
  .next (s.onCore core (·.startStream eng))

/-- Stream END (R339, R340). -/
def execSeEnd (core eng : Nat) (s : State) : Out :=
  .next (s.onCore core (·.seEnd eng))

/-- Stream SETW (R339). -/
def execSeSetw (core eng : Nat) (d : BitVec 4) (pos : BitVec 2) (imm : BitVec 16) (s : State) : Out :=
  .next (s.onCore core fun k => k.sePut eng d fun e =>
    if pos = 0 then imm.setWidth 64
    else (e.sreg d &&& ~~~(0xFFFF#64 <<< (16 * pos.toNat))) ||| (imm.setWidth 64 <<< (16 * pos.toNat)))

/-- Stream ADDI (R339). -/
def execSeAddi (core eng : Nat) (d a : BitVec 4) (imm : BitVec 14) (s : State) : Out :=
  .next (s.onCore core fun k => k.sePut eng d fun e => e.sreg a + imm.signExtend 64)

/-- Stream ADD (R339). -/
def execSeAdd (core eng : Nat) (d a b : BitVec 4) (s : State) : Out :=
  .next (s.onCore core fun k => k.sePut eng d fun e => e.sreg a + e.sreg b)

/-- Stream SUB (R339). -/
def execSeSub (core eng : Nat) (d a b : BitVec 4) (s : State) : Out :=
  .next (s.onCore core fun k => k.sePut eng d fun e => e.sreg a - e.sreg b)

/-- Stream MULI: the immediate is unsigned (R339). -/
def execSeMuli (core eng : Nat) (d a : BitVec 4) (imm : BitVec 14) (s : State) : Out :=
  .next (s.onCore core fun k => k.sePut eng d fun e => e.sreg a * imm.setWidth 64)

/-- Stream SHLI (R339). -/
def execSeShli (core eng : Nat) (d a : BitVec 4) (imm : BitVec 6) (s : State) : Out :=
  .next (s.onCore core fun k => k.sePut eng d fun e => e.sreg a <<< imm.toNat)

/-- Stream LDW (R339). -/
def execSeLdw (core eng : Nat) (d a : BitVec 4) (imm : BitVec 14) (s : State) : Out :=
  .next (s.onCore core fun k => k.seLoad eng d a imm 8)

/-- Stream LDH (R339). -/
def execSeLdh (core eng : Nat) (d a : BitVec 4) (imm : BitVec 14) (s : State) : Out :=
  .next (s.onCore core fun k => k.seLoad eng d a imm 4)

/-- Stream LOOP (R339, R340). -/
def execSeLoop (core eng : Nat) (lvl : BitVec 2) (reg : Bool) (a : BitVec 4) (imm : BitVec 18) (s : State) : Out :=
  .next (s.onCore core fun k => k.seLoop eng lvl fun e =>
    if reg then (e.sreg a).toNat % 2 ^ 32 else imm.toNat)

/-- Stream NEXT (R339, R340). -/
def execSeNext (core eng : Nat) (lvl : BitVec 2) (s : State) : Out :=
  .next (s.onCore core (·.seNext eng lvl))

/-- Stream RDL: reads memory lines (R339, R341-R346); `idle` cycles of bucket refill went before (R350). -/
def execSeRdl (core eng idle : Nat) (d a b : BitVec 4) (slot : BitVec 3) (imm : BitVec 11) (s : State) : Out :=
  .next (s.transfer core eng idle 0x10 d a b slot imm)

/-- Stream WRL: writes memory lines (R339, R341-R346); `idle` cycles of bucket refill went before (R350). -/
def execSeWrl (core eng idle : Nat) (d a b : BitVec 4) (slot : BitVec 3) (imm : BitVec 11) (s : State) : Out :=
  .next (s.transfer core eng idle 0x11 d a b slot imm)

/-- Stream RDA: an A-layout tile (R339, R341-R346); `idle` cycles of bucket refill went before (R350). -/
def execSeRda (core eng idle : Nat) (d a b : BitVec 4) (slot : BitVec 3) (imm : BitVec 11) (s : State) : Out :=
  .next (s.transfer core eng idle 0x12 d a b slot imm)

/-- Stream RDW: a W-layout tile (R339, R341-R346); `idle` cycles of bucket refill went before (R350). -/
def execSeRdw (core eng idle : Nat) (d a b : BitVec 4) (slot : BitVec 3) (imm : BitVec 11) (s : State) : Out :=
  .next (s.transfer core eng idle 0x13 d a b slot imm)

/-- Stream RDB: a W-layout tile in compacted order (R339, R341-R346); `idle` cycles of bucket refill went before (R350). -/
def execSeRdb (core eng idle : Nat) (d a b : BitVec 4) (slot : BitVec 3) (imm : BitVec 11) (s : State) : Out :=
  .next (s.transfer core eng idle 0x14 d a b slot imm)

/-- Stream GET (R339, R347). -/
def execSeGet (core eng : Nat) (d : BitVec 4) (s : State) : Out :=
  .next (s.onCore core (·.seGetTok eng d))

/-- Stream PUT (R339, R347). -/
def execSePut (core eng : Nat) (d : BitVec 4) (s : State) : Out :=
  .next (s.onCore core (·.sePutTok eng d))

/-- Stream FENCE (R339). -/
def execSeFence (core eng : Nat) (s : State) : Out :=
  .next (s.onCore core (·.seFence eng))

/-- Stream RSTEP (R339, R361). -/
def execSeRstep (core eng : Nat) (d a b : BitVec 4) (set : BitVec 2) (s : State) : Out :=
  .next (s.rstep core eng d a b set.toNat)

/-- TRANSFER_RETIRE (R345): a transfer whose effect is complete retires and releases the PUTs behind it. -/
def execTransferRetire (core eng xfer : Nat) (s : State) : Out :=
  .next (s.onCore core fun k =>
    match k.xfer? eng xfer with
    | some x => if x.ripe then k.retireXfer eng xfer else k
    | none => k)

/-- READY of a resident set: every member on the ring has been filled (R358). -/
def State.setReady (s : State) (set : Nat) : State :=
  let ms := s.cores.filter fun k => (k.shards.getD set Shard.none).member
  s.setBit { name := .coRsStat, n := set } 1
    (s.bitOf { name := .coRsCfg, n := set } 0 && !ms.isEmpty && ms.all fun k => (k.shards.getD set Shard.none).filled)

/-- RESIDENT_SHARD_FILLED (R358): the loader has written a member's shard; `source` holds the shard's bytes as read
from the committed copy of the source. -/
def execResidentShardFilled (core set : Nat) (s : State) : Out :=
  let sh := (s.core core).shards.getD set Shard.none
  if !sh.member || !s.bitOf { name := .coRsCfg, n := set } 0 then .next s
  else
    let size := s.fieldOf { name := .coRsSz, n := set } 0 9 * 4096
    let base := s.fieldOf { name := .coRsCs, n := set } 0 11 * 4096
    let s' := (s.chargeOn core .read 0 (size / 64)).onCore core fun k =>
      { k with store := k.store.writeBytes base (s.shardSource set sh.pos size),
               shards := k.shards.modify set fun x => { x with filled := true } }
    .next (s'.setReady set)

end Sys2Proof.Machine
end

