-- ==== Sys2Proof/Machine/Accept.lean ====
section
/-! DEFINITION. The acceptance checks of a fetched descriptor (5.8 and the reject cases of chapters 6-10 and 15): five
passes, fields in ascending offset within each, and what an accepted operation knows of its tensors and regions. -/

namespace Sys2Proof.Machine

/-- What the checks read: the ring, the descriptor, and the table entries current at the fetch. -/
structure Cand where
  pg      : Nat
  ring    : Nat
  fmt     : Nat
  raw     : List Byte
  tensors : List (Nat × List Byte)
  regions : List (Nat × List Byte)

namespace Cand

def d (c : Cand) : Desc := Desc.parse c.fmt c.raw

/-! ### Field offsets (R150-R152) -/

def slotOff (c : Cand) (k : Nat) : Nat :=
  match c.fmt with
  | 1 => 4 + 2 * (k - 4)
  | 2 => 0x18 + 2 * k
  | _ => 0x30 + 2 * k

/-- Where a slot's tensor is named: INLINE for the one it holds (log entry 121). -/
def tensorOff (c : Cand) (k : Nat) : Nat := if c.fmt = 3 && bitf c.d.inl 0 3 = k then 0x60 else c.slotOff k

def waitOff (c : Cand) (i : Nat) : Nat := (if c.fmt = 2 then 8 else 0x10) + 8 * i
def sigOff (c : Cand) (i : Nat) : Nat := (if c.fmt = 2 then 0x10 else 0x20) + 8 * i
def appOff (c : Cand) : Nat := if c.fmt = 2 then 0x24 else 0x3C
def arg0Off (c : Cand) : Nat := match c.fmt with | 1 => 0x10 | 2 => 0x28 | _ => 0x40
def arg1Off (c : Cand) : Nat := match c.fmt with | 1 => 8 | 2 => 0x30 | _ => 0x48

/-! ### Entries -/

def entry (l : List (Nat × List Byte)) (i : Nat) : List Byte := (l.lookup i).getD (List.replicate 64 0)

/-- Whether the inline tensor stands in a slot (R152, R157). -/
def inlined (c : Cand) (k : Nat) : Bool := c.fmt = 3 && bitf c.d.inl 0 3 = k

/-- Table index of a slot; none where it names no tensor. -/
def index (c : Cand) (k : Nat) : Option Nat :=
  if c.inlined k || c.d.slotIndex k = noTensor then none else some (c.d.slotIndex k)

/-- The tensor of a slot, none where it is absent or its entry is no valid one. -/
def tensor (c : Cand) (tt : Nat) (k : Nat) : Option Tensor :=
  if c.inlined k then Tensor.parseInline c.d.inline
  else match c.index k with
    | some i => if i < tt then Tensor.parse (entry c.tensors i) else none
    | none => none

/-- Whether a slot holds a tensor. -/
def present (c : Cand) (k : Nat) : Bool := c.inlined k || (c.index k).isSome

/-- Region number of a slot, 6 standing for the program region (R156). -/
def regionNum (c : Cand) (tt : Nat) (k : Nat) : Option Nat :=
  if k = 6 then (if c.d.opCode = 1 then some (if c.fmt = 1 then c.d.mode else c.d.mode % 4096) else none)
  else (c.tensor tt k).map (·.region)

def region (c : Cand) (tt rt : Nat) (k : Nat) : Option Region :=
  match c.regionNum tt k with
  | some i => if i < rt then Region.parse (entry c.regions i) else none
  | none => none

end Cand

/-- A failed check: descriptor offset and the index of the entry involved. -/
abbrev Bad := Nat × Nat

def bad (b : Bool) (off : Nat) (idx : Nat := 0) : List Bad := if b then [(off, idx)] else []

/-! ### Pass 1 (R171) -/

/-- How an operation uses a slot (R156, R219, R258, R311, R363). -/
inductive Use where
  | needed | allowed | unused
  deriving DecidableEq, Repr

def Cand.scatter (c : Cand) : Bool := bit c.d.mode 0

def Cand.use (c : Cand) (op : Op) (k : Nat) : Use :=
  match op with
  | .mark => .unused
  | .program => .allowed
  | .spmm | .aggr | .gemm => if k ≤ 1 ∨ k = 4 then .needed else if k = 5 then .unused else .allowed
  | .spgemm => if k ≤ 1 ∨ k = 4 then .needed else .unused
  | .sddmm => if k ≤ 2 ∨ k = 4 then .needed else .unused
  | .spattn => if k ≤ 4 then .needed else .unused
  | .moeRoute => if k = 0 ∨ k = 4 then .needed else if k = 5 then .allowed else .unused
  | .embReduce =>
    if k ≤ 1 ∨ k = 4 then .needed else if (k = 2 ∨ k = 3) ∧ !c.scatter then .allowed else .unused
  | .copy | .convert => if k = 0 ∨ k = 4 then .needed else .unused

/-- MODE encodings (R156, R219, R258, R312, R313, R363). -/
def Cand.modeBad (c : Cand) (op : Op) : Bool :=
  let m := c.d.mode
  let outside (mask : Nat) : Bool := m &&& (0xFFFF - mask) != 0
  let psh := 5 < bitf m 8 3
  match op with
  | .mark => m ≠ 0
  | .program => c.fmt ≠ 1 && bitf m 12 4 ≠ 0
  | .spmm | .sddmm => outside 0x707 || psh || bitf m 0 2 = 3
  | .aggr => outside 0x70F || psh || bitf m 0 2 = 3
  | .spgemm => outside 0x701 || psh
  | .spattn => outside 0x700 || psh
  | .moeRoute => outside 1
  | .embReduce => outside 0xF
  | .gemm => outside 3
  | .copy | .convert => outside 1

/-- A flag reference (R165): reserved bits, a signal window, or a flag that is not VALID. -/
def State.flagRefBad (s : State) (pg : Nat) (f : FlagRef) (sig : Bool) (off : Nat) : List Bad :=
  bad (if f.en then bit f.raw 14 || (sig && f.win ≠ 0) || !(s.flag pg f.index).valid else f.raw ≠ 0) off
    (if f.en then f.index else 0)

/-- The elements and layouts the operations of 9.4 allow (R311, R313), GEMM (R259), CONVERT (R219) and COPY (R363): each
failing case with its slot, or 6 for ARG0, 7 for ARG1. -/
def opCases (op : Op) (d : Desc) (t : Nat → Option Tensor) (scatterOk : Bool) : List (Nat × Bool) :=
  let dim (k i : Nat) : Nat := match t k with | some x => x.dim i | none => 0
  let is (k : Nat) (p : Tensor → Bool) : Bool := match t k with | some x => p x | none => true
  let dense2 (k : Nat) : Bool := is k fun x => x.kind = .dense && x.rank = 2
  let srt (x : Tensor) : Bool := x.sorted || x.kind = .bitmap || x.kind = .nm
  let prod (k : Nat) : Bool := is k fun x => x.elem != .int32
  let mxOk (x : Tensor) : Bool := !x.elem.isMx || (x.kind = .bsr && bitf x.shape 4 3 = 5)
  let mx (k : Nat) : Bool := match t k with | some x => x.elem.isMx | none => false
  let full (p : Nat) : Bool := p != 0
  match op with
  | .spmm | .aggr =>
    [(0, !(is 0 fun x => x.kind != .dense && x.kind != .csc && x.rank = 2 && srt x && mxOk x) || !prod 0),
     (1, !dense2 1 || dim 1 0 ≠ dim 0 0 || !prod 1),
     (4, !dense2 4 || dim 4 0 ≠ dim 1 1 || dim 4 1 ≠ dim 0 1)]
  | .spgemm =>
    [(0, !(is 0 fun x => x.kind = .csr && x.sorted && !x.elem.isMx) || !prod 0),
     (1, !(is 1 fun x => x.kind = .csr && x.sorted && !x.elem.isMx) || !prod 1 || dim 1 1 ≠ dim 0 0),
     (4, if bit d.mode 0 then !(is 4 fun x => x.kind = .csr) || dim 4 1 ≠ dim 0 1 || dim 4 0 ≠ dim 1 0
         else !(is 4 fun x => x.kind = .dense && x.rank = 1 && x.elem = .int32) || dim 4 0 ≠ dim 0 1 + 1)]
  | .sddmm =>
    [(0, !(is 0 fun x => (x.kind = .csr || x.kind = .coo || x.kind = .bitmap) && x.rank = 2 && srt x)),
     (1, !dense2 1 || dim 1 1 ≠ dim 0 1 || !prod 1),
     (2, !dense2 2 || dim 2 1 ≠ dim 0 0 || dim 2 0 ≠ dim 1 0 || !prod 2),
     (4, match t 0, t 4 with
       | some x, some y => !(y.kind = x.kind && y.rank = x.rank && y.dims = x.dims && y.nnz = x.nnz)
       | _, _ => false)]
  | .spattn =>
    [(0, !dense2 0 || !prod 0 || 1048576 < dim 0 1 || 1024 < dim 0 0 || 1024 < dim 3 1),
     (1, !dense2 1 || !prod 1 || dim 1 0 ≠ dim 0 0 || 1048576 < dim 1 1),
     (2, !(is 2 fun x => x.kind = .csr && x.sorted) || dim 2 1 ≠ dim 0 1 || dim 2 0 ≠ dim 1 1),
     (3, !dense2 3 || !prod 3 || dim 3 0 ≠ dim 1 1),
     (4, !dense2 4 || dim 4 0 ≠ dim 3 1 || dim 4 1 ≠ dim 0 1),
     (7, full (d.arg1 / 2 ^ 32) || (Elem.fp32.decode (d.arg1 % 2 ^ 32)).isZero
           || (Elem.fp32.decode (d.arg1 % 2 ^ 32)).isNan || (Elem.fp32.decode (d.arg1 % 2 ^ 32)).isInf)]
  | .moeRoute =>
    [(0, !dense2 0 || 256 < dim 0 0),
     (4, !(is 4 fun x => x.kind = .csr) || dim 4 1 ≠ dim 0 0 || dim 4 0 ≠ dim 0 1
           || (match t 4 with | some x => decide (x.nnz < dim 0 1 * bitf d.arg0 0 4) | none => false)),
     (5, !(is 5 fun x => x.kind = .dense && x.rank = 1 && x.elem = .int32 && x.dim 0 = dim 0 0)),
     (6, !(inRange 1 (min 8 (dim 0 0)) (bitf d.arg0 0 4)) || full (d.arg0 / 16)),
     (7, full (d.arg1 / 2 ^ 32))]
  | .embReduce =>
    if bit d.mode 0 then
      [(0, !(is 0 fun x => x.kind = .csc && x.sorted) || !prod 0),
       (1, !dense2 1 || dim 1 1 ≠ dim 0 1 || !prod 1),
       (4, !dense2 4 || dim 4 0 ≠ dim 1 0 || dim 4 1 ≠ dim 0 0 || !scatterOk)]
    else
      [(0, !(is 0 fun x => (x.kind = .csr || x.kind = .coo) && x.rank = 2 && x.sorted) || !prod 0),
       (1, !dense2 1 || dim 1 1 ≠ dim 0 0 || !prod 1),
       (4, !dense2 4 || dim 4 0 ≠ dim 1 0 || dim 4 1 ≠ dim 0 1)]
  | .gemm =>
    let ka := if bit d.mode 0 then dim 0 1 else dim 0 0
    let m := if bit d.mode 0 then dim 0 0 else dim 0 1
    let kb := if bit d.mode 1 then dim 1 1 else dim 1 0
    let n := if bit d.mode 1 then dim 1 0 else dim 1 1
    [(4, !dense2 0 || !dense2 1 || !dense2 4 || ka ≠ kb || dim 4 0 ≠ n || dim 4 1 ≠ m
          || (bit d.mode 0 && mx 0) || (bit d.mode 1 && mx 1) || !prod 0 || !prod 1)]
  | .convert =>
    [(4, match t 0, t 4 with
      | some x, some y => !(x.kind = .dense && y.kind = .dense && x.rank = y.rank && x.dims = y.dims)
      | _, _ => false)]
  | .copy =>
    [(4, match t 0, t 4 with
      | some x, some y =>
        !(x.kind = .dense && y.kind = .dense && x.elem = y.elem && x.rank = y.rank)
          || (if bit d.mode 0 then x.rank ≠ 2 || x.elem.isMx || y.dim 0 ≠ x.dim 1 || y.dim 1 ≠ x.dim 0
              else x.dims != y.dims)
      | _, _ => false)]
  | _ => []

/-- Whether the product pair of an operation accumulates in integers (R194, R312 PATTERN). -/
def pairInt (op : Op) (d : Desc) (t : Nat → Option Tensor) : Bool :=
  let e (k : Nat) : Elem := match t k with | some x => x.elem | none => .fp32
  match op with
  | .sddmm => (pairOf (e 1) (e 2)).int
  | .spattn => (pairOf .bf16 (e 3)).int
  | .embReduce => false
  | .spmm | .aggr => if bit d.mode 2 then (pairOf (e 1) (e 1)).int else (pairOf (e 0) (e 1)).int
  | _ => (pairOf (e 0) (e 1)).int

/-- Operations whose ARG0 is the control word of R289 (R258, R311). -/
def usesControl : Op → Bool
  | .spmm | .aggr | .gemm | .spgemm | .sddmm | .spattn | .embReduce => true
  | _ => false

/-- Operations with a bias slot T2 and an element-wise slot T3 (R258, R311). -/
def usesBias : Op → Bool
  | .spmm | .aggr | .gemm | .embReduce => true
  | _ => false

/-- ARG0 (R156, R290, R313). -/
def arg0Bad (op : Op) (d : Desc) (t : Nat → Option Tensor) : Bool :=
  let c := Ctrl.parse d.arg0
  if usesControl op then
    let o := match t 4 with | some x => x.elem | none => .fp32
    ctrlBad d.arg0 o.isMx o.isInt (pairInt op d t) (usesBias op && (t 2).isSome) (c.ew != 0)
      || (!usesBias op && c.ew ≠ 0) || (op = .aggr && bit d.mode 3 && c.raw)
  else match op with
    | .program | .moeRoute => false
    | _ => d.arg0 ≠ 0

/-- ARG1 (R156). -/
def arg1Bad (op : Op) (d : Desc) : Bool :=
  match op with
  | .program => d.arg1 % 4 ≠ 0
  | .spattn | .moeRoute => false
  | _ => d.arg1 ≠ 0

/-- Bias and element-wise tensors (R290), by slot. -/
def biasCases (op : Op) (d : Desc) (t : Nat → Option Tensor) : List (Nat × Bool) :=
  if !usesBias op then []
  else
    let ew := (Ctrl.parse d.arg0).ew
    let outDim := match t 4 with | some y => y.dim 0 | none => 0
    [(2, match t 2 with | some x => !(x.kind = .dense && x.rank = 1 && x.dim 0 = outDim) | none => false),
     (3, match t 3, t 4 with
       | some x, some y => ew = 0 || !(x.kind = .dense && x.rank = y.rank && x.dims = y.dims)
       | some _, none => ew = 0
       | none, _ => ew != 0)]

/-- CTL1, XWIN, INL and SEED of v3 (R152, R154); `inlUnused` tells that INL names a slot the operation does not use. -/
def ctl1Cases (d : Desc) (inlUnused : Bool) : List Bad :=
  let spill := bitf d.ctl1 0 12
  let ex := bit d.ctl1 12
  let xw := twos 16 d.xwinRaw
  bad (d.ctl1 / 2 ^ 18 ≠ 0 || 4 < bitf d.ctl1 14 3 || (!d.spillSet && (spill ≠ 0 || ex)) || (ex && spill ≠ 0)) 4
    ++ bad (if d.spillSet then !(decide (-256 ≤ xw) && decide (xw ≤ 127)) else d.xwinRaw != 0) 8
    ++ bad (bitf d.inl 0 3 = 6 || d.inl / 8 ≠ 0 || inlUnused) 0xA
    ++ bad (bitf d.ctl1 14 3 ≠ 4 && d.seed ≠ 0) 0xC

/-- A tensor in pass 1: its region's entry and the operation's own cases (R171). -/
def Cand.tensorCases (c : Cand) (rt : Nat) (cases : List (Nat × Bool)) (k off idx : Nat) (t : Tensor) : List Bad :=
  bad (t.region < rt && (Region.parse (Cand.entry c.regions t.region)).isNone) off t.region
    ++ bad (cases.any fun x => x.1 = k && x.2) off idx

/-- Tensor slot k in pass 1: its use and its entry (R171). A slot the inline tensor stands in for holds 0xFFFF; the
tensor itself is judged at INLINE. -/
def Cand.slotCases (c : Cand) (tt rt : Nat) (op : Op) (cases : List (Nat × Bool)) (k : Nat) : List Bad :=
  let off := c.slotOff k
  let raw := c.d.slotIndex k
  if c.inlined k then bad (raw != noTensor) off raw
  else match c.use op k, c.present k with
    | .unused, p => bad p off raw
    | .needed, false => [(off, 0)]
    | .allowed, false => bad (cases.any fun x => x.1 = k && x.2) off
    | _, true => match c.tensor tt k with
      | none => bad true off raw
      | some t => c.tensorCases rt cases k off raw t

/-- INLINE in pass 1 (R152, R157; log entry 121). -/
def Cand.inlineCases (c : Cand) (tt rt : Nat) (cases : List (Nat × Bool)) : List Bad :=
  let k := bitf c.d.inl 0 3
  if k = 7 then bad (!zeroBytes c.raw 0x60 32) 0x60
  else if k < 6 then match c.tensor tt k with
    | none => bad true 0x60
    | some t => c.tensorCases rt cases k 0x60 0 t
  else []

/-- Every failing case of pass 1, in ascending descriptor offset (R170, R171). -/
def State.pass1 (s : State) (c : Cand) : List Bad :=
  let d := c.d
  let tt := s.reg { name := .rgTtCount, dev := c.pg }
  let rt := s.reg { name := .rgRtCount, dev := c.pg }
  let ctl0 := fld c.raw 0 1
  let head := bad (d.ver ≠ c.fmt || d.cls = 3 || (c.fmt = 2 && d.cls = 2)
      || (c.fmt = 1 && (d.cls ≠ 0 || d.irqNow)) || bit ctl0 7) 0
  match d.op with
  | none => head ++ [(1, 0)]
  | some op =>
    let t := c.tensor tt
    let scatterOk := match c.region tt rt 4 with | some r => r.kind = .versioned | none => true
    let cases := opCases op d t scatterOk ++ biasCases op d t
    let preg : List Bad := match c.regionNum tt 6 with
      | some i => bad (i < rt && (Region.parse (Cand.entry c.regions i)).isNone) 2 i
      | none => []
    let waits := d.waits.zipIdx.flatMap fun x => s.flagRefBad c.pg x.1 false (c.waitOff x.2)
    let sigs := d.sigs.zipIdx.flatMap fun x => s.flagRefBad c.pg x.1 true (c.sigOff x.2)
    let slots (ks : List Nat) : List Bad := ks.flatMap fun k => c.slotCases tt rt op cases k
    let appOut := [4, 5].any fun k => match c.region tt rt k with | some r => r.kind = .append | none => false
    let app := bad (d.appendMax % 8 ≠ 0 || (d.appendMax ≠ 0 && !appOut)
      || ((op = .copy || op = .convert || op = .gemm || op = .mark) && d.appendMax ≠ 0)) c.appOff
    let a0 := bad (arg0Bad op d t || cases.any fun x => x.1 = 6 && x.2) c.arg0Off
    let a1 := bad (arg1Bad op d || cases.any fun x => x.1 = 7 && x.2) c.arg1Off
    let op1 := bad (c.fmt = 1 && op != .program) 1
    let mode := bad (c.modeBad op) 2 ++ preg
    match c.fmt with
    | 1 => head ++ op1 ++ mode ++ slots [4, 5] ++ a1
    | 2 => head ++ mode ++ bad (!zeroBytes c.raw 4 4) 4 ++ waits ++ sigs ++ slots (List.range 6) ++ app ++ a0 ++ a1
    | _ =>
      let inl := bitf d.inl 0 3
      head ++ mode ++ ctl1Cases d (inl < 6 && c.use op inl = .unused) ++ waits ++ sigs ++ slots (List.range 6) ++ app ++ a0 ++ a1
        ++ bad (!zeroBytes c.raw 0x58 8) 0x58
        ++ c.inlineCases tt rt cases

/-! ### Pass 2 (R172) -/

def State.pass2 (s : State) (c : Cand) : List Bad :=
  let d := c.d
  d.waits.zipIdx.flatMap fun w =>
    if w.1.en then
      bad (d.activeSigs.any fun g => (s.flag c.pg g.index).level ≤ (s.flag c.pg w.1.index).level) (c.waitOff w.2) w.1.index
    else []

/-! ### Pass 3 (R173, R489) -/

/-- Rights of the function's sharer word or import entry on a pool region: READ, WRITE, ATOMIC; none where it has no
access (R489). -/
def State.poolRights (s : State) (pg : Nat) (r : Region) : Option (Bool × Bool × Bool) :=
  if 255 < r.window then none
  else if r.kind = .poolLocal then
    match s.window r.window with
    | none => none
    | some b => (localSharer b (pagePort pg) (pageFunc pg)).map fun w => (bit w 17, bit w 18, bit w 19)
  else
    match s.import r.window with
    | none => none
    | some b =>
      if fld b 2 2 = r.epid && bitf (fld b 1 1) 0 4 = r.qlPort && bit (fld b 0x18 8) (pageFunc pg) then
        some (bit (fld b 0x10 1) 0, bit (fld b 0x10 1) 1, bit (fld b 0x10 1) 2)
      else none

/-- KIND of the window a pool region names (R484). -/
def State.poolKind (s : State) (r : Region) : Nat :=
  if r.kind = .poolLocal then (match s.window r.window with | some b => expKind b | none => 0) else s.importKind r

def State.poolSize (s : State) (r : Region) : Nat :=
  if r.kind = .poolLocal then (match s.window r.window with | some b => expSize b | none => 0)
  else (match s.import r.window with | some b => fld b 8 8 | none => 0)

/-- A pool region that R489 refuses. -/
def State.poolBad (s : State) (pg : Nat) (r : Region) : Bool :=
  match s.poolRights pg r with
  | none => true
  | some (rd, wr, at_) =>
    (r.canRead && !rd) || (r.canWrite && !wr) || (r.atomic && !at_) || s.poolSize r < r.base + r.size

/-- Region checks of slot k (R173). -/
def State.regionBad (s : State) (c : Cand) (tt rt k : Nat) (t : Tensor) : Bool :=
  let out := k = 4 || k = 5
  if rt ≤ t.region then true
  else match Region.parse (Cand.entry c.regions t.region) with
    | none => true
    | some r =>
      let lim := if out && r.kind = .append then c.d.appendMax else r.size
      let accum := r.kind.isPool && s.poolKind r = 2
      r.kind = .invalid || (!out && !r.canRead) || (out && (if accum then !r.atomic else !r.canWrite))
        || (t.kind = .dense && t.denseExtents.any fun p => lim < p.1 + p.2)
        || (t.arrays.any fun a => lim ≤ a)
        || (out && (r.kind = .versioned || r.kind = .append) && r.writer ≠ c.ring)
        || (r.kind.isPool && s.poolBad c.pg r)
        || (c.d.op = some .copy && k = 4 && (r.kind = .append
              || (r.kind = .scratch && match c.tensor tt 0, c.region tt rt 0 with
                    | some x, some q => q.kind = .scratch && x.denseExtents.any fun a => t.denseExtents.any fun b =>
                        overlaps (q.base + a.1, a.2) (r.base + b.1, b.2)
                    | _, _ => false)))
        || (k = 5 && r.kind = .append && match c.region tt rt 4 with | some q => q.kind = .append | none => false)

def State.pass3 (s : State) (c : Cand) : List Bad :=
  let tt := s.reg { name := .rgTtCount, dev := c.pg }
  let rt := s.reg { name := .rgRtCount, dev := c.pg }
  let prog := c.region tt rt 6
  let preg : List Bad := match c.regionNum tt 6 with
    | none => []
    | some i => bad (match prog with | some r => r.kind = .invalid || !r.isProgram | none => true) 2 i
  let poff : List Bad := match prog with | some r => bad (r.size ≤ c.d.arg1) c.arg1Off (c.regionNum tt 6 |>.getD 0) | none => []
  let slot (k : Nat) : List Bad := match c.tensor tt k with
    | some t => bad (s.regionBad c tt rt k t) (c.tensorOff k) t.region
    | none => []
  let slots := ((List.range 6).filter fun k => !c.inlined k).flatMap slot
  let inl := ((List.range 6).filter c.inlined).flatMap slot
  let app : List Bad := [4, 5].flatMap fun k => match c.region tt rt k with
    | some r => bad (r.kind = .append && (c.d.appendMax = 0 || r.size < c.d.appendMax)) c.appOff
    | none => []
  preg ++ slots ++ (if c.fmt = 1 then [] else app) ++ poff ++ inl

/-! ### Passes 4 and 5, and the result -/

/-- Remote targets of a descriptor's transactional outputs (R74, R490). -/
def State.remoteTargets (s : State) (c : Cand) : List RTarget :=
  let tt := s.reg { name := .rgTtCount, dev := c.pg }
  let rt := s.reg { name := .rgRtCount, dev := c.pg }
  ([4, 5].filterMap fun k => match c.region tt rt k with
    | some r => if r.kind = .poolRemote && s.importKind r != 1 then
        some { epid := r.epid, port := r.qlPort, rwin := s.importRwin r } else none
    | none => none).eraseDups

/-- A target reached over QL2 only (R78). -/
def State.pass4 (s : State) (c : Cand) : List Bad :=
  let tt := s.reg { name := .rgTtCount, dev := c.pg }
  let rt := s.reg { name := .rgRtCount, dev := c.pg }
  [4, 5].flatMap fun k => match c.region tt rt k with
    | some r => bad (r.kind = .poolRemote && s.importKind r != 1
        && !s.bitOf { name := .qlStat, dev := s.qlNow r.qlPort / 8, n := s.qlNow r.qlPort } 2) (c.tensorOff k)
        (c.regionNum tt k |>.getD 0)
    | none => []

/-- The first pass that fails, with its status and INFO (R170, R176); `fd` serves the ring. -/
def State.verdict (s : State) (fd : Nat) (c : Cand) : Option (Nat × Nat) :=
  let info (b : Bad) : Nat := b.1 % 256 + b.2 % 2 ^ 24 * 256
  match s.pass1 c, s.pass2 c, s.pass3 c, s.pass4 c with
  | b :: _, _, _, _ => some (0x30, info b)
  | _, b :: _, _, _ => some (0x31, info b)
  | _, _, b :: _, _ => some (0x32, info b)
  | _, _, _, b :: _ => some (0x34, info b)
  | _, _, _, _ => if s.bitOf { name := .mtState, dev := fd } 6 then some (0x33, 0) else none

/-- An inline tensor as the operation window presents it (R376). -/
def inlineEntry (t : Tensor) (b : List Byte) : List Byte :=
  leBytes 1 1 ++ b.take 1 ++ leBytes 1 t.rank ++ leBytes 1 1 ++ leBytes 2 t.region ++ leBytes 10 0
    ++ leBytes 4 (t.dim 0) ++ leBytes 4 (t.dim 1) ++ leBytes 8 0 ++ leBytes 8 (t.a 0) ++ leBytes 8 (t.a 1) ++ leBytes 16 0

/-- The operation window (R376). -/
def Cand.window (c : Cand) (tt rt : Nat) : List Byte :=
  let ten (k : Nat) : List Byte :=
    match c.tensor tt k with
    | some t => if c.inlined k then inlineEntry t c.d.inline else Cand.entry c.tensors (c.d.slotIndex k)
    | none => List.replicate 64 0
  let reg (k : Nat) : List Byte :=
    match c.regionNum tt k with
    | some i => if i < rt then Cand.entry c.regions i else List.replicate 64 0
    | none => List.replicate 64 0
  c.raw ++ List.replicate (128 - c.raw.length) 0 ++ List.replicate 128 0 ++ (List.range 6).flatMap ten
    ++ List.replicate 128 0 ++ (List.range 7).flatMap reg

/-- What the cores know of an accepted operation. -/
def State.opCtx (s : State) (c : Cand) (asn : Nat) : OpCtx :=
  let tt := s.reg { name := .rgTtCount, dev := c.pg }
  let rt := s.reg { name := .rgRtCount, dev := c.pg }
  { asn := asn, port := pagePort c.pg, func := pageFunc c.pg, ring := c.ring, desc := c.d,
    tensors := (List.range 6).map (c.tensor tt), regions := (List.range 7).map (c.region tt rt),
    window := c.window tt rt, append := none }

end Sys2Proof.Machine
end

