-- ==== Sys2Proof/Machine/RingOps.lean ====
section
/-! DEFINITION. Shared operations of the rings (chapters 3-5): which rings are watched, doorbell lines, wedging, the
structures of the journal and the completion ring, and the writes that carry them. -/

namespace Sys2Proof.Machine

/-! ### Watching (R109-R114) -/

/-- Enabled submission rings: page and number. -/
def State.enabledRings (s : State) : List (Nat × Nat) :=
  s.regs.filterMap fun p => if p.1.name = .sqCfg && bit p.2.toNat 31 then some (p.1.dev, p.1.n) else none

/-- The port that watches and fetches a ring. -/
def State.watchPort (s : State) (pg n : Nat) : Nat := if s.multipath then s.serving pg n else pagePort pg

/-- Whether a ring is watched now (R138, R144, R622); one that never got a format is not (log entry 119). -/
def State.watches (s : State) (pg n : Nat) : Bool :=
  s.boot.done && s.sqEnabled pg n && s.fieldOf { name := .sqCfg, dev := pg, n := n } 0 2 != 0 && s.funcServed pg
    && !s.portLost (s.watchPort pg n)

/-- Rings a port watches. -/
def State.portRings (s : State) (p : Nat) : List (Nat × Nat) :=
  s.enabledRings.filter fun x => s.watchPort x.1 x.2 = p && s.watches x.1 x.2

/-- Address of a ring's doorbell word, and of its line. -/
def State.dbWord (s : State) (pg n : Nat) : Nat := s.pairOf .sqDb pg n
def lineAddr (a : Nat) : Nat := a / 64 * 64

/-- Rings of a port with a doorbell word in a line. -/
def State.lineRings (s : State) (p addr : Nat) : List (Nat × Nat) :=
  (s.portRings p).filter fun x => lineAddr (s.dbWord x.1 x.2) = lineAddr addr

/-- Doorbell lines a port watches. -/
def State.watchedLines (s : State) (p : Nat) : List Nat :=
  ((s.portRings p).map fun x => lineAddr (s.dbWord x.1 x.2)).eraseDups

/-- Snoop watching is in force on a port (R114). -/
def State.snoops (s : State) (p : Nat) : Bool :=
  s.fieldOf { name := .hlCtl, dev := p } 2 2 = 0 && s.bitOf { name := .hlLstat, dev := p } 8

def State.dbLine? (s : State) (p addr : Nat) : Option DbLine := (s.port p).lines.find? (·.addr = lineAddr addr)

def State.putLine (s : State) (p : Nat) (l : DbLine) : State :=
  s.onPort p fun h => { h with lines := l :: h.lines.filter (·.addr != l.addr) }

/-- Function that owns a doorbell line (R142). -/
def State.lineFunc (s : State) (p addr : Nat) : Nat :=
  match s.lineRings p addr with | x :: _ => pageFunc x.1 | [] => 0

/-- Read a doorbell line, by RdShared or by a poll. -/
def State.readLine (s : State) (p addr : Nat) : State :=
  (s.putLine p { addr := lineAddr addr, held := false, reading := true }).say
    (.hostRead p (s.lineFunc p addr) (lineAddr addr) 64)

/-- Read every watched line of a port once (R114). -/
def State.readLines (s : State) (p : Nat) : State :=
  (s.watchedLines p).foldl (fun acc a => acc.readLine p a) s

/-- The poll interval of a line, in 100 ns units: that of its fastest ring (R112). -/
def State.linePoll (s : State) (p addr : Nat) : Nat :=
  (s.lineRings p addr).foldl (fun m x => min m (s.fieldOf { name := .sqPoll, dev := x.1, n := x.2 } 0 14)) 10000

/-- Least whole number of 1/256 steps at which the polled lines of a port demand at most 16 reads per microsecond
(R113): sum of 10/P over the lines, times 256, over 16, rounded up. -/
def stretchSteps (ps : List Nat) : Nat :=
  let l := ps.foldl (fun m p => Nat.lcm m (max 1 p)) 1
  let sum := ps.foldl (fun a p => a + l / max 1 p) 0
  max 256 (cdiv (160 * sum) l)

/-- Set POLL_SLOW and POLL_STRETCH of a port (R113). -/
def State.stretch (s : State) (p : Nat) : State :=
  let f := if s.snoops p then 256 else stretchSteps ((s.watchedLines p).map (s.linePoll p))
  let r : Reg := { name := .hlLstat, dev := p }
  (s.setBit r 10 (256 < f)).setField r 16 16 (min 0xFFFF f)

/-- Set MP_MISMATCH on both ports where their modes differ (R130) or, in MULTIPATH, their enabled functions do
(R131). -/
def State.mpCheck (s : State) : State :=
  let m (p : Nat) : Nat := s.fieldOf { name := .hlCtl, dev := p } 0 2
  let vfs (p : Nat) : Nat := if (s.port p).vfEn then (s.port p).numVfs else 0
  let b := m 0 ≠ m 1 || (s.multipath && !s.portLost 0 && !s.portLost 1 && vfs 0 ≠ vfs 1)
  (s.setBit { name := .hlLstat, dev := 0 } 12 b).setBit { name := .hlLstat, dev := 1 } 12 b

/-! ### Wedging (R137, R138) -/

/-- Doorbell lines that no watched ring needs are let go. -/
def State.pruneLines (s : State) (p : Nat) : State :=
  let keep := s.watchedLines p
  s.onPort p fun h => { h with lines := h.lines.filter fun l => keep.contains l.addr }

/-- Wedge a function: it is served no further and its doorbells are not watched, its bit shows, FUNC_WEDGED goes to its
port's physical function. -/
def State.wedge (s : State) (pg trigger : Nat) : State :=
  let f := pageFunc pg
  let p := s.viaPort pg
  if (s.func p f).wedged then s
  else
    let set (s : State) (q : Nat) : State := s.onFunc q f fun x => { x with wedged := true }
    let s := if s.multipath then set (set s 0) 1 else set s p
    let s := (s.pruneLines 0).pruneLines 1
    s.funcEvent (s.page p 0) { code := 0x30, kind := 8, index := f, detail := trigger }

/-- A request of a function ended in error (R137 trigger 1), or well. -/
def State.requestEnds (s : State) (p f : Nat) (good : Bool) : State :=
  let s := s.onFunc p f fun x => { x with errs := if good then 0 else x.errs + 1 }
  if 3 ≤ (s.func p f).errs then s.wedge (s.page p f) 1 else s

/-- A journal, fetch or flush deadline of a ring was missed (R137 trigger 3). -/
def State.deadlineMissed (s : State) (pg n : Nat) : State :=
  let r := { s.ring pg n with missed := (s.ring pg n).missed + 1 }
  let s := s.putRing r
  if 3 ≤ r.missed then s.wedge pg 3 else s

/-! ### The consume line (R140) -/

/-- Write the consume line. -/
def State.consumeLine (s : State) (pg n : Nat) : State :=
  let r := s.ring pg n
  (s.say (.hostWrite (s.viaPort pg) (s.pairOf .sqCons pg n) (leBytes 4 r.consumed ++ List.replicate 60 0))).putRing
    { r with lineAt := some s.now, lineDue := false }

/-- Write a due consume line once 0.5 us have passed since the ring's last one (R140; log entry 32). -/
def State.lineIfDue (s : State) (pg n : Nat) : State :=
  let r := s.ring pg n
  let free := match r.lineAt with | some a => a + 500 ≤ s.now | none => true
  if r.lineDue && free && s.funcServed pg then s.consumeLine pg n else s

/-- A command of the rings or of the frame law arrives: due consume lines leave first. -/
def State.arrive (s : State) (t : Stamp) : State :=
  let s := s.stamped t
  (s.rings.sq.filter (·.lineDue)).foldl (fun acc r => acc.lineIfDue r.page r.n) s

/-- CONSUMED passes k slots. -/
def State.advance (s : State) (pg n k : Nat) : State :=
  if k = 0 then s
  else
    let r := s.ring pg n
    (s.putRing { r with consumed := (r.consumed + k) % 2 ^ 32, lineDue := true }).lineIfDue pg n

/-! ### The ring log (R74, R75) -/

def State.logBase (s : State) (pg n : Nat) : Nat := s.pairOf .sqLog pg n

/-- A structure with its CRC-32C put at an offset; the CRC is taken with that field as zero (R74). -/
def withCrc (bs : List Byte) (off : Nat) : List Byte := patch bs off (leBytes 4 (crc32c (patch bs off (leBytes 4 0))))

/-- ATTEMPT (R74). -/
def OpRec.attempt (o : OpRec) : Nat :=
  min 255 o.replays + (if o.ovr then 2 ^ 8 else 0) + o.rfail % 4 * 2 ^ 16 + o.rfailTgt % 8 * 2 ^ 18

def RTarget.bytes (x : RTarget) : List Byte := leBytes 4 (x.epid % 2 ^ 16 + x.port % 16 * 2 ^ 16) ++ leBytes 4 x.rwin

/-- The ring log entry of an operation (R74); its CRC leaves ATTEMPT out. -/
def OpRec.entry (o : OpRec) : List Byte :=
  let head := leBytes 1 1 ++ leBytes 1 o.fmt ++ leBytes 1 o.ctx.desc.cls ++ leBytes 1 o.targets.length
    ++ leBytes 4 o.lap ++ leBytes 8 o.ctx.asn ++ leBytes 8 o.issue ++ leBytes 2 (pageFunc o.page)
    ++ leBytes 2 o.ctx.ring ++ leBytes 4 o.slot ++ leBytes 1 (pagePort o.page) ++ List.replicate 31 0
  let tgts := o.targets.flatMap RTarget.bytes
  let all := head ++ o.raw ++ List.replicate (128 - o.raw.length) 0 ++ tgts ++ List.replicate (64 - tgts.length) 0
  patch (withCrc all 0x3C) 0x38 (leBytes 4 o.attempt)

def State.entryAddr (s : State) (o : OpRec) : Nat := s.logBase o.page o.ctx.ring + 256 * (o.logSlot + 1)

/-- Write an operation's entry. -/
def State.writeEntry (s : State) (o : OpRec) : State :=
  s.say (.hostWrite (s.viaPort o.page) (s.entryAddr o) o.entry)

/-- Rewrite an operation's ATTEMPT field (R75). -/
def State.writeAttempt (s : State) (o : OpRec) : State :=
  s.say (.hostWrite (s.viaPort o.page) (s.entryAddr o + 0x38) (leBytes 4 o.attempt))

/-- The ring log header (R74). -/
def State.logHeader (s : State) (r : Ring) : List Byte :=
  let n := s.logSize r.page r.n
  withCrc (leBytes 4 0x10 ++ leBytes 4 (r.durable % n) ++ leBytes 4 (r.durable / n + 1) ++ leBytes 4 0
    ++ leBytes 8 r.posted ++ leBytes 8 r.lastFrn ++ leBytes 8 s.cm.token ++ List.replicate 24 0) 0x3C
    ++ List.replicate 192 0

/-- Rewrite a ring log header; the slots before HEAD_IDX are free once it is confirmed (R75; log entry 14). -/
def State.writeHeader (s : State) (pg n : Nat) : State :=
  let r := s.ring pg n
  (s.say (.hostWrite (s.viaPort pg) (s.logBase pg n) (s.logHeader r))).putRing { r with freed := r.durable }

/-! ### Completion records (R145-R148, R175-R177) -/

/-- What a completion record says. -/
structure Record where
  reject    : Bool
  status    : Nat
  replays   : Nat
  fmt       : Nat
  ring      : Nat
  sub       : Nat
  slot      : Nat
  frn       : Nat
  asn       : Nat
  tag       : Nat
  appendOff : Nat
  appendLen : Nat
  info      : Nat
  munits    : Nat

/-- The 64-byte completion record (R175). -/
def Record.bytes (r : Record) (phase : Bool) : List Byte :=
  leBytes 1 ((if phase then 1 else 0) + (if r.reject then 2 else 0)) ++ leBytes 1 r.status
    ++ leBytes 1 (min 255 r.replays) ++ leBytes 1 r.fmt ++ leBytes 2 r.ring ++ leBytes 1 r.sub ++ leBytes 1 0
    ++ leBytes 4 r.slot ++ leBytes 4 r.frn ++ leBytes 8 r.asn ++ leBytes 8 r.tag ++ leBytes 8 r.appendOff
    ++ leBytes 4 r.appendLen ++ leBytes 4 r.info ++ leBytes 8 r.munits ++ leBytes 8 0

/-- The record of a resolved operation (R92, R175). -/
def OpRec.record (o : OpRec) (x : Resolution) : Record :=
  { reject := false, status := x.status, replays := o.replays, fmt := o.fmt, ring := o.ctx.ring, sub := x.sub,
    slot := o.slot, frn := x.frn, asn := o.ctx.asn, tag := o.ctx.desc.tag, appendOff := x.appendOff,
    appendLen := x.appendLen, info := x.info, munits := x.munits }

/-- Write a record into the next free slot of a completion ring (R145, R147). -/
def State.putRecord (s : State) (pg cq : Nat) (r : Record) : State :=
  let c := s.cring pg cq
  let size := s.cqSize pg cq
  (s.say (.hostWrite (s.viaPort pg) (s.pairOf .cqBase pg cq + 64 * (c.tail % size))
    (r.bytes (c.tail / size % 2 = 0)))).putCring { c with tail := (c.tail + 1) % 2 ^ 32 }

/-- Write the tail line of a completion ring (R146). -/
def State.tailLine (s : State) (pg cq frn : Nat) : State :=
  s.say (.hostWrite (s.viaPort pg) (s.pairOf .cqTail pg cq)
    (leBytes 4 (s.cring pg cq).tail ++ leBytes 4 frn ++ List.replicate 56 0))

/-- Announce every pending record of a completion ring by one message (R179). -/
def State.announce (s : State) (pg cq : Nat) : State :=
  let cfg : Reg := { name := .cqCfg, dev := pg, n := cq }
  (s.putCring { s.cring pg cq with pend := [] }).msix (s.viaPort pg) (pageFunc pg) (s.fieldOf cfg 5 5)

/-- A record became durable at the current stamp (R179-R181): counted while messages are enabled, announced at once or
when the count is reached. -/
def State.recordDurable (s : State) (pg cq : Nat) (atOnce : Bool) : State :=
  if !s.bitOf { name := .cqCfg, dev := pg, n := cq } 10 then s
  else
    let c := { s.cring pg cq with pend := (s.cring pg cq).pend ++ [s.now] }
    let s := s.putCring c
    if atOnce || s.fieldOf { name := .cqMod, dev := pg, n := cq } 0 8 ≤ c.pend.length then s.announce pg cq else s

/-- The operation of a ring whose record comes next: the one with the smallest ASN. -/
def State.nextToPost (s : State) (pg n : Nat) : Option OpRec :=
  (s.ringOps pg n).foldl (fun b o => match b with
    | some x => if o.ctx.asn < x.ctx.asn then some o else b
    | none => some o) none

/-- Post the next completion record of a ring where one is owed and may be written: its operation resolved, the
function served, a slot free (R92, R126, R138, R147). -/
def State.postNext (s : State) (pg n : Nat) : Option State :=
  match s.nextToPost pg n with
  | none => none
  | some o => match o.stage, o.res with
    | .resolved, some x =>
      let cq := s.cqOf pg n
      if s.cqFree pg cq = 0 || !s.funcServed pg then none
      else
        let s := (s.putRecord pg cq (o.record x)).tailLine pg cq x.frn
        let s := s.recordDurable pg cq (o.ctx.desc.cls = 2 || o.ctx.desc.irqNow)
        let r := s.ring pg n
        let s := s.putRing { r with durable := r.durable + 1, posted := o.ctx.asn, lastFrn := x.frn }
        let s := { s with ops := { s.ops with list := s.ops.list.filter fun y => y.ctx.asn != o.ctx.asn } }
        some (match s.nextToPost pg n with
          | some y => if y.stage = .resolved then s else s.writeHeader pg n
          | none => s.writeHeader pg n)
    | _, _ => none

/-! ### Fetching (R73, R143, R147) -/

def fmtSize (fmt : Nat) : Nat := match fmt with | 1 => 32 | 2 => 64 | _ => 128

def State.sqSize (s : State) (pg n : Nat) : Nat := 2 ^ s.fieldOf { name := .sqCfg, dev := pg, n := n } 2 5
def State.sqFmt (s : State) (pg n : Nat) : Nat := s.fieldOf { name := .sqCfg, dev := pg, n := n } 0 2

/-- Descriptors PRODUCE covers beyond those fetched; none where PRODUCE was moved back (log entry 120). -/
def Ring.toFetch (r : Ring) : Nat :=
  (r.produce + 2 ^ 32 - r.consumed) % 2 ^ 32 - (r.fetched + 2 ^ 32 - r.consumed) % 2 ^ 32

/-- Whether the next descriptor of a ring may be fetched. -/
def State.mayFetch (s : State) (pg n : Nat) : Bool :=
  let r := s.ring pg n
  s.watches pg n && r.toFetch != 0 && !s.atLimit pg n && s.cqFree pg (s.cqOf pg n) != 0 && r.reject.isNone

/-- Ask for the descriptors of slots fetched to produce - 1, in PRODUCE order (R143). -/
def State.requestFetch (s : State) (pg n : Nat) : State :=
  let r := s.ring pg n
  let size := fmtSize (s.sqFmt pg n)
  s.sayAll ((List.range r.toFetch).map fun i =>
    .hostRead (s.viaPort pg) (pageFunc pg) (s.pairOf .sqBase pg n + (r.fetched + i) % s.sqSize pg n * size) size)

/-- One doorbell word of a returned line (R110, R143, R144). -/
def State.doorbell (s : State) (pg n word : Nat) : State :=
  let r := { s.ring pg n with pending := false }
  let last := r.lastDb.getD r.consumed
  let s := s.putRing { r with lastDb := some word }
  if word = last then s
  else if (word + 2 ^ 32 - r.consumed) % 2 ^ 32 ≤ s.sqSize pg n then
    (s.putRing { r with lastDb := some word, produce := word }).requestFetch pg n
  else
    (s.setBit { name := .sqStat, dev := pg, n := n } 1 true).funcEvent pg
      { code := 0x31, kind := 9, index := n, detail := word }

end Sys2Proof.Machine
end

