-- ==== Sys2Proof/Machine/Rings.lean ====
section
/-! DEFINITION. The commands of doorbells, descriptors, the ring log and completion records (chapters 3-5). -/

namespace Sys2Proof.Machine

/-! ### Doorbells (R109-R112, R142-R144) -/

/-- SNPINV (R109). -/
def execSnpinv (t port addr : Nat) (s : State) : Out :=
  let s := s.arrive t
  .next (match s.dbLine? port addr with
    | none => s
    | some l =>
      if !l.held then s
      else
        let s := s.say (.snoopRsp port l.addr false)
        let s := (s.lineRings port addr).foldl (fun acc x => acc.putRing { acc.ring x.1 x.2 with pending := true }) s
        s.readLine port addr)

/-- A snoop that leaves the line Shared. -/
def State.snoopShared (s : State) (port addr : Nat) : State :=
  match s.dbLine? port addr with
  | some l => if l.held then s.say (.snoopRsp port l.addr true) else s
  | none => s

/-- SNPDATA (R109). -/
def execSnpdata (t port addr : Nat) (s : State) : Out := .next ((s.arrive t).snoopShared port addr)

/-- SNPCUR (R109). -/
def execSnpcur (t port addr : Nat) (s : State) : Out := .next ((s.arrive t).snoopShared port addr)

/-- POLL_INTERVAL (R112). -/
def execPollInterval (t port addr : Nat) (s : State) : Out :=
  let s := s.arrive t
  .next (if !s.snoops port && (s.watchedLines port).contains (lineAddr addr) then s.readLine port addr else s)

/-- DOORBELL_LINE_RETURN (R110, R143, R144): `data` is none where the read ended in error; it then counts toward wedging
and is issued again while its line is watched. -/
def execDoorbellLineReturn (t port addr : Nat) (data : Option (List Byte)) (s : State) : Out :=
  let s := s.arrive t
  .next (match s.dbLine? port addr with
    | none => s
    | some l =>
      if !l.reading then s
      else match data with
        | none =>
          let s := s.requestEnds port (s.lineFunc port addr) false
          if (s.dbLine? port addr).isSome then s.readLine port addr else s
        | some bs =>
          let s := s.requestEnds port (s.lineFunc port addr) true
          let s := s.putLine port { l with held := s.snoops port, reading := false }
          (s.lineRings port addr).foldl (fun acc x =>
            acc.doorbell x.1 x.2 (fld bs (acc.dbWord x.1 x.2 % 64) 4)) s)

/-! ### Acceptance (R69-R73, R170, R174) -/

/-- A rejection (R174): its record takes the next free slot. -/
def State.rejectNext (s : State) (c : Cand) (status info : Nat) : State :=
  let r := s.ring c.pg c.ring
  let cq := s.cqOf c.pg c.ring
  let s := s.putRing { r with reject := some { status := status, info := info, tag := c.d.tag, fmt := c.fmt } }
  s.putRecord c.pg cq
    { reject := true, status := status, replays := 0, fmt := c.fmt, ring := c.ring, sub := 0,
      slot := r.fetched % s.sqSize c.pg c.ring, frn := 0, asn := 0, tag := c.d.tag, appendOff := 0, appendLen := 0,
      info := info, munits := 0 }

/-- The ASN of an entry issued at stamp t by fabric die d (R71). -/
def asnOf (t a b d : Nat) : Nat := 2 * max t (max (a / 2 + 1) (b / 2 + 1)) + d

/-- Remember the SCRATCH regions an operation names: a full reset leaves them undefined (R443). -/
def State.noteScratch (s : State) (o : OpRec) : State :=
  let rs := o.ctx.regions.filterMap fun r => match r with
    | some r => if r.kind = .scratch then some (r.base, r.size) else none
    | none => none
  let new := rs.eraseDups.filter fun r => !s.mem.hbm.scratch.contains r
  { s with mem := { s.mem with hbm := { s.mem.hbm with scratch := s.mem.hbm.scratch ++ new } } }

/-- Journal a descriptor that passed the checks (R70, R71, R74): its entry write is issued. -/
def State.journal (s : State) (c : Cand) (t : Stamp) : State :=
  let r := s.ring c.pg c.ring
  let fd := s.serving c.pg c.ring
  let asn := asnOf t (max s.ops.asnFloor (s.ops.lastAsn.getD fd 0)) r.lastAsn fd
  let n := s.logSize c.pg c.ring
  let o : OpRec :=
    { ctx := s.opCtx c asn, page := c.pg, slot := r.fetched % s.sqSize c.pg c.ring, fmt := c.fmt, raw := c.raw,
      logSlot := r.written % n, lap := r.written / n + 1, issue := t, deadline := t + 2000, accept := none,
      stage := .issued, targets := s.remoteTargets c, replays := 0, ovr := false, rfail := 0, rfailTgt := 0,
      bad := [], cores := [], firstFrn := none, ended := none, notes := 0, units := 0, voted := false, guards := 0,
      held := false, pages := [], homes := [], sent := [], remoteNo := [], acks := 0, votes := [], append := none,
      appendHi := 0, deltas := [], us := [], res := none }
  let s := s.putRing { r with written := r.written + 1, lastAsn := asn }
  let s := { s with ops := { s.ops with list := s.ops.list ++ [o], lastAsn := s.ops.lastAsn.set fd asn } }
  let s := s.noteScratch o
  s.writeEntry o

/-- DESCRIPTOR_FETCHED (R170, R71): the next descriptor of a ring has come, with the tensor and region entries it
names, and is checked, then journaled or rejected. -/
def execDescriptorFetched (t page ring : Nat) (desc : List Byte) (tensors regions : List (Nat × List Byte)) (s : State) :
    Out :=
  let s := s.arrive t
  if !s.mayFetch page ring then .next s
  else
    let fmt := s.sqFmt page ring
    let c : Cand := { pg := page, ring := ring, fmt := fmt, raw := desc.take (fmtSize fmt), tensors := tensors,
                      regions := regions }
    let s' := match s.verdict (s.serving page ring) c with
      | some (status, info) => s.rejectNext c status info
      | none => s.journal c t
    let r := s'.ring page ring
    .next (s'.putRing { r with fetched := (r.fetched + 1) % 2 ^ 32 })

/-- Accept, in order, every issued entry of a ring that is confirmed (R72); returns how many. -/
def acceptConfirmed (pg n : Nat) (t : Stamp) : List OpRec → List OpRec × Nat
  | [] => ([], 0)
  | o :: os =>
    if o.page = pg ∧ o.ctx.ring = n ∧ o.stage = .issued then
      if o.accept.isNone then (o :: os, 0)
      else
        let r := acceptConfirmed pg n t os
        ({ o with stage := .accepted, accept := some t } :: r.1, r.2 + 1)
    else
      let r := acceptConfirmed pg n t os
      (o :: r.1, r.2)

/-- JOURNAL_ENTRY_CONFIRMED (R70, R72): a confirmation stamped in time accepts the operation once every earlier entry
of its ring is accepted. -/
def execJournalEntryConfirmed (t asn : Nat) (s : State) : Out :=
  let s := s.arrive t
  .next (match s.op? asn with
    | none => s
    | some o =>
      if o.stage ≠ .issued || o.deadline < t || o.accept.isSome then s
      else
        let s := s.onOp asn fun x => { x with accept := some t }
        let s := s.putRing { s.ring o.page o.ctx.ring with missed := 0 }
        let r := acceptConfirmed o.page o.ctx.ring t s.ops.list
        ({ s with ops := { s.ops with list := r.1 } }).advance o.page o.ctx.ring r.2)

/-- JOURNAL_DEADLINE_MISSED (R72): the entry is written again, with the same ASN, to the same slot. -/
def execJournalDeadlineMissed (t asn : Nat) (s : State) : Out :=
  let s := s.arrive t
  .next (match s.op? asn with
    | none => s
    | some o =>
      if o.stage ≠ .issued || o.accept.isSome || t < o.deadline + 32 then s
      else
        let s := (s.onOp asn fun x => { x with deadline := x.deadline + 2000 }).writeEntry o
        s.deadlineMissed o.page o.ctx.ring)

/-- REJECTION_CONFIRMED (R174): record and tail line are confirmed, and CONSUMED passes the slot. It waits for entries
of the ring issued before it. -/
def execRejectionConfirmed (t page ring : Nat) (s : State) : Out :=
  let s := s.arrive t
  let r := s.ring page ring
  .next (match r.reject with
    | none => s
    | some _ =>
      if (s.ringOps page ring).any fun o => o.stage = .issued then s
      else
        let cq := s.cqOf page ring
        let s := (s.tailLine page cq r.lastFrn).recordDurable page cq false
        (s.putRing { s.ring page ring with reject := none }).advance page ring 1)

/-! ### Completion (R92, R145-R148, R179-R181) -/

/-- A lower-numbered ring of the same completion ring owes a record of the same decision point (R148). -/
def State.owedBefore (s : State) (pg n : Nat) : Bool :=
  match (s.nextToPost pg n).bind (·.res) with
  | none => false
  | some x => (List.range n).any fun m =>
      s.cqOf pg m = s.cqOf pg n && (match (s.nextToPost pg m).bind (·.res) with
        | some y => y.frn = x.frn && y.sub = x.sub
        | none => false)

/-- COMPLETION_RECORD_POSTED (R92): the next record of a ring is written and durable. -/
def execCompletionRecordPosted (t page ring : Nat) (s : State) : Out :=
  let s := s.arrive t
  .next (if s.owedBefore page ring then s else (s.postNext page ring).getD s)

/-- MODERATION_TIMER (R179, R180). -/
def execModerationTimer (t page cq : Nat) (s : State) : Out :=
  let s := s.arrive t
  let time := s.fieldOf { name := .cqMod, dev := page, n := cq } 8 14
  .next (match (s.cring page cq).pend with
    | [] => s
    | a :: _ => if time ≠ 0 && a + 100 * time + 32 ≤ t then s.announce page cq else s)

/-- CQ_HEAD_READ (R147): the head line read while no slot is free. -/
def execCqHeadRead (t page cq head : Nat) (s : State) : Out :=
  let s := s.arrive t
  .next (if s.cqEnabled page cq && s.cqFree page cq = 0 then
      s.putCring { s.cring page cq with head := head % 2 ^ 32 } else s)

end Sys2Proof.Machine
end

