-- ==== Sys2Proof/Machine/FaultOps.lean ====
section
/-! DEFINITION. Shared operations of chapter 16: counting failures, declaring compute dies, stacks, fabric dies, host
ports and Quinulait ports failed, and what a die withholds. -/

namespace Sys2Proof.Machine

/-- Apply a change to what a die holds of the frame law. -/
def State.onDie (s : State) (d : Nat) (f : DieSeq → DieSeq) : State :=
  { s with frames := { s.frames with dies := s.frames.dies.modify d f } }

def State.die (s : State) (d : Nat) : DieSeq := s.frames.dies.getD d DieSeq.reset

/-- The cores of a die. -/
def dieCores (d : Nat) : List Nat := (List.range 4).map (4 * d + ·)

/-- A compute die that still votes: not declared failed, or only retired (R84, R539). -/
def State.votes (s : State) (d : Nat) : Bool := d < 9 && (!s.dieDead d || s.flt.retired.contains d)

/-- A die withholds its vote at the next frame decision (R450, R466, R528). -/
def State.withhold (s : State) (d : Nat) : State := s.onDie d fun x => { x with withhold := true }

/-- Count a failure; from the second one BEYOND is set and raised (R518). -/
def State.countFailure (s : State) (kind index : Nat) : State :=
  let n := s.flt.count + 1
  let s := { s with flt := { s.flt with count := n } }
  if n < 2 then s else (s.setBit rFtFailed 22 true).event { code := 0x07, kind := kind, index := index, detail := n }

/-- Send LATE to every sharer that had a scope applied in a window (R501). -/
def State.sendLate (s : State) (win : Nat) : State :=
  let id := s.reg { name := .qlEpid } % 2 ^ 16
  s.sayAll ((s.pool.applied.filter (·.1 = win)).map fun x => .ql x.2.2.1 0x17 [id, win, x.2.2.2] [])

/-- Granules of a device range lie on a stack (R428). -/
def onStack (base size h : Nat) : Bool :=
  let g := base / 4096
  (List.range (min 9 ((base + size - 1) / 4096 - g + 1))).any fun i => (g + i) % 9 = h

/-- Unmirrored windows lose committed content with a stack (R501, R527). -/
def State.windowsLost (s : State) (h : Nat) : State :=
  (List.range 256).foldl (fun acc w =>
    match acc.window w with
    | some b =>
      let size := expSize b * (if expKind b = 0 then 2 else 1)
      if !expMirror b && onStack (expBase b) size h then acc.sendLate w else acc
    | none => acc) s

/-- Declare a stack failed (R516, R517, R528), the event with this DETAIL. With reason 3 it is counted with its die
(R518). -/
def State.declareStackAs (s : State) (h reason detail : Nat) : State :=
  if s.stackDead h || 9 ≤ h then s
  else
    let s := (s.setBit rFtFailed (9 + h) true).event { code := 0x02, kind := 3, index := h, detail := detail }
    let s := s.onSlice h fun sl => { sl with lines := [], order := [], mshrs := [], waitq := [] }
    let s := s.windowsLost h
    if reason = 3 then s else (s.withhold h).countFailure 3 h

def State.declareStack (s : State) (h reason : Nat) : State := s.declareStackAs h reason reason

/-- A stack trip: R515 gives it no reason, so DETAIL is a free value (log entry 60). -/
def State.tripStack (s : State) (h : Nat) : State :=
  (s.declareStackAs h 4 ((Config.freeValue s.free).toNat % 2 ^ 32)).takeFree

/-- The banked die's failure leaves none (R523); any other die's role moves at the tick R521 names. -/
def State.noteRole (s : State) (d : Nat) : State :=
  if s.flt.banked = some d then { s with flt := { s.flt with banked := none } }.setField rFtFailed 24 4 0xF
  else { s with flt := { s.flt with moveAt := s.flt.moveAt ++ [(d, s.now)] } }

/-- Declare a compute die failed (R516-R520); a failure a link already counted for it is not counted again (R457). A die already retired that then fails loses its stack too. -/
def State.declareDie (s : State) (d reason : Nat) : State :=
  if 9 ≤ d || (s.dieDead d && !s.flt.retired.contains d) then s
  else if s.dieDead d then
    if reason = 5 then s
    else
      let s := { s with flt := { s.flt with retired := s.flt.retired.filter (· != d) } }
      (s.event { code := 0x01, kind := 2, index := d, detail := reason }).declareStack d 3
  else
    let s := (s.setBit rFtFailed d true).event { code := 0x01, kind := 2, index := d, detail := reason }
    let s := (s.noteRole d)
    let s := if s.flt.linkDies.contains d then s else s.countFailure 2 d
    if reason = 5 then
      { s with flt := { s.flt with retired := d :: s.flt.retired } }.setBit rFtFailed 23 true
    else { s with fab := { s.fab with changed := true } }.declareStack d 3

/-- A host port is lost (R103, R532); `counted` is false where its fabric die is the failed part (R531). -/
def State.losePort (s : State) (p : Nat) (counted : Bool) : State :=
  if s.portLost p then s
  else
    let s := ((s.setBit { name := .hlLstat, dev := p } 11 true).setBit rFtFailed (20 + p) true).event
      { code := 0x05, kind := 5, index := p }
    let s := s.setField { name := .hlLstat, dev := p } 0 3 0
    let s := s.onPort p fun h => { h with up := false, steady := none, returned := false }
    if counted then s.countFailure 5 p else s

/-- Configuration and status registers of a Quinulait port. -/
def qlCfgReg (p : Nat) : Reg := { name := .qlCfg, dev := p / 8, n := p }
def rFtQlfail : Reg := { name := .ftQlfail }
def qlStatReg (p : Nat) : Reg := { name := .qlStat, dev := p / 8, n := p }

/-- The alternate of a port, where one is set (R471). -/
def State.altPort (s : State) (p : Nat) : Option Nat :=
  if s.bitOf (qlCfgReg p) 6 then some (s.fieldOf (qlCfgReg p) 2 4) else none

/-- A Quinulait port is lost (R471, R532). -/
def State.loseQl (s : State) (p : Nat) (counted : Bool) : State :=
  if s.bitOf rFtQlfail p then s
  else
    let s := (((s.setField (qlStatReg p) 0 2 3).setBit (qlStatReg p) 4 false).setBit rFtQlfail p true).event
      { code := 0x06, kind := 6, index := p, detail := (s.altPort p).getD 0xFF }
    if counted then s.countFailure 6 p else s

/-- Declare a fabric die failed: its ports go with it and are not counted again (R529-R531). -/
def State.declareFd (s : State) (f reason : Nat) : State :=
  if s.bitOf rFtFailed (18 + f) || 2 ≤ f then s
  else
    let s := (s.setBit rFtFailed (18 + f) true).event { code := 0x03, kind := 4, index := f, detail := reason }
    let s := (s.countFailure 4 f).losePort f false
    let s := (List.range 8).foldl (fun acc i => acc.loseQl (8 * f + i) false) s
    { s with cm := { s.cm with standby := false }, fab := { s.fab with changed := true } }

/-- An operation joins a core's abort list with cause CHECKSUM (R249, R450, R541). -/
def Core.failCheck (k : Core) (asn : Nat) : Core :=
  { k with aborts := if k.aborts.any (·.1 = asn) then k.aborts else k.aborts ++ [(asn, 6)] }

/-- A fabric die in service. -/
def State.fdAlive (s : State) (f : Nat) : Bool := !s.bitOf rFtFailed (18 + f)

/-- A fabric die that tripped and is not declared failed yet. -/
def State.fdTripped (s : State) (f : Nat) : Bool := s.pwr.waits.any fun w => w.1 = 4 && w.2.1 = f

/-- A master exists that declares failures and decides (R516). -/
def State.hasMaster (s : State) : Bool := s.fdAlive s.cm.master && !s.fdTripped s.cm.master

/-- Declare a part by its KIND of R515. -/
def State.declarePart (s : State) (kind index reason : Nat) : State :=
  match kind with
  | 2 => s.declareDie index reason
  | 3 => if reason = 4 then s.tripStack index else s.declareStack index reason
  | 4 => s.declareFd index reason
  | 5 => s.losePort index true
  | 6 => s.loseQl index true
  | _ => s

/-- Declare a part, or let its declaration wait for the takeover while there is no master (R516). -/
def State.declareOrWait (s : State) (kind index reason : Nat) : State :=
  if s.hasMaster then s.declarePart kind index reason
  else if s.pwr.waits.any fun w => w.1 = kind && w.2.1 = index then s
  else { s with pwr := { s.pwr with waits := s.pwr.waits ++ [(kind, index, reason)] } }

/-- The new master makes the declarations that waited. -/
def State.settleWaits (s : State) : State :=
  let ws := s.pwr.waits
  ws.foldl (fun acc w => acc.declarePart w.1 w.2.1 w.2.2) { s with pwr := { s.pwr with waits := [] } }

/-- Cores URGENT work and stolen items never go to (R539). -/
def State.shunned (s : State) (c : Nat) : Bool := s.flt.shunned.contains c || s.dieDead (c / 4) && !s.flt.retired.contains (c / 4)

end Sys2Proof.Machine
end

