-- ==== Sys2Proof/Machine/Tiles.lean ====
section
/-! DEFINITION. The commands of the tile queue (chapter 12): entries issue, take effect, retire, and release tiles. -/

namespace Sys2Proof.Machine

/-! ### Issue over the whole state -/

/-- Whether a core store range of an entry lies in a resident shard that is not filled yet (R358). -/
def State.shardWaits (s : State) (core : Nat) (q : TileEntry) : Bool :=
  (List.range 4).any fun n =>
    let sh := (s.core core).shards.getD n Shard.none
    s.bitOf { name := .coRsCfg, n := n } 0 && sh.member && !sh.filled
      && hit [(s.fieldOf { name := .coRsCs, n := n } 0 11 * 4096, s.fieldOf { name := .coRsSz, n := n } 0 9 * 4096)] q.reads

/-- Metered work of an entry (R553). -/
def Core.tileWork (k : Core) (q : TileEntry) : Nat :=
  if q.top = topSTR then
    (q.arrays.map fun j =>
      let ws := if q.f0 8 1 = 1 then (k.array j).bg else (k.array j).fg
      (q.f1 17 9 + 1) * 16 * (pairOf (aelemOf q) (ws.elem.getD (aelemOf q))).kc).foldl (· + ·) 0
  else if q.top = topMV then (q.f1 17 8 + 1) * ((q.f0 4 3 + 1) * 16 * (pairOf (aelemOf q) (welemOf q)).kc)
  else if q.top = topACC then (q.f1 17 9 + 1) * 16
  else if q.top = topEW then (q.f1 0 9 + 1) * 16
  else 0

/-- Whether an entry has issued: marked so, or gone. -/
def Core.hasIssued (k : Core) (id : Nat) : Bool := match k.entry? id with | some q => q.issued | none => true

/-- Issue an entry that reads no resident shard still being filled; its metered work counts for the operation. -/
def State.issueTile (s : State) (core top id : Nat) (f : TileEntry → Core → Core) : State :=
  match (s.core core).entry? id with
  | none => s
  | some q =>
    if s.shardWaits core q || q.issued then s
    else
      let s' := s.onCore core fun k => k.issue top id f
      if (s'.core core).hasIssued id then
        s'.onOp q.asn fun o => { o with units := o.units + (s.core core).tileWork q }
      else s'

/-! ### Rows written to an output tensor (R413, R188-R190) -/

/-- Region pieces of one converted row written at coordinates (c0 .., c1) of a dense tensor; columns at and above DIM0
are dropped, and a last block's positions above DIM0 are code 0 (R190; log entry 31). `left` and `right` are the 4-bit
codes that share the first and the last byte with elements outside the row (log entry 125). -/
def rowPieces (t : Tensor) (c0 c1 : Nat) (r : ConvRow) (left right : Option Nat := none) : List (Nat × List Byte) :=
  let e := t.elem
  let n := min r.codes.length (t.dim 0 - c0)
  let codes := r.codes.take n
  if e.isMx then
    ((List.range (cdiv n 32)).flatMap fun b =>
      let blk := c0 / 32 + b
      [(t.blockOff c1 blk, packCodes e.bits e.blockBytes ((codes.drop (32 * b)).take 32)),
       (t.scaleOff c1 blk, leBytes 1 (r.scales.getD b 0))])
  else
    let codes := left.toList ++ codes ++ right.toList
    [(t.rowOff c1 + c0 * e.bits / 8, packCodes e.bits (cdiv (codes.length * e.bits) 8) codes)]

/-- The 4-bit code at column c of row c1 of an output slot, kept where a CLOSE writes the other half of its byte; not
known of a remote target (log entry 125). -/
def State.halfByte (s : State) (o : OpRec) (t : Tensor) (r : Region) (c c1 : Nat) : Nat :=
  if r.kind = .poolRemote then (Config.freeValue s.free).toNat % 16
  else match s.opRead o r true (t.rowOff c1 + c / 2) 1 with
    | .ok bs => leNat bs / 2 ^ (c % 2 * 4) % 16
    | _ => 0

/-- Pieces of a row whose ends may lie inside a byte (R413; log entry 125). -/
def State.closePieces (s : State) (o : OpRec) (t : Tensor) (r : Region) (c0 c1 : Nat) (row : ConvRow) :
    List (Nat × List Byte) :=
  let c := c0 + min row.codes.length (t.dim 0 - c0)
  let at_ (inside : Bool) (c : Nat) : Option Nat := if inside then some (s.halfByte o t r c c1) else none
  rowPieces t c0 c1 row (at_ (t.elem = .int4 && c0 % 2 = 1) (c0 - 1))
    (at_ (t.elem = .int4 && c % 2 = 1 && c < t.dim 0) c)

/-- Write pieces of an output slot's region: staged locally, or sent to the far side (R79, R496). -/
def State.writePieces (s : State) (o : OpRec) (r : Region) : List (Nat × List Byte) → MemAcc State
  | [] => .ok s
  | p :: ps =>
    if r.kind = .poolRemote then
      let w := s.remoteWrite o r 0 p.1 p.2
      (w.1.onOp o.ctx.asn fun x => { x with acks := x.acks + w.2 }).writePieces o r ps
    else match s.opWrite o r p.1 p.2 with
      | .ok s => s.writePieces o r ps
      | x => x

/-- Lines of a row for the bucket that carries it (R349). -/
def rowLines (r : Region) (ps : List (Nat × List Byte)) : Nat :=
  (linesOf r.base (ps.map fun p => (p.1, p.2.length))).length

/-- The element rows of a CLOSE to OUT0 or OUT1, written to the slot (R413). -/
def State.closeWrite (s : State) (core : Nat) (q : TileEntry) : MemAcc State :=
  let k := s.core core
  let rows := k.closeOut q
  if rows.isEmpty then .ok s
  else match k.segOf q.asn, s.op? q.asn with
    | some g, some o =>
      match g.ctx.slot (q.blk 9 1 + 2) with
      | (some t, some r) =>
        let ps := rows.flatMap fun x => s.closePieces o t r x.1 x.2.1 x.2.2
        (match s.writePieces o r ps with
         | .ok s => .ok (s.chargeOn core (if r.kind = .poolRemote then .remote else .write) 0 (rowLines r ps))
         | x => x)
      | _ => .ok s
    | _, _ => .ok s

/-! ### The commands -/

/-- Tile LDW (R407). -/
def execLdw (core id : Nat) (s : State) : Out := .next (s.issueTile core topLDW id Core.ldw)

/-- Tile STR (R408); freeze cycles are counted (R238), and a residue mismatch on the arrays of a mask aborts the
operation (R249). -/
def execStr (core id freezeDry freezeAcc mismatch : Nat) (s : State) : Out :=
  .next (s.issueTile core topSTR id fun q k =>
    ((Core.str q k).freeze freezeDry freezeAcc).checksum q.asn mismatch false)

/-- Tile ACC (R409). -/
def execAcc (core id mismatch : Nat) (s : State) : Out :=
  .next (s.issueTile core topACC id fun q k => (Core.acc q k).checksum q.asn mismatch false)

/-- Tile MV (R410). -/
def execMv (core id mismatch : Nat) (s : State) : Out :=
  .next (s.issueTile core topMV id fun q k => (Core.mv q k).checksum q.asn 0 (mismatch != 0))

/-- Tile EW (R412). -/
def execEw (core id : Nat) (s : State) : Out := .next (s.issueTile core topEW id Core.ew)

/-- Tile CLOSE (R413). It waits while its output rows meet a page another operation has staged (R80); a lost granule is
INPUT_LOST (R526). A CHAIN close sends its partial (R281). -/
def execClose (core id : Nat) (s : State) : Out :=
  .next (match (s.core core).entry? id with
    | none => s
    | some q =>
      let run (s : State) : State := s.issueTile core topCLOSE id Core.close
      if run s = s then s
      else match s.closeWrite core q with
        | .ok s' =>
          let s' := run s'
          if q.f0 6 2 = 1 then
            s'.sayAll (q.arrays.map fun j => .chain core q.asn q.item j (q.f0 8 3))
          else s'
        | .wait => s
        | .lost => (run s).onCore core fun k => k.endOp q.asn 0x13 0)

/-- Whether drain or output work of earlier entries of an item on some arrays is still open (R415). -/
def Core.draining (k : Core) (q : TileEntry) : Bool :=
  (k.queue.any fun x => x.id < q.id && x.asn = q.asn && x.item = q.item && x.arrays.any q.arrays.contains
      && (x.top = topCLOSE || !x.issued) && x.start.isNone)
    || q.arrays.any fun j => (k.array j).tiles.any fun t =>
        (match t.owner with | some o => o.asn = q.asn && o.item = q.item | none => false)
          && (t.closed || !t.back.isEmpty)

/-- Tile DRAIN (R415). -/
def execDrain (core id : Nat) (s : State) : Out :=
  .next (match (s.core core).entry? id with
    | none => s
    | some q => if (s.core core).draining q then s else s.issueTile core topDRAIN id fun _ k => k)

/-- Tile MERGE (R416). -/
def execMerge (core id : Nat) (s : State) : Out := .next (s.issueTile core topMERGE id Core.merge)

/-- Tile GATHER (R417). -/
def execGather (core id : Nat) (s : State) : Out := .next (s.issueTile core topGATHER id Core.gather)

/-- TILE_ENTRY_RETIRE (R402). -/
def execTileEntryRetire (core id : Nat) (s : State) : Out := .next (s.onCore core (·.retire id))

/-- CLOSE_DRAIN_END (R414). -/
def execCloseDrainEnd (core array tile : Nat) (s : State) : Out := .next (s.onCore core (·.drainEnd array tile))

/-- ITEM_END (R414). -/
def execItemEnd (core asn item : Nat) (s : State) : Out := .next (s.onCore core (·.endItem asn item))

/-- CHAIN_PARTIAL_RECEIVED (R282): waits until the receiving tile is allocated; `flags` holds
the partial's ISAT, XOVF and XINX (R263). -/
def execChainPartialReceived (core asn item array ltile terms flags : Nat) (rows : List (List SpillE)) (s : State) :
    Out :=
  .next (s.onCore core (·.addChain asn item array ltile rows terms (bit flags 0) (bit flags 1) (bit flags 2)))

end Sys2Proof.Machine
end

