-- ==== Sys2Proof/Machine/SparseOps.lean ====
section
/-! DEFINITION. What the built-in operations of chapters 9 and 10 share: fetching the bytes an item reads, compressed
operands as entry streams (R296-R300), panels and their K blocks (R305-R307), products in pass order (R314), exact
quotients, the function X (R321), and stored values of a compressed output (R191). -/

namespace Sys2Proof

def Tensor.idle : Tensor :=
  { kind := .dense, elem := .int8, rank := 1, sorted := false, sep := false, region := 0, shape := 0, nnz := 0,
    dims := [], arr := [] }

/-- Rows and columns of one BSR block (R159). -/
def Tensor.bsrRows (t : Tensor) : Nat := 2 ^ bitf t.shape 0 3
def Tensor.bsrCols (t : Tensor) : Nat := 2 ^ bitf t.shape 4 3

/-- Kept values of a group, positions of a group, and groups of a row of an NM tensor (R159). -/
def Tensor.nmKept (t : Tensor) : Nat := bitf t.shape 0 4
def Tensor.nmSize (t : Tensor) : Nat := 2 ^ bitf t.shape 4 3
def Tensor.nmGroups (t : Tensor) : Nat := cdiv (t.dim 0) t.nmSize

/-- Whether fibres are columns: CSC, or a CSF whose level 0 holds DIM0. -/
def Tensor.byColumn (t : Tensor) : Bool := t.kind = .csc || (t.kind = .csf && bitf t.shape 0 2 = 0)

/-- Words of a bitmap row. -/
def Tensor.bitWords (t : Tensor) : Nat := cdiv (t.dim 0) 32

/-- Byte ranges of stored value i of a compressed tensor. -/
def Tensor.valuePieces (t : Tensor) (i : Nat) : List Piece :=
  if t.elem.isMx then
    let st := t.elem.blockBytes + (if t.sep then 0 else 1)
    [(t.a 0 + i / 32 * st, t.elem.blockBytes),
     (if t.sep then t.a 3 + i / 32 else t.a 0 + i / 32 * st + t.elem.blockBytes, 1)]
  else [(t.a 0 + i * t.elem.bits / 8, cdiv t.elem.bits 8)]

/-- Unscaled value and scale exponent of stored value i. -/
def Tensor.stored (t : Tensor) (rd : Rd) (i : Nat) : Option Int × Val :=
  match t.valuePieces i with
  | [p, q] => (scaleExp (rd q.1).toNat, t.elem.decode (packedCode t.elem.bits (Rd.bytes rd p.1 p.2) (i % 32)))
  | _ =>
    let lo := i * t.elem.bits
    (some 0, t.elem.decode (Rd.le rd (t.a 0 + lo / 8) (cdiv t.elem.bits 8) / 2 ^ (lo % 8) % 2 ^ t.elem.bits))

/-- The exactly decoded stored value (R197). -/
def Tensor.storedVal (t : Tensor) (rd : Rd) (i : Nat) : Val := let x := t.stored rd i; scaled x.1 x.2

/-- Byte ranges of element (i0, i1) of a dense tensor. -/
def Tensor.elemPieces (t : Tensor) (i0 i1 : Nat) : List Piece :=
  if t.elem.isMx then t.pieces false i1 (i0 / 32)
  else [(t.rowOff i1 + i0 * t.elem.bits / 8, cdiv t.elem.bits 8)]

/-- A column range of row i1 of a dense tensor, element by element. -/
def Tensor.rowRange (t : Tensor) (c0 n i1 : Nat) : List Piece :=
  ((List.range n).flatMap fun c => t.elemPieces (c0 + c) i1).eraseDups

end Sys2Proof

namespace Sys2Proof.Machine

/-! ### Fetching -/

/-- Why an item cannot run now: a forwarding read waits, a granule is lost, or a run-time fault with its INFO. -/
inductive Halt where
  | wait
  | lost
  | fault (info : Nat)
  deriving DecidableEq, Repr

abbrev Get := Except Halt

/-- An operation on a core, with the bytes the far side returned for each POOL_REMOTE operand slot. -/
structure Job where
  s      : State
  o      : OpRec
  ctx    : OpCtx
  remote : List (List Byte)

/-- STREAM_FAULT EXTENT of the internally generated streams, engine field 0b111 (R352; log entry 34). -/
def innerExtent : Nat := seEXTENT + 7 * 2 ^ 16

namespace Job
def tensor (j : Job) (k : Nat) : Tensor := (j.ctx.tensors.getD k none).getD Tensor.idle
def has (j : Job) (k : Nat) : Bool := (j.ctx.tensors.getD k none).isSome
def desc (j : Job) : Desc := j.ctx.desc
def ctrl (j : Job) : Ctrl := Ctrl.parse j.ctx.desc.arg0
def modes (j : Job) : Modes := { floor := j.ctrl.floor, rnd := j.desc.rnd, ieee := j.desc.ieee }

/-- Bytes of a slot's region by piece; `own` is false for COPY's T0 (R364). -/
def fetch (j : Job) (k : Nat) (ps : List Piece) (own : Bool := true) : Get Rd :=
  match j.ctx.regions.getD k none with
  | none => .error .lost
  | some r =>
    if ps.any fun p => j.ctx.limit k r < p.1 + p.2 then .error (.fault innerExtent)
    else if r.kind = .poolRemote then .ok fun i => (j.remote.getD k []).getD i 0
    else match j.s.readPieces j.o r (k = 4 || k = 5) ps own with
      | .ok bs => .ok (pieceRd bs)
      | .wait => .error .wait
      | .lost => .error .lost

/-- n little-endian 32-bit words at an array. -/
def words (j : Job) (k off n : Nat) : Get (List Nat) := do
  let rd ← j.fetch k [(off, 4 * n)]
  return (List.range n).map fun i => Rd.le rd (off + 4 * i) 4
end Job

/-! ### Entry streams (R296-R300) -/

/-- A stored element or block: the fibre it lies in, its coordinate, and its index. -/
structure Ent where
  fib   : Nat
  coord : Nat
  idx   : Nat
  deriving DecidableEq, Repr

/-- A run after duplicate-combine. -/
structure ERun where
  fib   : Nat
  coord : Nat
  idx   : Nat
  cnt   : Nat
  deriving DecidableEq, Repr

/-- Duplicate-combine on entries (R300). -/
def mergeEnts (pol : Nat) : List Ent → List ERun
  | [] => []
  | e :: r =>
    match mergeEnts pol r with
    | [] => [⟨e.fib, e.coord, e.idx, 1⟩]
    | y :: t =>
      if y.fib = e.fib ∧ y.coord = e.coord then
        (match pol with
         | 2 => y :: t
         | 3 => ⟨e.fib, e.coord, e.idx, y.cnt + 1⟩ :: t
         | _ => ⟨e.fib, e.coord, e.idx, 1⟩ :: t)
      else ⟨e.fib, e.coord, e.idx, 1⟩ :: y :: t

/-- The first fault of an entry stream in storage order, the lowest cause at one entry (R298): `flim` and `clim` are
the dimensions of fibres and coordinates, `strict` holds for layouts ordered by themselves. -/
def entFault (pol : Nat) (strict : Bool) (flim clim : Nat) : Option Ent → Nat → List Ent → Option Nat
  | _, _, [] => none
  | prev, run, e :: r =>
    let same := match prev with | some p => p.fib = e.fib && p.coord = e.coord | none => false
    let back := match prev with
      | some p => e.fib < p.fib || (e.fib = p.fib && e.coord < p.coord)
      | none => false
    if back || (same && (strict || pol = 0)) then some 0xC01
    else if flim ≤ e.fib || clim ≤ e.coord then some 0xC02
    else if same && pol = 3 && 65535 < run + 1 then some 0xC04
    else entFault pol strict flim clim (some e) (if same then run + 1 else 1) r

/-- POINTER (R298): an array that decreases, or a value above its limit. -/
def ptrBad (lim : Nat) (ps : List Nat) : Bool := decreases ps || ps.any fun p => lim < p

/-- Entries of fibres between pointers. -/
def fibreEnts (ptrs coords : List Nat) : List Ent :=
  let p0 := ptrs.headD 0
  (List.range (ptrs.length - 1)).flatMap fun f =>
    (List.range (ptrs.getD (f + 1) 0 - ptrs.getD f 0)).map fun i =>
      let e := ptrs.getD f 0 + i
      ⟨f, coords.getD (e - p0) 0, e⟩

/-- Fault-checked entries: the entries, or the POINTER, ORDER, RANGE or RUN fault (R298). -/
def checked (pol : Nat) (strict : Bool) (flim clim : Nat) (es : List Ent) : Get (List Ent) :=
  match entFault pol strict flim clim none 1 es with
  | some c => .error (.fault c)
  | none => .ok es

namespace Job

/-- Entries of CSR, CSC and BSR. -/
def ptrEnts (j : Job) (k pol fibres clim : Nat) : Get (List Ent) := do
  let t := j.tensor k
  let ptrs ← j.words k (t.a 1) (fibres + 1)
  if ptrBad t.nnz ptrs then .error (.fault 0xC03)
  else
    let p0 := ptrs.headD 0
    let coords ← j.words k (t.a 2 + 4 * p0) (ptrs.getLastD 0 - p0)
    checked pol false fibres clim (fibreEnts ptrs coords)

def cooEnts (j : Job) (k pol : Nat) : Get (List Ent) := do
  let t := j.tensor k
  let ws ← j.words k (t.a 1) (2 * t.nnz)
  checked pol false (t.dim 1) (t.dim 0)
    ((List.range t.nnz).map fun e => ⟨ws.getD (2 * e) 0, ws.getD (2 * e + 1) 0, e⟩)

def bitmapEnts (j : Job) (k pol : Nat) : Get (List Ent) := do
  let t := j.tensor k
  let n := t.dim 1 * t.bitWords
  let pre ← j.words k (t.a 2) n
  if ptrBad t.nnz pre then .error (.fault 0xC03)
  else
    let bm ← j.words k (t.a 1) n
    checked pol true (t.dim 1) (t.dim 0)
      ((List.range n).flatMap fun w =>
        (((List.range 32).filter fun b => bit (bm.getD w 0) b).zipIdx.map fun x =>
          ⟨w / t.bitWords, 32 * (w % t.bitWords) + x.1, pre.getD w 0 + x.2⟩))

def nmEnts (j : Job) (k pol : Nat) : Get (List Ent) := do
  let t := j.tensor k
  let per := t.nmKept * t.nmGroups
  let n := t.dim 1 * per
  let w := bitf t.shape 4 3
  let len := cdiv (n * w) 8
  let rd ← j.fetch k [(t.a 1, len)]
  let stream := Rd.le rd (t.a 1) len
  checked pol true (t.dim 1) (t.dim 0)
    ((List.range n).map fun i =>
      ⟨i / max 1 per, i % max 1 per / t.nmKept * t.nmSize + bitf stream (w * i) w, i⟩)

/-- Entries of a rank 2 CSF: equal coordinates of the root fibre merge into one node (R300). -/
def csfEnts (j : Job) (k pol : Nat) : Get (List Ent) := do
  let t := j.tensor k
  let tab ← j.fetch k [(t.a 1, 32)]
  let off (i : Nat) : Nat := Rd.le tab (t.a 1 + 8 * i) 8
  let p0 ← j.words k (off 0) 2
  if decreases p0 then .error (.fault 0xC03)
  else
    let lo := p0.headD 0
    let n := p0.getD 1 0 - lo
    let p1 ← j.words k (off 2 + 4 * lo) (n + 1)
    if ptrBad t.nnz p1 then .error (.fault 0xC03)
    else
      let root ← j.words k (off 1 + 4 * lo) n
      let leaf ← j.words k (off 3 + 4 * p1.headD 0) (p1.getLastD 0 - p1.headD 0)
      let _ ← checked 1 false 1 (t.dim (bitf t.shape 0 2)) (root.map fun c => ⟨0, c, 0⟩)
      checked pol false (t.dim (bitf t.shape 0 2)) (t.dim (bitf t.shape 2 2))
        ((fibreEnts p1 leaf).map fun e => { e with fib := root.getD e.fib 0 })

/-- Entries of the compressed operand in slot k, in storage order. -/
def entries (j : Job) (k pol : Nat) : Get (List Ent) :=
  let t := j.tensor k
  match t.kind with
  | .csr => j.ptrEnts k pol (t.dim 1) (t.dim 0)
  | .csc => j.ptrEnts k pol (t.dim 0) (t.dim 1)
  | .bsr => j.ptrEnts k pol (cdiv (t.dim 1) t.bsrRows) (cdiv (t.dim 0) t.bsrCols)
  | .coo => j.cooEnts k pol
  | .bitmap => j.bitmapEnts k pol
  | .nm => j.nmEnts k pol
  | .csf => j.csfEnts k pol
  | .dense => .ok []

end Job

/-! ### Stored values (R188, R191) -/

/-! ### Cells: one stored element by row and column -/

/-- A stored element after duplicate-combine: row, column, first index, run count. -/
structure SCell where
  row : Nat
  col : Nat
  idx : Nat
  cnt : Nat
  deriving DecidableEq, Repr

/-- Cells of runs. A BSR block gives its elements row-major; positions at and above a dimension are none (R307,
R190). -/
def cellsOf (t : Tensor) (rs : List ERun) : List SCell :=
  if t.kind = .bsr then
    rs.flatMap fun b => (List.range t.bsrRows).flatMap fun r => (List.range t.bsrCols).filterMap fun c =>
      let row := b.fib * t.bsrRows + r
      let col := b.coord * t.bsrCols + c
      if row < t.dim 1 && col < t.dim 0 then
        some ⟨row, col, b.idx * (t.bsrRows * t.bsrCols) + r * t.bsrCols + c, 1⟩
      else none
  else if t.byColumn then rs.map fun e => ⟨e.coord, e.fib, e.idx, e.cnt⟩
  else rs.map fun e => ⟨e.fib, e.coord, e.idx, e.cnt⟩

/-- Insert into an ascending list without repeats. -/
def insertAsc (x : Nat) : List Nat → List Nat
  | [] => [x]
  | y :: r => if x < y then x :: y :: r else if x = y then y :: r else y :: insertAsc x r

/-- Ascending, without repeats. -/
def ascending (xs : List Nat) : List Nat := xs.foldr insertAsc []

/-- U of rows [lo, hi): the ascending K blocks with a stored element (R306). -/
def blocksOf (cs : List SCell) (lo hi : Nat) : List Nat :=
  ascending ((cs.filter fun c => lo ≤ c.row && c.row < hi).map (·.col / 32))

/-- Rows [lo, hi) of panel q of an operation with n rows and panels of p rows. -/
def panelRows (p n q : Nat) : Nat × Nat := (q * p, min n (q * p + p))

/-- Rows of a panel (R305), or of a GEMM item (R324). -/
def panelSize (p : Pair) (psh : Nat) : Nat := max 1 (512 / p.v / 2 ^ psh)

/-! ### Products -/

/-- One operand block as the arrays take it: scale exponent and 32 unscaled elements. -/
abbrev SBlock := Option Int × List Val

def zeroBlock : SBlock := (some 0, List.replicate 32 Val.zero)

/-- A dense operand's block. -/
def denseBlock (t : Tensor) (rd : Rd) (trans : Bool) (v kb : Nat) : SBlock :=
  let b := t.block rd trans v kb
  (if t.elem.isMx then scaleExp b.scale else some 0, b.codes.map t.elem.decode)

/-- Block kb of a compacted row: stored values at their offsets, code 0 elsewhere; an MX block with none stored has scale
code 0 (R307). `one` replaces every value by 1 (R312 PATTERN). -/
def sparseBlock (t : Tensor) (one : Bool) (rd : Rd) (cs : List SCell) (row kb : Nat) : SBlock :=
  let here := cs.filter fun c => c.row = row && c.col / 32 = kb
  let lane (i : Nat) : Val :=
    match here.find? fun c => c.col % 32 = i with
    | some c => if one then Val.ofZ 1 else (t.stored rd c.idx).2
    | none => Val.zero
  (if one || !t.elem.isMx then some 0
   else match here.head? with | some c => (t.stored rd c.idx).1 | none => scaleExp 0,
   (List.range 32).map lane)

/-- Group K blocks into passes of Kc positions (R306). -/
def passes (p : Pair) (us : List Nat) : List (List Nat) := chunks (p.kc / 32) us.length us

/-- One tile row of up to 16 columns over all passes, in pass index order (R264-R279). -/
def dotTile (p : Pair) (d : Desc) (ps : List (List Nat)) (a : Nat → SBlock) (w : Nat → Nat → SBlock) : AccTile :=
  let kind : AccKind := if p.int then .int32 else .fp32
  let fresh := freshTile { asn := 0, item := 0, ltile := 0, bankU := false, group := none } d
  (ps.zipIdx.foldl (fun (t : AccTile) c => (t.beginPass kind 0 c.2).accumulate 1 fun _ n => c.1.map fun kb =>
    blockDot (w n kb).1 (a kb).1 (w n kb).2 (a kb).2) { fresh with kind := some kind }).combined

/-- A row of products: columns [0, n) by groups of 16, with the INFO bits its tiles raise. -/
def dotRow (p : Pair) (d : Desc) (ps : List (List Nat)) (a : Nat → SBlock) (w : Nat → Nat → SBlock) (n : Nat) :
    List Val × Nat :=
  let ts := (List.range (cdiv n 16)).map fun g =>
    (g, dotTile p d ps a fun c kb => if 16 * g + c < n then w (16 * g + c) kb else zeroBlock)
  (ts.flatMap fun x => (List.range (min 16 (n - 16 * x.1))).map fun c => x.2.final 0 c,
   ts.foldl (fun i x => i ||| x.2.info) 0)

/-! ### Exact quotients and X -/

/-- RNE32 of a finite value m * 2^e over a positive one: the exact quotient to more bits than binary32 holds, with a
sticky bit below. -/
def rneQuot (neg : Bool) (m : Nat) (e : Int) (dm : Nat) (de : Int) : Word :=
  let k := 64 + Nat.log2 dm
  let q := m * 2 ^ k / dm
  rne32z (.fin neg (2 * q + (if m * 2 ^ k % dm = 0 then 0 else 1)) (e - de - k - 1))

/-- RNE32(v / d) for a finite positive d. -/
def rneDiv (v d : Val) : Word :=
  match v, d with
  | .fin s m e, .fin _ dm de => if dm = 0 then rne32 .nan else rneQuot s m e dm de
  | v, _ => rne32 v

/-- Floor of a finite value. -/
def valFloor : Val → Int
  | .fin s m e => if 0 ≤ e then Val.signed s (m * 2 ^ e.toNat) else Val.signed s m / (2 ^ (-e).toNat : Nat)
  | _ => 0

/-- X(x) of R321, a BF16 code. -/
def expX (x : Word) : Nat :=
  let fma (g f : Val) (c : Word) : Val := f32 (rne32z (Val.add (Val.mul g f) (f32 c)))
  let y := f32 (rne32z (Val.mul (f32 x) (f32 0x3FB8AA3B#32)))
  if Val.lt y (Val.ofZ (-126)) then 0
  else
    let n := valFloor y
    let f := Val.sub y (Val.ofZ n)
    let g := fma (f32 0x3AAEC3FF#32) f 0x3C1D955B#32
    let g := fma g f 0x3D635847#32
    let g := fma g f 0x3E75FDF0#32
    let g := fma g f 0x3F317218#32
    let g := fma g f 0x3F800000#32
    (convElem .bf16 .rne true 0 (g.scale n)).code

def expVal (x : Word) : Val := Elem.bf16.decode (expX x)

/-! ### Stored values of a compressed output (R191) -/

/-- Positions that are written together: an MX block, the two 4-bit codes of a byte, or one value. -/
def unitSize (e : Elem) : Nat := if e.isMx then 32 else if e.bits = 4 then 2 else 1

/-- Convert the unit of values that starts at position u * unitSize; a position whose value the manual leaves open takes
a free code (log entry 35). `f i` gives the value and its logical coordinates. -/
def storedUnit (t : Tensor) (md : Modes) (seed free : Nat) (f : Nat → Option (Val × Nat × Nat)) (u : Nat) :
    List (Nat × List Byte) × Nat :=
  let n := unitSize t.elem
  let ix := (List.range n).map (n * u + ·) |>.filter (· < t.nnz)
  let v (i : Nat) : Val := match f i with | some x => x.1 | none => Val.zero
  let dr (i : Nat) : Nat := match f i with | some x => draw seed 0 x.2.1 x.2.2 0 0 | none => 0
  let r := convRow t.elem md (fun c => dr (n * u + c)) (ix.map v)
  let codes := (ix.zip r.codes).map fun x =>
    if (f x.1).isSome then x.2 else (Config.freeValue (free + x.1)).toNat % 2 ^ t.elem.bits
  if t.elem.isMx then
    match t.valuePieces (n * u) with
    | [p, q] => ([(p.1, packCodes t.elem.bits p.2 codes), (q.1, leBytes 1 (r.scales.headD 0))], r.info)
    | _ => ([], 0)
  else ([(t.a 0 + n * u * t.elem.bits / 8, packCodes t.elem.bits (cdiv (t.elem.bits * codes.length) 8) codes)], r.info)

/-- Write the units that hold the given positions. -/
def storedUnits (t : Tensor) (md : Modes) (seed free : Nat) (f : Nat → Option (Val × Nat × Nat)) (is : List Nat) :
    List (Nat × List Byte) × Nat :=
  let us := ((is.map (· / unitSize t.elem)).eraseDups).map (storedUnit t md seed free f)
  (us.flatMap (·.1), us.foldl (fun i x => i ||| x.2) 0)

/-! ### What an item leaves -/

/-- The result of an item: bytes written by output slot, INFO bits, work of R553, and the U size its gather stage
measured (R329). -/
structure ItemOut where
  writes : List (Nat × List (Nat × List Byte)) := []
  info   : Nat := 0
  work   : Nat := 0
  us     : List (Nat × Nat) := []

/-- Bias and element-wise operands of columns [c0, c0 + n) of a row, 0 where absent (R290, R293). -/
def Job.postOperands (j : Job) (row c0 n : Nat) : Get ((Nat → Val) × (Nat → Val)) := do
  let val (k i1 : Nat) : Get (Nat → Val) :=
    if j.has k then do
      let rd ← j.fetch k ((j.tensor k).rowRange c0 n i1)
      return fun c => (j.tensor k).valAt rd (c0 + c) i1
    else return fun _ => Val.zero
  let bias ← val 2 0
  let ew ← val 3 row
  return (bias, ew)

/-- Pass a row of values through the output channel into OUT0 (R291-R295). -/
def Job.outRow (j : Job) (row c0 : Nat) (vs : List Val) (bias ew : Nat → Val) : ItemOut :=
  let r := convRow (j.tensor 4).elem j.modes (fun c => draw j.desc.seed 0 (c0 + c) row 0 0)
    (vs.zipIdx.map fun x => channelOut j.ctrl x.1 (bias x.2) (ew x.2))
  { writes := [(4, rowPieces (j.tensor 4) c0 row r)], info := r.info }

/-- Join the results of an item's rows. -/
def ItemOut.join (xs : List ItemOut) : ItemOut :=
  { writes := xs.flatMap (·.writes), info := xs.foldl (fun i x => i ||| x.info) 0,
    work := xs.foldl (fun w x => w + x.work) 0, us := xs.flatMap (·.us) }

end Sys2Proof.Machine
end

