-- ==== Sys2Proof/Machine/Builtins.lean ====
section
/-! DEFINITION. The built-in operations, MARK and PROGRAM (chapters 5, 8, 9, 10): what one item of each computes and
writes, and the commands that run an operation's items on a core. -/

namespace Sys2Proof.Machine

/-! ### Items by position (R324) -/

/-- The pair a product operation runs, and its panel rows or row tile. -/
def Job.pairAt (j : Job) (a b : Nat) (one : Bool) : Pair :=
  let e := (j.tensor b).elem
  if one then Sys2Proof.pairOf e e else Sys2Proof.pairOf (j.tensor a).elem e

/-- PSH (R305, R312). -/
def Desc.psh (d : Desc) : Nat := bitf d.mode 8 3

/-- Work of R553: r rows, each pass, each 16-column group. -/
def workOf (p : Pair) (r passes n : Nat) : Nat := r * 16 * p.kc * passes * cdiv n 16

/-- Pieces of the blocks of some vectors of a dense tensor. -/
def densePieces (t : Tensor) (trans : Bool) (vs bs : List Nat) : List Piece :=
  (vs.flatMap fun v => bs.flatMap fun b => t.pieces trans v b).eraseDups

/-- The column group of an item with g groups of up to 64 columns of n. -/
def colGroup (n num : Nat) : Nat × Nat :=
  let g := max 1 (cdiv n 64)
  (64 * (num % g), min 64 (n - 64 * (num % g)))

/-! ### GEMM -/

/-- One GEMM item: row tile and column group (R324). -/
def Job.gemm (j : Job) (num : Nat) : Get ItemOut := do
  let ta := bit j.desc.mode 0
  let tb := bit j.desc.mode 1
  let a := j.tensor 0
  let b := j.tensor 1
  let p := j.pairAt 0 1 false
  let n := b.vecDim tb
  let cg := colGroup n num
  let rows := panelRows (512 / p.v) (a.vecDim ta) (num / max 1 (cdiv n 64))
  let kbs := List.range (cdiv (a.kDim ta) 32)
  let rs := (List.range (rows.2 - rows.1)).map (rows.1 + ·)
  let ra ← j.fetch 0 (densePieces a ta rs kbs)
  let rb ← j.fetch 1 (densePieces b tb ((List.range cg.2).map (cg.1 + ·)) kbs)
  let ps := passes p kbs
  let outs ← rs.mapM fun i => do
    let x := dotRow p j.desc ps (denseBlock a ra ta i) (fun c kb => denseBlock b rb tb (cg.1 + c) kb) cg.2
    let post ← j.postOperands i cg.1 cg.2
    let y := j.outRow i cg.1 x.1 post.1 post.2
    return { y with info := y.info ||| x.2 }
  return { ItemOut.join outs with work := workOf p rs.length ps.length cg.2 }

/-! ### SPMM and AGGR -/

/-- MEAN (R314): the value divided by its row's stored count, +0 for a row that stores none. -/
def meanOf (v : Val) (c : Nat) : Val :=
  if c = 0 then Val.zero else f32 (rneDiv v (.fin false c 0))

/-- One SPMM or AGGR item: panel and column group (R305-R314). -/
def Job.spmm (j : Job) (num : Nat) : Get ItemOut := do
  let one := bit j.desc.mode 2
  let mean := j.desc.op = some .aggr && bit j.desc.mode 3
  let a := j.tensor 0
  let b := j.tensor 1
  let p := j.pairAt 0 1 one
  let cs := cellsOf a (mergeEnts (bitf j.desc.mode 0 2) (← j.entries 0 (bitf j.desc.mode 0 2)))
  let n := b.vecDim false
  let cg := colGroup n num
  let q := num / max 1 (cdiv n 64)
  let rows := panelRows (panelSize p (Desc.psh j.desc)) (a.dim 1) q
  let us := blocksOf cs rows.1 rows.2
  let here := cs.filter fun c => rows.1 ≤ c.row && c.row < rows.2
  let ra ← if one then pure (fun _ => 0) else j.fetch 0 ((here.flatMap fun c => a.valuePieces c.idx).eraseDups)
  let rb ← j.fetch 1 (densePieces b false ((List.range cg.2).map (cg.1 + ·)) us)
  let ps := passes p us
  let rs := (List.range (rows.2 - rows.1)).map (rows.1 + ·)
  let outs ← rs.mapM fun i => do
    let x := dotRow p j.desc ps (sparseBlock a one ra here i) (fun c kb => denseBlock b rb false (cg.1 + c) kb) cg.2
    let vs := if mean then x.1.map fun v => meanOf v (here.filter (·.row = i)).length else x.1
    let post ← j.postOperands i cg.1 cg.2
    let y := j.outRow i cg.1 vs post.1 post.2
    return { y with info := y.info ||| x.2 }
  return { ItemOut.join outs with work := workOf p rs.length ps.length cg.2, us := [(q, us.length)] }

/-! ### SPGEMM -/

/-- Distinct columns of row i of the product, ascending (R315). -/
def productCols (ca cb : List SCell) (i : Nat) : List Nat :=
  ascending ((ca.filter (·.row = i)).flatMap fun a => (cb.filter (·.row = a.col)).map (·.col))

/-- Block kb of column c of a compressed right operand, densified (R315). -/
def columnBlock (t : Tensor) (rd : Rd) (cs : List SCell) (c kb : Nat) : SBlock :=
  let lane (i : Nat) : Val :=
    match cs.find? fun x => x.col = c && x.row = 32 * kb + i with
    | some x => (t.stored rd x.idx).2
    | none => Val.zero
  (some 0, (List.range 32).map lane)

/-- SPGEMM symbolic (R315): a panel's row pointers; a count of 2^31 or more has no INT32 code and is a free value. -/
def Job.spgemmSym (j : Job) (num : Nat) : Get ItemOut := do
  let a := j.tensor 0
  let p := j.pairAt 0 1 false
  let ca := cellsOf a (mergeEnts 0 (← j.entries 0 0))
  let cb := cellsOf (j.tensor 1) (mergeEnts 0 (← j.entries 1 0))
  let rows := panelRows (panelSize p (Desc.psh j.desc)) (a.dim 1) num
  let total (i : Nat) : Nat := ((List.range i).map fun r => (productCols ca cb r).length).foldl (· + ·) 0
  let word (i : Nat) : List Byte :=
    if total i < 2 ^ 31 then leBytes 4 (total i) else leBytes 4 (Config.freeValue (j.s.free + i)).toNat
  let is := (if num = 0 then [0] else []) ++ (List.range (rows.2 - rows.1)).map (rows.1 + 1 + ·)
  return { writes := [(4, is.map fun i => ((j.tensor 4).a 0 + 4 * i, word i))] }

/-- SPGEMM numeric (R315). -/
def Job.spgemmNum (j : Job) (num : Nat) : Get ItemOut := do
  let a := j.tensor 0
  let b := j.tensor 1
  let y := j.tensor 4
  let p := j.pairAt 0 1 false
  let ca := cellsOf a (mergeEnts 0 (← j.entries 0 0))
  let cb := cellsOf b (mergeEnts 0 (← j.entries 1 0))
  let rows := panelRows (panelSize p (Desc.psh j.desc)) (a.dim 1) num
  let ptrs ← j.words 4 (y.a 1) (a.dim 1 + 1)
  if ptrBad y.nnz ptrs then .error (.fault 0xC03)
  else if (List.range (a.dim 1)).any fun i => ptrs.getD (i + 1) 0 - ptrs.getD i 0 ≠ (productCols ca cb i).length then
    .error (.fault 0xC05)
  else
    let ra ← j.fetch 0 ((ca.flatMap fun c => a.valuePieces c.idx).eraseDups)
    let rb ← j.fetch 1 ((cb.flatMap fun c => b.valuePieces c.idx).eraseDups)
    let rowAt (i : Nat) : Nat := ((List.range (a.dim 1)).find? fun r => ptrs.getD r 0 ≤ i && i < ptrs.getD (r + 1) 0).getD 0
    let usAt (i : Nat) : List Nat := let r := panelRows (panelSize p (Desc.psh j.desc)) (a.dim 1) (i / panelSize p (Desc.psh j.desc)); blocksOf ca r.1 r.2
    let colAt (i : Nat) : Nat := (productCols ca cb (rowAt i)).getD (i - ptrs.getD (rowAt i) 0) 0
    let tile (i : Nat) : List Val × Nat :=
      dotRow p j.desc (passes p (usAt (rowAt i))) (sparseBlock a false ra ca (rowAt i)) (fun _ kb => columnBlock b rb cb (colAt i) kb) 1
    let lo := ptrs.getD rows.1 0
    let is := (List.range (ptrs.getD rows.2 0 - lo)).map (lo + ·)
    let vals := storedUnits y j.modes j.desc.seed j.s.free
      (fun i => if ptrs.headD 0 ≤ i && i < ptrs.getLastD 0 then
          some (channelOut j.ctrl ((tile i).1.headD Val.zero) Val.zero Val.zero, colAt i, rowAt i) else none) is
    let us := blocksOf ca rows.1 rows.2
    let cols := ascending (is.map colAt)
    return { writes := [(4, is.map fun i => (y.a 2 + 4 * i, leBytes 4 (colAt i))), (4, vals.1)],
             info := is.foldl (fun x i => x ||| (tile i).2) vals.2,
             work := workOf p (rows.2 - rows.1) (passes p us).length cols.length, us := [(num, us.length)] }

/-! ### SDDMM -/

/-- One SDDMM item: a panel of mask rows (R316). -/
def Job.sddmm (j : Job) (num : Nat) : Get ItemOut := do
  let m := j.tensor 0
  let a := j.tensor 1
  let b := j.tensor 2
  let pol := bitf j.desc.mode 0 2
  let p := j.pairAt 1 2 false
  let es ← j.entries 0 pol
  let cs := cellsOf m (mergeEnts pol es)
  let rows := panelRows (panelSize p (Desc.psh j.desc)) (m.dim 1) num
  let inPanel (e : Ent) : Bool := rows.1 ≤ e.fib && e.fib < rows.2
  let is := (es.filter inPanel).map (·.idx)
  let cols := ascending (((es.filter inPanel)).map (·.coord))
  let kbs := List.range (cdiv (a.dim 0) 32)
  let unit := unitSize (j.tensor 4).elem
  let touched := cs.filter fun c => is.any fun i => i / unit = c.idx / unit
  let ra ← j.fetch 1 (densePieces a false ((touched.map (·.row)).eraseDups) kbs)
  let rb ← j.fetch 2 (densePieces b false ((touched.map (·.col)).eraseDups) kbs)
  let rm ← if bit j.desc.mode 2 then j.fetch 0 ((touched.flatMap fun c => m.valuePieces c.idx).eraseDups)
           else pure (fun _ => 0)
  let ps := passes p kbs
  let dot (c : SCell) : List Val × Nat :=
    dotRow p j.desc ps (denseBlock a ra false c.row) (fun _ kb => denseBlock b rb false c.col kb) 1
  let val (c : SCell) : Val :=
    let v := (dot c).1.headD Val.zero
    if bit j.desc.mode 2 then f32 (rne32z (Val.mul v (m.storedVal rm c.idx))) else v
  let y := { j.tensor 4 with nnz := m.nnz }
  let out := storedUnits y j.modes j.desc.seed j.s.free
    (fun i => (touched.find? (·.idx = i)).map fun c => (channelOut j.ctrl (val c) Val.zero Val.zero, c.col, c.row)) is
  return { writes := [(4, out.1)], info := touched.foldl (fun x c => x ||| (dot c).2) out.2,
           work := workOf p (rows.2 - rows.1) ps.length cols.length }

/-! ### SPATTN -/

/-- Scores of row i of a panel over its stored keys (R320), with the tiles' INFO bits. -/
def scoreRow (p : Pair) (d : Desc) (ps : List (List Nat)) (q : Nat → SBlock) (k : Nat → Nat → SBlock) (keys : List Nat)
    (scale : Word) : List Word × Nat :=
  let x := dotRow p d ps q (fun c kb => k (keys.getD c 0) kb) keys.length
  (x.1.map fun v => rne32z (Val.mul v (f32 scale)), x.2)

/-- The greatest score. -/
def maxScore (ss : List Word) : Word :=
  ss.foldl (fun m x => if Val.lt (f32 m) (f32 x) then x else m) (ss.headD 0)

/-- Weights p of a row whose scores are all finite (R322). -/
def softWeights (ss : List Word) : List Word :=
  let m := maxScore ss
  ss.map fun x => rne32z (Val.sub (f32 x) (f32 m))

/-- One SPATTN item: a panel of query rows, all three phases (R319-R322). -/
def Job.spattn (j : Job) (num : Nat) : Get ItemOut := do
  let q := j.tensor 0
  let k := j.tensor 1
  let v := j.tensor 3
  let p := j.pairAt 0 1 false
  let p3 := Sys2Proof.pairOf .bf16 v.elem
  let cs := cellsOf (j.tensor 2) (mergeEnts 0 (← j.entries 2 0))
  let rows := panelRows (panelSize p (Desc.psh j.desc)) (q.dim 1) num
  let here := cs.filter fun c => rows.1 ≤ c.row && c.row < rows.2
  let rs := (List.range (rows.2 - rows.1)).map (rows.1 + ·)
  let kbs := List.range (cdiv (q.dim 0) 32)
  let us := blocksOf cs rows.1 rows.2
  let keys := ascending (here.map (·.col))
  let rq ← j.fetch 0 (densePieces q false rs kbs)
  let rk ← j.fetch 1 (densePieces k false keys kbs)
  let dv := v.rows
  let rv ← j.fetch 3 (densePieces v false (List.range dv) us)
  let scale : Word := BitVec.ofNat 32 (bitf j.desc.arg1 0 32)
  let outs := rs.map fun i =>
    let ks := (here.filter (·.row = i)).map (·.col)
    let sc := scoreRow p j.desc (passes p kbs) (denseBlock q rq false i) (denseBlock k rk false) ks scale
    let special := sc.1.any fun w => (f32 w).isNan || (f32 w).isInf
    let ws := (softWeights sc.1).map expVal
    let lane (kb c : Nat) : Val := match ks.findIdx? (· = 32 * kb + c) with | some x => ws.getD x Val.zero | none => Val.zero
    let a := dotRow p3 j.desc (passes p3 us) (fun kb => (some 0, (List.range 32).map (lane kb)))
      (fun c kb => denseBlock v rv false c kb) dv
    let l := ws.foldl Val.add Val.zero
    let vs : List Val :=
      if ks.isEmpty then List.replicate dv Val.zero
      else if special then List.replicate dv .nan
      else a.1.map fun x => f32 (rneDiv x l)
    let o := j.outRow i 0 vs (fun _ => Val.zero) (fun _ => Val.zero)
    { o with info := o.info ||| sc.2 ||| (if ks.isEmpty || special then 0 else a.2) }
  return { ItemOut.join outs with
           work := workOf p rs.length (passes p kbs).length keys.length + workOf p3 rs.length (passes p3 us).length dv,
           us := [(num, us.length)] }

/-! ### MOE_ROUTE -/

/-- Whether logit a ranks above logit b, NaN below every value (R317). -/
def logitAbove (a b : Val) : Bool := !a.isNan && (b.isNan || Val.lt b a)

/-- The best k experts of a token, ties to the lower number (R317). -/
def topExperts (ls : List Val) : Nat → List Nat
  | 0 => []
  | n + 1 =>
    let had := topExperts ls n
    let free := (List.range ls.length).filter fun e => !had.contains e
    match free with
    | [] => had
    | e :: es => had ++ [es.foldl (fun b x => if logitAbove (ls.getD x .nan) (ls.getD b .nan) then x else b) e]

/-- Gate of a selected expert (R317); none where the manual states no value: X of a NaN difference. -/
def gateOf (soft : Bool) (ls : List Val) (sel : List Nat) (e : Nat) : Option Val :=
  let l (x : Nat) : Val := ls.getD x .nan
  if !soft then some (l e)
  else
    let m := sel.foldl (fun b x => if logitAbove (l x) b then l x else b) (l (sel.headD 0))
    let df (x : Nat) : Val := f32 (rne32z (Val.sub (l x) m))
    if sel.any fun x => (df x).isNan then none
    else
      let pv (x : Nat) : Val := expVal (rne32z (df x))
      let total := f32 (rne32z ((sel.map pv).foldl Val.add Val.zero))
      some (f32 (rneDiv (pv e) total))

/-- The whole MOE_ROUTE operation (R317). -/
def Job.moeRoute (j : Job) (_num : Nat) : Get ItemOut := do
  let x := j.tensor 0
  let y := j.tensor 4
  let ne := x.dim 0
  let nt := x.rows
  let k := bitf j.desc.arg0 0 4
  let cap := bitf j.desc.arg1 0 32
  let rd ← j.fetch 0 x.denseExtents
  let logits (t : Nat) : List Val := (List.range ne).map fun e => x.valAt rd e t
  let sel := (List.range nt).map fun t => topExperts (logits t) k
  let want (e : Nat) : List Nat := (List.range nt).filter fun t => (sel.getD t []).contains e
  let kept (e : Nat) : List Nat := if cap = 0 then want e else (want e).take cap
  let flat := (List.range ne).flatMap fun e => (kept e).map fun t => (e, t)
  let ptr (e : Nat) : Nat := ((List.range e).map fun i => (kept i).length).foldl (· + ·) 0
  let gate (i : Nat) : Option (Val × Nat × Nat) :=
    match flat[i]? with
    | some (e, t) => (gateOf (bit j.desc.mode 0) (logits t) (sel.getD t []) e).map fun v => (v, t, e)
    | none => none
  let vals := storedUnits { y with nnz := flat.length } j.modes j.desc.seed j.s.free gate (List.range flat.length)
  let drops := if j.has 5 then
      [(5, (List.range ne).map fun e =>
        ((j.tensor 5).a 0 + 4 * e, leBytes 4 ((want e).length - (kept e).length)))] else []
  return { writes := [(4, (List.range (ne + 1)).map fun e => (y.a 1 + 4 * e, leBytes 4 (ptr e))),
                      (4, flat.zipIdx.map fun z => (y.a 2 + 4 * z.2, leBytes 4 z.1.2)), (4, vals.1)] ++ drops,
           info := vals.2 }

/-! ### EMB_REDUCE -/

/-- Add terms to one X128 entry, with the flags XOVF and XINX as INFO bits 0 and 1 (R318, R263). -/
def reduceTerms (xwin : Int) (ts : List Val) : Val × Nat :=
  let r := ts.zipIdx.foldl (fun (a : SpillE × Nat) t =>
    let x := addTerm xwin t.2 a.1 t.1
    (x.e, a.2 ||| (if x.xovf then 1 else 0) ||| (if x.xinx then 2 else 0))) (.fin 0, 0)
  (SpillE.value .fp32 xwin r.1, r.2)

/-- One EMB_REDUCE item: 512 bags, or 512 table rows of a scatter (R318, R324). -/
def Job.embReduce (j : Job) (num : Nat) : Get ItemOut := do
  let scatter := bit j.desc.mode 0
  let one := bit j.desc.mode 3
  let pol := bitf j.desc.mode 1 2
  let st := j.tensor 0
  let tb := j.tensor 1
  let y := j.tensor 4
  let n := y.dim 0
  let cs := cellsOf st (mergeEnts pol (← j.entries 0 pol))
  let key (c : SCell) : Nat := if scatter then c.col else c.row
  let other (c : SCell) : Nat := if scatter then c.row else c.col
  let total := if scatter then st.dim 0 else st.dim 1
  let rows := panelRows 512 total num
  let here := cs.filter fun c => rows.1 ≤ key c && key c < rows.2
  let rs ← if one then pure (fun _ => 0) else
    j.fetch 0 ((here.flatMap fun c => (List.range c.cnt).flatMap fun i => st.valuePieces (c.idx + i)).eraseDups)
  let rt ← j.fetch 1 ((here.flatMap fun c => tb.rowRange 0 n (other c)).eraseDups)
  let value (i : Nat) : Val := if one then Val.ofZ 1 else st.storedVal rs i
  let terms (b c : Nat) : List Val :=
    (here.filter (key · = b)).flatMap fun x => (List.range x.cnt).map fun i => Val.mul (value (x.idx + i)) (tb.valAt rt c (other x))
  let bs := ((List.range (rows.2 - rows.1)).map (rows.1 + ·)).filter fun b => !scatter || here.any (key · = b)
  let outs ← bs.mapM fun b => do
    let old ← if scatter then do
        let rd ← j.fetch 4 (y.rowRange 0 n b)
        pure (fun c => [y.valAt rd c b])
      else pure (fun _ => [])
    let xs := (List.range n).map fun c => reduceTerms j.desc.xwin (terms b c ++ old c)
    let post ← if scatter then pure (fun _ => Val.zero, fun _ => Val.zero) else j.postOperands b 0 n
    let o := j.outRow b 0 (xs.map (·.1)) post.1 post.2
    return { o with info := xs.foldl (fun i x => i ||| x.2) o.info,
                    work := ((List.range n).map fun c => (terms b c ++ old c).length).foldl (· + ·) 0 }
  return ItemOut.join outs

/-! ### COPY and CONVERT -/

/-- 1 MiB of OUT0 bytes: the 32-element groups of an item, as (group of a row, row), in storage order (R364). -/
def itemGroups (y : Tensor) (num : Nat) : List (Nat × Nat) :=
  let g := cdiv (y.dim 0) 32
  let start (i : Nat) : Nat := i / g * y.rowSize (y.dim 0) + (y.blockOff 0 (i % g) - y.rowOff 0)
  (List.range (y.rows * g)).filterMap fun i => if start i / 1048576 = num then some (i % g, i / g) else none

/-- One COPY item (R363, R364): every code unchanged, read as it stood before the operation. -/
def Job.copy (j : Job) (num : Nat) : Get ItemOut := do
  let x := j.tensor 0
  let y := j.tensor 4
  let tr := bit j.desc.mode 0
  let outs ← (itemGroups y num).mapM fun g => do
    let n := min 32 (y.dim 0 - 32 * g.1)
    let rd ← j.fetch 0 (if tr then (List.range n).flatMap fun i => x.elemPieces g.2 (32 * g.1 + i)
                        else x.pieces false g.2 g.1) false
    let codes := if tr then (List.range n).map fun i => x.codeAt rd g.2 (32 * g.1 + i)
      else ((x.blockK rd g.2 g.1).codes).take n
    return rowPieces y (32 * g.1) g.2 { codes := codes, scales := [(x.blockK rd g.2 g.1).scale], info := 0 }
  return { writes := outs.map fun ps => (4, ps) }

/-- One CONVERT item (R219, R220): exact values converted at site 0 under the scale rule of MODE[0]; equal formats keep their codes (log entry 36). -/
def Job.convert (j : Job) (num : Nat) : Get ItemOut := do
  let x := j.tensor 0
  let y := j.tensor 4
  let outs ← (itemGroups y num).mapM fun g => do
    let n := min 32 (y.dim 0 - 32 * g.1)
    let rd ← j.fetch 0 (x.pieces false g.2 g.1)
    let r : ConvRow :=
      if x.elem = y.elem then
        { codes := ((x.blockK rd g.2 g.1).codes).take n, scales := [(x.blockK rd g.2 g.1).scale], info := 0 }
      else convRow y.elem { j.modes with floor := bit j.desc.mode 0 } (fun c => draw j.desc.seed 0 (32 * g.1 + c) g.2 0 0)
        ((List.range n).map fun i => x.valAt rd (32 * g.1 + i) g.2)
    return ({ writes := [(4, rowPieces y (32 * g.1) g.2 r)], info := r.info } : ItemOut)
  return ItemOut.join outs

/-! ### Running an operation's items on a core -/

/-- Write an item's bytes slot by slot. -/
def State.writeItems (s : State) (o : OpRec) (ctx : OpCtx) : List (Nat × List (Nat × List Byte)) → MemAcc State
  | [] => .ok s
  | w :: ws =>
    match ctx.regions.getD w.1 none with
    | none => .lost
    | some r =>
      match s.writePieces o r w.2 with
      | .ok s => s.writeItems o ctx ws
      | x => x

/-- An item whose bytes lie inside its output regions; an access past SIZE is EXTENT (R173, R352). -/
def Job.bounded (f : Job → Nat → Get ItemOut) (j : Job) (num : Nat) : Get ItemOut := do
  let out ← f j num
  if out.writes.any fun w => match j.ctx.regions.getD w.1 none with
    | some r => w.2.any fun p => j.ctx.limit w.1 r < p.1 + p.2.length
    | none => false then .error (.fault innerExtent)
  else return out

/-- Items of a segment still to run. -/
def Seg.todo (g : Seg) : List Item := g.items.filter fun i => !i.done

/-- Whether every other split of an item has been done (R281). -/
def State.splitsDone (s : State) (core asn : Nat) (i : Item) : Bool :=
  s.cores.zipIdx.all fun k => k.2 = core || k.1.segs.all fun g =>
    g.ctx.asn != asn || g.items.all fun x => x.num != i.num || x.split = i.split || x.done

/-- Mark one split of an item done. -/
def Core.splitDone (k : Core) (asn num split : Nat) : Core :=
  { k with segs := k.segs.map fun g =>
      if g.ctx.asn = asn then
        { g with items := g.items.map fun i => if i.num = num ∧ i.split = split then { i with done := true } else i }
      else g }

/-- Mark items done and record the operation's notes, work and U sizes. -/
def State.itemsDone (s : State) (core asn : Nat) (items : List Item) (out : ItemOut) : State :=
  let s := s.onCore core fun k =>
    { (items.foldl (fun k i => k.splitDone asn i.num i.split) k) with notes := k.note asn out.info }
  s.onOp asn fun o => { o with units := o.units + out.work,
                               us := out.us ++ o.us.filter fun u => !(out.us.any (·.1 = u.1)) }

/-- Run every item of an operation's segment on a core (log entry 37): the receiver of a split item computes it once the
other splits are done, a sender sends its partial (R281); a run-time fault, a lost granule or a wait ends or defers the
whole command. -/
def State.runItems (s : State) (op : Op) (asn core : Nat) (remote : List (List Byte)) (f : Job → Nat → Get ItemOut) :
    State :=
  let k := s.core core
  match k.segOf asn, s.op? asn with
  | some g, some o =>
    if g.finished || !g.started || g.ctx.desc.op != some op || k.guard then s
    else
      let todo := g.todo
      let send := todo.filter fun i => i.split + 1 < i.splits
      let recv := todo.filter fun i => !(i.split + 1 < i.splits)
      let s := (s.itemsDone core asn send {}).sayAll
        (send.map fun i => .chain core asn i.num 0 0)
      if !(recv.all fun i => i.splits ≤ 1 || s.splitsDone core asn i) then s
      else
        match recv.mapM fun i => Job.bounded f { s := s, o := o, ctx := g.ctx, remote := remote } i.num with
        | .error .wait => s
        | .error .lost => s.onCore core fun k => k.endOp asn 0x13 0
        | .error (.fault c) => s.onCore core fun k => k.endOp asn 0x23 c
        | .ok outs =>
          let out := ItemOut.join outs
          match s.writeItems o g.ctx out.writes with
          | .wait => s
          | .lost => s.onCore core fun k => k.endOp asn 0x13 0
          | .ok s => { (s.itemsDone core asn recv out) with free := s.free + 2 ^ 32 }
  | _, _ => s

/-- SPMM (R314). -/
def execSpmm (t asn core : Nat) (remote : List (List Byte)) (s : State) : Out :=
  .next ((s.stamped t).runItems .spmm asn core remote Job.spmm)

/-- SPGEMM, symbolic or numeric by MODE[0] (R315). -/
def execSpgemm (t asn core : Nat) (remote : List (List Byte)) (s : State) : Out :=
  .next ((s.stamped t).runItems .spgemm asn core remote fun j n => if bit j.desc.mode 0 then j.spgemmNum n else j.spgemmSym n)

/-- SDDMM (R316). -/
def execSddmm (t asn core : Nat) (remote : List (List Byte)) (s : State) : Out :=
  .next ((s.stamped t).runItems .sddmm asn core remote Job.sddmm)

/-- GEMM (R258, R324). -/
def execGemm (t asn core : Nat) (remote : List (List Byte)) (s : State) : Out :=
  .next ((s.stamped t).runItems .gemm asn core remote Job.gemm)

/-- SPATTN (R319-R322). -/
def execSpattn (t asn core : Nat) (remote : List (List Byte)) (s : State) : Out :=
  .next ((s.stamped t).runItems .spattn asn core remote Job.spattn)

/-- AGGR (R314). -/
def execAggr (t asn core : Nat) (remote : List (List Byte)) (s : State) : Out :=
  .next ((s.stamped t).runItems .aggr asn core remote Job.spmm)

/-- MOE_ROUTE (R317). -/
def execMoeRoute (t asn core : Nat) (remote : List (List Byte)) (s : State) : Out :=
  .next ((s.stamped t).runItems .moeRoute asn core remote Job.moeRoute)

/-- EMB_REDUCE (R318). -/
def execEmbReduce (t asn core : Nat) (remote : List (List Byte)) (s : State) : Out :=
  .next ((s.stamped t).runItems .embReduce asn core remote Job.embReduce)

/-- COPY (R363, R364). -/
def execCopy (t asn core : Nat) (remote : List (List Byte)) (s : State) : Out :=
  .next ((s.stamped t).runItems .copy asn core remote Job.copy)

/-- CONVERT (R204, R206). -/
def execConvert (t asn core : Nat) (remote : List (List Byte)) (s : State) : Out :=
  .next ((s.stamped t).runItems .convert asn core remote Job.convert)

end Sys2Proof.Machine
end

