-- ==== Sys2Proof/Machine/Splitter.lean ====
section
/-! DEFINITION. The splitter (9.6, R364, R365-R367): prefix sums, items and their estimated costs, capacity, splits,
and the placement of a frame's operations on cores. -/

namespace Sys2Proof.Machine

/-! ### Scheduled cores (R20-R24, R521, R522) -/

/-- Scheduled cores in ascending number. -/
def State.schedCores (s : State) : List Nat := (List.range 36).filter s.ringCores.contains

/-- Give the banked die the role of a die declared failed at or before the cut-off, or leave that die unscheduled where
no banked die remains (R521-R523). -/
def State.moveRole (s : State) (cut : Stamp) (m : Nat × Stamp) : State :=
  if cut < m.2 then s
  else
    let rest := s.flt.moveAt.filter (· != m)
    match s.flt.banked with
    | some b =>
      let s := { s with flt := { s.flt with moveAt := rest, banked := none, roles := (m.1, b) :: s.flt.roles } }
      s.setField rFtFailed 24 4 0xF
    | none => { s with flt := { s.flt with moveAt := rest } }

def State.moveRoles (s : State) (cut : Stamp) : State := s.flt.moveAt.foldl (fun acc m => acc.moveRole cut m) s

/-! ### Prefix sums (R323) -/

/-- A 32-bit word of an operand's arrays as the splitter sees it: NNZ beyond NNZ, and NNZ where it cannot be read. -/
def State.prefixWord (s : State) (o : OpRec) (k : Nat) (t : Tensor) (off : Nat) : Nat :=
  match o.ctx.regions.getD k none with
  | none => t.nnz
  | some r =>
    if r.kind = .poolRemote || r.size < off + 4 then t.nnz
    else match s.opRead o r false off 4 with
      | .ok b => min t.nnz (leNat b)
      | _ => t.nnz

/-- A coordinate word; 0 where it cannot be read. -/
def State.coordWord (s : State) (o : OpRec) (k : Nat) (off : Nat) : Nat :=
  match o.ctx.regions.getD k none with
  | none => 0
  | some r =>
    if r.kind = .poolRemote || r.size < off + 4 then 0
    else match s.opRead o r false off 4 with
      | .ok b => leNat b
      | _ => 0

/-- Binary search of sorted COO tuples: the first element whose DIM1 coordinate is at least `row` (R323). -/
def State.cooFirst (s : State) (o : OpRec) (k : Nat) (t : Tensor) (row : Nat) : Nat → Nat → Nat → Nat
  | 0, lo, _ => lo
  | f + 1, lo, hi =>
    if hi ≤ lo then lo
    else
      let mid := (lo + hi) / 2
      if s.coordWord o k (t.a 1 + 8 * mid) < row then s.cooFirst o k t row f (mid + 1) hi
      else s.cooFirst o k t row f lo mid

/-- Stored elements z of rows (or fibres) [lo, hi) of the operand that defines the items (R323). -/
def State.stored (s : State) (o : OpRec) (k lo hi : Nat) : Nat :=
  let t := o.ctx.tensors.getD k none |>.getD Tensor.idle
  let p (i : Nat) : Nat := s.prefixWord o k t (t.a 1 + 4 * i)
  match t.kind with
  | .csr | .csc => p hi - p lo
  | .bsr =>
    let br := t.bsrRows
    ((List.range (cdiv hi br - lo / br)).map fun i =>
      let b := lo / br + i
      (p (b + 1) - p b) * (min hi (br * b + br) - max lo (br * b)) * t.bsrCols).foldl (· + ·) 0
  | .bitmap =>
    let at_ (row : Nat) : Nat := if t.dim 1 ≤ row then t.nnz else s.prefixWord o k t (t.a 2 + 4 * (row * t.bitWords))
    at_ hi - at_ lo
  | .nm => t.nmKept * t.nmGroups * (hi - lo)
  | .coo => s.cooFirst o k t hi 64 0 t.nnz - s.cooFirst o k t lo 64 0 t.nnz
  | .csf =>
    if bitf t.shape 0 2 = 1 && t.rank = 2 then
      let base := (match o.ctx.regions.getD k none with
        | some r => match s.opRead o r false (t.a 1 + 16) 8 with | .ok b => leNat b | _ => 0
        | none => 0)
      let q (i : Nat) : Nat := s.prefixWord o k t (base + 4 * i)
      q hi - q lo
    else cdiv (t.nnz * (hi - lo)) (max 1 (t.dim 1))
  | .dense => 0

/-! ### Cost (R325-R327) -/

/-- Ceiling of the binary logarithm. -/
def clog2 (n : Nat) : Nat := if n ≤ 1 then 0 else Nat.log2 (n - 1) + 1

/-- Bits that move in HBM for n elements with MX scales where blocks are whole. -/
def elemBits (e : Elem) (n : Nat) : Nat := n * e.bits + (if e.isMx then cdiv n 32 * 8 else 0)

/-- Bits of the gathered K blocks of n vectors. -/
def blockBits (e : Elem) (n u : Nat) : Nat := n * u * (32 * e.bits + (if e.isMx then 8 else 0))

/-- C_mem for a number of bits (R325). -/
def memCycles (bits s : Nat) : Nat := cdiv (bits * s) (8 * 12288)

/-- The terms of R325 for one product: rows, elements, K blocks, pair, row bytes, column groups, spill interval. -/
structure CostIn where
  r    : Nat
  z    : Nat
  u    : Nat
  p    : Pair
  bRow : Nat
  g    : Nat
  d    : Desc
  gemm : Bool

namespace CostIn
def chunks (c : CostIn) : Nat := cdiv (32 * c.u) c.p.kc
def kind (c : CostIn) : AccKind := if c.p.int then .int32 else .fp32

/-- Spill groups G = ceil(c / S_eff). -/
def groups (c : CostIn) : Nat := cdiv c.chunks (max 1 (effInterval c.kind c.d.spill c.d.exact))

def drain (c : CostIn) : Nat :=
  let ks := if c.p.int then 4 else 8
  let kc := if c.groups ≤ 1 then 1 else if c.p.int then 2 else 4
  4 * c.r * c.g * (ks * (c.groups - 1) + kc)

def arr (c : CostIn) : Nat := c.chunks * c.g * max (c.r * c.p.v) 17 + 52
def gath (c : CostIn) : Nat := if c.gemm then 0 else c.chunks * c.r * c.bRow / 32 + cdiv c.z 16
def merge (c : CostIn) : Nat := cdiv (c.z * max 1 (clog2 c.r)) 32

/-- The cost with C_mem and further merge cycles. -/
def cost (c : CostIn) (mem extra : Nat) : Nat :=
  max (max (max c.arr c.gath) (max (c.merge + extra) mem)) c.drain + 64
end CostIn

/-- Index and pointer bits of a panel of r rows with z stored elements (R325, by the arrays of R159). -/
def indexBits (t : Tensor) (r z : Nat) : Nat :=
  match t.kind with
  | .csr | .csc => 32 * z + 32 * (r + 1)
  | .coo => 32 * t.rank * z
  | .bsr => 32 * cdiv z (max 1 (min t.bsrRows r * t.bsrCols)) + 32 * (cdiv r t.bsrRows + 1)
  | .bitmap => 64 * r * t.bitWords
  | .nm => z * bitf t.shape 4 3
  | .csf => 64 * z + 64 * (r + 1)
  | .dense => 0

/-- Cores, tensors and desc an estimate works on. -/
structure Est where
  s  : State
  o  : OpRec
  sc : Nat

namespace Est
def t (e : Est) (k : Nat) : Tensor := (e.o.ctx.tensors.getD k none).getD Tensor.idle
def has (e : Est) (k : Nat) : Bool := (e.o.ctx.tensors.getD k none).isSome
def d (e : Est) : Desc := e.o.ctx.desc
def isRemote (e : Est) (k : Nat) : Bool := match e.o.ctx.regions.getD k none with | some r => r.kind = .poolRemote | none => false

/-- Bits of bias, element-wise rows and output of an r by n item. -/
def sideBits (e : Est) (r n : Nat) : Nat :=
  (if e.has 2 then elemBits (e.t 2).elem n else 0) + (if e.has 3 then r * elemBits (e.t 3).elem n else 0)
    + (if e.isRemote 4 then 0 else r * elemBits (e.t 4).elem n)

/-- Measured U of a panel, else the bound of R325. -/
def uOf (e : Est) (q k z : Nat) : Nat := (e.o.us.lookup q).getD (min (cdiv k 32) z)

/-- Panels of n rows by p. -/
def panels (n p : Nat) : List (Nat × Nat × Nat) :=
  (List.range (cdiv n p)).map fun q => (q, q * p, min n (q * p + p))

def item (num cost group : Nat) (splittable : Bool) : ItemEst :=
  { num := num, cost := cost, group := group, split := splittable && group ≤ 4096 }

def gemm (e : Est) : List ItemEst :=
  let ta := bit e.d.mode 0
  let tb := bit e.d.mode 1
  let a := e.t 0
  let b := e.t 1
  let p := Sys2Proof.pairOf a.elem b.elem
  let n := b.vecDim tb
  let u := cdiv (a.kDim ta) 32
  let gs := max 1 (cdiv n 64)
  (panels (a.vecDim ta) (512 / p.v)).flatMap fun q => (List.range gs).map fun g =>
    let r := q.2.2 - q.2.1
    let cols := min 64 (n - 64 * g)
    let c : CostIn := { r := r, z := 0, u := u, p := p, bRow := a.elem.rowBytes, g := 1, d := e.d, gemm := true }
    item (q.1 * gs + g)
      (c.cost (memCycles (blockBits a.elem r u + blockBits b.elem cols u + e.sideBits r cols) e.sc) 0) c.groups true

def spmm (e : Est) : List ItemEst :=
  let a := e.t 0
  let b := e.t 1
  let one := bit e.d.mode 2
  let el := if one then b.elem else a.elem
  let p := Sys2Proof.pairOf el b.elem
  let n := b.vecDim false
  let gs := max 1 (cdiv n 64)
  (panels (a.dim 1) (panelSize p (Desc.psh e.d))).flatMap fun q =>
    let r := q.2.2 - q.2.1
    let z := e.s.stored e.o 0 q.2.1 q.2.2
    let u := e.uOf q.1 (a.dim 0) z
    let c : CostIn := { r := r, z := z, u := u, p := p, bRow := el.rowBytes, g := 1, d := e.d, gemm := false }
    (List.range gs).map fun g =>
      let cols := min 64 (n - 64 * g)
      let bits := (if one then 0 else elemBits a.elem z) + indexBits a r z + blockBits b.elem cols u + e.sideBits r cols
      item (q.1 * gs + g) (c.cost (memCycles bits e.sc) 0) c.groups true

/-- SPGEMM symbolic adds a merge term over the panel's stored A(i, k) (R325). -/
def symbolicMerge (e : Est) (lo hi : Nat) : Nat :=
  let a := e.t 0
  let b := e.t 1
  let p0 := e.s.prefixWord e.o 0 a (a.a 1 + 4 * lo)
  let p1 := e.s.prefixWord e.o 0 a (a.a 1 + 4 * hi)
  ((List.range (p1 - p0)).map fun i =>
    let k := e.s.coordWord e.o 0 (a.a 2 + 4 * (p0 + i))
    cdiv (e.s.prefixWord e.o 1 b (b.a 1 + 4 * (k + 1)) - e.s.prefixWord e.o 1 b (b.a 1 + 4 * k)) 16).foldl (· + ·) 0

/-- SPGEMM; the bytes of B are all of B's arrays, and the symbolic form reads no value (log entry 129). -/
def spgemm (e : Est) : List ItemEst :=
  let a := e.t 0
  let b := e.t 1
  let p := Sys2Proof.pairOf a.elem b.elem
  let numeric := bit e.d.mode 0
  (panels (a.dim 1) (panelSize p (Desc.psh e.d))).map fun q =>
    let r := q.2.2 - q.2.1
    let z := e.s.stored e.o 0 q.2.1 q.2.2
    let u := e.uOf q.1 (a.dim 0) z
    let c : CostIn := { r := r, z := z, u := u, p := p, bRow := a.elem.rowBytes,
                        g := max 1 (cdiv (b.dim 0) 64), d := e.d, gemm := false }
    let out := if numeric then elemBits (e.t 4).elem ((e.t 4).nnz * r / max 1 (a.dim 1)) else 32 * r
    let vals := if numeric then elemBits a.elem z + elemBits b.elem b.nnz else 0
    let bits := vals + indexBits a r z + indexBits b (b.dim 1) b.nnz + out
    item q.1 (c.cost (memCycles bits e.sc) (if numeric then 0 else e.symbolicMerge q.2.1 q.2.2))
      (max 1 c.groups) numeric

def sddmm (e : Est) : List ItemEst :=
  let m := e.t 0
  let a := e.t 1
  let b := e.t 2
  let p := Sys2Proof.pairOf a.elem b.elem
  let u := cdiv (a.dim 0) 32
  (panels (m.dim 1) (panelSize p (Desc.psh e.d))).map fun q =>
    let r := q.2.2 - q.2.1
    let z := e.s.stored e.o 0 q.2.1 q.2.2
    let n := min b.rows z
    let c : CostIn := { r := r, z := z, u := u, p := p, bRow := a.elem.rowBytes, g := cdiv n 64, d := e.d, gemm := false }
    let bits := indexBits m r z + (if bit e.d.mode 2 then elemBits m.elem z else 0) + blockBits a.elem r u
      + blockBits b.elem n u + elemBits (e.t 4).elem z
    item q.1 (c.cost (memCycles bits e.sc) 0) c.groups false

def spattn (e : Est) : List ItemEst :=
  let q := e.t 0
  let k := e.t 1
  let v := e.t 3
  let p := Sys2Proof.pairOf q.elem k.elem
  let p3 := Sys2Proof.pairOf .bf16 v.elem
  (panels q.rows (panelSize p (Desc.psh e.d))).map fun x =>
    let r := x.2.2 - x.2.1
    let z := e.s.stored e.o 2 x.2.1 x.2.2
    let n := min k.rows z
    let u1 := cdiv (q.dim 0) 32
    let u3 := e.uOf x.1 k.rows z
    let c1 : CostIn := { r := r, z := z, u := u1, p := p, bRow := q.elem.rowBytes, g := cdiv n 64, d := e.d, gemm := false }
    let c3 : CostIn := { r := r, z := z, u := u3, p := p3, bRow := Elem.bf16.rowBytes, g := max 1 (cdiv v.rows 64), d := e.d, gemm := false }
    let y1 := blockBits q.elem r u1 + blockBits k.elem n u1 + indexBits (e.t 2) r z
    let y3 := blockBits v.elem v.rows u3 + r * elemBits (e.t 4).elem v.rows
    item x.1 (c1.cost (memCycles y1 e.sc) 0 + c3.cost (memCycles y3 e.sc) 0 + cdiv z 16) 1 false

def moe (e : Est) : List ItemEst :=
  let x := e.t 0
  let y := e.t 4
  let bits := x.rows * elemBits x.elem (x.dim 0) + elemBits y.elem y.nnz + 32 * y.nnz + 32 * (x.dim 0 + 1)
  [item 0 (cdiv (x.rows * x.dim 0) 16 + memCycles bits e.sc + 64) 1 false]

def emb (e : Est) : List ItemEst :=
  let st := e.t 0
  let tb := e.t 1
  let n := if bit e.d.mode 0 then st.dim 0 else st.dim 1
  (panels n 512).map fun q =>
    let r := q.2.2 - q.2.1
    let z := e.s.stored e.o 0 q.2.1 q.2.2
    let bits := elemBits st.elem z + indexBits st r z + z * elemBits tb.elem (tb.dim 0) + e.sideBits r (tb.dim 0)
    item q.1 (max (cdiv (z * tb.dim 0) 32) (memCycles bits e.sc) + 64) 1 false

/-- COPY and CONVERT (R364; log entry 38 for CONVERT). -/
def copy (e : Est) : List ItemEst :=
  let x := e.t 0
  let y := e.t 4
  let total := y.rows * y.rowSize (y.dim 0)
  (List.range (max 1 (cdiv total 1048576))).map fun i =>
    let b := min 1048576 (total - 1048576 * i)
    let inB := x.rows * x.rowSize (x.dim 0) * b / max 1 total
    let rmt := e.isRemote 4
    let rate := max 1 (e.s.fieldOf { name := .coSbw } 20 10)
    item i (max (memCycles (8 * (inB + (if rmt then 0 else b))) e.sc) (if rmt then cdiv b rate else 0) + 64) 1 false
end Est

/-! ### Program headers (R365-R367) -/

/-- A program header. -/
structure Head where
  evbV   : Bool
  gang   : Option Nat
  group  : Option Nat
  image  : Nat
  work   : Nat
  stack  : Nat
  entry  : Nat
  evbOff : Nat
  items  : Nat
  icost  : Nat
  ibytes : Nat
  deriving DecidableEq, Repr

/-- Read a header; none where it is invalid (R365, R366). `room` is what the region holds from the header on. -/
def Head.parse (b : List Byte) (urgent : Bool) (room : Nat) : Option Head :=
  let fl := fld b 1 1
  let h : Head :=
    { evbV := bit fl 0, gang := if bit fl 1 then some (bitf fl 2 2) else none,
      group := if bit fl 4 then some (fld b 2 2) else none, image := fld b 4 4, work := fld b 8 4, stack := fld b 0xC 4,
      entry := fld b 0x10 4, evbOff := fld b 0x14 4, items := fld b 0x18 4, icost := fld b 0x1C 4, ibytes := fld b 0x20 8 }
  if fld b 0 1 = 0xA1 && fl < 32 && (if bit fl 4 then fld b 2 2 ≤ 0xFFFE else fld b 2 2 = 0)
      && (bit fl 1 || bitf fl 2 2 = 0)
      && h.image % 4 = 0 && 4 ≤ h.image && h.image ≤ 0x100000
      && h.work % 4096 = 0 && 4096 ≤ h.work && h.stack % 16 = 0 && 64 ≤ h.stack && h.stack ≤ h.work
      && h.entry % 4 = 0 && h.entry < h.image
      && (if h.evbV then h.evbOff % 256 = 0 && h.evbOff + 0x140 ≤ h.image else h.evbOff = 0)
      && (bit fl 1 || (1 ≤ h.items && h.items ≤ 65536)) && 1 ≤ h.icost && h.icost ≤ 2 ^ 30 && zeroBytes b 0x28 24
      && h.image + h.work ≤ (if urgent then 0x100000 else 0x400000)
      && !(bit fl 1 && bit fl 4) && !(bit fl 1 && urgent) && 64 + h.image ≤ room then
    some h
  else none

/-- The header bytes of an operation's program, as its operation reads them. -/
def State.headBytes (s : State) (o : OpRec) : Option (List Byte) :=
  match o.ctx.regions.getD 6 none with
  | none => none
  | some r =>
    if r.size < o.ctx.desc.arg1 + 64 then none
    else match s.opRead o r false o.ctx.desc.arg1 64 with | .ok b => some b | _ => none

/-- Bytes of the program region from the header on. -/
def OpRec.headRoom (o : OpRec) : Nat :=
  match o.ctx.regions.getD 6 none with | some r => r.size - o.ctx.desc.arg1 | none => 0

/-- Parsed header of an operation, from the bytes a plan holds. -/
def OpRec.head (o : OpRec) (bytes : Option (List Byte)) : Option Head :=
  bytes.bind fun b => Head.parse b o.ctx.desc.isUrgent o.headRoom

/-- NSH of a resident set. -/
def State.setShards (s : State) (n : Nat) : Nat := s.fieldOf { name := .coRsCfg, n := n } 1 6

/-- Items of a PROGRAM operation (R366, R367): one of cost 64 for an invalid header. -/
def State.programItems (s : State) (h : Option Head) (sc : Nat) : List ItemEst :=
  match h with
  | none => [Est.item 0 64 1 false]
  | some h =>
    let n := match h.gang with | some r => s.setShards r | none => h.items
    (List.range n).map fun i => Est.item i (max h.icost (cdiv (h.ibytes * sc) 12288) + 64) 1 false

/-- Every item of an operation with its estimate (R324, R325). -/
def State.itemEsts (s : State) (o : OpRec) (sc : Nat) (head : Option (List Byte)) : List ItemEst :=
  let e : Est := { s := s, o := o, sc := sc }
  match o.ctx.desc.op with
  | some .gemm => e.gemm
  | some .spmm | some .aggr => e.spmm
  | some .spgemm => e.spgemm
  | some .sddmm => e.sddmm
  | some .spattn => e.spattn
  | some .moeRoute => e.moe
  | some .embReduce => e.emb
  | some .copy | some .convert => e.copy
  | some .program => s.programItems (o.head head) sc
  | _ => []

/-! ### Placement (R52, R91, R326-R330) -/

/-- Capacity per core (R326), scaled by the throttle factor (R591). -/
def State.capacity (s : State) : Nat :=
  ((s.lenF - s.lenG) / 1000) * 1500 * (256 - s.fieldOf { name := .frSplitCfg } 0 8) / 256
    * s.fieldOf { name := .gxPwrStat } 8 9 / 256

/-- A core's load and the operations it holds. -/
structure Load where
  core : Nat
  load : Nat
  held : Nat
  deriving DecidableEq, Repr

/-- An item placed on a core. -/
abbrev Placed := List (Nat × Item)

/-- Cores that may take an item: fewer than 60 operations, or already holding this one. -/
def candidates (ls : List Load) (mine avoid : List Nat) : List Load :=
  ls.filter fun l => (l.held < 60 || mine.contains l.core) && !avoid.contains l.core

/-- The n least loaded, ties to the lowest number. -/
def leastLoaded : Nat → List Load → List Load
  | 0, _ => []
  | n + 1, ls =>
    match ls with
    | [] => []
    | x :: xs =>
      let b := xs.foldl (fun m l => if l.load < m.load || (l.load = m.load && l.core < m.core) then l else m) x
      b :: leastLoaded n (ls.filter (·.core != b.core))

def addLoad (ls : List Load) (core cost : Nat) : List Load :=
  ls.map fun l => if l.core = core then { l with load := l.load + cost } else l

/-- Group counts of s splits of G groups: floor(G / s), one more for the first G mod s (R327). -/
def splitGroups (g s j : Nat) : Nat := g / s + (if j < g % s then 1 else 0)

/-- Place one item; none where no candidate has capacity. -/
def placeItem (cap : Option Nat) (q : Nat) (avoid : List Nat) (e : ItemEst) (a : List Load × Placed) :
    Option (List Load × Placed) :=
  let mine := (a.2.map (·.1)).eraseDups
  let cs := candidates a.1 mine avoid
  let n := if e.split && q < e.cost then min (min e.group (cdiv e.cost (max 1 q))) (max 1 (candidates a.1 mine []).length) else 1
  let fits (l : Load) (c : Nat) : Bool := match cap with | some k => l.load + c ≤ k | none => true
  let picked := leastLoaded n cs
  if picked.length < n then none
  else
    let order := (List.range 36).filter fun c => picked.any (·.core = c)
    let recv := order.getLastD 0
    let parts := order.zipIdx.map fun x =>
      (x.1, { num := e.num, cost := if n = 1 then e.cost else cdiv (e.cost * splitGroups e.group n x.2) (max 1 e.group),
              split := x.2, splits := n, recv := recv, started := false, done := false : Item })
    if parts.all fun p => (a.1.filter (·.core = p.1)).all fun l => fits l p.2.cost then
      some (parts.foldl (fun ls p => addLoad ls p.1 p.2.cost) a.1, a.2 ++ parts)
    else none

/-- Place items one after another, each off the cores to avoid whenever the others' loads allow (R538). -/
def placeAll (cap : Option Nat) (q : Nat) (avoid : List Nat) : List ItemEst → List Load × Placed →
    Option (List Load × Placed)
  | [], a => some a
  | e :: es, a =>
    match (placeItem cap q avoid e a).or (placeItem cap q [] e a) with
    | some b => placeAll cap q avoid es b
    | none => none

/-- Place every item on given cores, item i on the i-th (gangs), or all on one (a shared group). -/
def placeFixed (cap : Option Nat) (cores : List Nat) (es : List ItemEst) (ls : List Load) : Option (List Load × Placed) :=
  let parts := es.zipIdx.map fun e =>
    (cores.getD e.2 0, { num := e.1.num, cost := e.1.cost, split := 0, splits := 1, recv := cores.getD e.2 0,
                         started := false, done := false : Item })
  let ls' := parts.foldl (fun l p => addLoad l p.1 p.2.cost) ls
  let ok := parts.all fun p => (ls.filter fun l => l.core = p.1).any fun l => l.held < 60 &&
    (match cap with
     | some k => (ls'.filter (·.core = p.1)).all fun x => x.load ≤ k
     | none => true)
  if ok then some (ls', parts) else none

/-- What a placement run carries: loads, placed segments by ASN, rings that are blocked (R329), regions and windows
written (R80, R491), gangs and shared groups placed, operations and items considered (R330). -/
structure PlaceRun where
  loads   : List Load
  placed  : List (Nat × Placed)
  blocked : List (Nat × Nat)
  written : List (RKind × Nat)
  gangs   : List Nat
  groups  : List ((Nat × Nat × Nat × Nat) × Nat)
  ops     : Nat
  items   : Nat

/-- Versioned regions and local transactional windows an operation writes (R80, R491). -/
def State.writesOf (s : State) (o : OpRec) : List (RKind × Nat) :=
  [4, 5].filterMap fun k => match o.ctx.regions.getD k none with
    | some r =>
      if r.kind = .versioned then some (.versioned, r.base)
      else if r.kind = .poolLocal && s.poolKind r = 0 then some (.poolLocal, r.window)
      else none
    | none => none

/-- The APPEND output of an operation: its region. -/
def OpRec.appendRegion (o : OpRec) : Option Region :=
  ([4, 5].filterMap fun k => match o.ctx.regions.getD k none with
    | some r => if r.kind = .append then some r else none
    | none => none).head?

/-- Reserve an operation's append slot; none where it does not fit (R82). -/
def State.reserveFor (s : State) (o : OpRec) : Option State :=
  match o.appendRegion with
  | none => some s
  | some r =>
    match (s.appendOf r.base r.size).reserve o.ctx.asn o.ctx.desc.appendMax with
    | none => none
    | some (a, st) => some ((s.putAppend a).onOp o.ctx.asn fun x => { x with append := some (st, o.ctx.desc.appendMax),
                                                                             appendHi := 0 })

/-- A wait is satisfied by its flag's value (R166). -/
def State.waitsOk (s : State) (o : OpRec) : Bool :=
  o.ctx.desc.activeWaits.all fun w => w.value ≤ (s.flag o.page w.index).value

/-- Where an operation's items go, with a capacity or without one. -/
def State.fit (s : State) (o : OpRec) (h : Option Head) (es : List ItemEst) (r : PlaceRun) (cap : Option Nat) :
    Option (List Load × Placed) :=
  let q := s.capacity / 4
  match h.bind (·.gang), h.bind (·.group) with
  | some set, _ =>
    if r.gangs.contains set || s.ringCores.length < s.setShards set then none
    else placeFixed cap s.ringCores es r.loads
  | none, some g =>
    let key := (o.page, o.ctx.ring, o.ctx.desc.cls, g)
    match r.groups.lookup key with
    | some c => placeFixed cap (List.replicate es.length c) es r.loads
    | none =>
      let on (avoid : List Nat) := match leastLoaded 1 (candidates r.loads [] avoid) with
        | l :: _ => placeFixed cap (List.replicate es.length l.core) es r.loads
        | [] => none
      (on o.bad).or (on [])
  | none, none => placeAll cap q o.bad es (r.loads, [])

/-- Consider one operation (R328-R330): the state with its slot reserved, and the run. -/
def State.consider (a : State × PlaceRun) (x : OpRec × List ItemEst × Option Head) : State × PlaceRun :=
  let s := a.1
  let o := x.1
  let r := a.2
  let ring := (o.page, o.ctx.ring)
  let ws := s.writesOf o
  if r.blocked.contains ring then (s, r)
  else if 4096 ≤ r.ops || 65536 < r.items + x.2.1.length then (s, { r with ops := 4096, blocked := ring :: r.blocked })
  else
    let r := { r with ops := r.ops + 1, items := r.items + x.2.1.length }
    let s := s.onOp o.ctx.asn fun y => { y with firstFrn := some (y.firstFrn.getD s.frames.frn) }
    let later := (s, { r with blocked := ring :: r.blocked })
    if !s.waitsOk o then (s.onOp o.ctx.asn fun y => { y with held := true }, r)
    else if ws.any r.written.contains then later
    else
      let fitted := match s.fit o x.2.2 x.2.1 r (some s.capacity) with
        | some y => some y
        | none => if r.loads.all (·.load = 0) then s.fit o x.2.2 x.2.1 r none else none
      match fitted, s.reserveFor o with
      | some f, some s' =>
        let cores := (f.2.map (·.1)).eraseDups
        (s', { r with
          loads := f.1.map fun l => if cores.contains l.core then { l with held := l.held + 1 } else l,
          placed := r.placed ++ [(o.ctx.asn, f.2)], written := ws ++ r.written,
          gangs := (match x.2.2.bind (·.gang) with | some g => [g] | none => []) ++ r.gangs,
          groups := (match x.2.2.bind (·.group) with
            | some g => [((o.page, o.ctx.ring, o.ctx.desc.cls, g), cores.headD 0)]
            | none => []) ++ r.groups })
      | _, _ => later

/-- Insert by ascending ASN. -/
def insertAsn (o : OpRec) : List OpRec → List OpRec
  | [] => [o]
  | y :: ys => if o.ctx.asn < y.ctx.asn then o :: y :: ys else y :: insertAsn o ys

def sortAsn (os : List OpRec) : List OpRec := os.foldr insertAsn []

/-- Interleave rings by WEIGHT: in each round, in page and ring order, a ring gives up to WEIGHT operations, in ASN order
(R52; log entry 39). -/
def State.interleave (s : State) : Nat → List OpRec → List OpRec
  | 0, os => os
  | f + 1, os =>
    if os.isEmpty then []
    else
      let keys := (ascending (os.map fun o => o.page * 64 + o.ctx.ring))
      let take (k : Nat) : List OpRec :=
        (os.filter fun o => o.page * 64 + o.ctx.ring = k).take
          (max 1 (s.fieldOf { name := .sqCfg, dev := k / 64, n := k % 64 } 14 4))
      let now := keys.flatMap take
      now ++ s.interleave f (os.filter fun o => !(now.any (·.ctx.asn = o.ctx.asn)))

/-- Placement order: replays, then NORMAL, then BULK (R52, R91). -/
def State.placementOrder (s : State) (os : List OpRec) : List OpRec :=
  let os := sortAsn os
  let part (p : OpRec → Bool) : List OpRec := s.interleave os.length (os.filter p)
  part (fun o => o.replays != 0) ++ part (fun o => o.replays = 0 && o.ctx.desc.cls = 0)
    ++ part (fun o => o.replays = 0 && o.ctx.desc.cls = 1)

/-- Estimated cost left of URGENT operations paused on a core (R328). -/
def Core.pausedLoad (k : Core) : Nat :=
  (k.segs.filter fun g => g.urgent && g.started && !g.finished).foldl (fun a g =>
    (g.items.filter fun i => !i.done).foldl (fun b i => b + i.cost) a) 0

/-- NORMAL and BULK operations in flight on a core (R56). -/
def State.heldOn (s : State) (c : Nat) : Nat :=
  (s.ops.list.filter fun o => !o.ctx.desc.isUrgent && o.cores.contains c).length

/-- The splitter's run for a frame, on the estimates of a plan (R328). -/
def State.runSplitter (s : State) (p : Plan) : State × PlaceRun :=
  let os := s.ops.list.filter fun o => o.stage = .accepted && !o.ctx.desc.isUrgent && o.ctx.desc.op != some .mark
    && o.ended.isNone && !(!s.multipath && (s.port (pagePort o.page)).excluded) && !(s.ring o.page o.ctx.ring).recover
    && (match o.accept with | some a => a ≤ p.cutoff | none => false)
  let run0 : PlaceRun :=
    { loads := s.schedCores.filter p.cores.contains |>.map fun c => { core := c, load := (s.core c).pausedLoad, held := s.heldOn c },
      placed := [], blocked := [], written := [], gangs := [], groups := [], ops := 0, items := 0 }
  (s.placementOrder os).foldl (fun a o =>
    State.consider a (o, (p.ests.lookup o.ctx.asn).getD [], o.head (p.heads.lookup o.ctx.asn))) (s, run0)

/-- What the splitter works out in the guard that opens at t (R51): the cores scheduled at the coming tick, and the
estimate of every NORMAL and BULK operation accepted by then. -/
def State.planAt (s : State) (t : Stamp) : Plan :=
  let s' := s.moveRoles t
  let os := s.ops.list.filter fun o => !o.ctx.desc.isUrgent && o.stage != .issued && o.stage != .resolved
    && (match o.accept with | some a => a ≤ t | none => false)
  let heads := os.filterMap fun o => (if o.ctx.desc.op = some .program then s.headBytes o else none).map fun b => (o.ctx.asn, b)
  { cutoff := t, cores := s'.schedCores,
    ests := os.map fun o => (o.ctx.asn, s'.itemEsts o (max 1 s'.schedCores.length) (heads.lookup o.ctx.asn)), heads := heads }

end Sys2Proof.Machine
end

