-- ==== Sys2Proof/Machine/VoteOps.lean ====
section
/-! DEFINITION. Shared operations of the vote (chapter 3): instants of a frame, the scope of a decision point, R86 with
its limits and cascade, the decision record, and how a decision is applied. -/

namespace Sys2Proof.Machine

/-! ### Instants (R30-R34) -/

def State.guardAt (s : State) : Stamp := s.frames.tick + s.lenF - s.lenG
def State.voteAt (s : State) : Stamp := s.frames.tick + s.lenF - s.lenJ
def State.subAt (s : State) (k : Nat) : Stamp := s.frames.tick + k * (s.lenF / 8)
def State.nextTick (s : State) : Stamp := s.frames.tick + s.lenF

/-! ### Accounts and work (R177, R553, R554) -/

/-- Account of an operation (R554). -/
def State.account (s : State) (o : OpRec) : Nat := 64 * (if s.multipath then 0 else pagePort o.page) + pageFunc o.page

/-- INFO bits of an operation: those of its record and of every core. -/
def State.infoOf (s : State) (o : OpRec) : Nat :=
  s.cores.foldl (fun v k => v ||| ((k.notes.lookup o.ctx.asn).getD 0)) o.notes % 8

/-- Status of a committed operation (R177). -/
def statusOf (info : Nat) : Nat := if bit info 2 then 3 else if bit info 1 then 2 else if bit info 0 then 1 else 0

/-- MUNITS of a committed operation (R553). -/
def OpRec.munits (o : OpRec) : Nat := cdiv o.units 65536

/-! ### Scope (R84, R86, R133, R168, R520) -/

/-- An operation that placement and scopes leave out: of a lost host port (R133), or of a ring not restored since a full
reset (R100, R622). -/
def State.excluded (s : State) (o : OpRec) : Bool :=
  (!s.multipath && (s.port (pagePort o.page)).excluded) || (s.ring o.page o.ctx.ring).recover

/-- An URGENT operation on a core of a die declared failed (R520). -/
def State.deadUrgent (s : State) (o : OpRec) : Bool :=
  o.ctx.desc.isUrgent && o.stage = .running && o.cores.any fun c => !s.votes (c / 4)

/-- Operations a decision point covers, by ASN: at a frame tick every NORMAL and BULK operation of the frame and every
URGENT one that has voted, at a sub-tick the URGENT ones. -/
def State.scopeAt (s : State) (sub : Nat) : List OpRec :=
  sortAsn (s.ops.list.filter fun o =>
    !s.excluded o && o.stage != .issued && o.stage != .resolved &&
      (if o.ctx.desc.isUrgent then o.voted || o.ended.isSome || s.deadUrgent o
       else sub = 0 && (o.stage = .running || o.stage = .finished || o.ended.isSome)))

/-- Where an operation ended before its decision: a wait, or a core, the lowest first (R86). -/
def State.endingOf (s : State) (o : OpRec) : Option (Nat × Nat) :=
  match o.ended with
  | some e => some e
  | none => (s.cores.flatMap (·.endings)).find? (·.asn = o.ctx.asn) |>.map fun e => (e.status, e.info)

/-! ### Direct aborts (R86) -/

/-- A direct abort: cause and target index. -/
abbrev Direct := Nat × Nat

/-- An operation has a segment on a die, or a staged write homed on its stack. -/
def OpRec.touches (o : OpRec) (d : Nat) : Bool := o.cores.any (fun c => c / 4 = d) || o.homes.contains d

/-- The vote of a die for a decision point. -/
def State.voteOf (s : State) (frn sub d : Nat) : Option Vote :=
  s.ops.votes.find? fun v => v.frn = frn && v.sub = sub && v.die = d

/-- Direct cause from die d: its missing vote, or its abort list. -/
def State.dieCause (s : State) (frn sub : Nat) (o : OpRec) (d : Nat) : Option Direct :=
  match s.voteOf frn sub d with
  | some v => (v.aborts.find? (·.1 = o.ctx.asn)).map fun a => (a.2, 0xFF)
  | none => if o.touches d then some (3, 0xFF) else none

/-- Direct cause from one remote target: a refused write or NO, or no vote. -/
def OpRec.targetCause (o : OpRec) (i : Nat) : Option Direct :=
  if o.remoteNo.contains i || o.votes.contains (i, false) then some (4, i)
  else if o.votes.contains (i, true) then none
  else some (5, i)

/-- The first direct cause of an operation, in the order of R86. -/
def State.directOf (s : State) (frn sub : Nat) (o : OpRec) : Option Direct :=
  match (List.range 9).findSome? (s.dieCause frn sub o) with
  | some x => some x
  | none =>
    if s.deadUrgent o then some (3, 0xFF)
    else ((List.range 8).filter fun i => o.sent.any (·.1 = i)).findSome? o.targetCause

/-- The shared-accumulation group an operation declared, by ring and class (R283). -/
def State.groupKey (s : State) (o : OpRec) : Option (Nat × Nat × Nat × Nat) :=
  (s.cores.findSome? fun k => k.groupOf o.ctx.asn).map fun g => (o.page, o.ctx.ring, o.ctx.desc.cls, g)

/-- Direct aborts of a scope, each member of a shared group taking the group's first cause (R286). -/
def State.directs (s : State) (frn sub : Nat) (scope : List OpRec) : List (Nat × Direct) :=
  let own := scope.filterMap fun o => (s.directOf frn sub o).map fun d => (o, d)
  scope.filterMap fun o =>
    match own.find? fun x => x.1.ctx.asn = o.ctx.asn with
    | some x => some (o.ctx.asn, x.2)
    | none => match s.groupKey o with
      | none => none
      | some g => (own.find? fun x => s.groupKey x.1 = some g).map fun x => (o.ctx.asn, (x.2.1, 0xFF))

/-! ### Limits (R90, R537) -/

/-- The checksum count of an unresolved operation. -/
def State.chkOf (s : State) (asn : Nat) : Nat := (s.ops.chks.lookup asn).getD 0

/-- RFAIL after an abort against target i. -/
def OpRec.rfailNext (o : OpRec) (i : Nat) : Nat := if o.rfailTgt = i then o.rfail + 1 else 1

/-- The ending a limit makes of a direct abort. -/
def State.limit (s : State) (o : OpRec) (d : Direct) : Option (Nat × Nat) :=
  if d.1 = 2 && o.ovr then some (0x10, 0)
  else if (d.1 = 4 || d.1 = 5) && d.2 != 0xFF && 3 ≤ o.rfailNext d.2 then some (0x12, d.2)
  else if d.1 = 6 && 3 ≤ s.chkOf o.ctx.asn + 1 then some (0x14, 0)
  else none

/-- An operation's counters after an abort that leads to a replay (R90). -/
def OpRec.counted (o : OpRec) (cause tgt : Nat) : OpRec :=
  let o := { o with replays := o.replays + 1 }
  if cause = 2 then { o with ovr := true }
  else if cause = 4 || cause = 5 then
    if tgt = 0xFF then { o with ovr := false }
    else { o with ovr := false, rfail := o.rfailNext tgt, rfailTgt := tgt }
  else if cause = 6 then { o with ovr := false }
  else o

/-! ### The procedure of R86 along one ring -/

/-- What a ring's walk carries: an earlier operation aborted, one is left open, outcomes so far. -/
structure Walk where
  aborted : Bool
  open_   : Bool
  outs    : List OpOutcome

def Walk.put (w : Walk) (x : OpOutcome) : Walk := { w with outs := w.outs ++ [x] }

/-- One unresolved operation of a ring, in ASN order. -/
def State.walk (s : State) (scope : List OpRec) (directs : List (Nat × Direct)) (w : Walk) (o : OpRec) : Walk :=
  let asn := o.ctx.asn
  if !(scope.any (·.ctx.asn = asn)) then { w with open_ := true }
  else
    let d := directs.lookup asn
    match (match s.endingOf o with | some e => some e | none => d.bind (s.limit o)) with
    | some e => w.put { asn := asn, outcome := e.1, cause := 0, tgt := 0xFF, info := e.2 }
    | none =>
      let replay (c t : Nat) : Walk :=
        { (w.put { asn := asn, outcome := 0xFF, cause := c, tgt := t, info := 0 }) with aborted := true }
      if w.aborted then (match d with | some x => replay x.1 x.2 | none => replay 1 0xFF)
      else if w.open_ then w
      else match d with
        | some x => replay x.1 x.2
        | none =>
          let info := s.infoOf o
          w.put { asn := asn, outcome := statusOf info, cause := 0, tgt := 0xFF, info := info }

/-- Unresolved accepted operations of a ring, by ASN. -/
def State.openOps (s : State) (pg n : Nat) : List OpRec :=
  sortAsn ((s.ringOps pg n).filter fun o => o.stage != .issued && o.stage != .resolved)

/-- Rings with an operation in scope, in page and ring order. -/
def ringsOf (scope : List OpRec) : List (Nat × Nat) :=
  (ascending (scope.map fun o => o.page * 64 + o.ctx.ring)).map fun k => (k / 64, k % 64)

/-- Outcomes of a scope (R86). -/
def State.outcomes (s : State) (frn sub : Nat) (scope : List OpRec) : List OpOutcome :=
  let directs := s.directs frn sub scope
  (ringsOf scope).flatMap fun x =>
    ((s.openOps x.1 x.2).foldl (s.walk scope directs) { aborted := false, open_ := false, outs := [] }).outs

/-! ### The decision record (R76, R77, R87) -/

/-- Operations a decision resolves. -/
def Decision.resolves (d : Decision) (asn : Nat) : Bool := d.outs.any fun x => x.asn = asn && x.outcome != 0xFF

/-- THROUGH of a ring after a decision. -/
def State.through (s : State) (d : Decision) (pg n : Nat) : Nat :=
  ((sortAsn (s.ringOps pg n)).takeWhile fun o => o.stage = .resolved || d.resolves o.ctx.asn).foldl
    (fun m o => max m o.ctx.asn) (s.ring pg n).posted

def State.section (s : State) (d : Decision) (x : Nat × Nat) : List Byte :=
  leBytes 2 (pageFunc x.1) ++ leBytes 2 x.2 ++ leBytes 1 (pagePort x.1) ++ leBytes 3 0 ++ leBytes 8 (s.through d x.1 x.2)

def State.exceptionItem (s : State) (x : OpOutcome) : List Byte :=
  match s.op? x.asn with
  | none => []
  | some o =>
    leBytes 8 x.asn ++ leBytes 2 (pageFunc o.page) ++ leBytes 2 o.ctx.ring ++ leBytes 1 (pagePort o.page)
      ++ leBytes 1 x.outcome ++ leBytes 1 x.cause ++ leBytes 1 x.tgt

/-- The record, for the rings in scope; `lap` is the log's. -/
def State.decisionBytes (s : State) (d : Decision) (rings : List (Nat × Nat)) (lap : Nat) : List Byte :=
  let exc := d.outs.filter (·.outcome != 0)
  let len := cdiv (64 + 16 * rings.length + 16 * exc.length) 64
  let body := leBytes 1 0x21 ++ leBytes 1 d.sub ++ leBytes 2 ((if d.allAbort then 1 else 0) + (if d.fence then 2 else 0))
    ++ leBytes 2 len ++ leBytes 2 rings.length ++ leBytes 8 d.frn ++ leBytes 8 d.token ++ leBytes 8 d.stamp
    ++ leBytes 2 exc.length ++ leBytes 2 0 ++ leBytes 4 lap ++ leBytes 24 0
    ++ rings.flatMap (s.section d) ++ exc.flatMap s.exceptionItem
  withCrc (body ++ List.replicate (64 * len - body.length) 0) 0x3C

/-- Index of the decision log a port's rings use: one shared log in MULTIPATH. -/
def State.dlogIdx (s : State) (p : Nat) : Nat := if s.multipath then 0 else p

def State.dlog (s : State) (p : Nat) : DLog := s.ops.dlogs.getD (s.dlogIdx p) DLog.reset

/-- Where a record of `len` bytes goes: its offset and the log afterwards; none where it would overwrite a record not
before APPLIED_OFF (R76). -/
def DLog.place (l : DLog) (size len : Nat) : Option (Nat × DLog) :=
  let wraps := size < l.writeOff + len
  let at_ := if wraps then 64 else l.writeOff
  let empty := l.writeOff = l.appliedOff
  let ok := 64 + len ≤ size &&
    (empty || (if wraps then l.appliedOff < l.writeOff && at_ + len < l.appliedOff
               else l.appliedOff < l.writeOff || at_ + len < l.appliedOff))
  if ok then
    some (at_, { l with writeOff := at_ + len, lap := l.lap + (if wraps then 1 else 0),
                        appliedOff := if empty then at_ else l.appliedOff })
  else none

/-- The decision log header. -/
def DLog.header (l : DLog) : List Byte :=
  withCrc (leBytes 1 0x20 ++ leBytes 7 0 ++ leBytes 8 l.writeOff ++ leBytes 8 l.appliedOff ++ leBytes 4 l.lap
    ++ leBytes 36 0) 0x3C

/-- A decision none of whose operations still owes its completion record: its ATTEMPT and header writes are done. -/
def State.settled (s : State) (d : Decision) : Bool :=
  d.inForce && !(s.ops.list.any fun o => d.resolves o.ctx.asn)

/-- APPLIED_OFF of a port's log: the oldest record not settled, else WRITE_OFF. -/
def State.appliedOff (s : State) (p : Nat) : Nat :=
  ((s.ops.decs.filter fun d => !s.settled d).findSome? fun d => d.offs.lookup p).getD (s.dlog p).writeOff

def State.dlogSize (s : State) (p : Nat) : Nat := 2 ^ s.fieldOf { name := .cmDlogCtl, dev := p } 0 5
def State.dlogBase (s : State) (p : Nat) : Nat := s.pairOf .cmDlogBase p

/-- Write a decision's record to one port's log and update the log header; none where it has no room. -/
def State.writeRecord (s : State) (d : Decision) (rings : List (Nat × Nat)) (p : Nat) : Option (State × Nat) :=
  let l := { s.dlog p with appliedOff := s.appliedOff p }
  let len := 64 * cdiv (64 + 16 * rings.length + 16 * (d.outs.filter (·.outcome != 0)).length) 64
  match l.place (s.dlogSize p) len with
  | none => none
  | some (at_, l') =>
    let s := s.say (.hostWrite p (s.dlogBase p + at_) (s.decisionBytes d rings l'.lap))
    let s := s.say (.hostWrite p (s.dlogBase p) l'.header)
    some ({ s with ops := { s.ops with dlogs := s.ops.dlogs.set (s.dlogIdx p) l' } }, at_)

/-- Host ports with a ring in scope. -/
def State.portsOf (s : State) (rings : List (Nat × Nat)) : List Nat :=
  (rings.map fun x => s.viaPort x.1).eraseDups

/-- Write a decision's record to every log concerned; a log without room makes it late. -/
def State.writeDecision (s : State) (d : Decision) (rings : List (Nat × Nat)) : State × Decision :=
  (s.portsOf rings).foldl (fun a p =>
    match a.1.writeRecord a.2 rings p with
    | some (s, off) => (s, { a.2 with offs := a.2.offs ++ [(p, off)] })
    | none => (a.1, { a.2 with late := true })) (s, d)

/-! ### Remote targets (R88, R497) -/

/-- Targets the operations of a scope wrote. -/
def targetsOf (scope : List OpRec) : List RTarget :=
  (scope.flatMap fun o => (o.targets.zipIdx.filter fun t => o.sent.any (·.1 = t.2)).map (·.1)).eraseDups

/-- Operations among some ASNs that wrote a target. -/
def State.writers (s : State) (asns : List Nat) (t : RTarget) : List Nat :=
  asns.filter fun a => match s.op? a with
    | some o => o.targets.zipIdx.any fun x => x.1 = t && o.sent.any (·.1 = x.2)
    | none => false

/-! ### The frame summary (R555, R556) -/

/-- The summary of a frame from its durable decisions. -/
def State.summaryBytes (s : State) (frn : Nat) : List Byte :=
  let sums := (s.ops.decs.filter fun d => d.frn = frn && d.durable && !d.allAbort).flatMap (·.sums)
  let entries := (ascending ((sums.filter (·.2 != 0)).map (·.1))).map fun a =>
    a + ((sums.filter (·.1 = a)).foldl (fun v x => v + x.2) 0) * 2 ^ 16
  withCrc (leBytes 1 0x31 ++ leBytes 1 entries.length ++ leBytes 2 0 ++ leBytes 4 s.boot.session ++ leBytes 8 frn
    ++ leBytes 8 s.cm.token ++ leBytes 4 (s.lenF / 1000) ++ leBytes 4 sums.length ++ leBytes 16 0
    ++ entries.flatMap (leBytes 8)) 0x20

/-- Send bytes to the MD on the master's link, and through the standby on its link. -/
def State.toMeter (s : State) (bs : List Byte) : State :=
  let s := s.say (.md s.cm.master bs)
  if s.cm.standby then s.say (.md (1 - s.cm.master) bs) else s

def State.sendSummary (s : State) (frn : Nat) : State := s.toMeter (s.summaryBytes frn)

/-! ### Deciding (R86, R87) -/

def State.putDec (s : State) (d : Decision) : State :=
  { s with ops := { s.ops with decs := s.ops.decs.filter (fun x => !(x.frn = d.frn && x.sub = d.sub)) ++ [d] } }

def State.dec? (s : State) (frn sub : Nat) : Option Decision :=
  s.ops.decs.find? fun d => d.frn = frn && d.sub = sub

/-- A durable decision: CM_DECIDED_FRN, the ATTEMPT fields of its replays (R75), and a frame tick's summary. -/
def State.nowDurable (s : State) (d : Decision) : State :=
  let s := s.putDec { d with durable := true }
  let s := s.setPair .cmDecided 0 0 d.frn
  let s := d.outs.foldl (fun acc x => match acc.op? x.asn with
    | some o => if x.outcome = 0xFF then acc.writeAttempt (o.counted x.cause x.tgt) else acc
    | none => acc) s
  if d.sub = 0 then s.sendSummary d.frn else s

/-- The master evaluates the votes of a decision point at t. Where no ring is in scope no record is written, and the
decision is durable at once. -/
def State.decide (s : State) (t frn sub deadline : Nat) : State :=
  let scope := s.scopeAt sub
  let outs := s.outcomes frn sub scope
  let d : Decision :=
    { frn := frn, sub := sub, token := s.cm.token, stamp := t, deadline := deadline, allAbort := false, fence := false,
      scope := scope.map (·.ctx.asn), outs := outs, durable := false, late := false, applied := [], inForce := false,
      remote := (targetsOf scope).map fun x => (x, false), offs := [],
      sums := outs.filterMap fun x => if x.outcome < 0x10 then (s.op? x.asn).map fun o => (s.account o, o.munits) else none }
  let r := s.writeDecision d (ringsOf scope)
  if scope.isEmpty then r.1.nowDurable r.2 else r.1.putDec r.2

/-! ### Applying a decision (R88, R90, R166, R649) -/

/-- Remove every trace of an operation's work from a core. -/
def Core.dropOp (k : Core) (asn : Nat) : Core :=
  { k with
    bankN := k.bankN.drop asn, bankU := k.bankU.drop asn,
    segs := k.segs.filter (·.ctx.asn != asn), queue := k.queue.filter (·.asn != asn), recs := k.recs.filter (·.asn != asn),
    arrays := k.arrays.map fun a => { a with tiles := a.tiles.map fun t =>
      match t.owner with | some w => if w.asn = asn then AccTile.free else t | none => t },
    engines := k.engines.map fun e => if e.asn = asn && e.running then
        { e with running := false, stopped := false, xfers := [], puts := [], queued := none } else
        { e with queued := match e.queued with | some q => if q.1 = asn then none else some q | none => none },
    endings := k.endings.filter (·.asn != asn), notes := k.notes.filter (·.1 != asn),
    aborts := k.aborts.filter (·.1 != asn),
    saves := k.saves.filter fun v => match v.tile.owner with | some w => w.asn != asn | none => true }

def State.dropWork (s : State) (asn : Nat) : State := { s with cores := s.cores.map (·.dropOp asn) }

/-- Raise the flags an operation signals (R166). -/
def State.signal (s : State) (o : OpRec) : State :=
  o.ctx.desc.activeSigs.foldl (fun acc w =>
    let f := acc.flag o.page w.index
    acc.setFlag o.page w.index { f with value := max f.value w.value }) s

/-- Settle an operation's append slot: 0 committed, 1 ended, 2 aborted (R649). -/
def State.settleAppend (s : State) (o : OpRec) (how : Nat) : State :=
  match o.append, o.appendRegion with
  | some _, some r => s.settleSlot r.base r.size o.ctx.asn how o.appendHi r.mirror
  | _, _ => s

/-- Apply an operation's deltas to its local ACCUM windows (R504). -/
def State.localDeltas (s : State) (o : OpRec) : State :=
  o.deltas.foldl (fun acc d => acc.applyDeltas d.1 [d.2]) s

/-- Cores whose checks failed in this attempt (R538). -/
def State.failedCores (s : State) (asn : Nat) : List Nat :=
  (List.range 36).filter fun c => (s.core c).aborts.contains (asn, 6)

/-- An operation aborted and to be replayed: nothing of its attempt is left. -/
def OpRec.replayed (o : OpRec) (cause tgt : Nat) (bad : List Nat) : OpRec :=
  { o.counted cause tgt with
    stage := .accepted, bad := if cause = 6 then bad else [], cores := [], ended := none, notes := 0, units := 0, voted := false,
    guards := 0, held := false, pages := [], homes := [], sent := [], remoteNo := [], acks := 0, votes := [],
    append := none, appendHi := 0, deltas := [] }

/-- Apply one outcome. -/
def State.settle (s : State) (frn sub : Nat) (x : OpOutcome) : State :=
  match s.op? x.asn with
  | none => s
  | some o =>
    let dropChk (s : State) : State := { s with ops := { s.ops with chks := s.ops.chks.filter (·.1 != x.asn) } }
    let resolve (s : State) (st info off len mu : Nat) : State :=
      dropChk ((s.dropWork x.asn).onOp x.asn fun y => { y with
        stage := .resolved, res := some { status := st, info := info, frn := frn, sub := sub, appendOff := off,
                                          appendLen := len, munits := mu } })
    if x.outcome = 0xFF then
      let bad := s.failedCores x.asn
      let s := (s.settlePages x.asn false o.pages).settleAppend o 2
      let s := if x.cause = 6 then
          { s with ops := { s.ops with chks := (x.asn, s.chkOf x.asn + 1) :: s.ops.chks.filter (·.1 != x.asn) } } else s
      (s.dropWork x.asn).onOp x.asn fun y => y.replayed x.cause x.tgt bad
    else if 0x10 ≤ x.outcome then
      resolve ((s.settlePages x.asn false o.pages).settleAppend o 1) x.outcome x.info 0 0 0
    else
      let s := ((s.settlePages x.asn true o.pages).localDeltas o).signal o
      let len := if o.append.isSome then (o.appendHi + 7) / 8 * 8 else 0
      resolve (s.settleAppend o 0) x.outcome x.info ((o.append.map (·.1)).getD 0) len o.munits

/-- What a decision does where its record came late: every operation in scope aborts with JOURNAL_LATE (R87). -/
def Decision.effective (d : Decision) : List OpOutcome :=
  if d.durable then d.outs
  else d.scope.map fun a => { asn := a, outcome := 0xFF, cause := 7, tgt := 0xFF, info := 0 }

/-- COMMIT to a remote target with its abort list, or ABORT where the decision is not durable or a new master's
(R88, R94). -/
def State.tellTarget (s : State) (d : Decision) (t : RTarget) : State :=
  let asns := s.writers d.scope t
  let head := [s.initId, t.rwin, d.frn, d.sub, d.token]
  if d.durable && !d.allAbort then
    s.say (.ql (s.qlNow t.port) 0x12 (head ++ asns.filter fun a =>
      d.effective.any fun x => x.asn = a && 0x10 ≤ x.outcome) [])
  else s.say (.ql (s.qlNow t.port) 0x13 (head ++ asns) [])

/-- Put a decision into force at its instant (R88): COMMIT to the dies and targets, then every outcome. -/
def State.applyDecision (s : State) (d : Decision) : State :=
  if d.inForce then s
  else
    let outs := d.effective
    let s := s.say (.decide d.frn d.sub d.token ((outs.filter (·.outcome = 0xFF)).map (·.asn)))
    let s := d.remote.foldl (fun acc t => acc.tellTarget d t.1) s
    let s := outs.foldl (fun acc x => acc.settle d.frn d.sub x) s
    let s := if d.durable then s else
      d.scope.foldl (fun acc a => match acc.op? a with | some o => acc.writeAttempt o | none => acc) s
    s.putDec { d with inForce := true, late := !d.durable,
                      remote := if d.durable && !d.allAbort then d.remote else [] }

/-- Forget decisions of earlier frames that are settled and acknowledged by every target. -/
def State.pruneDecs (s : State) : State :=
  { s with ops := { s.ops with
      decs := s.ops.decs.filter fun d => s.frames.frn ≤ d.frn || !s.settled d || d.remote.any (!·.2),
      votes := s.ops.votes.filter fun v => s.frames.frn ≤ v.frn } }

end Sys2Proof.Machine
end

