-- ==== Sys2Proof/Machine/SegmentOps.lean ====
section
/-! DEFINITION. Shared operations of segments: loading a program (R366, R368), starting, dispatching, resuming and
stealing (chapters 2, 9, 11, 12), and the ring positions of resident sets (chapter 10). -/

namespace Sys2Proof.Machine

/-! ### Placing a program in core store (R368) -/

/-- Bytes rounded up to 4 KiB. -/
def pages4k (n : Nat) : Nat := cdiv n 4096 * 4096

/-- Ranges no program may take: resident sets, loaded programs, and what the tile allocator holds (log entry 40). -/
def State.takenRanges (s : State) (c : Nat) : List CsRange :=
  s.resident c ++ [(0x4E0000, 0x700000 - 0x4E0000)] ++ (s.core c).segs.flatMap fun g => match g.prog with
    | some p => [(p.ibase, pages4k p.imageLen), (p.wbase, pages4k p.work)]
    | none => []

/-- The lowest 4 KiB-aligned free range of a length within [lo, hi). -/
def freeRange (taken : List CsRange) (lo hi len : Nat) : Option Nat :=
  let starts := (lo :: taken.map fun r => pages4k (r.1 + r.2)).filter fun a =>
    lo ≤ a && a + len ≤ hi && !hit [(a, len)] taken
  starts.foldl (fun b a => match b with | some x => some (min x a) | none => some a) none

/-- Where an operation's image and workspace go. -/
def State.placeProgram (s : State) (c : Nat) (h : Head) (urgent : Bool) : Option (Nat × Nat) :=
  let lo := if urgent then 0x700000 else 0
  let hi := if urgent then 0x800000 else 0x700000
  let taken := s.takenRanges c
  match freeRange taken lo hi (pages4k h.image) with
  | none => none
  | some i => (freeRange ((i, pages4k h.image) :: taken) lo hi (pages4k h.work)).map fun w => (i, w)

/-- The loaded program of a header. -/
def State.progOf (s : State) (h : Head) (i w : Nat) : Prog :=
  { ibase := i, imageLen := h.image, wbase := w, work := h.work, stack := h.stack, entry := h.entry, evbOff := h.evbOff,
    evbV := h.evbV, items := match h.gang with | some r => s.setShards r | none => h.items, gang := h.gang,
    group := h.group }

def Core.onSeg (k : Core) (asn : Nat) (f : Seg → Seg) : Core :=
  { k with segs := k.segs.map fun g => if g.ctx.asn = asn then f g else g }

/-- Start a segment: the image of a PROGRAM operation is copied first; an invalid header ends the operation, a lost
image too, and where there is no space or a forwarding read waits the segment waits. -/
def State.startSeg (s : State) (c asn : Nat) : State :=
  match (s.core c).segOf asn, s.op? asn with
  | some g, some o =>
    if g.started || g.finished || (s.core c).guard then s
    else if g.ctx.desc.op != some .program then s.onCore c fun k => k.onSeg asn fun g => { g with started := true }
    else match o.ctx.regions.getD 6 none with
      | none => s.onCore c fun k => k.endOp asn 0x13 0
      | some r =>
        match s.opRead o r false o.ctx.desc.arg1 (min 64 (r.size - o.ctx.desc.arg1)) with
        | .wait => s
        | .lost => s.onCore c fun k => k.endOp asn 0x13 0
        | .ok b =>
          match Head.parse b o.ctx.desc.isUrgent o.headRoom with
          | none => s.onCore c fun k => k.endOp asn 0x20 (seqInfo 9 0 0)
          | some h =>
            match s.placeProgram c h o.ctx.desc.isUrgent, s.opRead o r false (o.ctx.desc.arg1 + 64) h.image with
            | none, _ => s
            | _, .wait => s
            | _, .lost => s.onCore c fun k => k.endOp asn 0x13 0
            | some (i, w), .ok img =>
              let p := s.progOf h i w
              (s.chargeOn c .read 0 (cdiv h.image 64)).onCore c fun k =>
                { (k.onSeg asn fun g => { g with started := true, prog := some p }) with
                  store := k.store.writeBytes i img }
  | _, _ => s

/-- Start every segment of a core that has not started. -/
def State.startSegs (s : State) (c : Nat) : State :=
  (s.core c).segs.foldl (fun acc g => acc.startSeg c g.ctx.asn) s

/-- Give a core the items of an operation placed on it. -/
def State.addSeg (s : State) (c : Nat) (o : OpRec) (items : List Item) : State :=
  let g : Seg := { ctx := o.ctx, prog := none, items := items, urgent := o.ctx.desc.isUrgent, started := false, finished := false }
  s.onCore c fun k => { k with segs := k.segs ++ [g] }

/-- Put a placement into effect: segments on their cores, the operation running (R51, R328). -/
def State.putPlaced (s : State) (x : Nat × Placed) : State :=
  match s.op? x.1 with
  | none => s
  | some o =>
    let cores := ascending (x.2.map (·.1))
    let s := s.onOp x.1 fun y => { y with cores := cores, stage := .running, held := false }
    match s.op? x.1 with
    | none => s
    | some o' => cores.foldl (fun acc c => acc.addSeg c { o with ctx := { o'.ctx with append := o'.append.map (·.1) } }
        ((x.2.filter (·.1 = c)).map (·.2))) s

/-! ### URGENT dispatch (R53, R56, R538, R539) -/

/-- Operations in flight on a core: dispatched and without completion record (R56). -/
def State.inFlight (s : State) (c : Nat) : Nat := (s.ops.list.filter (·.cores.contains c)).length
def State.urgentOn (s : State) (c : Nat) : Nat :=
  (s.ops.list.filter fun o => o.ctx.desc.isUrgent && o.cores.contains c).length

/-- The scheduled core an URGENT operation goes to: fewest URGENT in flight, ties lowest; cores whose checks failed only
where no other has a place. -/
def State.urgentCore (s : State) (o : OpRec) : Option Nat :=
  let open_ := s.schedCores.filter fun c => !s.shunned c && s.inFlight c < 64 && !(s.core c).guard
  let pick (cs : List Nat) : Option Nat := cs.foldl (fun b c => match b with
    | some x => if s.urgentOn c < s.urgentOn x then some c else b
    | none => some c) none
  match pick (open_.filter fun c => !o.bad.contains c) with
  | some c => some c
  | none => pick open_

/-- Items of an URGENT operation, all on one core, unsplit. -/
def State.urgentItems (s : State) (o : OpRec) (c : Nat) : List Item :=
  (s.itemEsts o (max 1 s.schedCores.length) (if o.ctx.desc.op = some .program then s.headBytes o else none)).map fun e =>
    { num := e.num, cost := e.cost, split := 0, splits := 1, recv := c, started := false, done := false }

/-- The operation is dispatched to a core: bank N stops and its fetch buffer is cleared (R397). -/
def State.dispatchOn (s : State) (o : OpRec) (c : Nat) : State :=
  let items := s.urgentItems o c
  let s := s.putPlaced (o.ctx.asn, items.map fun i => (c, i))
  (s.onCore c fun k => { k with urgent := true, bankN := { k.bankN with tags := [] } }).startSeg c o.ctx.asn

/-! ### Bank U ends (R397, R423, R424) -/

/-- Bank U holds no entry, its program has ended and no URGENT segment is left to do. -/
def Core.urgentOver (k : Core) : Bool :=
  k.urgent && !k.bankU.active && !(k.queue.any (·.bankU)) && (k.segs.filter (·.urgent)).all k.segDone

/-- Restore weight sets and tiles; bank N goes on. -/
def Core.resumeN (k : Core) : Core :=
  let arrays := k.arrays.zipIdx.map fun a => match k.wsaved.getD a.2 none with
    | some w => { a.1 with fg := w.1, bg := w.2 }
    | none => a.1
  let k := { k with urgent := false, arrays := arrays, wsaved := List.replicate 4 none,
                    bankN := { k.bankN with tags := [] } }
  k.saves.foldl (fun acc v => acc.putTile v.array v.phys v.tile) { k with saves := [] }

/-! ### Items of a program (R369, R370) -/

/-- The lowest undone item of a segment. -/
def Seg.nextItem (g : Seg) : Option Item :=
  (g.items.filter (!·.done)).foldl (fun b i => match b with
    | some x => if i.num < x.num then some i else b
    | none => some i) none

/-- Start the next item in the running bank where it is idle; its workspace is undefined from then on. -/
def Core.startItem (k : Core) (epoch : Nat) : Core :=
  if k.bank.active || k.guard then k
  else
    match k.segs.find? fun g => g.urgent = k.urgent && g.started && !g.finished && g.prog.isSome && g.nextItem.isSome with
    | none => k
    | some g => match g.prog, g.nextItem with
      | some p, some i =>
        { k.setBank (SeqBank.entry g.ctx p i.num g.urgent) with
          segs := k.segs.map fun x => if x.ctx.asn = g.ctx.asn then
            { x with items := x.items.map fun y => if y.num = i.num then { y with started := true } else y } else x,
          store := k.store.forget p.wbase p.work epoch }
      | _, _ => k

/-! ### Stealing (R331) -/

/-- Items of a core not yet started, with their operation, in list order. -/
def Core.unstarted (k : Core) : List (Seg × Item) :=
  k.segs.flatMap fun g => if g.finished then [] else (g.items.filter fun i => !i.started && !i.done).map fun i => (g, i)

/-- An item a thief may take. -/
def stealable (thief : Nat) (x : Seg × Item) : Bool :=
  !x.1.urgent && (match x.1.prog with | some p => p.group.isNone && p.gang.isNone | none => x.1.ctx.desc.op != some .program)
    && (x.2.splits ≤ 1 || (x.2.split + 1 < x.2.splits && thief < x.2.recv))

/-- A core that is idle: its items have all started and its queue is empty. -/
def Core.mayThieve (k : Core) : Bool := k.unstarted.isEmpty && k.queue.isEmpty && !k.guard && !k.urgent

/-- The victim: the core of the same die whose unstarted items cost most, ties lowest. -/
def State.victim (s : State) (thief : Nat) : Option Nat :=
  let cost (c : Nat) : Nat := (s.core c).unstarted.foldl (fun v x => v + x.2.cost) 0
  ((dieCores (thief / 4)).filter fun c => c ≠ thief && cost c ≠ 0).foldl (fun b c => match b with
    | some x => if cost x < cost c then some c else b
    | none => some c) none

/-- Move an item from its core to the thief. -/
def State.moveItem (s : State) (victim thief : Nat) (x : Seg × Item) : State :=
  let asn := x.1.ctx.asn
  let s := s.onCore victim fun k => k.onSeg asn fun g => { g with items := g.items.filter fun i =>
    !(i.num = x.2.num && i.split = x.2.split) }
  let s := match (s.core thief).segOf asn with
    | some _ => s.onCore thief fun k => k.onSeg asn fun g => { g with items := g.items ++ [x.2] }
    | none => s.onCore thief fun k => { k with segs := k.segs ++ [{ x.1 with items := [x.2], prog := none, started := false }] }
  (s.onOp asn fun o => { o with cores := if o.cores.contains thief then o.cores else ascending (thief :: o.cores) }).startSeg
    thief asn

/-! ### Ring positions (R355-R358) -/

/-- One core's place in a resident set: a member keeps its shard while neither its position nor the set has changed. -/
def shardAt (member changed : Bool) (pos : Nat) (old : Shard) : Shard :=
  if !member then Shard.none
  else if old.member && old.pos = pos && !changed then old
  else { member := true, pos := pos, filled := false, bufA := none, bufB := none }

/-- Ring positions at a tick; `changed` tells which sets changed. -/
def State.placeShards (s : State) (changed : List Nat) : State :=
  let ring := s.ringCores
  let shard (k : Core × Nat) (n : Nat) : Shard :=
    let pos := ring.findIdx (· = k.2)
    shardAt (s.bitOf { name := .coRsCfg, n := n } 0 && pos < min ring.length (s.setShards n)) (changed.contains n) pos
      (k.1.shards.getD n Shard.none)
  let s := { s with cores := s.cores.zipIdx.map fun k => { k.1 with shards := (List.range 4).map (shard k) } }
  (List.range 4).foldl (fun acc n =>
    (acc.setBit { name := .coRsStat, n := n } 0 (acc.bitOf { name := .coRsCfg, n := n } 0)).setReady n) s

end Sys2Proof.Machine
end

