-- ==== Sys2Proof/Machine/Frames.lean ====
section
/-! DEFINITION. The commands of frames, votes, decisions and urgent work (chapters 2, 3, 9-12), and of items and
segments. -/

namespace Sys2Proof.Machine

/-! ### Start (R30, R35, R598) -/

/-- Offset of FR_CTL in a fabric die's block (R648). -/
def offFrCtl : Nat := 0x400000

/-- F at the first tick: an armed FR_LEN that passes R35, else the active one. -/
def State.firstF (s : State) : Nat :=
  let bs := s.armed.map (·.1)
  let len := bitf (s.wouldBe bs { name := .frLen }) 0 13
  let g := s.wouldBe bs { name := .frGuard }
  if guardFits len (bitf g 0 7) (bitf g 16 14) (bitf (s.wouldBe bs { name := .mcDirty }) 0 8) then len * 1000 else s.lenF

/-- The first tick instant and FRN (R30). -/
def State.firstTick (s : State) (t : Stamp) : Stamp × Nat :=
  let e := s.pairOf .frEpoch
  let f := max 1 s.firstF
  let n := max (cdiv (t + 10000 - e) f) (match s.frames.lastFrn with | some x => x + 1 | none => 0)
  (e + n * f, n)

/-- RUN (R30, R598). -/
def execRun (t port : Nat) (be : BitVec 4) (v : Word) (s : State) : Out :=
  .next (match (s.stamped t).wrFront port none offFrCtl be with
    | (s, none) => s
    | (s, some r) =>
      if r.name ≠ .frCtl || !bit v.toNat 0 || s.running then s
      else if s.pwr.straps.getD 2 false then
        (s.applyWrite port none offFrCtl r (putBits v.toNat 0 1 0)).cfgErr none errBUSY offFrCtl port
      else
        let s := s.applyWrite port none offFrCtl r v.toNat
        { s with frames := { s.frames with first := some (s.firstTick t) } })

/-! ### Waits (R166, R167) -/

/-- Frames of an operation's wait window. -/
def OpRec.window (o : OpRec) : Nat := o.ctx.desc.activeWaits.foldl (fun m w => min m (w.win + 1)) 16

/-- A wait unsatisfied at the guard of its window's last frame ends the operation. -/
def State.expireWait (s : State) (o : OpRec) : State :=
  match o.firstFrn with
  | none => s
  | some f =>
    if o.stage = .accepted && o.ended.isNone && f + o.window ≤ s.frames.frn + 1 && !s.waitsOk o then
      s.onOp o.ctx.asn fun x => { x with ended := some (0x11, 0) }
    else s

/-- WAIT_WINDOW_EXPIRED (R167). -/
def execWaitWindowExpired (t asn : Nat) (s : State) : Out :=
  let s := s.arrive t
  .next (match s.op? asn with
    | some o => if s.frames.guard then s.expireWait o else s
    | none => s)

/-! ### Guard opening (R34, R51, R54, R58, R122, R448) -/

/-- Send BISnpInv for the tracked lines of an operation's staged pages (R122). -/
def State.backInvalidate (s : State) (o : OpRec) : State :=
  let inPage (l : Nat) : Bool := o.pages.contains (l / 65536)
  (List.range 2).foldl (fun acc p =>
    let ls := (acc.port p).tracked.filter inPage
    (acc.sayAll (ls.map fun l => .bisnp p l)).onPort p fun h => { h with tracked := h.tracked.filter fun l => !inPage l }) s

/-- A NORMAL or BULK segment unfinished at guard opening is given up: its operation joins the abort list with OVERRUN
(R58, R353, R396, R425). -/
def Core.giveUp (k : Core) (asn : Nat) : Core :=
  { k.stopOp asn with aborts := if k.aborts.any (·.1 = asn) then k.aborts else k.aborts ++ [(asn, 2)] }

/-- Judge a core's segments. -/
def Core.judge (k : Core) : Core :=
  (k.segs.filter fun g => !g.urgent && !k.segDone g).foldl (fun acc g => acc.giveUp g.ctx.asn) k

/-- A core as the guard opens. -/
def Core.enterGuard (k : Core) : Core := { k.judge with guard := true }

/-- URGENT operations accepted before the guard: their wait window begins with this frame (R167). -/
def OpRec.noteUrgent (frn : Nat) (o : OpRec) : OpRec :=
  if o.ctx.desc.isUrgent && o.stage != .issued && o.firstFrn.isNone then { o with firstFrn := some frn } else o

def State.noteUrgent (s : State) : State :=
  { s with ops := { s.ops with list := s.ops.list.map (OpRec.noteUrgent s.frames.frn) } }

/-- Count a guard for each URGENT operation still running; the second one is treated as an overrun (R54). -/
def State.urgentGuard (s : State) (o : OpRec) : State :=
  if !o.ctx.desc.isUrgent || o.stage != .running || s.opFinished o then s
  else
    let s := s.onOp o.ctx.asn fun x => { x with guards := x.guards + 1 }
    if 1 ≤ o.guards then
      (o.cores.foldl (fun acc c => acc.onCore c fun k => k.giveUp o.ctx.asn) s).onOp o.ctx.asn fun x => { x with voted := true }
    else s

/-- GUARD_OPEN (R34): work stops, waits expire, unfinished segments are given up, URGENT operations pause, every slice
cleans, host copies of staged lines are recalled, and the splitter plans the next frame. -/
def execGuardOpen (t : Nat) (s : State) : Out :=
  let s := s.arrive t
  if !s.frames.ticking || s.frames.guard || t < s.guardAt then .next s
  else
    let s := s.noteUrgent
    let s := s.ops.list.foldl (fun acc o => acc.expireWait o) s
    let s := { s with cores := s.cores.map Core.enterGuard }
    let s := s.ops.list.foldl (fun acc o => acc.urgentGuard o) { s with frames := { s.frames with guard := true } }
    let s := (List.range 9).foldl (fun acc h => acc.cleanSlice h) s
    let s := (s.scopeAt 0).foldl (fun acc o => acc.backInvalidate o) s
    .next { s with frames := { s.frames with plan := some (s.planAt s.guardAt) } }

/-! ### Votes (R55, R84) -/

/-- An URGENT operation of these cores that has finished, or been given up or ended. -/
def State.urgentDone (s : State) (cores : List Nat) (o : OpRec) : Bool :=
  o.ctx.desc.isUrgent && o.stage = .running && o.cores.any cores.contains
    && (s.opFinished o || o.cores.any fun c => (s.core c).aborts.any (·.1 = o.ctx.asn) || (s.core c).endings.any (·.asn = o.ctx.asn))

/-- Record a die's vote; a later one for the same point adds to it. -/
def State.putVote (s : State) (v : Vote) : State :=
  let old := ((s.voteOf v.frn v.sub v.die).map (·.aborts)).getD []
  let aborts := old ++ v.aborts.filter fun a => !(old.any (·.1 = a.1))
  let rest := s.ops.votes.filter fun x => !(x.frn = v.frn && x.sub = v.sub && x.die = v.die)
  { s with ops := { s.ops with votes := { v with aborts := aborts } :: rest } }

/-- URGENT operations that vote now: their slices are clean, their staged lines recalled (R122). -/
def State.voteUrgent (s : State) (cores : List Nat) : State :=
  (s.ops.list.filter fun o => s.urgentDone cores o && !o.voted).foldl (fun acc o =>
    (acc.backInvalidate o).onOp o.ctx.asn fun x => { x with voted := true }) s

/-- PREPARE_VOTE (R84, R55): `sub` 0 is the frame tick's vote, due at T + F - J; others are due at their sub-tick. -/
def execPrepareVote (t die sub : Nat) (s : State) : Out :=
  let s := s.arrive t
  let cores := dieCores die
  if !s.frames.ticking || !s.votes die || (s.die die).hold || 7 < sub then .next s
  else if sub = 0 then
    if !s.frames.guard || (s.die die).withhold || s.voteAt < t || (s.voteOf s.frames.frn 0 die).isSome
        || (cores.any fun c => (s.core c).segs.any fun g => !g.urgent && !(s.core c).segDone g) then .next s
    else
      let s := s.voteUrgent cores
      let urgentLeft (a : Nat) : Bool := match s.op? a with | some o => o.ctx.desc.isUrgent && !o.voted | none => false
      let aborts := (cores.flatMap fun c => (s.core c).aborts).filter fun a => !urgentLeft a.1
      .next (s.putVote { frn := s.frames.frn, sub := 0, die := die, stamp := t, aborts := aborts })
  else if s.frames.guard || s.subAt sub < t || (s.dec? s.frames.frn sub).isSome then .next s
  else
    let s := (s.cleanSlice die).voteUrgent cores
    let mine (a : Nat) : Bool := match s.op? a with | some o => o.ctx.desc.isUrgent && o.voted | none => false
    let aborts := (cores.flatMap fun c => (s.core c).aborts).filter fun a => mine a.1
    .next (s.putVote { frn := s.frames.frn, sub := sub, die := die, stamp := t, aborts := aborts })

/-- VOTE_EVALUATE (R86): at T + F - J + 32 ns. The master also sends the standby its LEASE for the next tick (R93);
withheld votes show in MC_ERRn (R450). -/
def execVoteEvaluate (t : Nat) (s : State) : Out :=
  let s := s.arrive t
  if !s.frames.guard || !s.hasMaster || t < s.voteAt + 32 || (s.dec? s.frames.frn 0).isSome then .next s
  else
    let held := (List.range 9).filter fun d => (s.die d).withhold && s.votes d
    let s := if s.cm.standby then s.say (.lease (s.frames.frn + 1) s.cm.token) else s
    let s := s.decide t s.frames.frn 0 s.nextTick
    let s := held.foldl (fun acc d => acc.setBit { name := .mcErr, n := d } 24 true) s
    .next { s with frames := { s.frames with dies := s.frames.dies.map fun x => { x with withhold := false } } }

/-- SUB_TICK (R55, R89): the master decides every URGENT operation that has voted, and repeats COMMIT to targets that
have not acknowledged. -/
def execSubTick (t k : Nat) (s : State) : Out :=
  let s := s.arrive t
  if !s.frames.ticking || s.frames.guard || k = 0 || 7 < k || t < s.subAt k || k ≤ s.frames.sub || !s.hasMaster then .next s
  else
    let s := { s with frames := { s.frames with sub := k } }
    let s := s.ops.decs.foldl (fun acc d =>
      if d.inForce && d.durable then (d.remote.filter (!·.2)).foldl (fun a x => a.tellTarget d x.1) acc else acc) s
    .next (if (s.scopeAt k).isEmpty then s else s.decide t s.frames.frn k (s.subAt k + 1000))

/-- DECISION_DURABLE (R87): confirmed in time the decision is final; a later confirmation counts as late. -/
def execDecisionDurable (t frn sub : Nat) (s : State) : Out :=
  let s := s.arrive t
  .next (match s.dec? frn sub with
    | none => s
    | some d =>
      if d.durable || d.late || d.offs.any fun x => s.portLost x.1 then s
      else if d.deadline < t then s.putDec { d with late := true }
      else s.nowDurable d)

/-- DIE_COMMIT_APPLY (R88): a die applies the decision at its instant; a smaller token than the highest it has seen is
ignored (R94). -/
def execDieCommitApply (t die frn sub : Nat) (s : State) : Out :=
  let s := s.arrive t
  .next (match s.dec? frn sub with
    | none => s
    | some d =>
      let due := if sub = 0 then frn < s.frames.frn else d.durable || d.late || d.deadline < t
      if !due || !s.votes die || d.token < (s.die die).token || d.applied.contains die then s
      else
        let s := s.applyDecision d
        match s.dec? frn sub with
        | some d => s.putDec { d with applied := die :: d.applied }
        | none => s)

/-! ### The tick (R31, R37-R42, R51, R131-R133, R358, R471, R591) -/

/-- The tick a FRAME_TICK at t is: its instant and FRN. -/
def State.tickOf (s : State) (t : Stamp) : Option (Stamp × Nat) :=
  if s.frames.ticking then
    let f := max 1 s.lenF
    let k := (t - s.frames.tick) / f
    if t < s.frames.tick + f then none else some (s.frames.tick + k * f, s.frames.frn + k)
  else match s.frames.first with
    | some x => if s.running && x.1 ≤ t then some x else none
    | none => none

/-- A die accepts a tick (R41): hold and guard end on its cores. -/
def State.acceptTick (s : State) (d frn token : Nat) : State :=
  let x := s.die d
  if (match x.frn with | some f => frn ≤ f | none => false) || token < x.token then s
  else
    let s := s.onDie d fun y => { y with frn := some frn, token := token, hold := false }
    (dieCores d).foldl (fun acc c => acc.onCore c fun k => { k with guard := acc.frames.guard }) s

/-- Rings follow the loss and return of ports (R131, R132): served by the other fabric die while their home port is lost
or its fabric die failed. -/
def State.moveRing (s : State) (x : Nat × Nat) : State :=
  let home := s.homeFd x.1 x.2
  let away := s.multipath && (s.portLost home || !(s.port home).returned) && !s.portLost (1 - home)
  let r := s.ring x.1 x.2
  let now := if away then 2 - home else home + 1
  let was := s.serving x.1 x.2 + 1
  if now = was then s
  else
    let s := s.putRing { r with serving := now, lastDb := none }
    if s.watches x.1 x.2 then s.readLine (s.watchPort x.1 x.2) (s.dbWord x.1 x.2) else s

/-- Leave a lost port's rings out from this tick on (R133). -/
def State.excludePorts (s : State) : State :=
  if s.multipath then s
  else [0, 1].foldl (fun acc p => if acc.portLost p then acc.onPort p fun h => { h with excluded := true } else acc) s

/-- A lost Quinulait port's alternate serves its targets from this tick (R471). -/
def State.qlSwitch (s : State) : State :=
  let ports := s.fab.ports.zipIdx.map fun x =>
    if s.bitOf rFtQlfail x.2 then { x.1 with cur := (s.altPort x.2).getD x.2 } else { x.1 with cur := x.2 }
  { s with fab := { s.fab with ports := ports } }

/-- Sources still masked after a tick: those of parts not in service (R480). -/
def State.masked (s : State) (src : Nat) : Bool :=
  if src < 36 then s.dieDead (src / 4) && !s.flt.retired.contains (src / 4)
  else if src < 45 then s.dieDead (src - 36) && !s.flt.retired.contains (src - 36)
  else if 48 ≤ src && src < 54 then !s.fdAlive (src % 2)
  else false

def State.unmask (s : State) : State :=
  let old := s.pairOf .arIso
  s.setPair .arIso 0 0 ((List.range 64).foldl (fun v i => if bit old i && s.masked i then v + 2 ^ i else v) 0)

/-- Throttling (R591): power of the last frame in W and its hottest sensor. -/
def throttle (theta cap power : Nat) (hot : Bool) : Nat :=
  let a := max 96 (theta - 32)
  let b := max 96 (theta * cap / max 1 power)
  if hot && cap < power then min a b
  else if hot then a
  else if cap < power then b
  else if 100 * power < 95 * cap then min 256 (theta + 8)
  else theta

def rPwrStat : Reg := { name := .gxPwrStat }

/-- THERM_ALERT_N (R593): asserted while throttled, hot, or on one input. -/
def State.thermPin (s : State) : State :=
  let low := s.fieldOf rPwrStat 8 9 < 256 || !s.pwr.hotDies.isEmpty || s.pwr.vin.any (!·)
  if s.pwr.thermN = !low then s
  else ({ s with pwr := { s.pwr with thermN := !low } }).say (.pin "THERM_ALERT_N" (!low))

def State.throttleAt (s : State) (power hottest : Nat) : State :=
  let theta := throttle (s.fieldOf rPwrStat 8 9) (s.fieldOf { name := .gxPwrCfg } 0 11) power
    (90 ≤ hottest || s.frames.hot || !s.pwr.hotDies.isEmpty)
  let s := (s.setField rPwrStat 8 9 theta).setField { name := .gxPwrAvg } 0 12 (min 0xFFF power)
  let s := s.setField { name := .gxTempMax } 0 8 (min 0xFF hottest)
  { s with frames := { s.frames with hot := false } }.thermPin

/-- Resident sets whose active values differ between two states. -/
def setsChanged (a b : State) : List Nat :=
  (List.range 4).filter fun n => (rsRegs n).any fun r => a.regs.get r ≠ b.regs.get r

/-- First frames of MARK operations considered, and of URGENT operations accepted in the guard (R167). -/
def State.noteFirst (s : State) (cutoff : Stamp) : State :=
  let early (o : OpRec) : Bool := match o.accept with
    | some a => a ≤ cutoff
    | none => false
  let list := s.ops.list.map fun o =>
    if o.firstFrn.isSome || o.stage != .accepted then o
    else if o.ctx.desc.isUrgent || (o.ctx.desc.op = some .mark && early o) then { o with firstFrn := some s.frames.frn }
    else o
  { s with ops := { s.ops with list := list } }

/-- The pending decisions take effect, sub-ticks before the frame tick. -/
def State.applyPending (s : State) : State :=
  let pend := s.ops.decs.filter (!·.inForce)
  let s := (pend.filter (·.sub ≠ 0)).foldl (fun acc d => acc.applyDecision d) s
  (pend.filter (·.sub = 0)).foldl (fun acc d => acc.applyDecision d) s

/-- The new frame begins: guard closed, FRN kept for R30. -/
def State.beginFrame (s : State) (T frn : Nat) : State :=
  { s with frames := { s.frames with ticking := true, tick := T, frn := frn, guard := false, sub := 0, lastFrn := some frn } }

/-- FRAME_TICK (R31): the decision of the frame that ends applies; the tick is sent and accepted; shadows, roles, rings
and ports change; the plan of the guard is placed; theta is set. -/
def execFrameTick (t power hottest : Nat) (sources : List (List Byte)) (consumes : List (Nat × Nat)) (s : State) : Out :=
  let s := s.arrive t
  match s.tickOf t with
  | none => .next s
  | some (T, frn) =>
    if !s.hasMaster || s.cm.fenceAt.isSome then .next s
    else
      let cutoff := match s.frames.plan with | some p => p.cutoff | none => T - s.lenG
      let s := (s.applyPending.beginFrame T frn).say (.tick frn s.cm.token)
      let s := (List.range 11).foldl (fun acc d => acc.acceptTick d frn acc.cm.token) s
      let s1 := s.activateAt T sources
      let s := ((s1.moveRoles cutoff).placeShards (setsChanged s s1)).unmask
      let s := (s.enabledRings.foldl (fun acc x => acc.moveRing x) s.excludePorts).qlSwitch
      let s := consumes.foldl (fun acc c =>
        match acc.ops.append.find? (·.base = c.1) with
        | some r => acc.putAppend { r with consume := c.2 }
        | none => acc) s
      let s := s.noteFirst cutoff
      let plan := match s.frames.plan with | some p => p | none => s.planAt cutoff
      let r := s.runSplitter plan
      let s := r.2.placed.foldl (fun acc x => acc.putPlaced x) r.1
      let s := (List.range 36).foldl (fun acc c => if acc.votes (c / 4) then acc.startSegs c else acc) s
      let s := (s.throttleAt power hottest).pruneDecs
      .next { s with frames := { s.frames with plan := none } }

/-- TICK_MESSAGE (R41). -/
def execTickMessage (t die frn token : Nat) (s : State) : Out :=
  let s := (s.arrive t).acceptTick die frn token
  .next ((dieCores die).foldl (fun acc c => acc.startSegs c) s)

/-- TICK_WATCHDOG (R42): no tick accepted by its instant + 1.0 us; the die holds. -/
def execTickWatchdog (t die : Nat) (s : State) : Out :=
  let s := s.arrive t
  let f := max 1 s.lenF
  let k := (t - s.frames.tick) / f
  .next (if !s.frames.ticking || t < s.frames.tick + k * f + 1000 + 32
      || (match (s.die die).frn with | some x => s.frames.frn + k ≤ x | none => false) then s
    else (dieCores die).foldl (fun acc c => acc.onCore c fun k => { k with guard := true })
      (s.onDie die fun x => { x with hold := true }))

/-! ### Mastership (R93-R95, R529-R531, R556) -/

/-- LEASE (R93): stamped by the tick instant it names; its acknowledgement reaches the master. -/
def execLease (t frn token : Nat) (s : State) : Out :=
  let s := s.arrive t
  .next (if !s.cm.standby || token < s.cm.token || s.frames.tick + (frn - s.frames.frn) * s.lenF < t then s
    else { s with cm := { s.cm with leaseFrn := some frn, missed := 0, ackMiss := 0 } })

/-- LEASE_RENEWAL_MISSED (R93): checked 32 ns after a tick instant. -/
def execLeaseRenewalMissed (t : Nat) (s : State) : Out :=
  let s := s.arrive t
  let k := (t - 32 - s.frames.tick) / max 1 s.lenF
  let due := s.frames.frn + k
  .next (if !s.cm.standby || !s.frames.ticking || (match s.cm.leaseFrn with | some f => due ≤ f | none => false) then s
    else { s with cm := { s.cm with missed := s.cm.missed + 1 } })

/-- Who acknowledges a FENCE: dies 0-8, the fabric dies 9 and 10, and remote endpoints from here on. -/
def farBase : Nat := 0x10000

/-- Remote targets of operations that have sent staged writes. -/
def State.openTargets (s : State) : List RTarget :=
  targetsOf (s.ops.list.filter fun o => o.stage != .issued && o.stage != .resolved)

/-- FENCE message to the MD (R556, log entry 41): type, session and token. -/
def State.fenceMeter (s : State) : State :=
  s.toMeter (leBytes 1 0x32 ++ leBytes 3 0 ++ leBytes 4 s.boot.session ++ leBytes 8 s.cm.token)

/-- Send FENCE with the new token to every compute die, fabric die in service and remote target (R94 step 2). -/
def State.sendFences (s : State) : State :=
  let dies := (List.range 9).filter s.votes
  let fds := ([0, 1].filter fun f => f ≠ s.cm.master && s.fdAlive f).map (9 + ·)
  let far := s.openTargets
  let s := s.sayAll ((dies ++ fds).map fun d => .fence d s.cm.token)
  let s := s.sayAll (far.map fun x => .ql (s.qlNow x.port) 0x15 [s.initId, s.cm.token] [])
  { s.fenceMeter with cm := { s.cm with waiting := dies ++ fds ++ (far.map fun x => farBase + x.epid).eraseDups,
                                        fenceAt := some s.now } }

/-- An ALL_ABORT decision of a new master for a point left undecided (R94 step 4). -/
def State.abortPoint (s : State) (frn sub : Nat) (scope : List OpRec) (cause : Nat) (fence : Bool) : State :=
  let d : Decision :=
    { frn := frn, sub := sub, token := s.cm.token, stamp := s.now, deadline := s.nextTick, allAbort := true, fence := fence,
      scope := scope.map (·.ctx.asn),
      outs := scope.map fun o => { asn := o.ctx.asn, outcome := 0xFF, cause := cause, tgt := 0xFF, info := 0 },
      durable := false, late := false, applied := [], inForce := false,
      remote := (targetsOf scope).map fun x => (x, false), offs := [], sums := [] }
  let d := { d with deadline := max d.deadline (s.frames.tick + ((s.now - s.frames.tick) / max 1 s.lenF + 1) * s.lenF) }
  let r := s.writeDecision d (ringsOf scope)
  if scope.isEmpty then r.1.nowDurable r.2 else r.1.putDec r.2

/-- Steps 3-5 of R94: undecided points are aborted; summaries are sent again (R556); COMMIT is repeated for durable
decisions. -/
def State.finishTakeover (s : State) : State :=
  let s := { s with cm := { s.cm with fenceAt := none } }
  let lost := s.ops.decs.filter fun d => !d.durable && !d.inForce
  let s := { s with ops := { s.ops with decs := s.ops.decs.filter fun d => d.durable || d.inForce } }
  let s := lost.foldl (fun acc d => acc.abortPoint d.frn d.sub (d.scope.filterMap acc.op?) 8 true) s
  let busy := s.ops.decs.flatMap fun d => if d.inForce then [] else d.scope
  let rest := (s.scopeAt 0).filter fun o => !busy.contains o.ctx.asn
  let s := if (s.dec? s.frames.frn 0).isSome then s else s.abortPoint s.frames.frn 0 rest 8 true
  let s := (s.ops.decs.filter fun d => d.durable && d.sub = 0).foldl (fun acc d => acc.sendSummary d.frn) s
  s.ops.decs.foldl (fun acc d =>
    if d.durable && d.inForce then (d.remote.filter (!·.2)).foldl (fun a x => a.tellTarget d x.1) acc else acc) s

/-- One recipient is done; the logs are read once none is awaited. -/
def State.fenceDone (s : State) (who : Nat) : State :=
  let s := { s with cm := { s.cm with waiting := s.cm.waiting.filter (· != who) } }
  if s.cm.waiting.isEmpty then s.finishTakeover else s

/-- TAKEOVER (R93, R94, R529): after two missed renewals; `durable` names the decision points whose record is found
durable in the logs. -/
def execTakeover (t : Nat) (durable : List (Nat × Nat)) (s : State) : Out :=
  let s := s.arrive t
  let m := 1 - s.cm.master
  if s.cm.missed < 2 || !s.cm.standby || !s.fdAlive m then .next s
  else
    let old := s.cm.master
    let token := (s.frames.dies.map (·.token)).foldl max s.cm.token + 1
    let s := { s with cm := { s.cm with master := m, token := token, missed := 0, leaseFrn := none } }
    let s := (s.declareFd old (if s.fdTripped old then 4 else 1)).settleWaits.event { code := 0x04, kind := 4, index := m, detail2 := token }
    let found := s.ops.decs.filter fun d => !d.durable && !d.late && durable.contains (d.frn, d.sub)
    let s := found.foldl (fun acc d => acc.putDec { d with durable := true }) s
    let s := s.onDie (9 + m) fun x => { x with token := token }
    .next (s.sendFences)

/-- FENCE_TOKEN_MESSAGE (R94, R95): the recipient raises its highest token and acknowledges. -/
def execFenceTokenMessage (t who token : Nat) (s : State) : Out :=
  let s := s.arrive t
  .next (if 11 ≤ who || token < (s.die who).token then s
    else (s.onDie who fun x => { x with token := token }).say (.fenceAck who))

/-- FENCE_ACKNOWLEDGEMENT (R94). -/
def execFenceAcknowledgement (t who : Nat) (s : State) : Out :=
  let s := s.arrive t
  .next (if s.cm.fenceAt.isSome && s.cm.waiting.contains who then s.fenceDone who else s)

/-- FENCE_ACK_TIMEOUT (R94, R516): not acknowledged within 10 us; the recipient is treated as failed. -/
def execFenceAckTimeout (t who : Nat) (s : State) : Out :=
  let s := s.arrive t
  .next (match s.cm.fenceAt with
    | none => s
    | some a =>
      if !s.cm.waiting.contains who || t < a + 10000 + 32 then s
      else
        let s := if who < 9 then s.declareDie who 3 else if who < 11 then s.declareFd (who - 9) 3 else s
        s.fenceDone who)

/-- STANDBY_LEASE_ACK_MISSED (R530): at two ticks in a row the master declares the standby failed. -/
def execStandbyLeaseAckMissed (t : Nat) (s : State) : Out :=
  let s := s.arrive t
  .next (if !s.cm.standby then s
    else
      let s := { s with cm := { s.cm with ackMiss := s.cm.ackMiss + 1 } }
      if s.cm.ackMiss < 2 then s else s.declareFd (1 - s.cm.master) 2)

/-! ### Urgent work and items -/

/-- URGENT_DISPATCH (R53, R56, R82): `consume` is the append control line as read now. -/
def execUrgentDispatch (t asn consume : Nat) (s : State) : Out :=
  let s := s.arrive t
  .next (match s.op? asn with
    | none => s
    | some o =>
      if !o.ctx.desc.isUrgent || o.stage != .accepted || o.ended.isSome || o.ctx.desc.op = some .mark || s.excluded o
          || !s.frames.ticking || s.frames.guard then s
      else
        let s := s.onOp asn fun x => { x with firstFrn := some (x.firstFrn.getD s.frames.frn) }
        if !s.waitsOk o then s.onOp asn fun x => { x with held := true }
        else
          let s := match o.appendRegion with
            | some r => s.putAppend { s.appendOf r.base r.size with consume := consume }
            | none => s
          match s.urgentCore o, s.reserveFor o with
          | some c, some s' => s'.dispatchOn o c
          | _, _ => s.onOp asn fun x => { x with held := true })

/-- URGENT_END_RESUME (R397, R423, R424). -/
def execUrgentEndResume (t core : Nat) (s : State) : Out :=
  .next ((s.arrive t).onCore core fun k => if k.urgentOver then k.resumeN else k)

/-- ITEM_START (R370). -/
def execItemStart (t core : Nat) (s : State) : Out :=
  let s := s.arrive t
  .next (s.onCore core fun k => k.startItem s.free).takeFree

/-- STEAL (R331, R332). -/
def execSteal (t core : Nat) (s : State) : Out :=
  let s := s.arrive t
  if !s.bitOf { name := .frSplitCfg } 8 || s.frames.guard || !s.schedCores.contains core || s.shunned core
      || s.flt.banked = some (core / 4) || !(s.core core).mayThieve then .next s
  else
    match s.victim core with
    | none => .next s
    | some v =>
      match (s.core v).unstarted.reverse.find? (stealable core) with
      | none => .next s
      | some x =>
        if 64 ≤ s.inFlight core && ((s.core core).segOf x.1.ctx.asn).isNone then .next s
        else .next (s.moveItem v core x)

/-- MARK (R168): it has finished once its waits are satisfied, outside a guard. -/
def execMark (t asn : Nat) (s : State) : Out :=
  let s := s.arrive t
  .next (match s.op? asn with
    | none => s
    | some o =>
      if o.ctx.desc.op != some .mark || o.stage != .accepted || o.ended.isSome || !s.frames.ticking || s.frames.guard
          || s.excluded o || (!o.ctx.desc.isUrgent && o.firstFrn.isNone) || !s.waitsOk o then s
      else s.onOp asn fun x => { x with stage := .finished, voted := x.ctx.desc.isUrgent,
                                        firstFrn := some (x.firstFrn.getD s.frames.frn) })

/-- PROGRAM (R156, R368): the segment of a PROGRAM operation on a core starts where it has not yet. -/
def execProgram (t asn core : Nat) (s : State) : Out :=
  let s := s.arrive t
  .next (match s.op? asn with
    | some o => if o.ctx.desc.op = some .program then s.startSeg core asn else s
    | none => s)

/-! ### Time synchronisation (R43-R47, R599) -/

/-- Both fabric dies show the same time status. -/
def State.timeBits (s : State) (locked holdover : Bool) : State :=
  [0, 1].foldl (fun acc d => (acc.setBit { name := .frStat, dev := d } 0 locked).setBit { name := .frStat, dev := d } 1 holdover) s

/-- Last measured offset, saturating at ±32,767 ns. -/
def State.timeOffset (s : State) (x : Int) : State :=
  let v := (max (-32767) (min 32767 x)) % 65536
  [0, 1].foldl (fun acc d => acc.setField { name := .frStat, dev := d } 16 16 v.toNat) s

def State.syncSrc (s : State) : Nat := s.fieldOf rFrCtl 1 2
def State.locked (s : State) : Bool := s.bitOf { name := .frStat } 0
def State.holdover (s : State) : Bool := s.bitOf { name := .frStat } 1

/-- LOCKED from 0 to 1 (R47). -/
def State.lockTime (s : State) : State :=
  if s.syncSrc = 2 || s.locked then s else (s.timeBits true false).event { code := 0x13 }

/-- Loss of the reference or an offset above 100 ns (R47). -/
def State.loseTime (s : State) : State :=
  if s.syncSrc = 2 || s.holdover then s
  else (s.timeBits false true).event { code := 0x12, detail := s.fieldOf { name := .frStat } 16 16 }

/-- A measured offset. -/
def State.measured (s : State) (x : Int) : State :=
  let s := s.timeOffset x
  if -100 ≤ x && x ≤ 100 then s.lockTime else s.loseTime

/-- PPS_EDGE (R46, R599). -/
def execPpsEdge (t : Nat) (s : State) : Out :=
  let s := s.arrive t
  if s.syncSrc ≠ 1 then .next s
  else if !s.frames.ppsDone && !s.running then
    let now := s.frames.ppsSec * 1000000000
    .next ({ s with now := now, frames := { s.frames with ppsDone := true, ppsLast := some now, ppsBad := 0 } }.measured 0)
  else
    let sec := (t + 500000000) / 1000000000
    let off : Int := (t : Int) - (sec * 1000000000 : Nat)
    if off < -1000 || 1000 < off then
      let bad := s.frames.ppsBad + 1
      let s := { s with frames := { s.frames with ppsBad := bad, ppsLast := s.frames.ppsLast.map fun _ => t } }
      .next (if 2 ≤ bad then s.loseTime else s)
    else
      .next ({ s with frames := { s.frames with ppsDone := true, ppsLast := some t, ppsBad := 0,
                                                ppsSec := s.frames.ppsSec + 1 } }.measured off)

/-- PPS_TIMEOUT (R599). -/
def execPpsTimeout (t : Nat) (s : State) : Out :=
  let s := s.arrive t
  .next (if s.syncSrc ≠ 1 then s
    else match s.frames.ppsLast with
      | some a => if a + 1500000000 + 32 ≤ t then s.loseTime else s
      | none => s)

/-- PTP_MESSAGE (R43): a measured offset on a selected port of the domain; before RUN the PTB may step once (R29). -/
def execPtpMessage (t qlPort domain : Nat) (offset : Int) (s : State) : Out :=
  let s := s.arrive t
  if s.syncSrc ≠ 0 || !s.bitOf rFrCtl (10 + qlPort % 16) || domain ≠ s.fieldOf rFrCtl 3 7
      || s.fieldOf (qlStatReg (qlPort % 16)) 0 2 ≠ 2 then .next s
  else
    let s := s.setBit (qlStatReg (qlPort % 16)) 4 true
    if !s.frames.ppsDone && !s.running && (offset < -100 || 100 < offset) then
      .next ({ s with now := ((s.now : Int) - offset).toNat, frames := { s.frames with ppsDone := true } }.measured 0)
    else .next (s.measured offset)

/-- TIME_HOLDOVER (R47). -/
def execTimeHoldover (t : Nat) (s : State) : Out := .next (s.arrive t).loseTime

/-- TIME_LOCKED (R47). -/
def execTimeLocked (t : Nat) (s : State) : Out := .next (s.arrive t).lockTime

end Sys2Proof.Machine
end

