-- ==== Sys2Proof/Machine/PoolOps.lean ====
section
/-! DEFINITION. Shared operations of the pool (chapter 15): locks, remote scopes at this far side, the checks of inbound
requests, and the votes of remote targets. -/

namespace Sys2Proof.Machine

/-! ### Statuses (R494) -/

def stOK : Nat := 0x00
def stRANGE : Nat := 0x01
def stRIGHTS : Nat := 0x02
def stCONFLICT : Nat := 0x03
def stFENCED : Nat := 0x04
def stFULL : Nat := 0x05
def stCLOSED : Nat := 0x06
def stBUSY : Nat := 0x08
def stSTALE : Nat := 0x09
def stKIND : Nat := 0x0A

/-- A refusal whose status the manual does not state, as where a granule of a failed stack is reached: any refusal of
R494, from the free-value counter (log entry 42). -/
def State.freeRefusal (s : State) : State × Nat := (s.takeFree, 1 + (Config.freeValue s.free).toNat % 10)

/-! ### Locks (R507, R508) -/

/-- A window's lock as a request stamped now sees it: the lease ends at the tick instant of frame LEASE_END + 1, and a
request stamped at that instant still sees it held (R508). -/
def State.lockNow (s : State) (win : Nat) : Lock :=
  let l := s.lock win
  let past := l.leaseEnd + 1 < s.frames.frn || (s.frames.frn = l.leaseEnd + 1 && s.frames.tick < s.now)
  if l.held && past then { l with held := false } else l

def State.putLock (s : State) (l : Lock) : State :=
  { s with pool := { s.pool with locks := l :: s.pool.locks.filter (·.win != l.win) } }

/-- The guard check of a request's lock token (R508). -/
def State.lockOk (s : State) (win : Nat) (b : List Byte) (tok : Nat) : Bool :=
  !expGuard b || ((s.lockNow win).held && (s.lockNow win).token = tok)

/-! ### Inbound requests -/

/-- The port that brought a message runs QL3. -/
def State.overQl3 (s : State) (port : Nat) : Bool := s.bitOf (qlStatReg port) 2

/-- A right of the remote sharer whose ID is INIT: bit 17 READ, 18 WRITE, 19 ATOMIC (R485, R493). -/
def remoteRight (b : List Byte) (init i : Nat) : Bool :=
  match remoteSharer b init with | some w => bit w i | none => false

/-- Highest master token seen of an initiator (R499). -/
def State.topToken (s : State) (init : Nat) : Nat := (s.pool.tokens.lookup init).getD 0

def State.seeToken (s : State) (init token : Nat) : State :=
  { s with pool := { s.pool with
      tokens := (init, max token (s.topToken init)) :: s.pool.tokens.filter (·.1 != init) } }

/-- A window as a device range. -/
def windowPlace (b : List Byte) : Place :=
  { base := expBase b, size := expSize b, versioned := expKind b = 0, mirrored := expMirror b, recreate := false }

/-- A byte of a window that no stack in service holds. -/
def State.windowLost (s : State) (b : List Byte) (a n : Nat) : Bool :=
  (List.range n).any fun i => (s.serve (expMirror b) (a + i)).isNone

/-! ### Remote scopes (R498, R499) -/

/-- The page map OWNER of a page a remote scope stages: no ASN of this package (log entry 43). -/
def scopeOwner (num : Nat) : Nat := 2 ^ 63 + num

def State.scope? (s : State) (win init asn : Nat) : Option Scope :=
  s.pool.scopes.find? fun x => x.win = win && x.init = init && x.asn = asn

def State.putScope (s : State) (x : Scope) : State :=
  { s with pool := { s.pool with scopes := x :: s.pool.scopes.filter (·.num != x.num) } }

/-- A scope's staging is discarded. -/
def State.discard (s : State) (x : Scope) : State := s.settlePages (scopeOwner x.num) false x.pages

/-- A scope is discarded and freed. -/
def State.freeScope (s : State) (x : Scope) : State :=
  let s := s.discard x
  { s with pool := { s.pool with scopes := s.pool.scopes.filter (·.num != x.num) } }

/-- A new scope at the lowest free place of the table; none while 1,024 are open. -/
def State.newScope (s : State) (win init asn attempt : Nat) : Option Scope :=
  ((List.range 1024).find? fun n => !s.pool.scopes.any (·.num = n)).map fun n =>
    { num := n, win := win, init := init, asn := asn, attempt := attempt, state := .receiving, count := 0, refused := 0,
      pages := [], deltas := [], frn := 0, sub := 0, since := 0, lockTok := [] }

/-- The scope a staged write belongs to: a higher attempt discards what a lower one staged (R498). -/
def State.scopeFor (s : State) (win init asn attempt : Nat) : State × Option Scope :=
  match s.scope? win init asn with
  | none => (s, s.newScope win init asn attempt)
  | some x =>
    if x.attempt < attempt then
      (s.discard x, some { x with attempt := attempt, state := .receiving, count := 0, refused := 0, pages := [],
                                  deltas := [], lockTok := [] })
    else (s, some x)

/-- A refusal is remembered by the scope it falls in (R499). -/
def State.refuseScope (s : State) (win init asn status : Nat) : State :=
  match s.scope? win init asn with
  | some x => s.putScope { x with refused := if x.refused = 0 then status else x.refused }
  | none => s

/-- The refusals SWR and SACC share, in the order of R498's table: `right` is the sharer bit needed and `conflict` what
the pages say. -/
def State.stagedRefusal (s : State) (win : Nat) (b : List Byte) (init asn attempt token lock right : Nat)
    (range conflict : Bool) : Nat :=
  let closed : Bool := match s.scope? win init asn with
    | some x => x.attempt = attempt && x.state != .receiving
    | none => false
  if range then stRANGE
  else if !remoteRight b init right then stRIGHTS
  else if conflict then stCONFLICT
  else if !s.lockOk win b lock then stFENCED
  else if (s.scope? win init asn).isNone && 1024 ≤ s.pool.scopes.length then stFULL
  else if closed then stCLOSED
  else if token < s.topToken init then stSTALE
  else stOK

/-- An attempt lower than the highest seen for the scope (R498). -/
def State.oldAttempt (s : State) (win init asn attempt : Nat) : Bool :=
  match s.scope? win init asn with | some x => attempt < x.attempt | none => false

/-- Stage one page's part of a SWR (R79, R498); none where a stack that holds it has failed. -/
def State.stagePart (s : State) (num : Nat) (p : Place) (off : Nat) (bs : List Byte) : Option State :=
  let page := (p.base + off) / 65536
  let e := s.pageEntry page
  let forked := if e.stg then some s else s.forkPage (scopeOwner num) p page (bs.length = 65536)
  forked.bind fun s => s.writeRange p.mirrored (p.base + off + (if e.cur then 0 else p.size)) bs

/-- Pages of a window that a byte range covers. -/
def pagesOf (p : Place) (off n : Nat) : List Nat :=
  (List.range ((p.base + off + n - 1) / 65536 - (p.base + off) / 65536 + 1)).map fun i => (p.base + off) / 65536 + i

/-- Stage a SWR's data page by page. -/
def State.stageAll (s : State) (num : Nat) (p : Place) : Nat → Nat → List Byte → Option State
  | 0, _, _ => some s
  | fuel + 1, off, bs =>
    if bs.isEmpty then some s
    else
      let here := 65536 - (p.base + off) % 65536
      (s.stagePart num p off (bs.take here)).bind fun s => s.stageAll num p fuel (off + here) (bs.drop here)

/-- Note a message a scope accepted. -/
def Scope.took (x : Scope) (lock : Nat) (pages : List Nat) (ds : List (Nat × Nat × Nat)) : Scope :=
  { x with count := x.count + 1, pages := (x.pages ++ pages).eraseDups, deltas := x.deltas ++ ds,
           lockTok := if x.lockTok.contains lock then x.lockTok else lock :: x.lockTok }

/-- A scope's vote at PREP (R499, R508): every listed message received, none refused, and on a guarded window the lock
held with the token every write carried. -/
def State.scopeVote (s : State) (x : Scope) (count : Nat) : ScopeState × Nat :=
  let guardOk := match s.window x.win with
    | some b => x.lockTok.all (s.lockOk x.win b) && (!expGuard b || (s.lockNow x.win).held)
    | none => false
  if x.state = .votedYes then (.votedYes, stOK)
  else if x.state = .votedNo || x.refused ≠ 0 then (.votedNo, x.refused)
  else if !guardOk then (.votedNo, stFENCED)
  else if x.count ≠ count then (.votedNo, stOK)
  else (.votedYes, stOK)

/-- PREP for one ASN of its list: the state after it, whether it is a YES, and the status of a refusal. -/
def State.prepOne (s : State) (win init frn sub : Nat) (x : Nat × Nat) : State × Bool × Nat :=
  match s.scope? win init x.1 with
  | none => (s, x.2 = 0, if x.2 = 0 then stOK else stSTALE)
  | some sc =>
    let v := s.scopeVote sc x.2
    (s.putScope { sc with state := v.1, frn := frn, sub := sub, since := s.frames.frn }, v.1 = .votedYes, v.2)

/-- A scope's application begins: recorded in the retained state (R499). -/
def State.beginCommit (s : State) (x : Scope) : State := s.putScope { x with state := .committing }

/-- A scope in COMMITTING is applied and freed (R499, R500, R504). -/
def State.finishCommit (s : State) (x : Scope) (port : Nat) : State :=
  let s := (s.settlePages (scopeOwner x.num) true x.pages).applyDeltas x.win x.deltas
  let rest := s.pool.applied.filter fun a => !(a.1 = x.win && a.2.1 = x.init)
  { s with pool := { s.pool with
      scopes := s.pool.scopes.filter (·.num != x.num), applied := (x.win, x.init, port, x.frn) :: rest } }

/-! ### The initiator's side (R496, R497) -/

/-- A target counts as having voted NO for an operation (R496). -/
def State.targetNo (s : State) (asn tgt : Nat) : State :=
  s.onOp asn fun o => { o with remoteNo := if o.remoteNo.contains tgt then o.remoteNo else tgt :: o.remoteNo }

/-- REMOTE_LATE (R89, R501): the import entry of the target and its window number. -/
def State.remoteLate (s : State) (epid rwin frn : Nat) : State :=
  let entry := ((List.range 256).find? fun w => match s.import w with
    | some b => fld b 2 2 = epid && fld b 4 4 = rwin
    | none => false).getD 0
  s.event { code := 0x20, kind := 10, index := entry, detail := rwin, frn := frn }

end Sys2Proof.Machine
end

