-- ==== Sys2Proof/Machine/Pool.lean ====
section
/-! DEFINITION. The commands of the pool (chapter 15): inbound requests to this package's windows, answers to its own
remote transfers, votes and decisions of remote scopes, immediate atomics and locks. -/

namespace Sys2Proof.Machine

/-! ### Reads and writes (R493, R495, R498, R502, R503) -/

/-- RD (R493, R495): the committed copy of a window range goes back in one RDR. -/
def execRd (t port init win off len : Nat) (s : State) : Out :=
  let s := s.stamped t
  let reply (s : State) (st : Nat) (bs : List Byte) : State := s.say (.ql port 0x02 [init, win, off, st] bs)
  .next (match s.window win with
    | none => reply s stRANGE []
    | some b =>
      let p := windowPlace b
      if len = 0 || 512 < len || len % 64 ≠ 0 || expSize b < off + len then reply s stRANGE []
      else if !remoteRight b init 17 then reply s stRIGHTS []
      else
        let phys (i : Nat) : Nat :=
          let a := p.base + off + i
          a + (if p.versioned && (s.pageEntry (a / 65536)).cur then p.size else 0)
        let bytes := (List.range len).map fun i => (s.serve p.mirrored (phys i)).map s.devByte
        if bytes.any (·.isNone) then
          let x := s.freeRefusal
          reply x.1 x.2 []
        else reply s stOK (bytes.map fun x => x.getD 0))

/-- RDR (R493): data of a remote read of a stream engine. -/
def execRdr (t core eng xfer status : Nat) (data : List Byte) (s : State) : Out :=
  .next ((s.stamped t).remoteData core eng xfer status data)

/-- WR (R493): a write to a SCRATCH window applies at once. -/
def execWr (t port init win off lock : Nat) (data : List Byte) (s : State) : Out :=
  let s := s.stamped t
  let reply (s : State) (st : Nat) : State := s.say (.ql port 0x06 [init, win, st] [])
  .next (match s.window win with
    | none => reply s stRANGE
    | some b =>
      if expKind b ≠ 1 then reply s stKIND
      else if expSize b < off + data.length then reply s stRANGE
      else if !remoteRight b init 18 then reply s stRIGHTS
      else if !s.lockOk win b lock then reply s stFENCED
      else match s.writeRange (expMirror b) (expBase b + off) data with
        | some s => reply s stOK
        | none => let x := s.freeRefusal; reply x.1 x.2)

/-- SWR (R498): a staged write to a TRANSACTIONAL window. Its master token counts as seen whatever its answer (R499). -/
def execSwr (t port init win off frn asn attempt token lock : Nat) (data : List Byte) (s : State) : Out :=
  let s := (s.stamped t).seeToken init token
  let reply (s : State) (st : Nat) : State := s.say (.ql port 0x06 [init, win, asn, frn, st] [])
  .next (match s.window win with
    | none => reply s stRANGE
    | some b =>
      if !s.overQl3 port || expKind b ≠ 0 then reply s stKIND
      else if s.oldAttempt win init asn attempt then s
      else
        let p := windowPlace b
        let own := match s.scope? win init asn with | some x => scopeOwner x.num | none => 0
        let pages := pagesOf p off data.length
        let conflict := pages.any fun g => (s.pageEntry g).stg && (s.pageEntry g).owner != own
        let st := s.stagedRefusal win b init asn attempt token lock 18
          (data.isEmpty || expSize b < off + data.length) conflict
        if st ≠ stOK then reply (s.refuseScope win init asn st) st
        else match s.scopeFor win init asn attempt with
          | (s, none) => reply s stFULL
          | (s, some x) =>
            match s.stageAll x.num p (data.length / 65536 + 2) off data with
            | some s => reply (s.putScope (x.took lock pages [])) stOK
            | none =>
              let r := (s.putScope x).freeRefusal
              reply (r.1.refuseScope win init asn r.2) r.2)

/-- SACC (R502, R503): records become deltas of the scope. -/
def execSacc (t port init win asn attempt token lock : Nat) (data : List Byte) (s : State) : Out :=
  let s := (s.stamped t).seeToken init token
  let reply (s : State) (st : Nat) : State := s.say (.ql port 0x06 [init, win, asn, st] [])
  .next (match s.window win with
    | none => reply s stRANGE
    | some b =>
      if !s.overQl3 port || expKind b ≠ 2 then reply s stKIND
      else if s.oldAttempt win init asn attempt then s
      else
        let st := s.stagedRefusal win b init asn attempt token lock 19 false false
        if st ≠ stOK then reply (s.refuseScope win init asn st) st
        else match s.scopeFor win init asn attempt with
          | (s, none) => reply s stFULL
          | (s, some x) =>
            let st := saccStatus (expSize b) (s.stageRoom win b) data
            if st ≠ stOK then reply ((s.putScope x).refuseScope win init asn st) st
            else reply (s.putScope (x.took lock [] (deltasOf data))) stOK)

/-! ### Answers at the initiator (R496) -/

/-- A transfer's remote region, with the operation it belongs to. -/
def State.xferRegion (s : State) (core eng : Nat) (x : Xfer) : Option (OpRec × Region) :=
  let k := s.core core
  let asn := (k.engine eng).asn
  match k.segOf asn, s.op? asn with
  | some g, some o => (g.ctx.slot x.slot).2.map fun r => (o, r)
  | _, _ => none

/-- A transfer retires as failed: its target counts as NO (R496). -/
def State.failXfer (s : State) (core eng id : Nat) (o : OpRec) (r : Region) : State :=
  (s.onCore core fun k => k.onXfer eng id fun x => { x with acks := 0, failed := true }).targetNo o.ctx.asn (s.targetOf o r)

/-- ACK (R496): one message answered. Engine numbers above 5 name the output channel, whose messages count on the
operation. -/
def execAck (t core eng xfer asn status : Nat) (s : State) : Out :=
  let s := s.stamped t
  .next (if 6 ≤ eng then
      match s.op? asn with
      | some o =>
        let s := s.onOp asn fun o => { o with acks := o.acks - 1 }
        if status = 0 then s else o.targets.zipIdx.foldl (fun acc x => if o.sent.any (·.1 = x.2) then acc.targetNo asn x.2 else acc) s
      | none => s
    else match (s.core core).xfer? eng xfer with
      | none => s
      | some x =>
        if x.kind != .remote || x.acks = 0 then s
        else match s.xferRegion core eng x with
          | none => s
          | some (o, r) =>
            if status = 0 && t ≤ x.at_ + s.ackNs r then
              s.onCore core fun k => k.onXfer eng xfer fun y => { y with acks := y.acks - 1 }
            else s.failXfer core eng xfer o r)

/-- ACK_DEADLINE (R496, R48). -/
def execAckDeadline (t core eng xfer asn : Nat) (s : State) : Out :=
  let s := s.stamped t
  .next (match (s.core core).xfer? eng xfer with
    | none => s
    | some x =>
      if x.kind != .remote || x.acks = 0 || (s.core core |>.engine eng).asn ≠ asn then s
      else match s.xferRegion core eng x with
        | none => s
        | some (o, r) => if x.at_ + s.ackNs r + 32 ≤ t then s.failXfer core eng xfer o r else s)

/-! ### Votes (R497, R499) -/

/-- PREP_SEND (R497): at the guard's opening + 0.4 us, or for a sub-tick once an URGENT operation votes. -/
def execPrepSend (t sub : Nat) (s : State) : Out :=
  let s := s.stamped t
  let scope := s.scopeAt sub
  let send (acc : State) (g : RTarget) : State :=
    let p := acc.qlNow g.port
    let idx (o : OpRec) : Nat := o.targets.findIdx (· = g)
    let list := scope.filterMap fun o => (o.sent.lookup (idx o)).map fun n => [o.ctx.asn, n]
    if acc.overQl3 p && acc.fieldOf (qlStatReg p) 0 2 = 2 then
      acc.say (.ql p 0x10 ([acc.initId, g.rwin, acc.frames.frn, sub, acc.cm.token] ++ list.flatten) [])
    else acc
  .next (if !s.frames.ticking || (sub = 0 && t < s.guardAt + 400) then s else (targetsOf scope).foldl send s)

/-- PREP (R499): each ASN listed is voted on; one VOTE answers for the window. On a port that runs QL2 it is refused with
KIND (R493). -/
def execPrep (t port init win frn sub token : Nat) (list : List (Nat × Nat)) (s : State) : Out :=
  let s := s.stamped t
  .next (if token < s.topToken init then s
    else if !s.overQl3 port then s.say (.ql port 0x11 [init, win, frn, sub, 0, stKIND] [])
    else
      let step (a : State × Bool × Nat) (x : Nat × Nat) : State × Bool × Nat :=
        let r := a.1.prepOne win init frn sub x
        (r.1, a.2.1 && r.2.1, if a.2.2 = 0 then r.2.2 else a.2.2)
      let r := list.foldl step (s.seeToken init token, true, 0)
      let s := r.1
      let rest := s.pool.yes.filter (· != (win, init, frn, sub))
      let s := { s with pool := { s.pool with yes := if r.2.1 then (win, init, frn, sub) :: rest else rest } }
      s.say (.ql port 0x11 [init, win, frn, sub, (if r.2.1 then 1 else 0), r.2.2] []))

/-- VOTE (R85, R496, R497): a target's vote on this package's operations, in time at the decision point's deadline. -/
def execVote (t epid rwin frn sub : Nat) (yes : Bool) (s : State) : Out :=
  let s := s.stamped t
  let due := if sub = 0 then s.voteAt else s.subAt sub
  let note (acc : State) (o : OpRec) : State :=
    let hits := o.targets.zipIdx.filter fun x => x.1.epid = epid && x.1.rwin = rwin && o.sent.any (·.1 = x.2)
    acc.onOp o.ctx.asn fun o => { o with votes := o.votes ++ hits.map fun x => (x.2, yes) }
  .next (if frn ≠ s.frames.frn || due < t then s else (s.scopeAt sub).foldl note s)

/-- COMMIT (R499): scopes of the decision point are applied but for those listed as aborted; CACK answers. On a port that
runs QL2 it is refused, and CACK has no status to say so (R493, log entry 134). -/
def execCommit (t port init win frn sub token : Nat) (aborted : List Nat) (s : State) : Out :=
  let s := s.stamped t
  .next (if token < s.topToken init || !s.overQl3 port then s
    else
      let s := s.seeToken init token
      let mine := s.pool.scopes.filter fun x => x.win = win && x.init = init
      let dead := mine.filter fun x => aborted.contains x.asn && x.state != .committing
      let due := mine.filter fun x => x.frn = frn && x.sub = sub && x.state = .votedYes && !aborted.contains x.asn
      let s := dead.foldl State.freeScope s
      let s := due.foldl State.beginCommit s
      let s := due.foldl (fun acc x => acc.finishCommit x port) s
      let voted := s.pool.yes.contains (win, init, frn, sub)
      let s := { s with pool := { s.pool with yes := s.pool.yes.filter (· != (win, init, frn, sub)) } }
      if due.isEmpty && dead.isEmpty then
        let s := s.say (.ql port 0x14 [init, win, frn, sub, 1] [])
        if voted then s.sendLate win else s
      else s.say (.ql port 0x14 [init, win, frn, sub, 0] []))

/-- ABORT (R499): the listed scopes are freed; refused on a port that runs QL2 (R493). -/
def execAbort (t port init win frn sub token : Nat) (asns : List Nat) (s : State) : Out :=
  let s := s.stamped t
  .next (if token < s.topToken init || !s.overQl3 port then s
    else
      let s := s.seeToken init token
      let dead := s.pool.scopes.filter fun x =>
        x.win = win && x.init = init && asns.contains x.asn && x.state != .committing
      let s := dead.foldl State.freeScope s
      { s with pool := { s.pool with yes := s.pool.yes.filter (· != (win, init, frn, sub)) } })

/-- CACK (R89, R501): a target has settled a decision; STALE raises REMOTE_LATE. -/
def execCack (t epid rwin frn sub : Nat) (appliedOk : Bool) (s : State) : Out :=
  let s := s.stamped t
  let mark (x : RTarget × Bool) : RTarget × Bool := if x.1.epid = epid && x.1.rwin = rwin then (x.1, true) else x
  let s := match s.dec? frn sub with
    | some d => s.putDec { d with remote := d.remote.map mark }
    | none => s
  .next (if appliedOk then s else s.remoteLate epid rwin frn)

/-- QL_FENCE (R499): raises the highest token of its initiator and is answered with FACK; refused on a port that runs QL2
(R493). -/
def execQlFence (t port init token : Nat) (s : State) : Out :=
  let s := s.stamped t
  .next (if s.overQl3 port then (s.seeToken init token).say (.ql port 0x15 [init, token] []) else s)

/-- LATE (R501). -/
def execLate (t epid rwin frn : Nat) (s : State) : Out := .next ((s.stamped t).remoteLate epid rwin frn)

/-- POOL_HOLD_EXPIRED (R499): a scope held PL_CTL.HOLD frames after its YES without a decision. -/
def execPoolHoldExpired (t win init asn : Nat) (s : State) : Out :=
  let s := s.stamped t
  .next (match s.scope? win init asn with
    | some x =>
      if x.state = .votedYes && x.since + s.fieldOf { name := .plCtl } 0 16 ≤ s.frames.frn then
        (s.freeScope x).event { code := 0x21, kind := 10, index := win, detail := init, detail2 := asn }
      else s
    | none => s)

/-! ### Immediate atomics and locks (R505-R508, 15.9) -/

/-- Who asks for an atomic or a lock: INIT over a Quinulait port, or a function's mailbox. -/
inductive Asker where
  | remote (port init : Nat)
  | mailbox (page : Nat)

/-- The sharer's ATOMIC right. -/
def Asker.may (a : Asker) (b : List Byte) : Bool :=
  match a with
  | .remote _ init => remoteRight b init 19
  | .mailbox pg => match localSharer b (pagePort pg) (pageFunc pg) with | some w => bit w 19 | none => false

/-- OWNER of a lock: a sharer ID and its LOCAL bit (R485, R507). -/
def Asker.owner : Asker → Nat
  | .remote _ init => init
  | .mailbox pg => pageFunc pg + pagePort pg * 2 ^ 6 + 2 ^ 16

/-- An atomic's word size and new value from the old one (R505); none for a reserved operation. -/
def atomic (op a b : Nat) : Option (Nat × (Nat → Nat)) :=
  match op with
  | 1 => some (8, fun w => if w = a % 2 ^ 64 then b % 2 ^ 64 else w)
  | 2 => some (8, fun _ => a % 2 ^ 64)
  | 3 => some (8, fun w => (w + a) % 2 ^ 64)
  | 4 => some (4, fun w => (w + a) % 2 ^ 32)
  | _ => none

/-- Apply an atomic to a word of a SCRATCH window: the status and the old value (R505). -/
def State.atomicOp (s : State) (who : Asker) (op win off a b lock : Nat) : State × Nat × Nat :=
  match s.window win, atomic op a b with
  | none, _ => (s, stRANGE, 0)
  | some _, none => (s, stKIND, 0)
  | some w, some f =>
    let guardOk := match who with | .remote _ _ => s.lockOk win w lock | .mailbox _ => true
    if expKind w ≠ 1 then (s, stKIND, 0)
    else if off % f.1 ≠ 0 || expSize w < off + f.1 then (s, stRANGE, 0)
    else if !who.may w then (s, stRIGHTS, 0)
    else if !guardOk then (s, stFENCED, 0)
    else
      let addr := expBase w + off
      if s.windowLost w addr f.1 then
        let x := s.freeRefusal
        (x.1, x.2, 0)
      else
        let old := leNat ((s.readRange (expMirror w) false addr f.1).getD [])
        ((s.writeRange (expMirror w) addr (leBytes f.1 (f.2 old))).getD s, stOK, old)

/-- LACQ, LREN and LREL (R507): status and the lock after it. A frame count outside 1 to 65,535 is refused with a status
the manual does not state (log entry 42). -/
def State.lockOp (s : State) (who : Asker) (op win token n : Nat) : State × Nat × Lock :=
  let l := s.lockNow win
  let fNow := s.frames.frn
  match s.window win with
  | none => (s, stRANGE, l)
  | some w =>
    if !who.may w then (s, stRIGHTS, l)
    else if op ≠ 3 && (n = 0 || 65535 < n) then
      let x := s.freeRefusal
      (x.1, x.2, l)
    else
      let put (l : Lock) : State × Nat × Lock := (s.putLock l, stOK, l)
      if op = 1 then
        if l.held then (s, stBUSY, l)
        else put { l with held := true, owner := who.owner, token := (l.token + 1) % 2 ^ 48, leaseEnd := fNow + n - 1 }
      else if !(l.held && token = l.token) then (s, stSTALE, l)
      else if op = 2 then put { l with leaseEnd := max l.leaseEnd (fNow + n - 1) }
      else put { l with held := false }

/-- Answer a mailbox: RES and STATUS (15.9). -/
def State.mailboxDone (s : State) (pg status res : Nat) : State :=
  (s.setPair .amRes pg 0 res).setField { name := .amCmd, dev := pg } 16 8 status

/-- A write of PL_AM_CMD with GO whose OP is `op` (15.9): the page, window and operands A and B it names. -/
def State.mailboxGo (s : State) (op : Nat) (via : Nat × Option Nat × Nat × BitVec 4 × Word) :
    State × Option (Nat × Nat × Nat × Nat × Nat) :=
  let v := via.2.2.2.2.toNat
  match s.wrFront via.1 via.2.1 via.2.2.1 via.2.2.2.1 with
  | (s, none) => (s, none)
  | (s, some r) =>
    if r.name ≠ .amCmd || !bit v 12 || bitf (judge r.fields (s.readReg r) v).1 0 4 ≠ op then (s, none)
    else
      let s := s.applyWrite via.1 via.2.1 via.2.2.1 r (putBits v 12 1 0)
      let pg := r.dev
      (s, some (pg, s.fieldOf r 4 8, s.pairOf .amOff pg, s.pairOf .amA pg, s.pairOf .amB pg))

/-- An immediate atomic, from a Quinulait port or a mailbox. -/
def State.atomicCmd (s : State) (op : Nat) (via : Option (Nat × Option Nat × Nat × BitVec 4 × Word))
    (port init win off a b lock : Nat) : State :=
  match via with
  | some w =>
    match s.mailboxGo op w with
    | (s, none) => s
    | (s, some x) =>
      let r := s.atomicOp (.mailbox x.1) op x.2.1 x.2.2.1 x.2.2.2.1 x.2.2.2.2 0
      r.1.mailboxDone x.1 r.2.1 r.2.2
  | none =>
    let r := s.atomicOp (.remote port init) op win off a b lock
    r.1.say (.ql port 0x08 [init, win, r.2.1, r.2.2] [])

/-- A lock request, from a Quinulait port or a mailbox, whose A holds the token and B the frame count (15.9). The
mailbox result is the lock's TOKEN (log entry 44). -/
def State.lockCmd (s : State) (op : Nat) (via : Option (Nat × Option Nat × Nat × BitVec 4 × Word))
    (port init win token n : Nat) : State :=
  match via with
  | some w =>
    match s.mailboxGo (op + 8) w with
    | (s, none) => s
    | (s, some x) =>
      let r := s.lockOp (.mailbox x.1) op x.2.1 (x.2.2.2.1 % 2 ^ 48) x.2.2.2.2
      r.1.mailboxDone x.1 r.2.1 r.2.2.token
  | none =>
    let r := s.lockOp (.remote port init) op win token n
    r.1.say (.ql port 0x0A [init, win, r.2.1, r.2.2.token, r.2.2.leaseEnd, r.2.2.owner] [])

/-- CAS64 (R505). `via` gives the write of PL_AM_CMD where a function's mailbox asks. -/
def execCas64 (t : Nat) (via : Option (Nat × Option Nat × Nat × BitVec 4 × Word)) (port init win off a b lock : Nat)
    (s : State) : Out :=
  .next ((s.stamped t).atomicCmd 1 via port init win off a b lock)

/-- SWAP64 (R505). -/
def execSwap64 (t : Nat) (via : Option (Nat × Option Nat × Nat × BitVec 4 × Word)) (port init win off a lock : Nat)
    (s : State) : Out :=
  .next ((s.stamped t).atomicCmd 2 via port init win off a 0 lock)

/-- ADD64 (R505). -/
def execAdd64 (t : Nat) (via : Option (Nat × Option Nat × Nat × BitVec 4 × Word)) (port init win off a lock : Nat)
    (s : State) : Out :=
  .next ((s.stamped t).atomicCmd 3 via port init win off a 0 lock)

/-- ADD32 (R505). -/
def execAdd32 (t : Nat) (via : Option (Nat × Option Nat × Nat × BitVec 4 × Word)) (port init win off a lock : Nat)
    (s : State) : Out :=
  .next ((s.stamped t).atomicCmd 4 via port init win off a 0 lock)

/-- LACQ (R507). -/
def execLacq (t : Nat) (via : Option (Nat × Option Nat × Nat × BitVec 4 × Word)) (port init win n : Nat) (s : State) :
    Out :=
  .next ((s.stamped t).lockCmd 1 via port init win 0 n)

/-- LREN (R507). -/
def execLren (t : Nat) (via : Option (Nat × Option Nat × Nat × BitVec 4 × Word)) (port init win token n : Nat)
    (s : State) : Out :=
  .next ((s.stamped t).lockCmd 2 via port init win token n)

/-- LREL (R507). -/
def execLrel (t : Nat) (via : Option (Nat × Option Nat × Nat × BitVec 4 × Word)) (port init win token : Nat)
    (s : State) : Out :=
  .next ((s.stamped t).lockCmd 3 via port init win token 1)

/-- LOCK_LEASE_EXPIRY (R508, R48): acted on 32 ns after the tick instant. -/
def execLockLeaseExpiry (t win : Nat) (s : State) : Out :=
  let s := s.stamped t
  let l := s.lock win
  .next (if l.held && (l.leaseEnd + 1 < s.frames.frn || (s.frames.frn = l.leaseEnd + 1 && s.frames.tick + 32 ≤ t)) then
      s.putLock { l with held := false }
    else s)

end Sys2Proof.Machine
end

