-- ==== Sys2Proof/Machine/Registers.lean ====
section
/-! DEFINITION. The commands of the register map (chapter 20) and of ring, completion ring and flag set-up (5.12). -/

namespace Sys2Proof.Machine

/-- What a change of a port's watching brings: a switch to snooping reads every line once, a switch to polling holds
none (R114); the poll stretch and the mode mismatch are judged again (R113, R130). -/
def State.rewatch (old new : State) (p : Nat) : State :=
  let s := if !old.snoops p && new.snoops p then new.readLines p
    else if old.snoops p && !new.snoops p then
      new.onPort p fun h => { h with lines := h.lines.map fun l => { l with held := false } }
    else new
  s.stretch p

/-- REGISTER_WRITE (R640). -/
def execRegisterWrite (t port : Nat) (vf : Option Nat) (off : Nat) (be : BitVec 4) (v : Word) (s : State) : Out :=
  let s := s.arrive t
  let s' := (s.writeReg port vf off be v.toNat).mpCheck
  .next (s.rewatch (s.rewatch s' 0) 1)

/-- WS_FIELD_WRITE (R647). -/
def execWsFieldWrite (t port off : Nat) (be : BitVec 4) (v : Word) (s : State) : Out :=
  .next ((s.stamped t).writeWs port off be v.toNat)

/-- COMMIT_ARM (R9, R646). -/
def execCommitArm (t port off : Nat) (be : BitVec 4) (v : Word) (s : State) : Out :=
  .next ((s.stamped t).arm t port off be v.toNat)

/-- LO_READ_LATCH (R65, R641); a read of the HI half answers the latched value once one is held. -/
def execLoReadLatch (t port : Nat) (vf : Option Nat) (off : Nat) (s : State) : Out :=
  .next ((s.stamped t).readLatch port vf off)

/-- RC_READ (R642). -/
def execRcRead (t port : Nat) (vf : Option Nat) (off : Nat) (s : State) : Out :=
  let s := s.stamped t
  .next (match s.target port vf off with
    | none => s.readLatch port vf off
    | some r => (s.readLatch port vf off).clearRc r)

/-! ### Rings and completion rings (R144, R145, R182) -/

/-- A refused write. -/
def State.busy (s : State) (r : Reg) (port : Nat) (vf : Option Nat) (off : Nat) : State :=
  s.cfgErr r.page errBUSY (errOffset r vf off) port

/-- A ring starts: its line is read once, and its word counts as changed if it differs from CONSUMED (R144). -/
def State.startRing (s : State) (pg n : Nat) : State :=
  let r := s.ring pg n
  let s := s.putRing { r with produce := r.fetched, lastDb := none, pending := false, missed := 0,
                              recover := r.recover && !s.boot.done }
  if s.watches pg n then s.readLine (s.watchPort pg n) (s.dbWord pg n) else s

/-- A ring stops: nothing more is fetched, and lines that no ring needs are no longer watched. -/
def State.stopRing (s : State) (pg n : Nat) : State :=
  let r := s.ring pg n
  let p := s.watchPort pg n
  (s.putRing { r with produce := r.fetched, pending := false }).pruneLines p

/-- Another field than ENABLE differs from its held value (R640). -/
def State.othersDiffer (s : State) (r : Reg) (v : Nat) : Bool :=
  r.fields.any fun f => f.lo ≠ 31 && (f.lo ≠ 7 || s.multipath) && bitf v f.lo f.len != bitf (s.readReg r) f.lo f.len

/-- RING_ENABLE (R144, R182, R640). -/
def execRingEnable (t port : Nat) (vf : Option Nat) (off : Nat) (be : BitVec 4) (v : Word) (s : State) : Out :=
  .next (match (s.arrive t).wrFront port vf off be with
    | (s, none) => s
    | (s, some r) =>
      if r.name ≠ .sqCfg || !bit v.toNat 31 || s.bitOf r 31 then s
      else if !s.cqEnabled r.dev (bitf v.toNat 8 6) then s.busy r port vf off
      else
        let s := s.applyWrite port vf off r v.toNat
        if s.bitOf r 31 then ((s.startRing r.dev r.n).stretch 0).stretch 1 else s)

/-- RING_DISABLE (R182, R640). -/
def execRingDisable (t port : Nat) (vf : Option Nat) (off : Nat) (be : BitVec 4) (v : Word) (s : State) : Out :=
  .next (match (s.arrive t).wrFront port vf off be with
    | (s, none) => s
    | (s, some r) =>
      if r.name ≠ .sqCfg || bit v.toNat 31 || !s.bitOf r 31 then s
      else
        let s' := (s.setBit r 31 false).stopRing r.dev r.n
        let s' := (s'.stretch 0).stretch 1
        if s.othersDiffer r v.toNat then s'.busy r port vf off else s')

/-- CQ_ENABLE (R145): records start with PHASE 1. -/
def execCqEnable (t port : Nat) (vf : Option Nat) (off : Nat) (be : BitVec 4) (v : Word) (s : State) : Out :=
  .next (match (s.arrive t).wrFront port vf off be with
    | (s, none) => s
    | (s, some r) =>
      if r.name ≠ .cqCfg || !bit v.toNat 31 || s.bitOf r 31 then s
      else
        let s := s.applyWrite port vf off r v.toNat
        if s.bitOf r 31 then s.putCring { page := r.dev, n := r.n, tail := 0, head := 0, pend := [] } else s)

/-- CQ_DISABLE (R182): refused while an enabled or active submission ring names it. -/
def execCqDisable (t port : Nat) (vf : Option Nat) (off : Nat) (be : BitVec 4) (v : Word) (s : State) : Out :=
  .next (match (s.arrive t).wrFront port vf off be with
    | (s, none) => s
    | (s, some r) =>
      if r.name ≠ .cqCfg || bit v.toNat 31 || !s.bitOf r 31 then s
      else if (List.range 64).any fun n => s.sqActive r.dev n && s.cqOf r.dev n = r.n then s.busy r port vf off
      else
        let s' := s.setBit r 31 false
        if s.othersDiffer r v.toNat then s'.busy r port vf off else s')

/-! ### Flags (R164, R169) -/

/-- The flag RG_FLAG_SEL selects. -/
def State.flagSel (s : State) (pg : Nat) : Nat := s.fieldOf { name := .rgFlagSel, dev := pg } 0 10

/-- FLAG_CFG_WRITE (R164). -/
def execFlagCfgWrite (t port : Nat) (vf : Option Nat) (off : Nat) (be : BitVec 4) (v : Word) (s : State) : Out :=
  .next (match (s.stamped t).wrFront port vf off be with
    | (s, none) => s
    | (s, some r) =>
      if r.name ≠ .rgFlagCfg then s
      else
        let i := s.flagSel r.dev
        s.setFlag r.dev i { s.flag r.dev i with level := bitf v.toNat 0 8, valid := bit v.toNat 8 })

/-- FLAG_VAL_WRITE (R169). -/
def execFlagValWrite (t port : Nat) (vf : Option Nat) (off : Nat) (be : BitVec 4) (v : Word) (s : State) : Out :=
  .next (match (s.stamped t).wrFront port vf off be with
    | (s, none) => s
    | (s, some r) =>
      if r.name ≠ .rgFlagVal then s
      else
        let i := s.flagSel r.dev
        let f := s.flag r.dev i
        if f.valid then s.busy r port vf off
        else s.setFlag r.dev i { f with
          value := if r.hi then f.value % 2 ^ 32 + bitf v.toNat 0 16 * 2 ^ 32
                   else f.value / 2 ^ 32 * 2 ^ 32 + v.toNat })

end Sys2Proof.Machine
end

