-- ==== Sys2Proof/Machine/HostOps.lean ====
section
/-! DEFINITION. Shared operations of the host ports (chapter 4): link state, what a change of a function's service
brings, held MSI-X messages, and where a host access to HBM lands. -/

namespace Sys2Proof.Machine

def hlLstat (p : Nat) : Reg := { name := .hlLstat, dev := p }
def hlCtl (p : Nat) : Reg := { name := .hlCtl, dev := p }

/-! ### Links (R101-R103) -/

/-- A trained mode (R101): rate and width as HL_LSTAT codes them, protocol 0 PCIe, 1 CXL 2.0, 2 CXL 3.1. -/
def linkMode (rate width proto : Nat) (flit : Bool) : Bool :=
  (width = 1 || width = 2) &&
    (match proto with
      | 0 => rate = 4 || rate = 5 || (rate = 6 && flit)
      | 1 => rate = 5 && !flit
      | 2 => (rate = 5 || rate = 6) && flit
      | _ => false)

/-- A link goes down; a further failure while it is down is a failed retraining (R103). -/
def State.downLink (s : State) (p : Nat) : State :=
  if !(s.port p).up then s.onPort p fun h => { h with fails := h.fails + 1 }
  else
    let s := s.setField (hlLstat p) 0 3 0
    s.onPort p fun h => { h with
      up := false, downAt := some s.now, steady := none, fails := 0,
      lines := h.lines.map fun l => { l with held := false, reading := false } }

/-- A port is lost by R103: down for longer than 1 ms, or three failed retrainings in a row. -/
def State.portDue (s : State) (p : Nat) (t : Stamp) : Bool :=
  !(s.port p).up && (3 ≤ (s.port p).fails || (match (s.port p).downAt with
    | some a => a + 1000000 + 32 ≤ t
    | none => false))

/-! ### Service of functions (R109, R114, R125, R126) -/

/-- Lines no ring needs are let go; rings newly watched have their line read once. -/
def State.rewatchRings (old new : State) : State :=
  let s := (new.pruneLines 0).pruneLines 1
  let s := s.enabledRings.foldl (fun acc x =>
    if acc.watches x.1 x.2 && !old.watches x.1 x.2 then acc.readLine (acc.watchPort x.1 x.2) (acc.dbWord x.1 x.2)
    else acc) s
  (s.stretch 0).stretch 1

/-- Send a function's held messages that may go now (R125). -/
def State.sendHeld (s : State) (p f : Nat) : State :=
  let x := s.func p f
  let open_ (v : Nat) : Bool :=
    bit x.pend v && !s.bitOf { name := .msix, dev := 64 * p + f, n := 4 * v + 3 } 0
  if !x.msixEn || x.fmask || !x.bme || x.d3 then s
  else ((List.range 32).filter open_).foldl (fun acc v =>
    (acc.onFunc p f fun y => { y with pend := putBits y.pend v 1 0 }).say (.msix p f v)) s

/-- A configuration request before configuration space is ready is answered with retry status (R586). -/
def State.cfgGate (s : State) (p f : Nat) (k : State) : State :=
  if p < 2 && (s.port p).cfgReady then (if s.funcOn p f then k else s) else s.say (.cfg p true)

/-- The configuration space of functions returns to its power-on values; a wedged function stays wedged (R134, R138). -/
def Func.unconfigured (x : Func) : Func := { Func.reset with wedged := x.wedged, errs := x.errs }

/-- Virtual functions end (R126): their configuration is gone and their rings are no longer enabled. -/
def State.endVfs (s : State) (p : Nat) : State :=
  let s := s.onPort p fun h => { h with
    vfEn := false, funcs := h.funcs.zipIdx.map fun x => if x.2 = 0 then x.1 else x.1.unconfigured }
  s.enabledRings.foldl (fun acc x =>
    if pageFunc x.1 ≠ 0 && (acc.multipath || pagePort x.1 = p) then
      (acc.setBit { name := .sqCfg, dev := x.1, n := x.2 } 31 false).stopRing x.1 x.2
    else acc) s

/-! ### Host access to HBM (R119-R122, R124, R433, R527) -/

/-- Where a host access to a device address lands: its physical address, and whether it is mirrored or recreated. The
regions are entries of enabled functions' tables that cover the access. -/
def State.hostMap (s : State) (regions : List Region) (a : Nat) : Nat × Bool × Bool :=
  let framed (versioned : Bool) (size : Nat) : Nat :=
    a + (if versioned && (s.pageEntry (a / 65536)).cur then size else 0)
  let inR (r : Region) : Bool :=
    (r.kind = .versioned || r.kind = .append || r.kind = .scratch) && r.base ≤ a && a < r.base + r.size
  if s.sysBase ≤ a && a < s.sysBase + 0x8000000 then (a, true, false)
  else match regions.find? inR with
    | some r => (framed (r.kind = .versioned) r.size, r.mirror, r.recreate)
    | none =>
      match (List.range 256).findSome? fun w =>
        (s.window w).bind fun b => if expBase b ≤ a && a < expBase b + expSize b then some b else none with
      | some b => (framed (expKind b = 0) (expSize b), expMirror b, false)
      | none => (a, false, false)

/-- One byte a host reads; none where its granule is lost. -/
def State.hostByte (s : State) (regions : List Region) (a : Nat) : Option Byte :=
  let m := s.hostMap regions a
  if m.2.2 then some (s.devByte m.1) else (s.serve m.2.1 m.1).map s.devByte

/-- One byte a host writes, to every copy in service; none where its granule is lost. -/
def State.hostPut (s : State) (regions : List Region) (a : Nat) (b : Byte) : Option State :=
  let m := s.hostMap regions a
  s.writeRange m.2.1 m.1 [b]

/-- FT_HAE and HOST_ACCESS_ERR (R124, R527): bit and detail are one apart. -/
def State.accessErr (s : State) (p detail addr : Nat) : State :=
  (s.setBit { name := .ftHae, dev := p } (detail - 1) true).event
    { code := 0x32, kind := 5, index := p, detail := detail, detail2 := addr }

/-- Status of a host read's completion: 0 successful, 1 Unsupported Request, 2 poisoned. -/
def cplOk : Nat := 0
def cplUr : Nat := 1
def cplPoison : Nat := 2

/-- Hold a line for the host in the filter of 1,048,576 lines (R121). -/
def State.track (s : State) (p line : Nat) : State :=
  let ls := (s.port p).tracked
  if ls.contains line then s
  else if ls.length < 1048576 then s.onPort p fun h => { h with tracked := line :: h.tracked }
  else
    (s.say (.bisnp p (ls.getLastD 0))).onPort p fun h => { h with tracked := line :: h.tracked.dropLast }

/-- A page staged in the scope of a decision not yet applied, from its back-invalidation on (R122). -/
def State.pageHeld (s : State) (page : Nat) : Bool :=
  s.ops.list.any fun o =>
    o.pages.contains page && o.stage != .resolved
      && (o.voted || (s.frames.guard && (s.scopeAt 0).any (·.ctx.asn = o.ctx.asn)))

def State.rangeHeld (s : State) (a n : Nat) : Bool :=
  (List.range ((a + n - 1) / 65536 - a / 65536 + 1)).any fun i => s.pageHeld (a / 65536 + i)

/-- Answer a host read from the committed copies. -/
def State.hostRead (s : State) (p : Nat) (x : HeldRead) (regions : List Region) : State :=
  let bytes := (List.range x.len).map fun i => s.hostByte regions (x.addr + i)
  if bytes.any (·.isNone) then (s.accessErr p 3 x.addr).say (.completion p x.id cplPoison [])
  else
    let s := if x.cxl then (List.range (cdiv (x.addr % 64 + x.len) 64)).foldl (fun acc i =>
        acc.track p (x.addr / 64 * 64 + 64 * i)) s else s
    s.say (.completion p x.id cplOk (bytes.map fun b => b.getD 0))

/-- Base of the HDM decoder or the BAR window. -/
def State.hostBase (s : State) (p : Nat) (cxl : Bool) : Nat := s.pairOf (if cxl then .hlHdmBase else .hlWinBase) p

/-- The HDM decoder answers: a CXL 3.1 link, HDM_EN, and CXL.mem enabled by the host (R119). -/
def State.hdmOn (s : State) (p : Nat) : Bool :=
  s.fieldOf (hlLstat p) 6 2 = 2 && s.bitOf (hlCtl p) 4 && s.bitOf (hlLstat p) 9

end Sys2Proof.Machine
end

