-- ==== Sys2Proof/Machine/BootOps.lean ====
section
/-! DEFINITION. Shared operations of start-up (chapter 19): images and slots, the start of a boot, stokers, start-up
tests, and the power-on state. -/

namespace Sys2Proof.Machine

/-! ### Images (R604-R606) -/

/-- Bytes of a slot by offset and length. -/
abbrev SlotRd := Nat → Nat → List Byte

def flashBase (slot : Nat) : Nat := 0x800000 * slot
def FdBoot.flashRd (f : FdBoot) (slot : Nat) : SlotRd := fun a n => f.flash.readBytes (flashBase slot + a) n
def FdBoot.storeRd (f : FdBoot) : SlotRd := fun a n => (f.store.drop a).take n
def FdBoot.rcvRd (f : FdBoot) : SlotRd := fun a n => f.rcvBuf.readBytes a n

/-- Largest body of a kind (R604). -/
def imageMax : Nat → Nat
  | 1 => 4096
  | 2 => 524288
  | 4 => 393216
  | 3 | 5 => 131072
  | _ => 0

/-- LENGTH of the image at an offset. -/
def imageLen (rd : SlotRd) (off : Nat) : Nat := fld (rd off 256) 0x10 4

/-- Offset of the image of a kind: each starts at the next 4 KiB boundary after the one before (R604). -/
def imageOff (rd : SlotRd) : Nat → Nat
  | 0 | 1 => 0
  | k + 1 => cdiv (imageOff rd k + 256 + imageLen rd (imageOff rd k)) 4096 * 4096

/-- A whole image, header and body. -/
def imageBytes (rd : SlotRd) (kind : Nat) : List Byte := rd (imageOff rd kind) (256 + imageLen rd (imageOff rd kind))

/-- The key that signs an image: KMAN's own root key, or the key manifest's entry that KEYID names, where its mask allows
the kind (R606). -/
def imageKey (rd : SlotRd) (kind keyid : Nat) : Option (List Byte) :=
  let man := rd 256 (min (imageLen rd 0) 4096)
  if kind = 1 then
    let key := man.take 96
    if keyid = 0xFFFFFFFF ∧ Config.sha384 key = Config.rootHash then some key else none
  else
    let entry := (man.drop (100 + 104 * keyid)).take 104
    if keyid < fld man 96 4 ∧ keyid < 8 ∧ bit (fld entry 96 4) kind then some (entry.take 96) else none

/-- An image is valid (R606). -/
def imageOk (rd : SlotRd) (fuse kind : Nat) : Bool :=
  let off := imageOff rd kind
  let h := rd off 256
  let len := fld h 0x10 4
  fld h 0 4 = 0x49514C46 && fld h 4 1 = kind && fld h 5 1 = 1 && zeroBytes h 6 2 && zeroBytes h 0x48 56
    && zeroBytes h 0xE0 32 && len ≤ imageMax kind && fuse ≤ fld h 0x0C 4 && fld h 0x0C 4 ≤ 64
    && (h.drop 0x18).take 48 = Config.sha384 (rd (off + 256) len)
    && (match imageKey rd kind (fld h 0x14 4) with
      | some k => Config.ecdsaVerify k (Config.sha384 (h.take 0x80)) ((h.drop 0x80).take 48) ((h.drop 0xB0).take 48)
      | none => false)

/-- VERSION in an image's header. -/
def imageVersion (rd : SlotRd) (kind : Nat) : Nat := fld (rd (imageOff rd kind) 256) 0x08 4

def kinds : List Nat := [1, 2, 3, 4, 5]

/-- A slot is valid: five valid images of one VERSION (R606). -/
def slotOk (rd : SlotRd) (fuse : Nat) : Bool :=
  kinds.all fun k => imageOk rd fuse k && imageVersion rd k = imageVersion rd 1

/-- SVN of a slot: the lowest of its images' (log entry 47). -/
def slotSvn (rd : SlotRd) : Nat := kinds.foldl (fun m k => min m (fld (rd (imageOff rd k) 256) 0x0C 4)) 64

/-- Bytes of a slot up to the end of its last image. -/
def slotBytes (rd : SlotRd) : List Byte := rd 0 (imageOff rd 5 + 256 + imageLen rd (imageOff rd 5))

/-! ### Boot of one fabric die (R607-R612) -/

def rBootStat (fd : Nat) : Reg := { name := .scBootStat, dev := fd }

def State.fd (s : State) (fd : Nat) : FdBoot := s.boot.fds.getD fd FdBoot.reset

def State.onFd (s : State) (fd : Nat) (f : FdBoot → FdBoot) : State :=
  { s with boot := { s.boot with fds := s.boot.fds.modify fd f } }

/-- The slot tried first: the higher VERSION in its STK header, slot A on a tie (R607). -/
def FdBoot.firstSlot (f : FdBoot) : Nat :=
  if imageVersion (f.flashRd 0) 2 < imageVersion (f.flashRd 1) 2 then 1 else 0

/-- Recovery boot: the port presents SC_RCV_CTL and SC_RCV_BUF (R612). -/
def State.recoveryBoot (s : State) (fd : Nat) : State :=
  ((s.onFd fd fun f => { f with recovery := true, reading := false, stoker := false, rcvBuf := Mem.empty }).setBit
    (rBootStat fd) 2 true).onPort fd fun h => { h with cfgReady := true }

/-- A fabric die's boot ROM starts: recovery boot by strap, else the first slot (R607, R612). -/
def State.bootFd (s : State) (fd : Nat) : State :=
  let s := s.setField (rBootStat fd) 8 7 (s.fd fd).fuseSvn
  if s.pwr.straps.getD 1 false then s.recoveryBoot fd
  else s.onFd fd fun f => { f with reading := true, second := false, slot := f.firstSlot, stoker := false, recovery := false }

/-- The stoker of a fabric die runs; configuration space is prepared (R610, R613). -/
def State.startStoker (s : State) (fd : Nat) : State :=
  (s.onFd fd fun f => { f with stoker := true, reading := false, recovery := false }).onPort fd fun h =>
    { h with cfgReady := true }

/-- A slot verified: it fills the image store (R607). -/
def State.fillStore (s : State) (fd : Nat) (rd : SlotRd) : State :=
  (s.onFd fd fun f => { f with store := slotBytes rd }).startStoker fd

/-- The master at start-up: the strap's fabric die, unless only the other one runs (R598, R609). -/
def State.chooseMaster (s : State) : State :=
  let m := if s.pwr.straps.getD 0 false then 1 else 0
  let ok (f : Nat) : Bool := (s.fd f).stoker && s.fdAlive f
  let m := if !ok m && ok (1 - m) then 1 - m else m
  { s with cm := { s.cm with master := m, standby := ok 0 && ok 1 } }

/-- A fabric die fails its start-up test: R515 gives it no reason, so DETAIL is a free value (log entry 60). -/
def State.failFdStart (s : State) (f : Nat) : State :=
  (s.declareFd f ((Config.freeValue s.free).toNat % 2 ^ 32)).takeFree

/-- Parts a start-up test names (R614): 0-8 compute dies, 9-17 stacks, 18-19 fabric dies, 20-21 host ports, 32-47 Quinulait
ports; a link that does not train is handled under R457 by its own command. -/
def State.failPart (s : State) (i : Nat) : State :=
  if i < 9 then s.declareDie i 2
  else if i < 18 then s.declareStack (i - 9) 1
  else if i < 20 then s.failFdStart (i - 18)
  else if i < 22 then s.losePort (i - 20) true
  else if 32 ≤ i && i < 48 then s.loseQl (i - 32) true
  else s

/-- CM_RECOVER of both fabric dies. -/
def State.recoverBits (s : State) (i : Nat) (b : Bool) : State :=
  (s.setBit { name := .cmRecover, dev := 0 } i b).setBit { name := .cmRecover, dev := 1 } i b

/-! ### Power-on (R585, R603, R613) -/

/-- A session number the stoker chooses (R555). -/
def State.newSession (s : State) : State :=
  ({ s with boot := { s.boot with session := (Config.freeValue s.free).toNat % 2 ^ 32 } }).takeFree

/-- GX_PWR_STAT shows the inputs that are connected (R582). -/
def State.showInputs (s : State) : State :=
  (s.setBit rPwrStat 0 (s.pwr.vin.getD 0 false)).setBit rPwrStat 1 (s.pwr.vin.getD 1 false)

/-- Everything but the meter, flash, fuses, power entry and what has already left is as after power-on: the retention
domain is cleared, PTB counts from 0, HBM content is gone (R588, R603, R613). -/
def State.fresh (s : State) : State :=
  let keep (f : FdBoot) : FdBoot := { FdBoot.reset with fuseSvn := f.fuseSvn, flash := f.flash }
  { State.reset with md := s.md, out := s.out, ports := s.ports.map fun h => { HostPort.reset with perst := h.perst }, pending := s.pending, free := s.free,
                     pwr := { s.pwr with hotDies := [], waits := [] },
                     boot := { Boot.reset with fds := s.boot.fds.map keep } }

/-- Straps are sampled and both boot ROMs start (R585, R598, R613). -/
def State.bootPackage (s : State) (msel recov test : Bool) : State :=
  let s := s.fresh
  let s := { s with pwr := { s.pwr with straps := [msel, recov, test], pwrOk := true, inReset := false } }
  let s := ((s.showInputs.newSession).bootFd 0).bootFd 1
  s.chooseMaster.thermPin

/-! ### Measurements (R629) -/

/-- Boot state, 16 bytes. -/
def State.bootState (s : State) (p : Nat) : List Byte :=
  let straps := (List.range 3).foldl (fun v i => v + (if s.pwr.straps.getD i false then 2 ^ i else 0)) 0
  leBytes 1 (s.fd p).fuseSvn ++ leBytes 4 (s.reg (rBootStat p)) ++ leBytes 1 straps ++ leBytes 4 s.boot.dieCfg
    ++ leBytes 1 (s.fieldOf (hlCtl p) 0 2) ++ List.replicate 5 0

/-- A measurement block's content. -/
def State.measure (s : State) (p i : Nat) : List Byte :=
  if i = 1 then Config.bootRomDigest
  else if 2 ≤ i && i ≤ 6 then Config.sha384 (imageBytes (s.fd p).storeRd (i - 1))
  else if i = 7 then s.bootState p
  else if s.boot.ident.isEmpty then List.replicate 52 0 else s.boot.ident

end Sys2Proof.Machine
end

