-- ==== Sys2Proof/Machine/Boot.lean ====
section
/-! DEFINITION. The commands of start-up firmware, fuses and boot flash (chapter 19). -/

namespace Sys2Proof.Machine

/-! ### Slots (R607-R609, R614) -/

/-- A slot that does not verify: the other one is tried from its start, then recovery boot (R607). -/
def State.nextSlot (s : State) (fd : Nat) : State :=
  if (s.fd fd).second then s.recoveryBoot fd
  else s.onFd fd fun f => { f with slot := 1 - f.slot, second := true }

/-- SC_BOOT_STAT.SLOT and FALLBACK of the slot just verified. -/
def State.noteSlot (s : State) (fd : Nat) : State :=
  let f := s.fd fd
  (s.setBit (rBootStat fd) 0 (f.slot = 1)).setBit (rBootStat fd) 1 f.second

/-- SLOT_VERIFIED (R607, R614): a fabric die has read and judged the slot it is reading. `dead` names the parts that fail
the start-up tests, which run at power-on and cold reset only. -/
def execSlotVerified (t fd slot : Nat) (dead : List Nat) (s : State) : Out :=
  let s := s.arrive t
  let f := s.fd fd
  .next (if 2 ≤ fd || s.pwr.inReset || !f.reading || f.slot ≠ slot then s
    else if slotOk (f.flashRd slot) f.fuseSvn then
      let s := (s.noteSlot fd).fillStore fd (f.flashRd slot)
      if s.boot.resetAt.isNone then dead.foldl State.failPart s else s
    else s.nextSlot fd)

/-- The five HASH fields and the VERSION of a store. -/
def storeId (f : FdBoot) : List (List Byte) × Nat :=
  (kinds.map fun k => (f.storeRd (imageOff f.storeRd k + 0x18) 48), imageVersion f.storeRd 1)

/-- A fabric die takes its partner's image store, where it verifies against its own fuses (R608). -/
def State.adopt (s : State) (fd : Nat) : State :=
  let other := s.fd (1 - fd)
  (s.fillStore fd other.storeRd).setBit (rBootStat fd) 3 true

/-- IMAGE_COMPARE (R608, R612, R614): the standby adopts the master's image store where they differ, or is declared
failed; a fabric die in recovery boot adopts a running partner's. -/
def execImageCompare (t : Nat) (s : State) : Out :=
  let s := s.arrive t
  let m := s.chooseMaster.cm.master
  let b := 1 - m
  .next (if s.pwr.inReset || s.boot.ready || !(s.fd m).stoker || !s.fdAlive b then s
    else if (s.fd b).stoker then
      if storeId (s.fd m) = storeId (s.fd b) then s
      else if slotOk (s.fd m).storeRd (s.fd b).fuseSvn then s.adopt b
      else s.failFdStart b
    else if (s.fd b).recovery && !s.bitOf (rBootStat m) 2 && slotOk (s.fd m).storeRd (s.fd b).fuseSvn then s.adopt b
    else s)

/-! ### Recovery and SVN (R611, R612) -/

/-- BAR0 offsets of SC_RCV_CTL, SC_SVN_COMMIT and SC_FLASH_CTL (R648). -/
def offRcvCtl : Nat := 0x408080
def offSvnCommit : Nat := 0x408008
def offFlashCtl : Nat := 0x40800C

/-- RECOVERY_GO (R612): the slot in SC_RCV_BUF boots, or BAD is set. -/
def execRecoveryGo (t port : Nat) (v : Word) (s : State) : Out :=
  .next (match (s.arrive t).wrFront port none offRcvCtl 15#4 with
    | (s, none) => s
    | (s, some r) =>
      if r.name ≠ .scRcvCtl || !bit v.toNat 0 then s
      else
        let f := s.fd r.dev
        if slotOk f.rcvRd f.fuseSvn then (s.setBit r 2 false).fillStore r.dev f.rcvRd
        else s.setBit r 2 true)

/-- SVN_COMMIT (R611): the fuse SVN rises to the running slot's. -/
def execSvnCommit (t port : Nat) (be : BitVec 4) (v : Word) (s : State) : Out :=
  .next (match (s.arrive t).wrFront port none offSvnCommit be with
    | (s, none) => s
    | (s, some r) =>
      if r.name ≠ .scSvnCommit then s
      else
        let s := s.applyWrite port none offSvnCommit r v.toNat
        let f := s.fd r.dev
        let svn := slotSvn f.storeRd
        if bitf v.toNat 0 16 ≠ 0x5C1A || !f.stoker || svn ≤ f.fuseSvn then s
        else
          let s := s.onFd r.dev fun f => { f with fuseSvn := svn }
          (s.setField (rBootStat r.dev) 8 7 svn).setBit r 16 true)

/-! ### Boot flash (R617, 19.7) -/

def rFlashCtl (fd : Nat) : Reg := { name := .scFlashCtl, dev := fd }

/-- A write of SC_FLASH_CTL with GO and this OP: the operation starts on the slot that did not boot of the die FD names. -/
def State.flashGo (s : State) (port : Nat) (be : BitVec 4) (v op : Nat) : State :=
  match s.wrFront port none offFlashCtl be with
  | (s, none) => s
  | (s, some r) =>
    if r.name ≠ .scFlashCtl || !bit v 3 || bitf (judge r.fields (s.readReg r) v).1 0 2 ≠ op then s
    else if s.bitOf r 4 then s.cfgErr none errBUSY offFlashCtl port
    else
      let s := s.applyWrite port none offFlashCtl r (putBits v 3 1 0)
      let target := s.fieldOf r 2 1
      let slot := 1 - s.fieldOf (rBootStat target) 0 1
      (s.setBit r 4 true).onFd r.dev fun f => { f with flashOp := some (op + 4 * target + 8 * slot) }

/-- FLASH_ERASE (R617, 19.7). -/
def execFlashErase (t port : Nat) (be : BitVec 4) (v : Word) (s : State) : Out :=
  .next ((s.arrive t).flashGo port be v.toNat 1)

/-- FLASH_PROGRAM (R617, 19.7). -/
def execFlashProgram (t port : Nat) (be : BitVec 4) (v : Word) (s : State) : Out :=
  .next ((s.arrive t).flashGo port be v.toNat 2)

/-- FLASH_CHECK (R617, 19.7). -/
def execFlashCheck (t port : Nat) (be : BitVec 4) (v : Word) (s : State) : Out :=
  .next ((s.arrive t).flashGo port be v.toNat 3)

/-- What a flash operation does; an erased slot's content is a free value (log entry 7). -/
def State.flashAct (s : State) (fd op target slot : Nat) : State :=
  match op with
  | 1 => (s.onFd target fun f => { f with flash := f.flash.forget (flashBase slot) 0x800000 s.free }).takeFree
  | 2 =>
    let off := s.reg { name := .scFlashOff, dev := fd }
    let page := (s.fd fd).flashBuf.readBytes 0 4096
    s.onFd target fun f => { f with flash := f.flash.writeBytes (flashBase slot + off) page }
  | _ => s.setBit (rFlashCtl fd) 6 !(slotOk ((s.fd target).flashRd slot) (s.fd target).fuseSvn)

/-- FLASH_DONE (R617, 19.7): the operation of this block's SC_FLASH_CTL completes. -/
def execFlashDone (t fd : Nat) (s : State) : Out :=
  let s := s.arrive t
  .next (match (s.fd fd).flashOp with
    | none => s
    | some x =>
      let s := s.flashAct fd (x % 4) (x / 4 % 2) (x / 8)
      let s := s.onFd fd fun f => { f with flashOp := none }
      (s.setBit (rFlashCtl fd) 4 false).setBit (rFlashCtl fd) 5 true)

end Sys2Proof.Machine
end

