-- ==== Sys2Proof/Machine/FabricOps.lean ====
section
/-! DEFINITION. Routes of the on-package fabric (14.1, 14.2) and the failure of links. Dies are numbered 0-8 for CD0-CD8,
9 for FD0 and 10 for FD1. -/

namespace Sys2Proof.Machine

/-! ### Links and routes (R18, R457-R459) -/

/-- The die-to-die links that carry traffic (R17, R18), lower-numbered die first. -/
def links : List (Nat × Nat) :=
  [(0, 1), (1, 2), (3, 4), (4, 5), (6, 7), (7, 8), (0, 3), (3, 6), (1, 4), (4, 7), (2, 5), (5, 8),
   (0, 9), (3, 9), (6, 9), (2, 10), (5, 10), (8, 10)]

/-- A link by its two ends, in either order. -/
def linkOf (a b : Nat) : Nat × Nat := (min a b, max a b)

def linksOf (d : Nat) : List (Nat × Nat) := links.filter fun l => l.1 = d || l.2 = d

/-- The numbers from a to b, both included, upwards or downwards. -/
def walk (a b : Nat) : List Nat :=
  if a ≤ b then (List.range (b - a + 1)).map (a + ·) else (List.range (a - b + 1)).map (a - ·)

/-- Dies of X moves along a row, and of Y moves along a column. -/
def xMoves (row c1 c2 : Nat) : List Nat := (walk c1 c2).map (3 * row + ·)
def yMoves (col r1 r2 : Nat) : List Nat := (walk r1 r2).map (3 * · + col)

/-- Column a fabric die stands beside. -/
def fdCol (f : Nat) : Nat := if f = 9 then 0 else 2

/-- Routes of one piece: X moves, then Y moves (R459). -/
def onePiece (a b : Nat) : List (List Nat) :=
  if a = b then [[a]]
  else if a < 9 && b < 9 then [xMoves (a / 3) (a % 3) (b % 3) ++ (yMoves (b % 3) (a / 3) (b / 3)).drop 1]
  else if a < 9 then [xMoves (a / 3) (a % 3) (fdCol b) ++ [b]]
  else if b < 9 then
    [0, 1, 2].map fun r => a :: (xMoves r (fdCol a) (b % 3) ++ (yMoves (b % 3) r (b / 3)).drop 1)
  else [0, 1, 2].map fun r => a :: (xMoves r (fdCol a) (fdCol b) ++ [b])

/-- Routes of two pieces, through a compute die. -/
def twoPieces (a b : Nat) : List (List Nat) :=
  (List.range 9).flatMap fun m =>
    if m = a || m = b then [] else (onePiece a m).flatMap fun p => (onePiece m b).map fun q => p ++ q.drop 1

/-- A die that no route may use: declared failed and not only retired (R539). -/
def State.routerDead (s : State) (d : Nat) : Bool :=
  if d < 9 then s.dieDead d && !s.flt.retired.contains d else !s.fdAlive (d - 9)

/-- A route avoids every failed die and failed link. -/
def State.routeOk (s : State) (p : List Nat) : Bool :=
  (p.all fun d => !s.routerDead d) && (p.zip (p.drop 1)).all fun x => !s.fab.deadLinks.contains (linkOf x.1 x.2)

/-- The better of two routes: fewer hops, then the lower-numbered first die. -/
def betterRoute (p q : List Nat) : List Nat :=
  if q.length < p.length || (q.length = p.length && q.getD 1 0 < p.getD 1 0) then q else p

def bestRoute (ps : List (List Nat)) : Option (List Nat) := ps.foldl (fun a p => some (match a with
  | some q => betterRoute q p
  | none => p)) none

/-- The route of a message, fewest pieces first (R459); none where no allowed route exists. -/
def State.route? (s : State) (a b : Nat) : Option (List Nat) :=
  match bestRoute ((onePiece a b).filter s.routeOk) with
  | some p => some p
  | none => bestRoute ((twoPieces a b).filter s.routeOk)

def State.route (s : State) (a b : Nat) : List Nat := (s.route? a b).getD []

/-- Every live endpoint reaches every other. -/
def State.allReach (s : State) : Bool :=
  let live := (List.range 11).filter fun d => !s.routerDead d
  live.all fun a => live.all fun b => (s.route? a b).isSome

/-! ### Failed links (R457, R516, R530) -/

/-- The compute die a failed link counts for: the one at its end, the higher-numbered of two. -/
def linkDie (l : Nat × Nat) : Nat := if l.2 < 9 then l.2 else l.1

/-- All links of a die have failed. -/
def State.cutOff (s : State) (d : Nat) : Bool := (linksOf d).all fun l => s.fab.deadLinks.contains l

/-- Count a link's failure for its die, unless that die has failed or one of its links was counted before (R457). -/
def State.countLink (s : State) (l : Nat × Nat) : State :=
  let d := linkDie l
  if s.routerDead l.1 || s.routerDead l.2 || s.flt.linkDies.contains d || s.dieDead d then s
  else { s with flt := { s.flt with linkDies := d :: s.flt.linkDies } }.countFailure 2 d

/-- Links are declared failed at one instant: dies and a standby left without a link are declared failed, a die whose
router no longer reaches every endpoint too, and the other links count for their dies. -/
def State.failLinks (s : State) (ls : List (Nat × Nat)) : State :=
  let new := (ls.filter fun l => links.contains l && !s.fab.deadLinks.contains l).eraseDups
  if new.isEmpty then s
  else
    let s := { s with fab := { s.fab with
      deadLinks := s.fab.deadLinks ++ new, halfLinks := s.fab.halfLinks.filter fun l => !new.contains l,
      changed := true } }
    let s := (List.range 9).foldl (fun acc d => if acc.cutOff d then acc.declareOrWait 2 d 1 else acc) s
    let standby := 1 - s.cm.master
    let s := if s.fdAlive standby && s.cutOff (9 + standby) then s.declareOrWait 4 standby 3 else s
    let s := new.foldl State.countLink s
    new.foldl (fun acc l => if acc.allReach then acc else acc.declareOrWait 2 (linkDie l) 1) s

end Sys2Proof.Machine
end

