-- ==== Sys2Proof/Machine/L2.lean ====
section
/-! DEFINITION. The commands of memory and L2 (chapter 13): requests at a slice, fills, scrub, refresh and maintenance. -/

namespace Sys2Proof.Machine

/-! ### Requests (R433, R444-R450) -/

/-- The operation a request belongs to, where a core sends one. -/
def State.reqOp (s : State) (src asn : Nat) : Option OpRec := if src < 36 then s.op? asn else none

/-- The page of a versioned place that a frame A address lies in, as a place of one region (R431, R433). -/
def versionedPlace (addr size : Nat) (mirrored : Bool) : Place :=
  { base := addr / 65536 * 65536, size := size, versioned := true, mirrored := mirrored, recreate := false }

/-- The physical address a read reaches: the frame the page map chooses (R81, R120, R433); none while a forwarding read
waits. -/
def State.readAddr (s : State) (src addr asn : Nat) (size : Option Nat) : Option Nat :=
  match size with
  | none => some addr
  | some sz =>
    let e := s.pageEntry (addr / 65536)
    let frame : Option Bool := match s.reqOp src asn with
      | some o => s.readFrame o e
      | none => some e.cur
    frame.map fun b => addr + (if b then sz else 0)

/-- A source the isolation sideband masks (R480). -/
def State.maskedSrc (s : State) (src : Nat) : Bool := bit (s.pairOf .arIso) src

/-- A source's die or fabric die (R464). -/
def srcDie (src : Nat) : Nat :=
  if src < 36 then src / 4 else if src < 45 then src - 36 else if src % 2 = 0 then 9 else 10

/-- A source sends a request to a slice and keeps it until its response arrives (R464, R465). -/
def State.keep (s : State) (src slice id : Nat) : State :=
  let seq := s.fab.seqs.getD src 0
  let m : KeptMsg := { src := src, seq := seq, slice := slice, id := id, path := s.route (srcDie src) slice }
  { s with fab := { s.fab with kept := s.fab.kept ++ [m], seqs := s.fab.seqs.set src ((seq + 1) % 65536) } }

/-- A request arrives at its home slice under the slice's next identifier. -/
def State.present (s : State) (h : Nat) (r : L2Req) : State :=
  let id := (s.slice h).next
  let s := (s.keep r.src h id).onSlice h fun sl => { sl with next := id + 1 }
  s.l2Request h { r with id := id }

/-- Count memory errors in MC_ERRn: `lo` is the field's low bit (R450). -/
def State.memErr (s : State) (h lo n : Nat) : State :=
  let r : Reg := { name := .mcErr, n := h }
  s.setField r lo 8 (min 255 (s.fieldOf r lo 8 + n))

/-- A die withholds its vote for dirty data its slice lost (R450). -/
def State.voteHeld (s : State) (h : Nat) : State := (s.setBit { name := .mcErr, n := h } 24 true).withhold h

/-- A sector's data is discarded. -/
def State.dropSector (s : State) (h ln sec : Nat) : State :=
  let hit (l : L2Line) : L2Line := { l with valid := l.valid.set sec false, dirty := l.dirty.set sec false }
  s.onSlice h fun sl => { sl with
    lines := sl.lines.map fun l => if l.line = ln then hit l else l,
    order := sl.order.filter (· != 2 * ln + sec) }

/-- Errors met when a slice looks an address up (R450): 7 data corrected; 8 and 9 data uncorrectable, a clean sector's
line invalidated, a dirty sector discarded; 10 tag parity. -/
def State.l2Error (s : State) (h x err : Nat) : State :=
  let ln := x / 128
  let sec := x % 128 / 64
  if err = 7 then s.memErr h 0 1
  else if err = 8 || err = 9 then
    match (s.slice h).line? ln with
    | none => s
    | some l =>
      let s := s.memErr h 16 1
      if l.dirty.getD sec false then (s.dropSector h ln sec).voteHeld h
      else (s.cleanLine h l).dropLine h ln
  else if err = 10 then
    let dirty := !(s.slice h).order.isEmpty
    let s := (s.memErr h 16 1).dropLine h ln
    if dirty then s.voteHeld h else s
  else s

/-- Bytes of a request within its line. -/
def inLine (addr len : Nat) : Nat := min len (128 - addr % 128)

/-- L2_READ (R445, R433, R446): a read of device bytes within one line arrives at its home slice. `size` is the SIZE of
the versioned region or window whose frame A the address lies in. -/
def execL2Read (t src addr len cls err asn : Nat) (size : Option Nat) (mirrored : Bool) (s : State) : Out :=
  let s := s.stamped t
  .next (if s.maskedSrc src || devT ≤ addr then s
    else match s.readAddr src addr asn size with
      | none => s
      | some a =>
        let h := stackOf a
        let n := inLine a len
        if s.stackDead h then
          if mirrored then s.say (.l2Data h (s.slice h).next (s.devRead (s.mirror a) n)) else s
        else
          let x := localOf a
          (s.l2Error h x err).present h
            { id := 0, src := src, level := s.levelOf src cls, stamp := s.now, addr := x, len := n, data := none,
              thru := false })

/-- A write is written through (R447, R449). -/
def State.writeThrough (s : State) (h src addr cls : Nat) (mirrored : Bool) (sectors : List Nat) : Bool :=
  let sl := s.slice h
  let newly := sectors.any fun k => !sl.order.contains (localOf addr / 128 * 2 + k)
  mirrored || (s.sysBase ≤ addr && addr < s.sysBase + 0x8000000) || cls = 2 || src = 48 || src = 49 || s.frames.guard
    || (newly && s.budget ≤ sl.order.length)

/-- The physical address a write reaches, the page forked for its operation where it needs one (R79, R80, R433); none
while another operation owns the staged copy, or where the page cannot be forked. -/
def State.writeAddr (s : State) (src addr asn : Nat) (size : Option Nat) (mirrored : Bool) : Option (State × Nat) :=
  match size with
  | none => some (s, addr)
  | some sz =>
    let page := addr / 65536
    let e := s.pageEntry page
    let staged := addr + (if e.cur then 0 else sz)
    match s.reqOp src asn with
    | none => some (s, addr + (if e.cur then sz else 0))
    | some o =>
      if e.stg && e.owner != o.ctx.asn then none
      else
        let forked := if e.stg then some s else s.forkPage o.ctx.asn (versionedPlace addr sz mirrored) page false
        forked.map fun s => (noteStage o.ctx.asn page (stackOf staged) s, staged)

/-- L2_WRITE (R445-R447, R436): a write within one line arrives at its home slice; a mirrored one also reaches its mirror
copy, which no slice holds. -/
def execL2Write (t src addr cls asn : Nat) (data : List Byte) (size : Option Nat) (mirrored : Bool) (s : State) : Out :=
  let s := s.stamped t
  .next (if s.maskedSrc src || devT ≤ addr || data.isEmpty then s
    else match s.writeAddr src addr asn size mirrored with
      | none => s
      | some (s, a) =>
        let h := stackOf a
        let bs := data.take (inLine a data.length)
        let m := s.mirror a
        let s := if mirrored && !s.stackDead (stackOf m) then s.devWrite m bs else s
        if s.stackDead h then s
        else
          let r : L2Req := { id := 0, src := src, level := s.levelOf src cls, stamp := s.now, addr := localOf a,
                             len := bs.length, data := some bs, thru := false }
          (s.present h { r with thru := s.writeThrough h src a cls mirrored r.sectors }).idleClean h)

/-- L2_FILL_RETURN (R446, R450): the line read from the stack. `err` is 1 corrected, 2 served from the mirror (R437), 3
an operation's input lost, 4 a staged frame lost, 5 a host access poisoned, 6 served from a RECREATE source (R438), 11 a
command/address parity error; `asn` names the operation concerned. -/
def execL2FillReturn (t slice line err asn : Nat) (s : State) : Out :=
  let s := s.stamped t
  .next (if s.stackDead slice then s
    else match (s.slice slice).mshr? line with
      | none => s
      | some m =>
        let parity := s.mem.parity.getD slice 0
        if err = 11 then
          let s := { s with mem := { s.mem with parity := s.mem.parity.set slice (parity + 1) } }
          if 4 ≤ parity then s.declareOrWait 3 slice 2 else s.memErr slice 8 1
        else
          let s := { s with mem := { s.mem with parity := s.mem.parity.set slice 0 } }
          let base := deviceOf slice (128 * line)
          let core : Nat := (m.reqs.head?.map (·.src)).getD 36
          if err = 3 then
            let s := s.memErr slice 16 1
            let s := if core < 36 then s.onCore core fun k => k.endOp asn 0x13 0
                     else s.onOp asn fun o => { o with ended := some (0x13, 0) }
            s.l2Poison slice line
          else if err = 4 then
            ((s.memErr slice 16 1).onCore (if core < 36 then core else 4 * slice) (·.failCheck asn)).l2Poison slice line
          else if err = 5 then (s.memErr slice 16 1).l2Poison slice line
          else
            let data := if err = 2 then s.devRead (s.mirror base) 128 else s.devRead base 128
            let s := if err = 1 then s.memErr slice 8 1 else if err = 2 || err = 6 then s.memErr slice 16 1 else s
            let s := if err = 2 then s.devWrite base data else s
            s.l2Fill slice line data)

/-- PATROL_SCRUB (R441): errors a full pass over a stack found; single-bit ones are corrected and rewritten. -/
def execPatrolScrub (t stack corrected uncorrectable : Nat) (s : State) : Out :=
  let s := s.stamped t
  .next (if s.fieldOf { name := .mcScrub } 0 8 = 0 || s.stackDead stack || 9 ≤ stack then s
    else (s.memErr stack 8 corrected).memErr stack 16 uncorrectable)

/-- REFRESH (R440): per-bank refresh changes no content; the stack reports its temperature, which MC_HBMn shows. -/
def execRefresh (t stack bank temp : Nat) (s : State) : Out :=
  let s := s.stamped t
  .next (if 9 ≤ stack || 64 ≤ bank || s.stackDead stack then s
    else s.setField { name := .mcHbm, n := stack } 2 8 (min 255 temp))

/-! ### Maintenance (R451-R454) -/

/-- Handle one slice's part of a range of device lines; answers the lines that wait for a fill. -/
def State.maintSlice (s : State) (inv : Bool) (lo hi h : Nat) : State × List Nat :=
  let covered (ln : Nat) : Bool := lo ≤ deviceOf h (128 * ln) / 128 && deviceOf h (128 * ln) / 128 < hi
  let sl := s.slice h
  let waits := (sl.mshrs.filter fun m => covered m.line).map (·.line)
  let one (a : State) (l : L2Line) : State :=
    if covered l.line then
      let a := a.cleanLine h l
      if inv && !waits.contains l.line then a.dropLine h l.line else a
    else a
  let s := sl.lines.foldl one s
  let s := s.onSlice h fun x =>
    { x with mshrs := x.mshrs.map fun m => if covered m.line then { m with drop := true } else m }
  (s, waits.map fun ln => deviceOf h (128 * ln) / 128)

/-- The lines of an operation that still wait: their fills have not retired. -/
def State.maintLeft (s : State) (m : Maint) : List Nat :=
  m.left.filter fun ln =>
    match (s.slice (stackOf (128 * ln))).mshr? (localOf (128 * ln) / 128) with
    | some x => x.drop
    | none => false

def rMaintCtl (fd : Nat) : Reg := { name := .maintCtl, dev := fd }

/-- Offset of MC_MAINT_CTL in a fabric die's block (R648). -/
def offMaintCtl : Nat := 0x40400C

/-- GO (R451): the range is judged, then every line is handled at its slice. Lines absent everywhere are done at once. -/
def State.maintGo (s : State) (port : Nat) (be : BitVec 4) (v op : Nat) : State :=
  match s.wrFront port none offMaintCtl be with
  | (s, none) => s
  | (s, some r) =>
    let fd := r.dev
    let now := bitf (judge r.fields (s.readReg r) v).1 0 2
    if r.name ≠ .maintCtl || !bit v 2 || now ≠ op then s
    else
      let s := s.applyWrite port none offMaintCtl r (putBits v 2 1 0)
      let lo := s.pairOf .maintAddr fd / 128
      let len := s.reg { name := .maintLen, dev := fd }
      if devT ≤ (lo + len - 1) * 128 then s.cfgErr none errRSVD offMaintCtl port
      else
        let step (a : State × List Nat) (h : Nat) : State × List Nat :=
          let x := a.1.maintSlice (op = 2) lo (lo + len) h
          (x.1, a.2 ++ x.2)
        let x := (List.range 9).foldl step (s, [])
        let s := x.1.setBit r 3 true
        { s with mem := { s.mem with maint := s.mem.maint.set fd (some { inv := op = 2, left := x.2 }) } }

/-- MAINT_CLEAN (R451, R452). -/
def execMaintClean (t port : Nat) (be : BitVec 4) (v : Word) (s : State) : Out :=
  .next ((s.stamped t).maintGo port be v.toNat 1)

/-- MAINT_INV (R451, R452). -/
def execMaintInv (t port : Nat) (be : BitVec 4) (v : Word) (s : State) : Out :=
  .next ((s.stamped t).maintGo port be v.toNat 2)

/-- MAINT_DONE (R454): every slice has completed its lines. -/
def execMaintDone (t fd : Nat) (s : State) : Out :=
  let s := s.stamped t
  .next (match s.mem.maint.getD fd none with
    | some m =>
      if (s.maintLeft m).isEmpty then
        let s := { s with mem := { s.mem with maint := s.mem.maint.set fd none } }
        (s.setBit (rMaintCtl fd) 3 false).setBit (rMaintCtl fd) 4 true
      else s
    | none => s)

end Sys2Proof.Machine
end

