-- ==== Sys2Proof/Machine/Fabric.lean ====
section
/-! DEFINITION. The commands of the fabric and the Quinulait ports (chapter 14). -/

namespace Sys2Proof.Machine

/-! ### Links (R456, R457, R461, R466) -/

/-- UCIE_LINK_DOWN (R457): the links UCIe reports down at one instant. -/
def execUcieLinkDown (t : Nat) (links : List (Nat × Nat)) (s : State) : Out :=
  .next ((s.stamped t).failLinks (links.map fun l => linkOf l.1 l.2))

/-- LINK_WATCHDOG (R457, R48): the links whose watchdogs are evaluated at one instant, each as the watching die, the
other end, and the stamp of the last flit received. -/
def execLinkWatchdog (t : Nat) (links : List (Nat × Nat × Nat)) (s : State) : Out :=
  let late := links.filter fun l => l.2.2 + 1000 + 32 ≤ t
  .next ((s.stamped t).failLinks (late.map fun l => linkOf l.1 l.2.1))

/-- UCIE_MODULE_LOST (R456): the link runs on one module; it fails with its second one. -/
def execUcieModuleLost (t a b : Nat) (s : State) : Out :=
  let s := s.stamped t
  let l := linkOf a b
  .next (if !links.contains l || s.fab.deadLinks.contains l then s
    else if s.fab.halfLinks.contains l then s.failLinks [l]
    else { s with fab := { s.fab with halfLinks := l :: s.fab.halfLinks } }.event
      { code := 0x10, kind := 7, detail := l.1 + 256 * l.2 })

/-- The dies of a resident set's members (R466). -/
def State.setDies (s : State) (set : Nat) : List Nat :=
  (List.range 9).filter fun d => (dieCores d).any fun c => ((s.core c).shards.getD set Shard.none).member

/-- ROUTE_CHANGE (R461, R466): routes avoid what has failed; kept messages whose old route, or whose response's old
route, passed it are sent again in their order. An atomic lost on the way makes its source's die withhold its vote, a
ring line every die with a member of its set. -/
def execRouteChange (t : Nat) (atomics sets : List Nat) (s : State) : Out :=
  let s := s.stamped t
  .next (if !s.fab.changed then s
    else
      let again := s.fab.kept.filter fun m => !s.routeOk m.path
      let s := s.sayAll (again.map fun m => .resend m.src m.seq)
      let kept := s.fab.kept.map fun m =>
        if s.routeOk m.path then m else { m with path := s.route (srcDie m.src) m.slice }
      let s := { s with fab := { s.fab with changed := false, kept := kept } }
      let s := atomics.foldl (fun acc src => if srcDie src < 9 then acc.withhold (srcDie src) else acc) s
      sets.foldl (fun acc n => (acc.setDies n).foldl State.withhold acc) s)

/-- ISOLATION (R480): sources are masked; their queued accesses and the responses to them are discarded. -/
def execIsolation (t lo hi : Nat) (s : State) : Out :=
  let s := s.stamped t
  let mask := s.pairOf .arIso ||| (lo % 2 ^ 32 + hi % 2 ^ 32 * 2 ^ 32)
  let s := s.setPair .arIso 0 0 mask
  let quiet (sl : L2Slice) : L2Slice :=
    let mshrs := sl.mshrs.map fun m => { m with reqs := m.reqs.filter fun r => !bit mask r.src || r.data.isSome }
    { sl with waitq := sl.waitq.filter fun r => !bit mask r.src, mshrs := mshrs }
  .next { s with
    mem := { s.mem with slices := s.mem.slices.map quiet },
    fab := { s.fab with kept := s.fab.kept.filter fun m => !bit mask m.src } }

/-- AGE_LIMIT (R476, R48). -/
def execAgeLimit (t slice id : Nat) (s : State) : Out :=
  let s := s.stamped t
  let limit := s.fieldOf { name := .arAge } 0 10 * 100
  let raise (r : L2Req) : L2Req := if r.id = id && r.level < 2 && r.stamp + limit + 32 ≤ t then { r with level := 2 } else r
  .next (s.onSlice slice fun sl => { sl with waitq := sl.waitq.map raise })

/-! ### Quinulait ports (R467-R472) -/

/-- Apply a change to a Quinulait port. -/
def State.onQl (s : State) (p : Nat) (f : QlPort → QlPort) : State :=
  { s with fab := { s.fab with ports := s.fab.ports.modify p f } }

/-- QL_PORT_TRAINED (R468): `ql2` and `ql3` are the generations the other end advertises. Where none is shared the
training fails; the third failed retraining in a row loses the port (R471). -/
def execQlPortTrained (t port : Nat) (ql2 ql3 : Bool) (s : State) : Out :=
  let s := s.stamped t
  .next (if 16 ≤ port || !s.bitOf (qlCfgReg port) 0 || !s.fdAlive (port / 8) then s
    else
      let again := s.fieldOf (qlStatReg port) 0 2 ≠ 0
      let s := if again then s.bump (qlStatReg port) 8 8 else s
      let gen3 := ql3 && s.bitOf (qlCfgReg port) 1
      if gen3 || ql2 then
        let s := ((s.setField (qlStatReg port) 0 2 2).setBit (qlStatReg port) 2 gen3).setBit (qlStatReg port) 3 false
        (s.setBit rFtQlfail port false).onQl port fun q => { q with downAt := none, fails := 0 }
      else
        let fails := ((s.fab.ports.getD port { downAt := none, fails := 0, cur := port }).fails) + (if again then 1 else 0)
        let s := s.onQl port fun q => { q with fails := fails }
        if 3 ≤ fails then s.declareOrWait 6 port 0 else s.setField (qlStatReg port) 0 2 1)

/-- QL_PORT_DEGRADED (R467): the port retrains as x4. -/
def execQlPortDegraded (t port : Nat) (s : State) : Out :=
  let s := s.stamped t
  .next (if 16 ≤ port || s.fieldOf (qlStatReg port) 0 2 ≠ 2 then s
    else ((s.setBit (qlStatReg port) 3 true).bump (qlStatReg port) 8 8).event { code := 0x11, kind := 6, index := port })

/-- QL_PORT_LOST (R471, R532): down for more than 1 ms. -/
def execQlPortLost (t port : Nat) (s : State) : Out :=
  let s := s.stamped t
  let due : Bool := match (s.fab.ports.getD port { downAt := none, fails := 0, cur := port }).downAt with
    | some d => d + 1000000 + 32 ≤ t
    | none => true
  .next (if 16 ≤ port || s.fieldOf (qlStatReg port) 0 2 = 0 || !due then s else s.declareOrWait 6 port 0)

end Sys2Proof.Machine
end

