-- ==== Sys2Proof/Machine/Faults.lean ====
section
/-! DEFINITION. The commands of fault reports (chapter 16). -/

namespace Sys2Proof.Machine

/-- FATAL_ERROR_REPORT (R516, R520): a compute die reports a fatal internal error. -/
def execFatalErrorReport (t die : Nat) (s : State) : Out :=
  let s := s.stamped t
  .next (s.declareOrWait 2 die 2)

/-- CHECKSUM_REPORT (R539): the report that brings one core's count within the window to the threshold retires its
die. -/
def execChecksumReport (t core : Nat) (s : State) : Out :=
  let s := s.stamped t
  let cfg : Reg := { name := .ftCfg }
  let frn := s.frames.frn
  let recent := ((core, frn) :: s.flt.reports).filter fun r => frn < r.2 + s.fieldOf cfg 4 8
  let s := { s with flt := { s.flt with reports := recent } }
  let n := s.fieldOf cfg 0 4
  .next (if 36 ≤ core || n = 0 || (recent.filter (·.1 = core)).length < n then s
    else
      let s := { s with flt := { s.flt with shunned := core :: s.flt.shunned } }
      if s.dieDead (core / 4) then s else s.declareOrWait 2 (core / 4) 5)

/-! ### Uncorrectable core store errors (R541) -/

/-- The unit of the allocator's spill tiles an address lies in (R418; log entry 40). -/
def spillUnit (addr : Nat) : Nat := (addr - spillBase 0 0) / 0x10000

/-- The operation whose program range, save record, saved weight set or spill tile holds a core store address. -/
def Core.lineOwner (k : Core) (addr : Nat) : Option Nat :=
  let inProg (g : Seg) : Bool := match g.prog with
    | some p => !g.finished && hit [(addr, 1)] [(p.ibase, p.imageLen), (p.wbase, p.work)]
    | none => false
  match k.segs.find? inProg with
  | some g => some g.ctx.asn
  | none =>
    match k.saves.find? fun v => v.base ≤ addr && addr < v.base + 0x10000 with
    | some v => v.tile.owner.map (·.asn)
    | none =>
      if 0x6E0000 ≤ addr && addr < 0x700000 then
        if (k.wsaved.getD ((addr - 0x6E0000) / 0x8000) none).isSome then some k.bankN.ctx.asn else none
      else if 0x4E0000 ≤ addr && addr < 0x6E0000 then
        let u := spillUnit addr
        let t := (k.array (u / 8)).tile (u % 8)
        if t.spilled then t.owner.map (·.asn) else none
      else none

/-- Every gang operation of a resident set joins the abort lists of its cores. -/
def Core.failGangs (set : Nat) (k : Core) : Core :=
  let gangs := k.segs.filter fun g => (g.prog.bind (·.gang)) = some set
  gangs.foldl (fun acc g => acc.failCheck g.ctx.asn) k

/-- Position of a shard that must be filled again at the next tick (R358). -/
def refillPos : Nat := 64

/-- The consequence for a resident set whose shard or rotation buffers hold the address. -/
def State.setError (s : State) (core addr set : Nat) : State :=
  let base := s.fieldOf { name := .coRsCs, n := set } 0 11 * 4096
  let size := s.fieldOf { name := .coRsSz, n := set } 0 9 * 4096
  if !(((s.core core).shards.getD set Shard.none).member && base ≤ addr && addr < base + 3 * size) then s
  else if addr < base + size then
    { s with cores := s.cores.map (Core.failGangs set) }.onCore core fun k =>
      { k with shards := k.shards.modify set fun x => { x with pos := refillPos } }
  else s.onCore core (Core.failGangs set)

/-- CORE_STORE_UE (R541): the owner of the line joins the abort list with cause CHECKSUM; an error in a line no one owns
is only counted. -/
def execCoreStoreUe (t core addr : Nat) (s : State) : Out :=
  let s := (s.stamped t).onCore core fun k => { k with ft := { k.ft with csUe := true } }
  .next (match (s.core core).lineOwner addr with
    | some asn => s.onCore core (·.failCheck asn)
    | none => [0, 1, 2, 3].foldl (fun acc n => acc.setError core addr n) s)

end Sys2Proof.Machine
end

