-- ==== Sys2Proof/Machine/Host.lean ====
section
/-! DEFINITION. The commands of the host ports (chapter 4): links, functions, interrupts, host access to HBM, ATS, IDE
and DOE. -/

namespace Sys2Proof.Machine

/-! ### Links -/

/-- LINK_DOWN (R103): doorbells of the port go unseen from here. -/
def execLinkDown (t port : Nat) (s : State) : Out := .next ((s.arrive t).downLink port)

/-- HOST_PORT_LOST (R103, R516, R532). -/
def execHostPortLost (t port : Nat) (s : State) : Out :=
  let s := s.arrive t
  .next (if port < 2 && s.portDue port t then s.declareOrWait 5 port 0 else s)

/-- LINK_UP (R101, R102, R114): every watched doorbell line is read once. A mode outside R101 leaves the port down. -/
def execLinkUp (t port rate width proto : Nat) (flit : Bool) (s : State) : Out :=
  let s := s.arrive t
  let h := s.port port
  .next (if 2 ≤ port || h.up || h.perst || t < s.boot.perstFrom || s.pwr.inReset || !s.fdAlive port || !linkMode rate width proto flit then s
    else
      let r := hlLstat port
      let s := ((s.setField r 0 3 rate).setField r 3 2 width).setBit r 5 flit
      let s := ((s.setField r 6 2 proto).setBit r 11 false).setBit rFtFailed (20 + port) false
      let s := s.onPort port fun h => { h with up := true, downAt := none, fails := 0, steady := some t }
      ((s.mpCheck.readLines port).stretch 0).stretch 1)

/-- PORT_RETURNED (R132): the link has been up, not lost, for 1 s. -/
def execPortReturned (t port : Nat) (s : State) : Out :=
  let s := s.arrive t
  .next (match (s.port port).steady with
    | some a =>
      if (s.port port).up && !s.portLost port && a + 1000000000 ≤ t then
        s.onPort port fun h => { h with returned := true }
      else s
    | none => s)

/-- DL_DOWN (R134): that port's configuration space takes its power-on values, and the link is down. -/
def execDlDown (t port : Nat) (s : State) : Out :=
  let s := s.arrive t
  .next (if 2 ≤ port then s
    else
      let s1 := (s.endVfs port).onPort port fun h => { h with numVfs := 0, funcs := h.funcs.map Func.unconfigured }
      let s1 := (s1.setBit (hlLstat port) 8 false).setBit (hlLstat port) 9 false
      let s1 := if (s.port port).up then s1.downLink port else s1
      s.rewatchRings (s.rewatch s1.mpCheck port))

/-- CXL_CACHE_TOGGLE (R108, R114): CXL.cache can be enabled on a CXL link only. -/
def execCxlCacheToggle (t port : Nat) (on : Bool) (s : State) : Out :=
  let s := s.arrive t
  .next (if 2 ≤ port || (on && s.fieldOf (hlLstat port) 6 2 = 0) then s
    else s.rewatch (s.setBit (hlLstat port) 8 on) port)

/-! ### Functions and interrupts -/

/-- BUS_MASTER_ENABLE (R125, R126): also D3hot. -/
def execBusMasterEnable (t port func : Nat) (bme d3 : Bool) (s : State) : Out :=
  let s := s.arrive t
  .next (s.cfgGate port func
    (s.rewatchRings ((s.onFunc port func fun x => { x with bme := bme, d3 := d3 }).sendHeld port func)))

/-- VF_ENABLE (R123, R126, R131): NumVFs changes only while VF Enable is 0. -/
def execVfEnable (t port num : Nat) (on : Bool) (s : State) : Out :=
  let s := s.arrive t
  let cur := s.port port
  .next (s.cfgGate port 0 (
    if 63 < num || (on && cur.vfEn) then s
    else
      let s1 := if on then
          s.onPort port fun h => { h with vfEn := true, numVfs := num }
        else if cur.vfEn then s.endVfs port
        else s.onPort port fun h => { h with numVfs := num }
      s.rewatchRings s1.mpCheck))

/-- INITIATE_FLR (R135): no effect. -/
def execInitiateFlr (t _port _func : Nat) (s : State) : Out := .next (s.arrive t)

/-- MSIX_UNMASK (R125): a vector's mask bit is cleared; its held message goes. -/
def execMsixUnmask (t port func vec : Nat) (s : State) : Out :=
  let s := s.arrive t
  .next (if 2 ≤ port || 32 ≤ vec || !s.funcOn port func then s
    else (s.setBit { name := .msix, dev := 64 * port + func, n := 4 * vec + 3 } 0 false).sendHeld port func)

/-- CONFIGURATION_REQUEST (R586, R104, R125). -/
def execConfigurationRequest (t port func : Nat) (req : CfgReq) (s : State) : Out :=
  let s := s.arrive t
  .next (s.cfgGate port func (match req with
    | .other => s.say (.cfg port false)
    | .msix en mask =>
      ((s.onFunc port func fun x => { x with msixEn := en, fmask := mask }).sendHeld port func).say (.cfg port false)
    | .mem on =>
      if func = 0 && (!on || s.fieldOf (hlLstat port) 6 2 = 2) then
        (s.setBit (hlLstat port) 9 on).say (.cfg port false)
      else s.say (.cfg port false)
    | .aer clear =>
      let log := (s.func port func).aer
      let left := (List.range 32).foldl (fun v i => if bit clear i then putBits v i 1 0 else v) log
      ((s.onFunc port func fun x => { x with aer := left }).say (.regValue port (BitVec.ofNat 32 log))).say
        (.cfg port false)))

/-! ### Host access to HBM -/

/-- HOST_HBM_READ (R120-R122, R124, R527). -/
def execHostHbmRead (t port : Nat) (cxl : Bool) (addr len func : Nat) (regions : List (List Byte)) (s : State) : Out :=
  let s := s.arrive t
  let id := (s.port port).nextId
  let a := s.hostBase port cxl + addr
  .next (if 2 ≤ port || len = 0 || (cxl && !s.hdmOn port) then s
    else
      let s := s.onPort port fun h => { h with nextId := id + 1 }
      if !cxl && func ≠ 0 then s.say (.completion port id cplUr [])
      else if devT < a + len then
        (s.accessErr port (if cxl then 2 else 1) a).say (.completion port id (if cxl then cplPoison else cplUr) [])
      else
        let x : HeldRead := { id := id, addr := a, len := len, cxl := cxl }
        if cxl && s.rangeHeld a len then s.onPort port fun h => { h with heldRds := h.heldRds ++ [x] }
        else s.hostRead port x (regions.filterMap Region.parse))

/-- HOST_HBM_WRITE (R120, R124, R436, R527): each byte lands in its committed copies. -/
def execHostHbmWrite (t port : Nat) (cxl : Bool) (addr : Nat) (data : List Byte) (regions : List (List Byte))
    (s : State) : Out :=
  let s := s.arrive t
  let a := s.hostBase port cxl + addr
  let rs := regions.filterMap Region.parse
  .next (if 2 ≤ port || data.isEmpty || (cxl && !s.hdmOn port) then s
    else if devT < a + data.length then s.accessErr port (if cxl then 2 else 1) a
    else
      let one (acc : State × Option Nat) (b : Byte × Nat) : State × Option Nat :=
        match acc.1.hostPut rs (a + b.2) b.1 with
        | some s' => (s', acc.2)
        | none => (acc.1, some (acc.2.getD (a + b.2)))
      match data.zipIdx.foldl one (s, none) with
      | (s', none) => s'
      | (s', some lost) => s'.accessErr port 4 lost)

/-- HELD_READ_ANSWER (R122): the BISnpInv of the scope have completed and its decision has been applied. -/
def execHeldReadAnswer (t port id : Nat) (regions : List (List Byte)) (s : State) : Out :=
  let s := s.arrive t
  .next (match (s.port port).heldRds.find? (·.id = id) with
    | none => s
    | some x =>
      if s.rangeHeld x.addr x.len then s
      else (s.onPort port fun h => { h with heldRds := h.heldRds.filter (·.id != id) }).hostRead port x
        (regions.filterMap Region.parse))

/-! ### Requests in error, ATS, completion timeout (R104, R105, R137) -/

/-- AER bits of the ways a request can end in error: Unsupported Request, Completer Abort, poisoned data (log 46). -/
def aerBit (kind : Nat) : Nat := match kind with | 0 => 20 | 1 => 15 | _ => 12

def State.logAer (s : State) (p f i : Nat) : State := s.onFunc p f fun x => { x with aer := x.aer ||| 2 ^ i }

/-- REQUEST_ERROR (R137): `kind` 0 Unsupported Request, 1 Completer Abort, 2 poisoned data. -/
def execRequestError (t port func kind : Nat) (s : State) : Out :=
  let s := s.arrive t
  .next (if 2 ≤ port || !s.funcOn port func then s
    else (s.logAer port func (aerBit kind)).requestEnds port func false)

/-- COMPLETION_TIMEOUT (R105): the function's doorbell line reads, which no deadline of R63 covers, end and are issued
again; other reads are handled under their own deadlines. -/
def execCompletionTimeout (t port func : Nat) (s : State) : Out :=
  let s := s.arrive t
  .next (if 2 ≤ port || !s.funcOn port func then s
    else
      let stuck := (s.port port).lines.filter fun l =>
        l.reading && (s.watchedLines port).contains l.addr && s.lineFunc port l.addr = func
      if stuck.isEmpty then s
      else stuck.foldl (fun acc l => acc.readLine port l.addr) (s.logAer port func 14))

/-- ATS_INVALIDATION (R104): a request arrives (`done` false) or is completed. -/
def execAtsInvalidation (t port func : Nat) (done : Bool) (s : State) : Out :=
  let s := s.arrive t
  .next (if 2 ≤ port || !s.funcOn port func then s
    else if !done then s.onPort port fun h => { h with ats := h.ats ++ [(func, t)] }
    else if (s.port port).ats.any (·.1 = func) then
      (s.onPort port fun h => { h with ats := h.ats.eraseP (·.1 = func) }).say (.ats port func)
    else s)

/-- ATS_INVALIDATION_TIMEOUT (R137). -/
def execAtsInvalidationTimeout (t port func : Nat) (s : State) : Out :=
  let s := s.arrive t
  let due (x : Nat × Stamp) : Bool := x.1 = func && x.2 + 100000 + 32 ≤ t
  .next (if (s.port port).ats.any due then
      (s.onPort port fun h => { h with ats := h.ats.filter fun x => !due x }).wedge (s.page port func) 2
    else s)

/-! ### IDE (R127, R129) -/

def State.onIde (s : State) (p i : Nat) (f : Ide → Ide) : State :=
  s.onPort p fun h => { h with ide := h.ide.modify i f }

/-- IDE_INTEGRITY_FAILURE (R129). -/
def execIdeIntegrityFailure (t port stream : Nat) (s : State) : Out :=
  .next ((s.arrive t).onIde port stream fun x => if x.secure then { x with secure := false, insecure := true } else x)

/-- IDE_KM (R127): over a secured SPDM session; `op` is the request's object: 0 QUERY, 2 KEY_PROG, 4 K_SET_GO, 5
K_SET_STOP (log entry 45). -/
def execIdeKm (t port stream op : Nat) (s : State) : Out :=
  let s := s.arrive t
  let h := s.port port
  let reply (s : State) (code : Nat) : State := s.say (.spdm port 0x7E (leBytes 1 code ++ leBytes 1 stream))
  .next (if 2 ≤ port || 3 ≤ stream || !h.spdm.finished then s
    else match op with
      | 0 => reply s 1
      | 2 => reply (s.onIde port stream fun x => { x with keyed := true }) 3
      | 4 =>
        if (h.ide.getD stream { keyed := false, secure := false, insecure := false }).keyed then
          reply (s.onIde port stream fun x => { x with secure := true, insecure := false }) 6
        else s
      | 5 => reply (s.onIde port stream fun _ => { keyed := false, secure := false, insecure := false }) 6
      | _ => s)

/-! ### DOE (R128) -/

/-- Protocols of the mailbox in R128's order: discovery, CMA/SPDM, secured CMA/SPDM, IDE_KM and, in CXL mode, CDAT. -/
def State.doeCount (s : State) (p : Nat) : Nat := if s.fieldOf (hlLstat p) 6 2 = 0 then 4 else 5

/-- DOE_DISCOVERY (R128): the protocol at an index, and the next index, 0 after the last. -/
def execDoeDiscovery (t port index : Nat) (s : State) : Out :=
  let s := s.arrive t
  let n := s.doeCount port
  .next (if 2 ≤ port || n ≤ index then s
    else s.say (.doe port index (leBytes 1 (if index + 1 < n then index + 1 else 0))))

/-- CDAT_TABLE_ACCESS (R128): in CXL mode. -/
def execCdatTableAccess (t port entry : Nat) (s : State) : Out :=
  let s := s.arrive t
  .next (if 2 ≤ port || s.fieldOf (hlLstat port) 6 2 = 0 then s else s.say (.doe port 4 (Config.cdat entry)))

end Sys2Proof.Machine
end

