-- ==== Sys2Proof/Machine/MeterOps.lean ====
section
/-! DEFINITION. Shared operations of the sealed meter (chapter 17): energy, the log and health flags, summaries and their
apportionment, records, snapshots. Stamps of meter commands are readings of the MD's own clock (log entry 55). -/

namespace Sys2Proof.Machine

def State.onMd (s : State) (f : Meter → Meter) : State := { s with md := f s.md }

namespace Meter

/-! ### Clock, state, log and health (R552, R563-R565) -/

/-- The RTC at a reading of the MD's clock, in 1/32,768 s. -/
def rtcNow (m : Meter) (t : Stamp) : Nat := m.rtc + (t - m.rtcAt) * 32768 / 1000000000

/-- EVCNT (R565). -/
def evcnt (m : Meter) : Nat := m.log.length

def logFull (m : Meter) : Bool := 4000 ≤ m.log.length

/-- HEALTHY (R563); 0 while the legal partition restarts (R567). -/
def healthy (m : Meter) : Bool := m.health = 0 && !m.restart

/-- Latched flags: [5:0]. -/
def latched (i : Nat) : Bool := i < 6

/-- Append a log entry; a log that fills sets NVM, and nothing further is logged (R565). -/
def note (m : Meter) (t : Stamp) (typ id old new : Nat) : Meter :=
  if 4096 ≤ m.log.length then m
  else
    let e : LogEnt := { evcnt := m.log.length + 1, typ := typ, id := id, rtc := m.rtcNow t, old := old, new := new }
    let m := { m with log := m.log ++ [e] }
    if 4096 ≤ m.log.length then { m with health := putBits m.health 2 1 1, conds := putBits m.conds 2 1 1 } else m

/-- Set a health flag; a latched one logs FAULT_SET (R563). -/
def fault (m : Meter) (t : Stamp) (i : Nat) : Meter :=
  if bit m.health i then m
  else
    let h := putBits m.health i 1 1
    let m' := { m with health := h }
    if latched i then m'.note t 5 i m.health h else m'

/-- A condition comes or goes; an unlatched flag follows it. -/
def cond (m : Meter) (t : Stamp) (i : Nat) (present : Bool) : Meter :=
  let m := { m with conds := putBits m.conds i 1 (if present then 1 else 0) }
  if present then m.fault t i
  else if latched i then m
  else { m with health := putBits m.health i 1 0 }

/-! ### Energy (R548, R549, R551) -/

/-- Units of 10^-14 J / 2^24 in 1 uWh, and in the 2 J that 2 W registers in 1 s. -/
def unitsPerUwh : Nat := 360000000000 * 2 ^ 24
def noLoad : Int := 200000000000000 * 2 ^ 24

/-- A gain in units of 2^-24; gains lie in 0.95-1.05, so the number is whole. -/
def gainUnits (w : Word) : Nat :=
  match f32 w with
  | .fin _ m e => if 0 ≤ e + 24 then m * 2 ^ (e + 24).toNat else m / 2 ^ (-(e + 24)).toNat
  | _ => 0

def clampInt (lo hi x : Int) : Int := max lo (min hi x)

/-- Power of one input over one sample: mV x uA x gain, in units of 10^-9 W / 2^24; over 10 us the same number counts
energy in units of 10^-14 J / 2^24. The current is taken at the range limit, its offset removed, its gain applied (log
entry 56). -/
def samplePower (m : Meter) (input : Nat) (v i : Int) : Int :=
  let i := clampInt (-64000000) 64000000 i - m.offset.getD input 0
  clampInt 0 75000 v * i * (gainUnits (m.gain.getD input 0x3F800000) : Int)

/-- The part of a signed number that is positive. -/
def pos (x : Int) : Nat := x.toNat

/-- Register what the interval has gathered (R548, R549): fractions below 1 uWh are carried. -/
def register (m : Meter) : Meter :=
  let a := m.fracA + m.winA
  let b := m.fracB + m.winB
  let r := m.fracR + m.winR
  let dA := a / unitsPerUwh
  let dB := b / unitsPerUwh
  let l := m.legal
  { m with fracA := a % unitsPerUwh, fracB := b % unitsPerUwh, fracR := r % unitsPerUwh, winA := 0, winB := 0, winR := 0,
           legal := { l with eA := l.eA + dA, eB := l.eB + dB, eTot := l.eTot + (dA + dB), ePend := l.ePend + (dA + dB),
                             eRev := l.eRev + r / unitsPerUwh } }

/-- Close a 1 s interval of 100,000 samples: energy not registered by then is dropped (R551). -/
def closeWindow (m : Meter) : Meter :=
  if m.winN < 100000 then m
  else { m with winA := 0, winB := 0, winR := 0, winN := 0, winP := 0, winOpen := false }

/-- One sample (R548, R551): the interval's energy is registered from the sample on at which its sum reaches 2 W for 1 s
(log entry 53). -/
def sample (m : Meter) (va ia vb ib : Int) : Meter :=
  let pA := m.samplePower 0 va ia
  let pB := m.samplePower 1 vb ib
  let p := m.winP + (pA + pB)
  let m := { m with winA := m.winA + pos pA, winB := m.winB + pos pB, winR := m.winR + (pos (-pA) + pos (-pB)),
                    winN := m.winN + 1, winP := p, winOpen := m.winOpen || decide (noLoad ≤ p),
                    instant := [va, ia, vb, ib] }
  (if m.winOpen then m.register else m).closeWindow

/-- A reading beyond the ranges of R551. -/
def outOfRange (v i : Int) : Bool := v < 0 || 75000 < v || i < -64000000 || 64000000 < i

/-! ### Summaries (R544, R555, R557, R558) -/

def sumEntries (b : List Byte) : List (Nat × Nat) :=
  (List.range (fld b 1 1)).map fun i => (fld b (0x30 + 8 * i) 2, fld b (0x32 + 8 * i) 6)

/-- Accounts strictly rising. -/
def risingAcc : List (Nat × Nat) → Bool
  | x :: y :: r => x.1 < y.1 && risingAcc (y :: r)
  | _ => true

/-- Length, CRC and every field are as R555 states. -/
def sumOk (b : List Byte) : Bool :=
  fld b 0 1 = 0x31 && fld b 1 1 ≤ 128 && b.length = 48 + 8 * fld b 1 1 && fld b 2 2 = 0 && zeroBytes b 0x24 12
    && withCrc b 0x20 = b && risingAcc (sumEntries b) && (sumEntries b).all fun e => e.1 < 128 && e.2 ≠ 0

/-- Take a SUMMARY through the checks of R557, in order. -/
def takeSummary (m : Meter) (t : Stamp) (b : List Byte) : Meter :=
  if !sumOk b then { m with invalid := m.invalid + 1 }
  else
    let m := if m.session = some (fld b 4 4) then m
      else { m with session := some (fld b 4 4), token := 0, lastFrn := 0, fresh := true }
    let frn := fld b 8 8
    let token := fld b 0x10 8
    if token < m.token || frn ≤ m.lastFrn then m
    else
      let h : HeldSum := { frn := frn, token := token, fus := fld b 0x18 4, nops := fld b 0x1C 4, entries := sumEntries b,
                           arrived := t }
      let m := { m with token := max m.token token }
      match m.held.find? (·.frn = frn) with
      | some x => if x.token < token then { m with held := h :: m.held.filter (·.frn != frn) } else m
      | none => { m with held := h :: m.held }

/-- FENCE of the current session (R557). -/
def takeFence (m : Meter) (session token : Nat) : Meter :=
  if m.session ≠ some session then m
  else
    let top := max m.token token
    { m with token := top, held := m.held.filter fun h => !(h.token < top) }

/-! ### Apportionment (R559) -/

/-- An entry's share: whole part and remainder. -/
structure Share where
  acc : Nat
  q   : Nat
  r   : Nat

def sharesOf (dE M : Nat) (es : List (Nat × Nat)) : List Share :=
  es.map fun e => { acc := e.1, q := dE * e.2 / M, r := dE * e.2 % M }

/-- One share stands before another in the order of R559: larger remainder, ties to the lower account. -/
def Share.before (x y : Share) : Bool := y.r < x.r || (x.r = y.r && x.acc < y.acc)

/-- Units each share gets: its whole part, and one more for the first ones of the order. -/
def finalShares (dE M : Nat) (es : List (Nat × Nat)) : List (Nat × Nat) :=
  let sh := sharesOf dE M es
  let left := dE - sh.foldl (fun a x => a + x.q) 0
  sh.map fun x => (x.acc, x.q + (if (sh.filter fun y => y.before x).length < left then 1 else 0))

/-- Add values to accounts. -/
def addAll (l : List Nat) (xs : List (Nat × Nat)) : List Nat := xs.foldl (fun a x => a.modify x.1 (· + x.2)) l

def sumUnits (es : List (Nat × Nat)) : Nat := es.foldl (fun a e => a + e.2) 0

/-- Close the interval with a summary (R559). -/
def close (m : Meter) (t : Stamp) (h : HeldSum) : Meter :=
  let l := m.legal
  let M := sumUnits h.entries
  let gap := m.fresh || m.lastClose + 2 * (h.fus * 1000) + 5000000 < t
  let fn := if gap || M = 0 then l.eFn else addAll l.eFn (finalShares l.ePend M h.entries)
  { m with
    fresh := false, lastClose := t, lastFrn := h.frn, held := m.held.filter (·.frn != h.frn),
    legal := { l with
      eIdle := if gap || M = 0 then l.eIdle + l.ePend else l.eIdle, eFn := fn, ePend := 0,
      gaps := if gap then l.gaps + 1 else l.gaps,
      mwuFn := addAll l.mwuFn h.entries, frFn := addAll l.frFn (h.entries.map fun e => (e.1, 1)),
      mwuTot := l.mwuTot + M, frSeen := l.frSeen + 1, frCommit := l.frCommit + (if 0 < h.nops then 1 else 0) } }

/-- The held summary of the lowest FRN. -/
def nextHeld (m : Meter) : Option HeldSum :=
  m.held.foldl (fun b h => match b with
    | some x => if h.frn < x.frn then some h else b
    | none => some h) none

/-- Apply held summaries 50 us after their arrival, in FRN order. -/
def applyHeld (t : Stamp) : Nat → Meter → Meter
  | 0, m => m
  | n + 1, m =>
    match m.nextHeld with
    | none => m
    | some h =>
      if t < h.arrived + 50000 then m
      else if h.frn ≤ m.lastFrn then applyHeld t n { m with held := m.held.filter (·.frn != h.frn) }
      else applyHeld t n (m.close t h)

/-! ### Snapshots (R574) -/

/-- Write a snapshot into the alternate slot; a failed verify leaves it invalid and sets NVM. -/
def snapshot (m : Meter) (t : Stamp) (verified final : Bool) : Meter :=
  let sn : Snap := { seq := m.snapSeq + 1, legal := m.legal, fracA := m.fracA, fracB := m.fracB, fracR := m.fracR,
                     rtc := m.rtcNow t, logLen := m.log.length, valid := verified, final := final }
  let m := { m with snaps := m.snaps.set ((m.snapSeq + 1) % 2) sn, snapSeq := m.snapSeq + 1 }
  m.cond t 2 (!verified || 4096 ≤ m.log.length)

/-- The newest valid slot. -/
def newest (m : Meter) : Snap :=
  m.snaps.foldl (fun b x => if x.valid && (!b.valid || b.seq < x.seq) then x else b) Snap.none

/-- The MD starts: registers come from the newest valid slot; POWER_UNSAVED where it is not the final one of the last run
(log entry 57). -/
def powerOn (m : Meter) (t rtcNow : Nat) : Meter :=
  let sn := m.newest
  let m := { m with
    on := true, restart := false, legal := sn.legal, fracA := sn.fracA, fracB := sn.fracB, fracR := sn.fracR, winA := 0,
    winB := 0, winR := 0, winN := 0, winP := 0, winOpen := false, session := none, token := 0, lastFrn := 0,
    fresh := true, held := [], queue := [], rtc := rtcNow, rtcAt := t, powerOns := m.powerOns + 1, rseq := 0,
    snaps := m.snaps.map fun x => { x with final := false },
    addr := none, ibi := false, rstAct := 0, fwTarget := none, fwBuf := Mem.empty,
    health := putBits m.health 6 1 0, conds := putBits m.conds 6 1 0 }
  if sn.final then m else m.note t 7 0 sn.rtc rtcNow

/-! ### Records (R568-R571, R573) -/

/-- STATE of a record and of a status word. -/
def stateBits (m : Meter) : Nat :=
  (if m.sealedIn then 1 else 0) + (if m.trade then 2 else 0) + (if m.healthy then 4 else 0) + (if m.logFull then 8 else 0)

/-- The 32 bytes of a log entry. -/
def entryBytes (e : LogEnt) : List Byte :=
  leBytes 4 e.evcnt ++ leBytes 1 e.typ ++ leBytes 1 e.id ++ leBytes 2 0 ++ leBytes 8 e.rtc ++ leBytes 8 e.old ++ leBytes 8 e.new

/-- SHA-384 of the legal firmware (R566). -/
def hash (m : Meter) : List Byte := if m.fwImage.isEmpty then Config.mdFwHash else Config.sha384 m.fwImage

/-- Signed value in n bytes. -/
def intBytes (n : Nat) (x : Int) : List Byte := leBytes n (x % ((2 ^ (8 * n) : Nat) : Int)).toNat

/-- Device certificate as CERT returns it: its length in 2 bytes, then its bytes (log entry 52). -/
def certBytes : List Byte := leBytes 2 Config.mdCert.length ++ Config.mdCert

/-- Status and payload of a selector (R569, R570). -/
def payload (m : Meter) (sel arg : Nat) : Nat × List Byte :=
  let l := m.legal
  let zero (k : List Byte) : Nat × List Byte := if arg = 0 then (0, k) else (2, [])
  let inst (v i : Int) : List Byte := intBytes 4 v ++ intBytes 4 (i / 1000) ++ intBytes 4 (v * i / 1000000)
  match sel with
  | 1 => zero (leBytes 8 Config.mdSerial.toNat ++ leBytes 4 m.fwVer ++ leBytes 4 m.ifVer ++ leBytes 4 Config.mdHwRev
      ++ List.replicate 12 0 ++ m.hash)
  | 2 => zero ([l.eA, l.eB, l.eTot, l.eIdle, l.ePend, l.eRev, l.frSeen, l.frCommit, l.mwuTot, l.gaps].flatMap (leBytes 8))
  | 3 => if arg < 128 then
      (0, leBytes 8 (l.eFn.getD arg 0) ++ leBytes 8 (l.mwuFn.getD arg 0) ++ leBytes 8 (l.frFn.getD arg 0)) else (2, [])
  | 4 => zero (leBytes 8 (if m.trade then 1 else 0) ++ leBytes 8 (m.gain.getD 0 0).toNat ++ leBytes 8 (m.gain.getD 1 0).toNat
      ++ intBytes 8 (m.offset.getD 0 0) ++ intBytes 8 (m.offset.getD 1 0))
  | 5 => match m.log[arg]? with | some e => (0, entryBytes e) | none => (2, [])
  | 6 => if arg < 16 then (0, (certBytes.drop (80 * arg)).take 80) else (2, [])
  | 7 => zero (inst (m.instant.getD 0 0) (m.instant.getD 1 0) ++ inst (m.instant.getD 2 0) (m.instant.getD 3 0))
  | _ => (1, [])

/-- The signed part of a record, 160 bytes (R568). -/
def recordBody (m : Meter) (t : Stamp) (sel arg status : Nat) (nonce pay : List Byte) : List Byte :=
  leBytes 1 0x4D ++ leBytes 1 sel ++ leBytes 2 arg ++ leBytes 1 status ++ leBytes 1 m.stateBits ++ leBytes 2 m.health
    ++ leBytes 8 Config.mdSerial.toNat ++ leBytes 4 m.fwVer ++ leBytes 4 m.evcnt ++ leBytes 4 m.rseq ++ leBytes 4 m.powerOns
    ++ leBytes 8 (m.rtcNow t) ++ leBytes 8 m.lastFrn ++ (nonce ++ List.replicate 32 0).take 32
    ++ (pay ++ List.replicate 80 0).take 80

end Meter

/-- Produce a record (R568, R571): it is signed and counted. -/
def State.record (s : State) (t : Stamp) (sel arg status : Nat) (nonce pay : List Byte) : State × List Byte :=
  let s := s.onMd fun m => { m with rseq := m.rseq + 1 }
  let body := s.md.recordBody t sel arg status nonce pay
  (s.takeFree, body ++ Config.ecdsaSign 2 (Config.sha384 body) s.free)

/-- An in-band interrupt, where the controller enabled them (R573). -/
def State.ibi (s : State) (code : Nat) : State := if s.md.ibi && s.md.addr.isSome then s.say (.ibi code) else s

/-- The I3C port's record of a command other than READ (R573; log entry 54): command code, ID, old and new value. -/
def State.cmdRecord (s : State) (t : Stamp) (code id status old new : Nat) : State :=
  let r := s.record t 0xF0 0 status [] (leBytes 1 code ++ leBytes 1 id ++ List.replicate 6 0 ++ leBytes 8 old ++ leBytes 8 new)
  (r.1.onMd fun m => { m with lastRec := r.2 }).ibi 1

/-- Apply a change to the meter, telling the I3C controller where STATE or HEALTH changed. -/
def State.mdChange (s : State) (f : Meter → Meter) : State :=
  let s' := s.onMd f
  if s'.md.stateBits = s.md.stateBits && s'.md.health = s.md.health then s' else s'.ibi 2

/-- A READ is served (R568, R572): path 0 or 1 is the fabric dies' mailbox, 2 the I3C port. -/
def State.serveRead (s : State) (t : Stamp) (path sel arg : Nat) (nonce : List Byte) : State :=
  let p := s.md.payload sel arg
  let r := s.record t sel arg p.1 nonce (if p.1 = 0 then p.2 else [])
  if path < 2 then r.1.say (.readout path r.2)
  else (r.1.onMd fun m => { m with lastRec := r.2 }).ibi 1

/-! ### Service commands (R562, R563, R565, R567, R570) -/

/-- The status that refuses a service command, in the order seal, log, argument (R562, R565; log entry 58). -/
def Meter.refusal (m : Meter) (argOk : Bool) : Option Nat :=
  if m.sealedIn then some 4 else if m.logFull then some 5 else if !argOk then some 2 else none

/-- A 64-bit value as a signed number. -/
def signed64 (v : Nat) : Int :=
  let x : Int := ((v % 2 ^ 64 : Nat) : Int)
  if 2 ^ 63 ≤ v % 2 ^ 64 then x - 2 ^ 64 else x

/-- A binary32 gain of 0.95-1.05 (R562). -/
def gainOk (v : Nat) : Bool :=
  v < 2 ^ 32 && (match f32 (BitVec.ofNat 32 v) with
    | .fin false m e =>
      if 0 ≤ e then false
      else 95 * 2 ^ (-e).toNat ≤ 100 * m && 100 * m ≤ 105 * 2 ^ (-e).toNat
    | _ => false)

/-- Whether PARAM has this ID, and takes this value (R562). -/
def paramOk (id v : Nat) : Bool :=
  match id with
  | 1 => v < 2
  | 2 | 3 => gainOk v
  | 4 | 5 => decide (-50000 ≤ signed64 v) && decide (signed64 v ≤ 50000)
  | 6 => v < 2 ^ 49
  | _ => false

/-- The value of a parameter now. -/
def Meter.paramNow (m : Meter) (t : Stamp) (id : Nat) : Nat :=
  match id with
  | 1 => if m.trade then 1 else 0
  | 2 | 3 => (m.gain.getD (id - 2) 0).toNat
  | 4 | 5 => (m.offset.getD (id - 4) 0 % ((2 ^ 64 : Nat) : Int)).toNat
  | 6 => m.rtcNow t / 32768
  | _ => 0

/-- Set a parameter. -/
def Meter.setParam (m : Meter) (t : Stamp) (id v : Nat) : Meter :=
  match id with
  | 1 => { m with trade := v = 1 }
  | 2 | 3 => { m with gain := m.gain.set (id - 2) (BitVec.ofNat 32 v) }
  | 4 | 5 => { m with offset := m.offset.set (id - 4) (signed64 v) }
  | 6 => { m with rtc := v * 32768, rtcAt := t }
  | _ => m

/-- PARAM (R562): it is logged, with its record; a refused one leaves every parameter. -/
def State.serveParam (s : State) (t : Stamp) (id v : Nat) : State :=
  let old := s.md.paramNow t id
  match s.md.refusal (paramOk id v) with
  | some st => s.cmdRecord t 0x10 id st old old
  | none =>
    let s := s.mdChange fun m => (m.note t 3 id old v).setParam t id v
    s.cmdRecord t 0x10 id 0 old v

/-- Clear one latched flag whose condition is absent (R563). -/
def Meter.clearFlag (m : Meter) (t : Stamp) (mask i : Nat) : Meter :=
  if bit mask i && bit m.health i && !bit m.conds i then
    let h := putBits m.health i 1 0
    { m with health := h }.note t 6 i m.health h
  else m

/-- CLEAR (R563). -/
def State.serveClear (s : State) (t : Stamp) (mask : Nat) : State :=
  let old := s.md.health
  match s.md.refusal true with
  | some st => s.cmdRecord t 0x11 0 st old old
  | none =>
    let s := s.mdChange fun m => (List.range 6).foldl (fun a i => a.clearFlag t mask i) m
    s.cmdRecord t 0x11 0 0 old s.md.health

/-- FW_BEGIN (R567): an interface image is taken whatever the seal state. -/
def State.serveFwBegin (s : State) (t : Stamp) (target len : Nat) : State :=
  let st := if target = 1 then none else s.md.refusal (target = 0)
  match st with
  | some st => s.cmdRecord t 0x20 0 st 0 0
  | none => (s.onMd fun m => { m with fwTarget := some target, fwLen := len, fwBuf := Mem.empty }).cmdRecord t 0x20 0 0 0 0

/-- FW_DATA (R567, R573): it produces no record; one out of range, or for a legal image while refused, has no effect. -/
def State.serveFwData (s : State) (off : Nat) (data : List Byte) : State :=
  match s.md.fwTarget with
  | none => s
  | some target =>
    if target = 0 && (s.md.refusal true).isSome then s
    else if data.length = 0 || 1024 < data.length || s.md.fwLen < off + data.length then s
    else s.onMd fun m => { m with fwBuf := m.fwBuf.writeBytes off data }

/-- The manifest is signed by Skovha's firmware key and its hash matches the image (R567; log entry 51). -/
def Meter.imageSigned (m : Meter) (version : Nat) (hash sig : List Byte) : Bool :=
  Config.sha384 (m.fwBuf.readBytes 0 m.fwLen) = hash
    && Config.ecdsaVerify Config.mdFwKey (Config.sha384 (leBytes 4 version ++ hash)) (sig.take 48) ((sig.drop 48).take 48)

/-- FW_END (R567): a legal image that passes is logged, and the partition restarts; a failed load is not logged. -/
def State.serveFwEnd (s : State) (t : Stamp) (version : Nat) (hash sig : List Byte) : State :=
  let m := s.md
  let good := m.imageSigned version hash sig
  let ended (s : State) : State := s.onMd fun m => { m with fwTarget := none }
  match m.fwTarget with
  | none => s.cmdRecord t 0x22 0 7 0 0
  | some 0 =>
    match m.refusal true with
    | some st => (ended s).cmdRecord t 0x22 0 st m.fwVer m.fwVer
    | none =>
      if !good || version ≤ m.fwVer then (ended s).cmdRecord t 0x22 0 6 m.fwVer m.fwVer
      else
        let new := version % 2 ^ 32 + 2 ^ 32 * leNat (hash.take 4)
        let s := (ended s).cmdRecord t 0x22 0 0 m.fwVer new
        s.mdChange fun m => { m.note t 4 0 m.fwVer new with
          fwImage := m.fwBuf.readBytes 0 m.fwLen, fwVer := version % 2 ^ 32, restart := true }
  | some _ =>
    if !good then (ended s).cmdRecord t 0x22 0 6 m.ifVer m.ifVer
    else ((ended s).onMd fun m => { m with ifVer := version % 2 ^ 32 }).cmdRecord t 0x22 0 0 m.ifVer (version % 2 ^ 32)

/-! ### Arrival (R544, R545, R567, R572) -/

/-- The legal partition serves a request. -/
def State.serveMd (s : State) (q : Queued) : State :=
  match q.req with
  | .message b => if fld b 0 1 = 0x31 then s.onMd fun m => m.takeSummary q.stamp b else s
  | .fence session token => s.onMd fun m => m.takeFence session token
  | .read sel arg nonce => s.serveRead q.stamp q.link (sel % 256) (arg % 65536) nonce
  | .param id v => s.serveParam q.stamp (id % 256) (v % 2 ^ 64)
  | .clear mask => s.serveClear q.stamp (mask % 65536)
  | .fwBegin target len => s.serveFwBegin q.stamp (target % 256) (len % 2 ^ 32)
  | .fwData off data => s.serveFwData (off % 2 ^ 32) data
  | .fwEnd version hash sig => s.serveFwEnd q.stamp version hash sig

/-- A request arrives at the legal partition: served at once, or queued while it restarts, up to 64 for each link. -/
def State.reachMd (s : State) (t link : Nat) (req : MdReq) : State :=
  let q : Queued := { link := link, stamp := t, req := req }
  if !s.md.on then s
  else if !s.md.restart then s.serveMd q
  else if 64 ≤ (s.md.queue.filter (·.link = link)).length then s.onMd fun m => { m with dropped := m.dropped + 1 }
  else s.onMd fun m => { m with queue := m.queue ++ [q] }

/-- The restart ends: what was queued is served in its order; a summary's 50 us run from its arrival. -/
def State.endRestart (s : State) (t : Stamp) : State :=
  let qs := s.md.queue
  let s := s.onMd fun m => { m with restart := false, queue := [] }
  let due (q : Queued) : Queued := match q.req with
    | .message _ => q
    | _ => { q with stamp := t }
  qs.foldl (fun acc q => acc.serveMd (due q)) s

end Sys2Proof.Machine
end

