-- ==== Sys2Proof/Machine/Meter.lean ====
section
/-! DEFINITION. The commands of the sealed meter (chapter 17). Stamps of commands at the metrology die are readings of its
own clock; those of commands at a fabric die are PTB stamps (log entry 55). -/

namespace Sys2Proof.Machine

/-! ### Inbound links (R544, R545, R557-R559) -/

/-- SUMMARY (R557): a message on an inbound link. -/
def execSummary (t link : Nat) (msg : List Byte) (s : State) : Out := .next (s.reachMd t link (.message msg))

/-- SUMMARY_APPLY (R559): held summaries whose 50 us have run close intervals, in FRN order. -/
def execSummaryApply (t : Nat) (s : State) : Out :=
  .next (if !s.md.on || s.md.restart then s else s.onMd fun m => m.applyHeld t m.held.length)

/-- MD_FENCE (R557). -/
def execMdFence (t session token : Nat) (s : State) : Out := .next (s.reachMd t 0 (.fence session token))

/-- READ (R568): path 0 or 1 is a fabric die's mailbox, 2 the I3C port, which needs an address; a nonce of another length
is a malformed command (R570). -/
def execRead (t path sel arg : Nat) (nonce : List Byte) (s : State) : Out :=
  .next (if path = 2 && s.md.addr.isNone then s
    else if nonce.length ≠ 32 then
      if path = 2 && s.md.on && !s.md.restart then s.cmdRecord t 0x01 0 7 0 0 else s
    else s.reachMd t path (.read sel arg nonce))

/-! ### Service commands (R562, R563, R567, R573) -/

/-- A command of a private write: the I3C target answers once it has an address. -/
def State.i3cWrite (s : State) (t : Nat) (req : MdReq) : State := if s.md.addr.isNone then s else s.reachMd t 2 req

/-- PARAM (R562). -/
def execParam (t id value : Nat) (s : State) : Out := .next (s.i3cWrite t (.param id value))

/-- CLEAR (R563). -/
def execClear (t mask : Nat) (s : State) : Out := .next (s.i3cWrite t (.clear mask))

/-- FW_BEGIN (R567). -/
def execFwBegin (t target len : Nat) (s : State) : Out := .next (s.i3cWrite t (.fwBegin target len))

/-- FW_DATA (R567). -/
def execFwData (t off : Nat) (data : List Byte) (s : State) : Out := .next (s.i3cWrite t (.fwData off data))

/-- FW_END (R567). -/
def execFwEnd (t version : Nat) (hash sig : List Byte) (s : State) : Out := .next (s.i3cWrite t (.fwEnd version hash sig))

/-! ### The I3C target (R573; log entry 59) -/

/-- A transfer the I3C target answers. -/
def State.i3cAnswer (s : State) (bs : List Byte) : State := if !s.md.on || s.md.addr.isNone then s else s.say (.i3c bs)

/-- The interface partition changes its own state. -/
def State.i3cSet (s : State) (f : Meter → Meter) : State := if s.md.on then s.onMd f else s

/-- I3C_PRIVATE_READ: the last record. -/
def execI3cPrivateRead (_t : Nat) (s : State) : Out := .next (s.i3cAnswer s.md.lastRec)

/-- ENTDAA: a target without an address takes the one assigned. -/
def execEntdaa (_t addr : Nat) (s : State) : Out :=
  .next (s.i3cSet fun m => if m.addr.isNone then { m with addr := some addr } else m)

/-- SETDASA: from static address 0x2C. -/
def execSetdasa (_t static addr : Nat) (s : State) : Out :=
  .next (s.i3cSet fun m => if static = 0x2C && m.addr.isNone then { m with addr := some addr } else m)

/-- RSTDAA. -/
def execRstdaa (_t : Nat) (s : State) : Out := .next (s.i3cSet fun m => { m with addr := none })

/-- ENEC: in-band interrupts may be sent. -/
def execEnec (_t : Nat) (s : State) : Out := .next (s.i3cSet fun m => { m with ibi := true })

/-- DISEC. -/
def execDisec (_t : Nat) (s : State) : Out := .next (s.i3cSet fun m => { m with ibi := false })

/-- A constant of the target, most significant byte first. -/
def i3cConst (k n : Nat) : List Byte := (leBytes n (Config.i3cConst k)).reverse

/-- GETPID. -/
def execGetpid (_t : Nat) (s : State) : Out := .next (s.i3cAnswer (i3cConst 0 6))

/-- GETBCR. -/
def execGetbcr (_t : Nat) (s : State) : Out := .next (s.i3cAnswer (i3cConst 1 1))

/-- GETDCR. -/
def execGetdcr (_t : Nat) (s : State) : Out := .next (s.i3cAnswer (i3cConst 2 1))

/-- GETSTATUS: the manual gives the status word no content. -/
def execGetstatus (_t : Nat) (s : State) : Out :=
  .next ((s.i3cAnswer (leBytes 2 (Config.freeValue s.free).toNat)).takeFree)

/-- GETMWL. -/
def execGetmwl (_t : Nat) (s : State) : Out := .next (s.i3cAnswer (i3cConst 3 2))

/-- GETMRL. -/
def execGetmrl (_t : Nat) (s : State) : Out := .next (s.i3cAnswer (i3cConst 4 2))

/-- RSTACT. -/
def execRstact (_t action : Nat) (s : State) : Out := .next (s.i3cSet fun m => { m with rstAct := action % 256 })

/-! ### Seal, checks and health (R552, R561, R563, R566) -/

/-- The legal partition changes its state, while the MD runs. -/
def State.mdSet (s : State) (f : Meter → Meter) : State := if s.md.on then s.mdChange f else s

/-- SEAL_CHANGE (R561): an accepted change of the seal input. -/
def execSealChange (t : Nat) (closed : Bool) (s : State) : Out :=
  .next (s.mdSet fun m =>
    if m.sealedIn = closed then m else { m.note t (if closed then 2 else 1) 0 0 0 with sealedIn := closed })

/-- CLOCK_CHECK (R552): the difference measured over 16 s. -/
def execClockCheck (t ppm : Nat) (s : State) : Out := .next (s.mdSet fun m => m.cond t 1 (100 < ppm))

/-- FW_HASH_CHECK (R566): at every start, which ends a restart, and every 24 hours. -/
def execFwHashCheck (t : Nat) (good : Bool) (s : State) : Out :=
  .next (if !s.md.on then s
    else
      let s := s.mdSet fun m => m.cond t 3 (!good)
      if s.md.restart then s.endRestart t else s)

/-- LID_LOOP_OPEN (R563). -/
def execLidLoopOpen (t : Nat) (opened : Bool) (s : State) : Out := .next (s.mdSet fun m => m.cond t 4 opened)

/-- ENERGY_SAMPLE (R548, R551): the integrators run whatever the firmware does. -/
def execEnergySample (t : Nat) (va ia vb ib : Int) (s : State) : Out :=
  .next (s.mdSet fun m => (m.sample va ia vb ib).cond t 7 (Meter.outOfRange va ia || Meter.outOfRange vb ib))

/-! ### Power of the metrology die (R574) -/

/-- NV_SNAPSHOT (R574). -/
def execNvSnapshot (t : Nat) (verified : Bool) (s : State) : Out := .next (s.mdSet fun m => m.snapshot t verified false)

/-- MD_BRANCH_FALL (R574): the final snapshot on hold-up; the MD then stops. -/
def execMdBranchFall (t : Nat) (verified : Bool) (s : State) : Out :=
  .next (if !s.md.on then s
    else s.onMd fun m => { (m.cond t 6 true).snapshot t verified true with on := false })

/-- MD_POWER_ON (R574). -/
def execMdPowerOn (t rtcNow : Nat) (s : State) : Out := .next (if s.md.on then s else s.onMd fun m => m.powerOn t rtcNow)

/-! ### The fabric dies' side (R546, R576, R577) -/

def rMtState (fd : Nat) : Reg := { name := .mtState, dev := fd }
def rMbxCtl (fd : Nat) : Reg := { name := .scMbxCtl, dev := fd }
def rMtEvcnt (fd : Nat) : Reg := { name := .mtEvcnt, dev := fd }

/-- A fabric die whose registers mirror the readout output. -/
def State.fdServes (s : State) (fd : Nat) : Bool := fd < 2 && s.pwr.pwrOk && !s.pwr.inReset && s.fdAlive fd

/-- REFUSE (17.10) of an MT_STATE value. -/
def refuseOf (v : Nat) : Bool := bit v 5 && !(bit v 0 && bit v 1 && bit v 3)

/-- MT_STATE takes a value, REFUSE with it; METER_STATE is raised where VALID, SEALED, TRADE, HEALTHY or REFUSE changes
(R577). -/
def State.setMt (s : State) (fd v : Nat) : State :=
  let old := s.reg (rMtState fd)
  let new := putBits v 6 1 (if refuseOf v then 1 else 0)
  let s := s.setReg (rMtState fd) new
  if [0, 1, 2, 3, 6].all fun i => bit old i = bit new i then s
  else s.event { code := 0x40, detail := new, detail2 := s.reg (rMtEvcnt fd) }

/-- MT_STATE of a status word, REFUSE left out. -/
def mtWord (m : Meter) : Nat := 1 + 2 * m.stateBits + (if m.trade then 32 else 0) + m.health * 65536

/-- STATUS_WORD (R564, R576): a status word reaches a fabric die. -/
def execStatusWord (t fd : Nat) (s : State) : Out :=
  let s := s.arrive t
  .next (if !s.md.on || !s.fdServes fd then s
    else
      let s := (s.setReg (rMtEvcnt fd) s.md.evcnt).setPair .mtLastFrn fd 0 s.md.lastFrn
      (s.onFd fd fun f => { f with statusAt := some t }).setMt fd (mtWord s.md))

/-- STATUS_WORD_TIMEOUT (R576): no status word stamped within 40 us, decided under R48. -/
def execStatusWordTimeout (t fd : Nat) (s : State) : Out :=
  let s := s.arrive t
  let late : Bool := match (s.fd fd).statusAt with
    | some a => a + 40000 + 32 ≤ t
    | none => true
  .next (if !s.fdServes fd || !late then s else s.setMt fd (putBits (s.reg (rMtState fd)) 0 1 0))

/-- BAR0 offset of SC_MBX_CTL (R648). -/
def offMbxCtl : Nat := 0x408020

/-- The nonce in SC_MBX_NONCE0-7. -/
def State.mbxNonce (s : State) (fd : Nat) : List Byte :=
  (List.range 8).flatMap fun i => leBytes 4 (s.reg { name := .scMbxNonce, dev := fd, n := i })

/-- MBX_GO (R577): the READ goes to the MD on this fabric die's link (log entry 49). -/
def execMbxGo (t port : Nat) (be : BitVec 4) (v : Word) (s : State) : Out :=
  .next (match (s.arrive t).wrFront port none offMbxCtl be with
    | (s, none) => s
    | (s, some r) =>
      if r.name ≠ .scMbxCtl || !bit v.toNat 24 then s
      else
        let s := s.applyWrite port none offMbxCtl r (putBits v.toNat 24 1 0)
        let s := ((s.setBit r 25 true).setBit r 27 false).onFd r.dev fun f => { f with mbxAt := some t }
        s.say (.md r.dev (leBytes 1 0x33 ++ leBytes 1 (s.fieldOf r 0 8) ++ leBytes 2 (s.fieldOf r 8 16) ++ s.mbxNonce r.dev)))

/-- MT_RSP0-63 take the bytes of a record. -/
def State.fillRsp (s : State) (fd : Nat) (bytes : List Byte) : State :=
  (List.range 64).foldl (fun acc i => acc.setReg { name := .mtRsp, dev := fd, n := i } (fld bytes (4 * i) 4)) s

/-- A mailbox request ends. -/
def State.mbxDone (s : State) (fd : Nat) (timeout : Bool) : State :=
  (((s.setBit (rMbxCtl fd) 25 false).setBit (rMbxCtl fd) 26 true).setBit (rMbxCtl fd) 27 timeout).onFd fd fun f =>
    { f with mbxAt := none }

/-- MBX_TIMEOUT (R577): no record within 5 ms, decided under R48; MT_RSP reads 0. -/
def execMbxTimeout (t fd : Nat) (s : State) : Out :=
  let s := s.arrive t
  let due : Bool := match (s.fd fd).mbxAt with
    | some a => a + 5000000 + 32 ≤ t
    | none => false
  .next (if !s.bitOf (rMbxCtl fd) 25 || !due then s else (s.fillRsp fd []).mbxDone fd true)

/-- READOUT_RECORD (R546): a record arrives on a fabric die's readout output. DONE is set where the mailbox waits for it;
an IDENT record is what R629's block 8 shows. -/
def execReadoutRecord (t fd : Nat) (bytes : List Byte) (s : State) : Out :=
  let s := s.arrive t
  .next (if !s.fdServes fd || bytes.length ≠ 256 then s
    else
      let s := s.fillRsp fd bytes
      let s := if fld bytes 1 1 = 1 && fld bytes 4 1 = 0 then
          { s with boot := { s.boot with ident := (bytes.drop 0x58).take 4 ++ (bytes.drop 0x70).take 48 } }
        else s
      if s.bitOf (rMbxCtl fd) 25 then s.mbxDone fd false else s)

end Sys2Proof.Machine
end

