-- ==== Sys2Proof/Machine/Power.lean ====
section
/-! DEFINITION. The commands of power entry, reset inputs, clocks, thermal limits and the test port (chapter 18). -/

namespace Sys2Proof.Machine

/-! ### The 48 V inputs (R581-R584, R587, R589) -/

/-- The package loses power or powers down: everything but the meter, flash and fuses is gone
(R587, R589). -/
def State.powerOff (s : State) (down : Bool) : State :=
  let was := s.pwr.pwrOk
  let s := s.fresh
  let s := { s with pwr := { s.pwr with pwrOk := false, pwrDn := down, coldLow := false, inReset := true, thermN := true } }
  if was then s.say (.pin "PWR_OK" false) else s

/-- An input comes or goes: GX_PWR_STAT and THERM_ALERT_N follow while the package runs (R582). -/
def State.setVin (s : State) (input : Nat) (ok : Bool) : State :=
  let s := { s with pwr := { s.pwr with vin := s.pwr.vin.set input ok } }
  if s.pwr.inReset then s else s.showInputs.thermPin

/-- An input is disconnected; without both, an uncontrolled power-off (R587, R589). -/
def State.dropVin (s : State) (input : Nat) : State :=
  let s := s.setVin input false
  if s.pwr.vin.any (·) then s else s.powerOff s.pwr.pwrDn

/-- VIN_LOSS (R582, R589): below the falling UVLO. -/
def execVinLoss (t input : Nat) (s : State) : Out := .next ((s.arrive t).dropVin input)

/-- VIN_RECONNECT (R582): 10 ms after the rising UVLO. -/
def execVinReconnect (t input : Nat) (s : State) : Out := .next ((s.arrive t).setVin input true)

/-- VIN_OVERVOLTAGE (R581): the input shuts down; its restart below 62.0 V is a VIN_RECONNECT. -/
def execVinOvervoltage (t input : Nat) (s : State) : Out := .next ((s.arrive t).dropVin input)

/-- MODFAIL (R584). -/
def execModfail (t : Nat) (s : State) : Out :=
  let s := s.arrive t
  .next (if s.pwr.inReset then s else s.setBit rPwrStat 2 true)

/-! ### Trips (R584, R593) -/

/-- A part trips: reason 4 (R515). The master's own trip stops the master: it waits for the takeover (R516). -/
def State.tripPart (s : State) (kind index : Nat) : State :=
  if s.pwr.inReset || !(kind = 2 || kind = 3 || kind = 4) then s
  else if kind = 4 && index = s.cm.master && s.hasMaster then
    { s with pwr := { s.pwr with waits := s.pwr.waits ++ [(4, index, 4)] } }
  else s.declareOrWait kind index 4

/-- SUPPLY_TRIP (R584): kind 0 the MD, whose branch is outside its limits (R563), 2 a compute die, 3 a stack, 4 a fabric
die. -/
def execSupplyTrip (t kind index : Nat) (s : State) : Out :=
  .next (if kind = 0 then s.mdSet fun m => m.cond t 6 true else (s.arrive t).tripPart kind index)

/-- THERMAL_TRIP (R593): kind 0 the MD, whose AFE flag it sets. -/
def execThermalTrip (t kind index : Nat) (s : State) : Out :=
  .next (if kind = 0 then s.mdSet fun m => m.cond t 0 true else (s.arrive t).tripPart kind index)

/-- THROTTLE_THRESHOLD (R591, R593): a die's hottest sensor rises to 90 C or falls below it. -/
def execThrottleThreshold (t die : Nat) (rising : Bool) (s : State) : Out :=
  let s := s.arrive t
  let rest := s.pwr.hotDies.filter (· != die)
  .next (if s.pwr.inReset then s
    else
      { s with pwr := { s.pwr with hotDies := if rising then die :: rest else rest },
               frames := { s.frames with hot := s.frames.hot || rising } }.thermPin)

/-! ### Power-up, power-down, cold reset (R585-R589) -/

/-- PWR_OK (R585, R598, R613): the rails are in regulation. With COLD_RST_N low (`cold`) the dies stay in reset. -/
def execPwrOk (_t : Nat) (msel recov test cold : Bool) (s : State) : Out :=
  .next (if s.pwr.pwrOk || s.pwr.pwrDn || !s.pwr.vin.any (·) then s
    else
      let s := s.say (.pin "PWR_OK" true)
      let s := { s with pwr := { s.pwr with refclk1 := false } }
      let s := if cold then
          let s := s.fresh
          { s with pwr := { s.pwr with pwrOk := true, coldLow := true, inReset := true, straps := [msel, recov, test] } }
        else s.bootPackage msel recov test
      { s with boot := { s.boot with perstFrom := 1000000 } })

/-- PERST_RELEASE (R586): training may start, at the earliest 1 ms after PWR_OK. -/
def execPerstRelease (t port : Nat) (s : State) : Out :=
  .next ((s.arrive t).onPort port fun h => { h with perst := false })

/-- PWR_DN_N (R587, R589). -/
def execPwrDnN (t : Nat) (s : State) : Out :=
  let s := s.arrive t
  .next (if s.pwr.pwrDn then s else s.powerOff true)

/-- PWR_DN_RELEASE (R587): with the inputs present the package powers up again, up to PWR_OK. -/
def execPwrDnRelease (t : Nat) (s : State) : Out :=
  .next { s.arrive t with pwr := { (s.arrive t).pwr with pwrDn := false } }

/-- COLD_RST_N (R588, R589): every die but the MD enters reset; HBM content is gone. -/
def execColdRstN (t : Nat) (s : State) : Out :=
  let s := s.arrive t
  .next (if !s.pwr.pwrOk || s.pwr.coldLow then s
    else
      let left := s.boot.perstFrom - t
      let s := s.fresh
      { s with pwr := { s.pwr with coldLow := true, inReset := true, thermN := true }, boot := { s.boot with perstFrom := left } })

/-- COLD_RESET_RELEASE (R588, R598, R613): start-up from the PWR_OK row, with the straps sampled again. -/
def execColdResetRelease (t : Nat) (msel recov test : Bool) (s : State) : Out :=
  let s := s.arrive t
  .next (if !s.pwr.coldLow then s
    else
      let left := s.boot.perstFrom - t
      let s := { s with pwr := { s.pwr with coldLow := false } }.bootPackage msel recov test
      { s with boot := { s.boot with perstFrom := left } })

/-! ### Clocks and the test port (R595, R601) -/

/-- REFCLK_LOSS (R595): PKG_REFCLK0 is lost; once every die runs on PKG_REFCLK1, its loss stops the package. -/
def execRefclkLoss (t : Nat) (s : State) : Out :=
  let s := s.arrive t
  .next (if s.pwr.refclk1 then { s with pwr := { s.pwr with inReset := true } }
    else { s with pwr := { s.pwr with refclk1 := true } })

/-- REFCLK_RETURN (R595). -/
def execRefclkReturn (t : Nat) (s : State) : Out :=
  let s := s.arrive t
  .next (if s.pwr.inReset then s else { s with pwr := { s.pwr with refclk1 := false } })

/-- A Quinulait port's link goes down, where it runs (R471). -/
def State.downQl (s : State) (p : Nat) : State :=
  if s.fieldOf (qlStatReg p) 0 2 ≠ 2 then s
  else (s.setField (qlStatReg p) 0 2 1).onQl p fun q => { q with downAt := some s.now }

/-- QL_REFCLK_LOSS (R595, R471): the fabric die's ports go down, and are lost 1 ms later by QL_PORT_LOST. -/
def execQlRefclkLoss (t fd : Nat) (s : State) : Out :=
  .next (if 2 ≤ fd then s.arrive t else (List.range 8).foldl (fun acc i => acc.downQl (8 * fd + i)) (s.arrive t))

/-- TEST_PORT_ACCESS (R601): it responds only while STRAP_TEST was high at sampling. -/
def execTestPortAccess (t : Nat) (s : State) : Out :=
  let s := s.arrive t
  .next (s.say (.test (s.pwr.straps.getD 2 false)))

end Sys2Proof.Machine
end

