-- ==== Sys2Proof/Machine/ResetOps.lean ====
section
/-! DEFINITION. Shared operations of full reset and the journal pass (R96-R100, R442, R616-R625). -/

namespace Sys2Proof.Machine

/-! ### Full reset (R96, R97, R442, R589, R616, R643) -/

/-- Registers whose value outlives a full reset (R643), with theta back at 256 (R591). -/
def State.keptRegs (s : State) : RegFile :=
  let keep (r : Reg) : Bool :=
    r.name = .ftFailed || r.name = .ftQlfail || r.name = .plFmCtl || r.name = .gxPwrStat || r.name = .scBootStat
  RegFile.set (s.regs.filter fun p => keep p.1) rPwrStat (BitVec.ofNat 32 (putBits (s.reg rPwrStat) 8 9 256))

/-- A ring as the retained journal leaves it: what was fetched and not consumed is fetched again (R99, R174). -/
def Ring.afterReset (r : Ring) : Ring :=
  { r with fetched := r.consumed, produce := r.consumed, lastDb := none, pending := false, serving := 0, missed := 0,
           lineAt := none, lineDue := false, reject := none, recover := true }

/-- A port whose link the reset takes down. -/
def HostPort.afterReset (h : HostPort) (t : Stamp) : HostPort :=
  { HostPort.reset with perst := h.perst, downAt := some t, nextId := h.nextId }

/-- Stacks keep their content; SCRATCH becomes undefined, L2 slices are empty, maintenance ends (R442, R443). -/
def State.memAfterReset (s : State) : State :=
  let windows := (List.range 256).filterMap fun w =>
    (s.window w).bind fun b => if expKind b = 1 then some (expBase b, expSize b) else none
  let s := (s.mem.hbm.scratch ++ windows).foldl (fun acc r => acc.makeUndef r.1 r.2) s
  { s with mem := { MemSys.reset with hbm := s.mem.hbm } }

/-- Every die but the MD resets; what R603 and the retained package state hold stays. -/
def State.resetDies (s : State) (token : Nat) : State :=
  let t := s.now
  let regs := s.keptRegs
  let s := s.memAfterReset
  let frames := { Frames.reset with lastFrn := s.frames.lastFrn, frn := s.frames.frn, ppsDone := s.frames.ppsDone,
                                    ppsSec := s.frames.ppsSec }
  let fab := { Fabric.reset with deadLinks := s.fab.deadLinks, halfLinks := s.fab.halfLinks }
  let pool := { s.pool with expNew := s.pool.exps, impNew := s.pool.imps, applied := [] }
  let flt := { s.flt with moveAt := [], reports := [], shunned := [] }
  let fds := s.boot.fds.map fun f =>
    { f with stoker := false, second := false, flashOp := none, flashBuf := Mem.empty, statusAt := none, mbxAt := none,
             recovery := f.recovery && f.store.isEmpty }
  let boot := { s.boot with fds := fds, ready := false, pass := none, done := false, resetAt := some t }
  { s with frames := frames, cm := { Masters.reset with token := token, master := s.cm.master }, regs := regs, shadow := [],
           armed := [], latches := [], ops := { s.ops with votes := [], sets := List.replicate 4 [] },
           rings := { sq := s.rings.sq.map Ring.afterReset, cq := [], ev := [] },
           ports := s.ports.map fun h => HostPort.afterReset h t, cores := List.replicate 36 Core.reset, fab := fab, pool := pool,
           flt := flt, boot := boot }

/-- The links of both ports go down; a stoker already started boots again from its store (R615). -/
def State.restartBoot (s : State) : State :=
  let s := { s with ports := s.ports.map fun h => HostPort.afterReset h s.now }
  { s with boot := { s.boot with fds := s.boot.fds.map fun f => { f with stoker := false } } }

/-- A full reset trigger (R96, R589, R615): ignored with the package off, powering down or in cold reset; before the first
READY only the links and a filled store restart; during a full reset the sequence restarts and the token stays. -/
def State.fullReset (s : State) : State :=
  if !s.pwr.pwrOk || s.pwr.pwrDn || s.pwr.coldLow || s.pwr.inReset then s
  else if s.boot.resetAt.isNone && !s.boot.ready then s.restartBoot
  else (s.resetDies (if s.boot.resetAt.isSome then s.cm.token else s.cm.token + 1)).thermPin

/-! ### GO (R618, R624, R625) -/

/-- Offsets of MC_SYS_BASE_LO, MC_MIRROR_OFF_LO, SC_DIE_CFG and CM_RECOVER (R648). -/
def offSysBase : Nat := 0x30000
def offMirror : Nat := 0x30008
def offDieCfg : Nat := 0x408004
def offRecover : Nat := 0x40200C

/-- The first of the two pairs of 13.10 that holds a reserved value. -/
def State.badPair (s : State) : Option Nat :=
  let m := s.pairOf .mcMirrorOff
  if s.sysBase % 0x8000000 ≠ 0 || devT < s.sysBase + 0x8000000 then some offSysBase
  else if m % 4096 ≠ 0 || devT ≤ m || m / 4096 % 9 = 0 then some offMirror
  else none

def rDieCfg : Reg := { name := .scDieCfg }

/-- The designation of R618 applies: dies that failed before the first tick have their roles moved there (R619). -/
def State.applyDieCfg (s : State) : State :=
  let b := bitf s.boot.dieCfg 0 4
  let full := bit s.boot.dieCfg 4
  let banked := if full || s.dieDead b then none else some b
  let dead := (List.range 9).filter fun d => s.dieDead d && (full || d ≠ b)
  let s := { s with flt := { s.flt with banked := banked, roles := [],
                                        moveAt := dead.map fun d => (d, s.now) } }
  s.setField rFtFailed 24 4 (banked.getD 0xF)

/-- SC_DIE_CFG at GO (R618). -/
def State.dieCfgGo (s : State) (recover : Bool) (port : Nat) : State :=
  let v := s.reg rDieCfg
  let s := if !recover then { s with boot := { s.boot with dieCfg := v } }
    else if v = s.boot.dieCfg then s
    else (s.setReg rDieCfg s.boot.dieCfg).cfgErr none errBUSY offDieCfg port
  s.applyDieCfg

/-- A write of CM_RECOVER with GO: where it starts the pass of this MODE, the state in which it does. -/
def State.goFront (s : State) (port : Nat) (be : BitVec 4) (v : Nat) (recover : Bool) : State × Bool :=
  match s.wrFront port none offRecover be with
  | (s, none) => (s, false)
  | (s, some r) =>
    if r.name ≠ .cmRecover || !bit v 1 || bit v 2 ≠ recover then (s, false)
    else
      let s := s.applyWrite port none offRecover r (putBits v 1 1 0)
      if !s.boot.ready || s.boot.pass.isSome || s.boot.done then (s, false)
      else match s.badPair with
        | some off => (s.cfgErr none errRSVD off port, false)
        | none =>
          let s := (s.setBit (rBootStat 0) 4 false).setBit (rBootStat 1) 4 false
          (s.dieCfgGo recover port, true)

def State.logBad (s : State) : State := (s.setBit (rBootStat 0) 4 true).setBit (rBootStat 1) 4 true

/-- FENCE to the MD and to remote targets with the current token, and the summaries again (R94, R556, R623). -/
def State.fenceAndResend (s : State) : State :=
  let s := s.fenceMeter
  let s := s.sayAll (s.openTargets.map fun x => .ql (s.qlNow x.port) 0x15 [s.initId, s.cm.token] [])
  (s.ops.decs.filter fun d => d.durable && d.sub = 0).foldl (fun acc d => acc.sendSummary d.frn) s

/-- Remote scopes of this far side: COMMITTING ones are finished, the rest freed (R500). -/
def State.settleScopes (s : State) : State :=
  s.pool.scopes.foldl (fun acc x =>
    if x.state = .committing then acc.finishCommit x 0 else acc.freeScope x) s

/-! ### FRESH (R100, R164, R507) -/

/-- Set a device range to 0 in its stacks. -/
def State.clearRange (s : State) (a n : Nat) : State :=
  let out (h : Nat) (c : Host.Cell) : Bool := deviceOf h c.1 < a || a + n ≤ deviceOf h c.1
  { s with mem := { s.mem with hbm := { s.mem.hbm with
      dram := s.mem.hbm.dram.zipIdx.map fun m => m.1.filter (out m.2),
      undef := s.mem.hbm.undef.flatMap (cutUndef a n) } } }

/-- Page maps and flags of both copies of the system area. -/
def State.clearSystem (s : State) : State :=
  (s.clearRange s.sysBase 0x6D00000).clearRange (s.mirror s.sysBase) 0x6D00000

/-- The FRESH pass: the journal is empty. -/
def State.freshPass (s : State) : State :=
  let s := { s with ops := Ops.reset, rings := { s.rings with sq := [] },
                    pool := { s.pool with locks := [], scopes := [], yes := [] } }
  let s := s.clearSystem
  let s := (List.range (if s.multipath then 1 else 2)).foldl (fun acc p =>
    acc.say (.hostWrite (if acc.multipath then acc.viaPort 0 else p)
      (acc.dlogBase (if acc.multipath then acc.viaPort 0 else p)) DLog.reset.header)) s
  s.enabledRings.foldl (fun acc x => acc.writeHeader x.1 x.2) s

/-! ### RECOVER: what is read (R74, R76, R99) -/

/-- A structure whose CRC at an offset is good. -/
def crcGood (b : List Byte) (off : Nat) : Bool := withCrc b off = b

/-- A ring log header that passes its check (R624). -/
def ringHeaderOk (b : List Byte) : Bool := fld b 0 1 = 0x10 && crcGood (b.take 64) 0x3C

def dlogHeaderOk (b : List Byte) : Bool := fld b 0 1 = 0x20 && crcGood (b.take 64) 0x3C

/-- An entry that counts as accepted: its LAP matches and its CRC is good. -/
def entryOk (b : List Byte) (lap : Nat) : Bool :=
  b.length = 256 && fld b 0 1 = 1 && fld b 4 4 = lap && crcGood (patch b 0x38 (leBytes 4 0)) 0x3C

/-- An operation rebuilt from its entry (R74, R99). What only the attempt knew is free. -/
def State.rebuild (s : State) (tables : List PageTables) (pg n i lap : Nat) (b : List Byte) : OpRec :=
  let fmt := fld b 1 1
  let tab := (tables.find? (·.page = pg)).getD { page := pg, tensors := [], regions := [] }
  let c : Cand := { pg := pg, ring := n, fmt := fmt, raw := (b.drop 0x40).take (fmtSize fmt), tensors := tab.tensors,
                    regions := tab.regions }
  let target (k : Nat) : RTarget :=
    let w := fld b (0xC0 + 8 * k) 4
    { epid := bitf w 0 16, port := bitf w 16 4, rwin := fld b (0xC4 + 8 * k) 4 }
  let a := fld b 0x38 4
  { ctx := s.opCtx c (fld b 8 8), page := pg, slot := fld b 0x1C 4, fmt := fmt, raw := c.raw, logSlot := i, lap := lap,
    issue := fld b 0x10 8, deadline := fld b 0x10 8, accept := some s.now, stage := .accepted,
    targets := (List.range (min 8 (fld b 3 1))).map target, replays := bitf a 0 8, ovr := bit a 8,
    rfail := bitf a 16 2, rfailTgt := bitf a 18 3, bad := [], cores := [], firstFrn := none, ended := none, notes := 0,
    units := 65536 * (Config.freeValue s.free).toNat, voted := false, guards := 0, held := false, pages := [], homes := [],
    sent := [], remoteNo := [], acks := 0, votes := [], append := none, appendHi := 0, deltas := [], us := [], res := none }

/-- One entry of a ring's log: the operation the retained state still holds, else one rebuilt. -/
def State.takeEntry (s : State) (tables : List PageTables) (pg n i lap : Nat) (b : List Byte) : State × OpRec :=
  match s.op? (fld b 8 8) with
  | some o => (s, if o.stage = .issued then { o with stage := .accepted, accept := some s.now } else o)
  | none => (s.takeFree, s.rebuild tables pg n i lap b)

/-- The count a ring's next descriptor has: after the last accepted entry's SLOT. -/
def nextCount (consumed size slot : Nat) : Nat :=
  consumed + (slot + 1 + size - consumed % size) % size

/-- Re-read a ring's log (R99, R624). -/
def State.readRing (s : State) (tables : List PageTables) (x : RingLogRead) : State :=
  let pg := x.page
  let n := x.ring
  let b := x.header
  if !ringHeaderOk b then (s.setBit { name := .sqCfg, dev := pg, n := n } 31 false).logBad
  else
    let size := s.logSize pg n
    let head := (fld b 8 4 - 1) * size + fld b 4 4
    let step (a : State × List OpRec × Nat) (e : List Byte × Nat) : State × List OpRec × Nat :=
      let i := head + e.2
      if entryOk e.1 (i / size + 1) then
        let r := a.1.takeEntry tables pg n (i % size) (i / size + 1) e.1
        (r.1, a.2.1 ++ [r.2], i + 1)
      else a
    let r : State × List OpRec × Nat := x.entries.zipIdx.foldl step (s, [], head)
    let ops := r.2.1
    let s := { r.1 with ops := { r.1.ops with
      list := (r.1.ops.list.filter fun (o : OpRec) => !(o.page = pg && o.ctx.ring = n)) ++ ops } }
    let old := s.ring pg n
    let top := ops.foldl (fun m o => max m o.ctx.asn) (fld b 0x10 8)
    let next := match ops.getLast? with
      | some o => nextCount old.consumed (s.sqSize pg n) o.slot
      | none => old.consumed
    let s := { s with ops := { s.ops with asnFloor := max s.ops.asnFloor top } }
    s.putRing { old with written := r.2.2, durable := head, freed := head, posted := fld b 0x10 8, lastFrn := fld b 0x18 8,
                         lastAsn := top, consumed := next % 2 ^ 32, fetched := next % 2 ^ 32, produce := next % 2 ^ 32,
                         recover := false }

/-! ### RECOVER: decisions (R77, R95, R99) -/

/-- A decision record as read. -/
structure ReadDec where
  frn      : Nat
  sub      : Nat
  token    : Nat
  allAbort : Bool
  through  : List (Nat × Nat × Nat)
  outs     : List OpOutcome

/-- Parse a decision record; none where it is not one. -/
def ReadDec.parse (b : List Byte) (mp : Bool) : Option ReadDec :=
  let nring := fld b 6 2
  let nexc := fld b 0x20 2
  let sec (i : Nat) : Nat × Nat × Nat :=
    let o := 64 + 16 * i
    (pageOf mp (fld b (o + 4) 1) (fld b o 2), fld b (o + 2) 2, fld b (o + 8) 8)
  let item (i : Nat) : OpOutcome :=
    let o := 64 + 16 * nring + 16 * i
    { asn := fld b o 8, outcome := fld b (o + 13) 1, cause := fld b (o + 14) 1, tgt := fld b (o + 15) 1, info := 0 }
  if fld b 0 1 = 0x21 && b.length = 64 * fld b 4 2 && 64 + 16 * (nring + nexc) ≤ b.length && crcGood b 0x3C then
    some { frn := fld b 8 8, sub := fld b 1 1, token := fld b 0x10 8, allAbort := bit (fld b 2 2) 0,
           through := (List.range nring).map sec, outs := (List.range nexc).map item }
  else none

/-- Of records for one point, the highest token governs (R95). -/
def governing (ds : List ReadDec) : List ReadDec :=
  ds.filter fun d => !(ds.any fun x => x.frn = d.frn && x.sub = d.sub && d.token < x.token)

/-- Decision points in order, each once. -/
def orderDecs (ds : List ReadDec) : List ReadDec :=
  (ascending ((ds.map fun d => d.frn * 8 + d.sub).eraseDups)).filterMap fun k =>
    ds.find? fun d => d.frn * 8 + d.sub = k

/-- Outcomes of a record: its items, and OK for unresolved operations up to THROUGH. A record known to be late aborts its
whole scope (R87). -/
def State.readOuts (s : State) (d : ReadDec) : List OpOutcome :=
  let open_ (o : OpRec) : Bool :=
    o.stage != .resolved && !(d.outs.any (·.asn = o.ctx.asn))
      && d.through.any fun (r : Nat × Nat × Nat) => r.1 = o.page && r.2.1 = o.ctx.ring && o.ctx.asn ≤ r.2.2
  let ok := (s.ops.list.filter open_).map fun o =>
    ({ asn := o.ctx.asn, outcome := 0, cause := 0, tgt := 0xFF, info := 0 } : OpOutcome)
  let late := match s.dec? d.frn d.sub with | some x => x.late && x.token = d.token | none => false
  if late then (ok ++ d.outs).map fun x => { x with outcome := 0xFF, cause := 7, tgt := 0xFF } else ok ++ d.outs

/-- Apply a durable record, unless it was in force before the reset. -/
def State.applyRead (s : State) (d : ReadDec) : State :=
  let known := s.dec? d.frn d.sub
  if (match known with | some x => x.inForce && x.token = d.token | none => false) then s
  else
    let outs := s.readOuts d
    let s := outs.foldl (fun acc x => match acc.op? x.asn with
      | some o => if o.stage = .resolved then acc
        else
          let acc := acc.settle d.frn d.sub x
          (match acc.op? x.asn with
            | some y => if x.outcome = 0xFF then acc.writeAttempt y else acc
            | none => acc)
      | none => acc) s
    match known with
    | some x => s.putDec { x with durable := true, inForce := true, allAbort := d.allAbort, token := d.token,
                                  remote := if d.allAbort then [] else x.remote }
    | none => s

/-- A RESET record for a point left undecided (R99). -/
def State.resetPoint (s : State) (frn sub : Nat) (scope : List OpRec) : State :=
  let d : Decision :=
    { frn := frn, sub := sub, token := s.cm.token, stamp := s.now, deadline := s.now, allAbort := true, fence := false,
      scope := scope.map (·.ctx.asn),
      outs := scope.map fun o => { asn := o.ctx.asn, outcome := 0xFF, cause := 9, tgt := 0xFF, info := 0 },
      durable := true, late := false, applied := [], inForce := true,
      remote := (targetsOf scope).map fun x => (x, false), offs := [], sums := [] }
  let r := s.writeDecision d (ringsOf scope)
  let s := d.remote.foldl (fun acc x => acc.tellTarget d x.1) r.1
  let s := scope.foldl (fun acc o =>
    let acc := acc.settle frn sub { asn := o.ctx.asn, outcome := 0xFF, cause := 9, tgt := 0xFF, info := 0 }
    (match acc.op? o.ctx.asn with | some y => acc.writeAttempt y | none => acc)) s
  s.putDec { r.2 with remote := [], durable := true, inForce := true }

/-- An attempt under way at the reset. -/
def OpRec.underWay (o : OpRec) : Bool :=
  o.stage = .running || o.stage = .finished || ((o.ended.isSome || o.voted) && o.stage != .resolved)

/-- Abort every scope left undecided; attempts outside any scope simply start over. -/
def State.abortUndecided (s : State) : State :=
  let lost := s.ops.decs.filter fun d => !d.inForce
  let s := { s with ops := { s.ops with decs := s.ops.decs.filter (·.inForce) } }
  let s := lost.foldl (fun acc d =>
    acc.resetPoint d.frn d.sub ((d.scope.filterMap acc.op?).filter (·.stage != .resolved))) s
  let rest := s.ops.list.filter fun o => o.underWay && !(s.ring o.page o.ctx.ring).recover
  let s := if rest.isEmpty || (s.dec? s.frames.frn 0).isSome then s else s.resetPoint s.frames.frn 0 rest
  (s.ops.list.filter (·.underWay)).foldl (fun acc o =>
    ((acc.settlePages o.ctx.asn false o.pages).settleAppend o 2).onOp o.ctx.asn fun x =>
      { x.replayed 0 0xFF [] with replays := x.replays, ovr := x.ovr, rfail := x.rfail, rfailTgt := x.rfailTgt }) s

/-! ### RECOVER: completion rings (R99, R146) -/

/-- One slot after the published produce index: kept where it holds a record of the current phase and an ASN of a ring of
this completion ring. -/
def State.keepPosted (s : State) (pg cq : Nat) : List (List Byte) → State
  | [] => s
  | b :: bs =>
    let c := s.cring pg cq
    let phase := c.tail / s.cqSize pg cq % 2 = 0
    match s.op? (fld b 0x10 8) with
    | none => s
    | some o =>
      if bit (fld b 0 1) 0 ≠ phase || bit (fld b 0 1) 1 || o.page ≠ pg || s.cqOf pg o.ctx.ring ≠ cq
          || o.stage != .resolved then s
      else
        let r := s.ring pg o.ctx.ring
        let s := s.putCring { c with tail := (c.tail + 1) % 2 ^ 32 }
        let s := s.putRing { r with durable := r.durable + 1, posted := o.ctx.asn, lastFrn := fld b 0xC 4 }
        let s := { s with ops := { s.ops with list := s.ops.list.filter fun y => y.ctx.asn != o.ctx.asn } }
        s.keepPosted pg cq bs

/-- A completion ring goes on from the TAIL and HEAD its lines hold. -/
def State.readCq (s : State) (x : CqRead) : State :=
  let s := s.putCring { page := x.page, n := x.cq, tail := x.tail % 2 ^ 32, head := x.head % 2 ^ 32, pend := [] }
  let s' := s.keepPosted x.page x.cq x.slots
  if (s'.cring x.page x.cq).tail = x.tail % 2 ^ 32 then s' else s'.tailLine x.page x.cq s'.frames.frn

end Sys2Proof.Machine
end

