-- ==== Sys2Proof/Machine/Reset.lean ====
section
/-! DEFINITION. The commands of full reset and the journal pass (chapters 3, 4, 19). -/

namespace Sys2Proof.Machine

/-- PERST_N (R136): the port stays in fundamental reset until its release. -/
def execPerstN (t port : Nat) (s : State) : Out :=
  let s := s.arrive t
  .next ((if s.pwr.pwrDn || s.pwr.coldLow then s else s.onPort port fun h => { h with perst := true }).fullReset)

/-- HOT_RESET (R136). -/
def execHotReset (t _port : Nat) (s : State) : Out := .next (s.arrive t).fullReset

/-- Offset of GX_CTL (R648). -/
def offGxCtl : Nat := 0x10

/-- FULL_RESET (R96): 0x0A5A alone triggers one. -/
def execFullReset (t port : Nat) (be : BitVec 4) (v : Word) (s : State) : Out :=
  .next (match (s.arrive t).wrFront port none offGxCtl be with
    | (s, none) => s
    | (s, some r) => if r.name = .gxCtl ∧ bitf v.toNat 0 16 = 0x0A5A then s.fullReset else s)

/-- A fabric die boots again from its image store, or from flash where the store does not verify (R616). -/
def State.reboot (s : State) (fd : Nat) : State :=
  let f := s.fd fd
  if !s.fdAlive fd || s.fdTripped fd || f.stoker || f.recovery || f.reading then s
  else if slotOk f.storeRd f.fuseSvn then s.startStoker fd
  else s.onFd fd fun f => { f with reading := true, second := false, slot := f.firstSlot }

/-- READ of IDENT by the stoker (R613). -/
def State.readIdent (s : State) : State := s.toMeter (leBytes 1 0x33 ++ leBytes 1 1 ++ leBytes 34 0)

/-- RESET_REBOOT_READY (R613, R616): READY once a stoker runs and no fabric die still reads its flash. -/
def execResetRebootReady (t : Nat) (s : State) : Out :=
  let s := s.arrive t
  .next (if !s.pwr.pwrOk || s.pwr.inReset || s.boot.ready then s
    else
      let s := ((s.reboot 0).reboot 1).chooseMaster
      let s := if s.hasMaster then s.settleWaits else s
      let waits (f : Nat) : Bool := s.fdAlive f && (s.fd f).reading
      if waits 0 || waits 1 || !((s.fd 0).stoker || (s.fd 1).stoker) then s
      else ({ s with boot := { s.boot with ready := true } }.recoverBits 0 true).readIdent)

/-- RECOVER_GO_FRESH (R100, R618, R623, R625). -/
def execRecoverGoFresh (t port : Nat) (be : BitVec 4) (v : Word) (s : State) : Out :=
  .next (match (s.arrive t).goFront port be v.toNat false with
    | (s, false) => s
    | (s, true) =>
      let s := s.settleScopes.freshPass.fenceMeter
      { s with boot := { s.boot with pass := some false } })

/-- RECOVER_GO_RECOVER (R99, R618, R623-R625). The operands are what the package reads: each decision log's header and the
records from APPLIED_OFF on; for each enabled ring its log header and the entries from HEAD_IDX on; for each completion
ring its TAIL, HEAD and the slots after TAIL; the table entries that the journaled descriptors name. -/
def execRecoverGoRecover (t port : Nat) (be : BitVec 4) (v : Word) (dlogs : List DecLogRead)
    (rlogs : List RingLogRead) (posted : List CqRead) (tables : List PageTables) (s : State) : Out :=
  .next (match (s.arrive t).goFront port be v.toNat true with
    | (s, false) => s
    | (s, true) =>
      if dlogs.any fun d => !dlogHeaderOk d.header then s.logBad
      else
        let logs := dlogs.map fun d => ({ writeOff := fld d.header 8 8, appliedOff := fld d.header 0x10 8, lap := fld d.header 0x18 4 } : DLog)
        let s := { s with ops := { s.ops with dlogs := logs ++ s.ops.dlogs.drop logs.length } }
        let s := rlogs.foldl (fun acc x => acc.readRing tables x) s
        let recs := (dlogs.flatMap (·.records)).filterMap fun b => ReadDec.parse b s.multipath
        let s := (orderDecs (governing recs)).foldl (fun acc d => acc.applyRead d) s
        let s := s.abortUndecided.settleScopes.fenceAndResend
        let s := posted.foldl (fun acc x => acc.readCq x) s
        { s with boot := { s.boot with pass := some true } })

/-- JOURNAL_PASS_DONE (R622, R626): DONE is set, and every ring is watched. -/
def execJournalPassDone (t : Nat) (s : State) : Out :=
  let s := s.arrive t
  .next (if s.boot.pass.isNone || s.boot.done then s
    else
      let s := { s with boot := { s.boot with done := true, resetAt := none } }.recoverBits 3 true
      let s := s.enabledRings.foldl (fun acc x =>
        if acc.watches x.1 x.2 then acc.readLine (acc.watchPort x.1 x.2) (acc.dbWord x.1 x.2) else acc) s
      (s.stretch 0).stretch 1)

end Sys2Proof.Machine
end

