-- ==== Sys2Proof/Machine/Sequencer.lean ====
section
/-! DEFINITION. The commands of the core sequencer (chapter 11): one instruction of the running program of a core. -/

namespace Sys2Proof.Machine

/-- One sequencer instruction on a core (R375, R396). -/
def State.seqOn (s : State) (core : Nat) (f : Core → Core) : State := s.onCore core (Core.seq · f)

/-- An ALU instruction (R380). -/
def State.aluOn (s : State) (core : Nat) (rd ra rb : BitVec 5) (f : Word → Word → Word) : State :=
  s.seqOn core fun k => k.alu rd ra rb f

/-- A register and immediate instruction (R379). -/
def State.immOn (s : State) (core : Nat) (rd ra : BitVec 5) (f : Word → Word) : State :=
  s.seqOn core fun k => k.putReg rd (f (k.bank.reg ra))

/-- A conditional branch on g[ra] and g[rb] (R379). -/
def State.brOn (s : State) (core : Nat) (ra rb : BitVec 5) (off : BitVec 16) (p : Word → Word → Bool) : State :=
  s.seqOn core fun k => k.branchIf ra rb off p

/-- ADD (R380). -/
def execAdd (core : Nat) (rd ra rb : BitVec 5) (s : State) : Out :=
  .next (s.aluOn core rd ra rb (· + ·))

/-- SUB (R380). -/
def execSub (core : Nat) (rd ra rb : BitVec 5) (s : State) : Out :=
  .next (s.aluOn core rd ra rb (· - ·))

/-- AND (R380). -/
def execAnd (core : Nat) (rd ra rb : BitVec 5) (s : State) : Out :=
  .next (s.aluOn core rd ra rb (· &&& ·))

/-- OR (R380). -/
def execOr (core : Nat) (rd ra rb : BitVec 5) (s : State) : Out :=
  .next (s.aluOn core rd ra rb (· ||| ·))

/-- XOR (R380). -/
def execXor (core : Nat) (rd ra rb : BitVec 5) (s : State) : Out :=
  .next (s.aluOn core rd ra rb (· ^^^ ·))

/-- SHL (R380). -/
def execShl (core : Nat) (rd ra rb : BitVec 5) (s : State) : Out :=
  .next (s.aluOn core rd ra rb fun a b => a <<< (b.toNat % 32))

/-- SHR (R380). -/
def execShr (core : Nat) (rd ra rb : BitVec 5) (s : State) : Out :=
  .next (s.aluOn core rd ra rb fun a b => a >>> (b.toNat % 32))

/-- SAR (R380). -/
def execSar (core : Nat) (rd ra rb : BitVec 5) (s : State) : Out :=
  .next (s.aluOn core rd ra rb fun a b => a.sshiftRight (b.toNat % 32))

/-- CLT (R380). -/
def execClt (core : Nat) (rd ra rb : BitVec 5) (s : State) : Out :=
  .next (s.aluOn core rd ra rb fun a b => flag (decide (a.toInt < b.toInt)))

/-- CLTU (R380). -/
def execCltu (core : Nat) (rd ra rb : BitVec 5) (s : State) : Out :=
  .next (s.aluOn core rd ra rb fun a b => flag (decide (a.toNat < b.toNat)))

/-- MUL (R380). -/
def execMul (core : Nat) (rd ra rb : BitVec 5) (s : State) : Out :=
  .next (s.aluOn core rd ra rb (· * ·))

/-- MUL.HI: the signed high half (R380). -/
def execMulHi (core : Nat) (rd ra rb : BitVec 5) (s : State) : Out :=
  .next (s.aluOn core rd ra rb mulHi)

/-- MUL.HIU: the unsigned high half (R380). -/
def execMulHiu (core : Nat) (rd ra rb : BitVec 5) (s : State) : Out :=
  .next (s.aluOn core rd ra rb mulHiU)

/-- QUO (R380, R382). -/
def execQuo (core : Nat) (rd ra rb : BitVec 5) (s : State) : Out :=
  .next (s.aluOn core rd ra rb quo)

/-- QUOU (R380, R382). -/
def execQuou (core : Nat) (rd ra rb : BitVec 5) (s : State) : Out :=
  .next (s.aluOn core rd ra rb quou)

/-- MOD (R380, R382). -/
def execMod (core : Nat) (rd ra rb : BitVec 5) (s : State) : Out :=
  .next (s.aluOn core rd ra rb modS)

/-- MODU (R380, R382). -/
def execModu (core : Nat) (rd ra rb : BitVec 5) (s : State) : Out :=
  .next (s.aluOn core rd ra rb modU)

/-- MIN (R380). -/
def execMin (core : Nat) (rd ra rb : BitVec 5) (s : State) : Out :=
  .next (s.aluOn core rd ra rb fun a b => if b.toInt < a.toInt then b else a)

/-- MAX (R380). -/
def execMax (core : Nat) (rd ra rb : BitVec 5) (s : State) : Out :=
  .next (s.aluOn core rd ra rb fun a b => if a.toInt < b.toInt then b else a)

/-- MINU (R380). -/
def execMinu (core : Nat) (rd ra rb : BitVec 5) (s : State) : Out :=
  .next (s.aluOn core rd ra rb fun a b => if b.toNat < a.toNat then b else a)

/-- MAXU (R380). -/
def execMaxu (core : Nat) (rd ra rb : BitVec 5) (s : State) : Out :=
  .next (s.aluOn core rd ra rb fun a b => if a.toNat < b.toNat then b else a)

/-- FADD (R380, R383). -/
def execFadd (core : Nat) (rd ra rb : BitVec 5) (s : State) : Out :=
  .next (s.aluOn core rd ra rb fadd)

/-- FSUB (R380, R383). -/
def execFsub (core : Nat) (rd ra rb : BitVec 5) (s : State) : Out :=
  .next (s.aluOn core rd ra rb fsub)

/-- FMUL (R380, R383). -/
def execFmul (core : Nat) (rd ra rb : BitVec 5) (s : State) : Out :=
  .next (s.aluOn core rd ra rb fmul)

/-- FMIN (R380, R383). -/
def execFmin (core : Nat) (rd ra rb : BitVec 5) (s : State) : Out :=
  .next (s.aluOn core rd ra rb fmin)

/-- FMAX (R380, R383). -/
def execFmax (core : Nat) (rd ra rb : BitVec 5) (s : State) : Out :=
  .next (s.aluOn core rd ra rb fmax)

/-- FCLT (R380, R383). -/
def execFclt (core : Nat) (rd ra rb : BitVec 5) (s : State) : Out :=
  .next (s.aluOn core rd ra rb fun a b => flag (Val.lt (f32 a) (f32 b)))

/-- FCEQ (R380, R383). -/
def execFceq (core : Nat) (rd ra rb : BitVec 5) (s : State) : Out :=
  .next (s.aluOn core rd ra rb fun a b => flag (Val.eqv (f32 a) (f32 b)))

/-- ADD.K (R379). -/
def execAddK (core : Nat) (rd ra : BitVec 5) (imm : BitVec 16) (s : State) : Out :=
  .next (s.immOn core rd ra fun a => a + imm.signExtend 32)

/-- AND.K (R379). -/
def execAndK (core : Nat) (rd ra : BitVec 5) (imm : BitVec 16) (s : State) : Out :=
  .next (s.immOn core rd ra fun a => a &&& imm.zeroExtend 32)

/-- OR.K (R379). -/
def execOrK (core : Nat) (rd ra : BitVec 5) (imm : BitVec 16) (s : State) : Out :=
  .next (s.immOn core rd ra fun a => a ||| imm.zeroExtend 32)

/-- XOR.K (R379). -/
def execXorK (core : Nat) (rd ra : BitVec 5) (imm : BitVec 16) (s : State) : Out :=
  .next (s.immOn core rd ra fun a => a ^^^ imm.zeroExtend 32)

/-- CLT.K (R379). -/
def execCltK (core : Nat) (rd ra : BitVec 5) (imm : BitVec 16) (s : State) : Out :=
  .next (s.immOn core rd ra fun a => flag (decide (a.toInt < (imm.signExtend 32).toInt)))

/-- CLTU.K (R379). -/
def execCltuK (core : Nat) (rd ra : BitVec 5) (imm : BitVec 16) (s : State) : Out :=
  .next (s.immOn core rd ra fun a => flag (decide (a.toNat < (imm.signExtend 32).toNat)))

/-- HI.K (R379). -/
def execHiK (core : Nat) (rd ra : BitVec 5) (imm : BitVec 16) (s : State) : Out :=
  .next (s.immOn core rd ra fun a => (imm.zeroExtend 32 <<< 16) ||| (a &&& 0xFFFF#32))

/-- SHL.K (R379). -/
def execShlK (core : Nat) (rd ra k : BitVec 5) (s : State) : Out :=
  .next (s.immOn core rd ra fun a => a <<< k.toNat)

/-- SHR.K (R379). -/
def execShrK (core : Nat) (rd ra k : BitVec 5) (s : State) : Out :=
  .next (s.immOn core rd ra fun a => a >>> k.toNat)

/-- SAR.K (R379). -/
def execSarK (core : Nat) (rd ra k : BitVec 5) (s : State) : Out :=
  .next (s.immOn core rd ra fun a => a.sshiftRight k.toNat)

/-- PCREL (R379). -/
def execPcrel (core : Nat) (rd : BitVec 5) (imm : BitVec 16) (s : State) : Out :=
  .next (s.seqOn core fun k => k.putReg rd (k.bank.pc + (imm.signExtend 32 <<< 2)))

/-- LD.W (R379, R375). -/
def execLdW (core : Nat) (rd ra : BitVec 5) (imm : BitVec 16) (s : State) : Out :=
  .next (s.seqOn core fun k => k.load rd ra imm 4 fun v => BitVec.ofNat 32 v)

/-- LD.HS: a halfword, sign-extended (R379, R375). -/
def execLdHs (core : Nat) (rd ra : BitVec 5) (imm : BitVec 16) (s : State) : Out :=
  .next (s.seqOn core fun k => k.load rd ra imm 2 fun v => (BitVec.ofNat 16 v).signExtend 32)

/-- LD.HU: a halfword, zero-extended (R379, R375). -/
def execLdHu (core : Nat) (rd ra : BitVec 5) (imm : BitVec 16) (s : State) : Out :=
  .next (s.seqOn core fun k => k.load rd ra imm 2 fun v => BitVec.ofNat 32 v)

/-- LD.BS: a byte, sign-extended (R379, R375). -/
def execLdBs (core : Nat) (rd ra : BitVec 5) (imm : BitVec 16) (s : State) : Out :=
  .next (s.seqOn core fun k => k.load rd ra imm 1 fun v => (BitVec.ofNat 8 v).signExtend 32)

/-- LD.BU: a byte, zero-extended (R379, R375). -/
def execLdBu (core : Nat) (rd ra : BitVec 5) (imm : BitVec 16) (s : State) : Out :=
  .next (s.seqOn core fun k => k.load rd ra imm 1 fun v => BitVec.ofNat 32 v)

/-- ST.W (R379, R375). -/
def execStW (core : Nat) (rd ra : BitVec 5) (imm : BitVec 16) (s : State) : Out :=
  .next (s.seqOn core fun k => k.storeReg rd ra imm 4)

/-- ST.H (R379, R375). -/
def execStH (core : Nat) (rd ra : BitVec 5) (imm : BitVec 16) (s : State) : Out :=
  .next (s.seqOn core fun k => k.storeReg rd ra imm 2)

/-- ST.B (R379, R375). -/
def execStB (core : Nat) (rd ra : BitVec 5) (imm : BitVec 16) (s : State) : Out :=
  .next (s.seqOn core fun k => k.storeReg rd ra imm 1)

/-- BR.EQ; the first register field is ra, the second rb (11.5, R379). -/
def execBrEq (core : Nat) (ra rb : BitVec 5) (off : BitVec 16) (s : State) : Out :=
  .next (s.brOn core ra rb off fun a b => a == b)

/-- BR.NE; the first register field is ra, the second rb (11.5, R379). -/
def execBrNe (core : Nat) (ra rb : BitVec 5) (off : BitVec 16) (s : State) : Out :=
  .next (s.brOn core ra rb off fun a b => a != b)

/-- BR.LT; the first register field is ra, the second rb (11.5, R379). -/
def execBrLt (core : Nat) (ra rb : BitVec 5) (off : BitVec 16) (s : State) : Out :=
  .next (s.brOn core ra rb off fun a b => decide (a.toInt < b.toInt))

/-- BR.GE; the first register field is ra, the second rb (11.5, R379). -/
def execBrGe (core : Nat) (ra rb : BitVec 5) (off : BitVec 16) (s : State) : Out :=
  .next (s.brOn core ra rb off fun a b => decide (b.toInt ≤ a.toInt))

/-- BR.LTU; the first register field is ra, the second rb (11.5, R379). -/
def execBrLtu (core : Nat) (ra rb : BitVec 5) (off : BitVec 16) (s : State) : Out :=
  .next (s.brOn core ra rb off fun a b => decide (a.toNat < b.toNat))

/-- BR.GEU; the first register field is ra, the second rb (11.5, R379). -/
def execBrGeu (core : Nat) (ra rb : BitVec 5) (off : BitVec 16) (s : State) : Out :=
  .next (s.brOn core ra rb off fun a b => decide (b.toNat ≤ a.toNat))

/-- BRA (R379). -/
def execBra (core : Nat) (off : BitVec 26) (s : State) : Out :=
  .next (s.seqOn core fun k => k.setBank (k.bank.jump (k.bank.target off)))

/-- CALL (R379). -/
def execCall (core : Nat) (off : BitVec 26) (s : State) : Out := .next (s.seqOn core (·.call off))

/-- CALLR (R379). -/
def execCallr (core : Nat) (rd ra : BitVec 5) (imm : BitVec 16) (s : State) : Out :=
  .next (s.seqOn core (·.callr rd ra imm))

/-- SGET (R373, R381). -/
def execSget (core : Nat) (rd rb : BitVec 5) (s : State) : Out := .next (s.seqOn core (·.sget rd rb))

/-- SPUT (R373, R381). -/
def execSput (core : Nat) (ra rb : BitVec 5) (s : State) : Out := .next (s.seqOn core (·.sput ra rb))

/-- HRET (R381, R389, R390). -/
def execHret (core : Nat) (s : State) : Out := .next (s.seqOn core (·.hret))

/-- TRAP (R381, R388). -/
def execTrap (core : Nat) (code : BitVec 5) (s : State) : Out := .next (s.seqOn core (·.trap code))

/-- DONE (R381, R395). -/
def execDone (core : Nat) (code : BitVec 5) (s : State) : Out := .next (s.seqOn core (·.done code))

/-- FENCE (R381): stores take effect at once in this model, so it only continues. -/
def execFence (core : Nat) (s : State) : Out := .next (s.seqOn core fun k => k.setBank k.bank.next)

/-- QT (R386, R400, R426): words g[ra], g[rb], g[rc]. -/
def execQt (core : Nat) (ra rb rc : BitVec 5) (s : State) : Out :=
  .next (s.seqOn core fun k =>
    k.queueTile (s.resident core) (k.bank.reg ra) (k.bank.reg rb) (k.bank.reg rc))

/-- SEST (R386, R336). -/
def execSest (core : Nat) (ra : BitVec 5) (eng : BitVec 3) (s : State) : Out :=
  .next (s.seqOn core (·.sest ra eng))

/-- TGET (R379, R386). -/
def execTget (core : Nat) (eng : BitVec 3) (ctr : BitVec 2) (s : State) : Out :=
  .next (s.seqOn core (·.tget eng ctr))

/-- TPUT (R379, R386). -/
def execTput (core : Nat) (eng : BitVec 3) (ctr : BitVec 2) (s : State) : Out :=
  .next (s.seqOn core (·.tput eng ctr))

/-- CVT (R384). -/
def execCvt (core : Nat) (rd ra rb : BitVec 5) (site dst : BitVec 4) (src : Bool) (s : State) : Out :=
  .next (s.seqOn core (·.convert rd ra rb site dst src))

/-- DEC (R385). -/
def execDec (core : Nat) (rd ra : BitVec 5) (src : BitVec 4) (s : State) : Out :=
  .next (s.seqOn core (·.decode rd ra src))

/-- An undefined word is fetched (R394). -/
def execIllegalInstruction (core : Nat) (word : Word) (s : State) : Out :=
  .next (s.seqOn core (·.illegalWord word))

end Sys2Proof.Machine
end

