-- ==== Sys2Proof/Machine/Spdm.lean ====
section
/-! DEFINITION. The SPDM commands (R627-R629). Response codes, error codes and capability flags are DSP0274's, PRESUMED
(log entry 45); what a signature covers is the digest of the answer's own content and the requester's nonce (log entry
48). -/

namespace Sys2Proof.Machine

def State.onSpdm (s : State) (p : Nat) (f : Spdm → Spdm) : State := s.onPort p fun h => { h with spdm := f h.spdm }

/-- An ERROR response. -/
def State.spdmError (s : State) (p code : Nat) : State := s.say (.spdm p 0x7F (leBytes 1 code))

def errInvalid : Nat := 0x01
def errUnexpected : Nat := 0x04
def errSessions : Nat := 0x0A

/-- A request on a port's mailbox, answered once configuration space is ready; `ok` is the order of the negotiation. -/
def State.spdmReq (s : State) (t p : Nat) (ok : Spdm → Bool) (k : State → State) : State :=
  let s := s.arrive t
  if 2 ≤ p || !(s.fd p).stoker then s
  else if ok (s.port p).spdm then k s else s.spdmError p errUnexpected

/-- A signature by the device key over a content and a nonce. -/
def State.signed (s : State) (p : Nat) (content nonce : List Byte) : List Byte :=
  content ++ Config.ecdsaSign p (Config.sha384 (content ++ nonce)) s.free

/-- GET_VERSION (R627): 1.2 and 1.3; negotiation starts over. -/
def execGetVersion (t port : Nat) (s : State) : Out :=
  .next (s.spdmReq t port (fun _ => true) fun s =>
    (s.onSpdm port fun x => { x with version := true, caps := false, algs := false }).say
      (.spdm port 0x04 (leBytes 2 0x1200 ++ leBytes 2 0x1300)))

/-- CERT, CHAL, MEAS with signature, ENCRYPT, MAC, KEY_EX, HBEAT, KEY_UPD. -/
def spdmCaps : Nat := 2 ^ 1 + 2 ^ 2 + 2 ^ 4 + 2 ^ 6 + 2 ^ 7 + 2 ^ 9 + 2 ^ 13 + 2 ^ 14

/-- GET_CAPABILITIES (R627): CT exponent 14. -/
def execGetCapabilities (t port : Nat) (s : State) : Out :=
  .next (s.spdmReq t port (·.version) fun s =>
    (s.onSpdm port fun x => { x with caps := true }).say (.spdm port 0x61 (leBytes 1 14 ++ leBytes 4 spdmCaps)))

/-- NEGOTIATE_ALGORITHMS (R627): `algs` bits 0-3 offer ECDSA P-384, SHA-384, secp384r1 and AES-256-GCM. -/
def execNegotiateAlgorithms (t port algs : Nat) (s : State) : Out :=
  .next (s.spdmReq t port (·.caps) fun s =>
    if algs % 16 = 15 then (s.onSpdm port fun x => { x with algs := true }).say (.spdm port 0x63 (leBytes 1 15))
    else s.spdmError port errInvalid)

/-- GET_DIGESTS (R627): slot 0 alone. -/
def execGetDigests (t port : Nat) (s : State) : Out :=
  .next (s.spdmReq t port (·.algs) fun s =>
    s.say (.spdm port 0x01 (leBytes 1 1 ++ Config.sha384 (Config.devChain port))))

/-- GET_CERTIFICATE (R628): a part of slot 0's chain and how much remains. -/
def execGetCertificate (t port slot offset len : Nat) (s : State) : Out :=
  .next (s.spdmReq t port (·.algs) fun s =>
    let part := ((Config.devChain port).drop offset).take len
    if slot ≠ 0 then s.spdmError port errInvalid
    else s.say (.spdm port 0x02 (leBytes 2 part.length
      ++ leBytes 2 ((Config.devChain port).length - (offset + part.length)) ++ part)))

/-- CHALLENGE (R627). -/
def execChallenge (t port slot : Nat) (nonce : List Byte) (s : State) : Out :=
  .next (s.spdmReq t port (·.algs) fun s =>
    if slot ≠ 0 then s.spdmError port errInvalid
    else (s.say (.spdm port 0x03 (s.signed port (Config.sha384 (Config.devChain port)) nonce))).takeFree)

/-- GET_MEASUREMENTS (R629): one block of 1-8, or all of them. -/
def execGetMeasurements (t port index : Nat) (nonce : List Byte) (s : State) : Out :=
  .next (s.spdmReq t port (·.algs) fun s =>
    let is := if index = 0xFF then (List.range 8).map (· + 1) else [index]
    if index = 0 || (8 < index && index ≠ 0xFF) then s.spdmError port errInvalid
    else
      let body := is.flatMap fun i => leBytes 1 i ++ s.measure port i
      (s.say (.spdm port 0x60 (s.signed port body nonce))).takeFree)

/-- KEY_EXCHANGE (R627): a session begins; the responder's part of the exchange is a free value. -/
def execKeyExchange (t port reqSession : Nat) (exchange : List Byte) (s : State) : Out :=
  .next (s.spdmReq t port (·.algs) fun s =>
    if (s.port port).spdm.session.isSome then s.spdmError port errSessions
    else
      let body := leBytes 2 reqSession ++ leBytes 8 (Config.freeValue s.free).toNat
      ((s.say (.spdm port 0x64 (s.signed port body exchange))).onSpdm port fun x =>
        { x with session := some reqSession, finished := false, updates := 0 }).takeFree)

/-- FINISH (R627). -/
def execFinish (t port session : Nat) (s : State) : Out :=
  .next (s.spdmReq t port (fun x => x.session = some session && !x.finished) fun s =>
    (s.onSpdm port fun x => { x with finished := true }).say (.spdm port 0x65 []))

/-- A request inside an established session. -/
def inSession (session : Nat) (x : Spdm) : Bool := x.session = some session && x.finished

/-- HEARTBEAT (R627). -/
def execHeartbeat (t port session : Nat) (s : State) : Out :=
  .next (s.spdmReq t port (inSession session) fun s => s.say (.spdm port 0x68 []))

/-- KEY_UPDATE (R627). -/
def execKeyUpdate (t port session : Nat) (s : State) : Out :=
  .next (s.spdmReq t port (inSession session) fun s =>
    (s.onSpdm port fun x => { x with updates := x.updates + 1 }).say (.spdm port 0x69 []))

/-- END_SESSION (R627). -/
def execEndSession (t port session : Nat) (s : State) : Out :=
  .next (s.spdmReq t port (inSession session) fun s =>
    (s.onSpdm port fun x => { x with session := none, finished := false, updates := 0 }).say (.spdm port 0x6C []))

end Sys2Proof.Machine
end

