-- ==== Sys2Proof/Machine/Dispatch.lean ====
section
/-! DEFINITION. One arm per command, in the order of the opcode table; each calls the meaning of its own row. -/

namespace Sys2Proof.Machine

/-- The effect of one command on everything but the queue. -/
def exec (i : Instr) (s : State) : Host.Outcome State Fault Refusal :=
  match i with
  -- Register access (chapter 20)
  | .registerWrite t port vf off be v => Sys2Proof.Machine.execRegisterWrite t port vf off be v s
  | .wsFieldWrite t port off be v => Sys2Proof.Machine.execWsFieldWrite t port off be v s
  | .commitArm t port off be v => Sys2Proof.Machine.execCommitArm t port off be v s
  | .loReadLatch t port vf off => Sys2Proof.Machine.execLoReadLatch t port vf off s
  | .rcRead t port vf off => Sys2Proof.Machine.execRcRead t port vf off s
  -- Frames, votes and mastership (chapters 2, 3)
  | .run t port be v => Sys2Proof.Machine.execRun t port be v s
  | .frameTick t power hottest sources consumes => Sys2Proof.Machine.execFrameTick t power hottest sources consumes s
  | .tickMessage t die frn token => Sys2Proof.Machine.execTickMessage t die frn token s
  | .tickWatchdog t die => Sys2Proof.Machine.execTickWatchdog t die s
  | .subTick t k => Sys2Proof.Machine.execSubTick t k s
  | .guardOpen t => Sys2Proof.Machine.execGuardOpen t s
  | .waitWindowExpired t asn => Sys2Proof.Machine.execWaitWindowExpired t asn s
  | .prepareVote t die sub => Sys2Proof.Machine.execPrepareVote t die sub s
  | .voteEvaluate t => Sys2Proof.Machine.execVoteEvaluate t s
  | .lease t frn token => Sys2Proof.Machine.execLease t frn token s
  | .decisionDurable t frn sub => Sys2Proof.Machine.execDecisionDurable t frn sub s
  | .dieCommitApply t die frn sub => Sys2Proof.Machine.execDieCommitApply t die frn sub s
  | .completionRecordPosted t page ring => Sys2Proof.Machine.execCompletionRecordPosted t page ring s
  | .moderationTimer t page cq => Sys2Proof.Machine.execModerationTimer t page cq s
  | .cqHeadRead t page cq head => Sys2Proof.Machine.execCqHeadRead t page cq head s
  | .leaseRenewalMissed t => Sys2Proof.Machine.execLeaseRenewalMissed t s
  | .takeover t durable => Sys2Proof.Machine.execTakeover t durable s
  | .fenceTokenMessage t who token => Sys2Proof.Machine.execFenceTokenMessage t who token s
  | .fenceAckTimeout t who => Sys2Proof.Machine.execFenceAckTimeout t who s
  -- Resets and the journal pass (chapters 3, 19)
  | .perstN t port => Sys2Proof.Machine.execPerstN t port s
  | .hotReset t port => Sys2Proof.Machine.execHotReset t port s
  | .fullReset t port be v => Sys2Proof.Machine.execFullReset t port be v s
  | .resetRebootReady t => Sys2Proof.Machine.execResetRebootReady t s
  | .recoverGoFresh t port be v => Sys2Proof.Machine.execRecoverGoFresh t port be v s
  | .recoverGoRecover t port be v dlogs rlogs posted tables => Sys2Proof.Machine.execRecoverGoRecover t port be v dlogs rlogs posted tables s
  | .journalPassDone t => Sys2Proof.Machine.execJournalPassDone t s
  -- Time reference (R43-R47)
  | .ppsEdge t => Sys2Proof.Machine.execPpsEdge t s
  | .ppsTimeout t => Sys2Proof.Machine.execPpsTimeout t s
  | .ptpMessage t qlPort domain offset => Sys2Proof.Machine.execPtpMessage t qlPort domain offset s
  | .timeHoldover t => Sys2Proof.Machine.execTimeHoldover t s
  | .timeLocked t => Sys2Proof.Machine.execTimeLocked t s
  -- Doorbells and acceptance (chapters 3-5)
  | .snpinv t port addr => Sys2Proof.Machine.execSnpinv t port addr s
  | .snpdata t port addr => Sys2Proof.Machine.execSnpdata t port addr s
  | .snpcur t port addr => Sys2Proof.Machine.execSnpcur t port addr s
  | .pollInterval t port addr => Sys2Proof.Machine.execPollInterval t port addr s
  | .doorbellLineReturn t port addr data => Sys2Proof.Machine.execDoorbellLineReturn t port addr data s
  | .descriptorFetched t page ring desc tensors regions => Sys2Proof.Machine.execDescriptorFetched t page ring desc tensors regions s
  | .journalEntryConfirmed t asn => Sys2Proof.Machine.execJournalEntryConfirmed t asn s
  | .journalDeadlineMissed t asn => Sys2Proof.Machine.execJournalDeadlineMissed t asn s
  | .rejectionConfirmed t page ring => Sys2Proof.Machine.execRejectionConfirmed t page ring s
  -- Dispatch of work (chapters 2, 9, 11, 12)
  | .urgentDispatch t asn consume => Sys2Proof.Machine.execUrgentDispatch t asn consume s
  | .urgentEndResume t core => Sys2Proof.Machine.execUrgentEndResume t core s
  | .itemStart t core => Sys2Proof.Machine.execItemStart t core s
  | .steal t core => Sys2Proof.Machine.execSteal t core s
  -- Rings and flags (chapter 5)
  | .ringEnable t port vf off be v => Sys2Proof.Machine.execRingEnable t port vf off be v s
  | .ringDisable t port vf off be v => Sys2Proof.Machine.execRingDisable t port vf off be v s
  | .cqEnable t port vf off be v => Sys2Proof.Machine.execCqEnable t port vf off be v s
  | .cqDisable t port vf off be v => Sys2Proof.Machine.execCqDisable t port vf off be v s
  | .flagCfgWrite t port vf off be v => Sys2Proof.Machine.execFlagCfgWrite t port vf off be v s
  | .flagValWrite t port vf off be v => Sys2Proof.Machine.execFlagValWrite t port vf off be v s
  -- Operations (R155)
  | .mark t asn => Sys2Proof.Machine.execMark t asn s
  | .program t asn core => Sys2Proof.Machine.execProgram t asn core s
  | .spmm t asn core remote => Sys2Proof.Machine.execSpmm t asn core remote s
  | .spgemm t asn core remote => Sys2Proof.Machine.execSpgemm t asn core remote s
  | .sddmm t asn core remote => Sys2Proof.Machine.execSddmm t asn core remote s
  | .gemm t asn core remote => Sys2Proof.Machine.execGemm t asn core remote s
  | .spattn t asn core remote => Sys2Proof.Machine.execSpattn t asn core remote s
  | .aggr t asn core remote => Sys2Proof.Machine.execAggr t asn core remote s
  | .moeRoute t asn core remote => Sys2Proof.Machine.execMoeRoute t asn core remote s
  | .embReduce t asn core remote => Sys2Proof.Machine.execEmbReduce t asn core remote s
  | .copy t asn core remote => Sys2Proof.Machine.execCopy t asn core remote s
  | .convert t asn core remote => Sys2Proof.Machine.execConvert t asn core remote s
  -- Stream engines (chapter 10)
  | .streamProgramStart core eng => Sys2Proof.Machine.execStreamProgramStart core eng s
  | .seEnd core eng => Sys2Proof.Machine.execSeEnd core eng s
  | .seSetw core eng d pos imm => Sys2Proof.Machine.execSeSetw core eng d pos imm s
  | .seAddi core eng d a imm => Sys2Proof.Machine.execSeAddi core eng d a imm s
  | .seAdd core eng d a b => Sys2Proof.Machine.execSeAdd core eng d a b s
  | .seSub core eng d a b => Sys2Proof.Machine.execSeSub core eng d a b s
  | .seMuli core eng d a imm => Sys2Proof.Machine.execSeMuli core eng d a imm s
  | .seShli core eng d a imm => Sys2Proof.Machine.execSeShli core eng d a imm s
  | .seLdw core eng d a imm => Sys2Proof.Machine.execSeLdw core eng d a imm s
  | .seLdh core eng d a imm => Sys2Proof.Machine.execSeLdh core eng d a imm s
  | .seLoop core eng lvl reg a imm => Sys2Proof.Machine.execSeLoop core eng lvl reg a imm s
  | .seNext core eng lvl => Sys2Proof.Machine.execSeNext core eng lvl s
  | .seRdl core eng idle d a b slot imm => Sys2Proof.Machine.execSeRdl core eng idle d a b slot imm s
  | .seWrl core eng idle d a b slot imm => Sys2Proof.Machine.execSeWrl core eng idle d a b slot imm s
  | .seRda core eng idle d a b slot imm => Sys2Proof.Machine.execSeRda core eng idle d a b slot imm s
  | .seRdw core eng idle d a b slot imm => Sys2Proof.Machine.execSeRdw core eng idle d a b slot imm s
  | .seRdb core eng idle d a b slot imm => Sys2Proof.Machine.execSeRdb core eng idle d a b slot imm s
  | .seGet core eng d => Sys2Proof.Machine.execSeGet core eng d s
  | .sePut core eng d => Sys2Proof.Machine.execSePut core eng d s
  | .seFence core eng => Sys2Proof.Machine.execSeFence core eng s
  | .seRstep core eng d a b set => Sys2Proof.Machine.execSeRstep core eng d a b set s
  | .transferRetire core eng xfer => Sys2Proof.Machine.execTransferRetire core eng xfer s
  | .residentShardFilled core set => Sys2Proof.Machine.execResidentShardFilled core set s
  -- Sequencer (chapter 11)
  | .add core rd ra rb => Sys2Proof.Machine.execAdd core rd ra rb s
  | .sub core rd ra rb => Sys2Proof.Machine.execSub core rd ra rb s
  | .and core rd ra rb => Sys2Proof.Machine.execAnd core rd ra rb s
  | .or core rd ra rb => Sys2Proof.Machine.execOr core rd ra rb s
  | .xor core rd ra rb => Sys2Proof.Machine.execXor core rd ra rb s
  | .shl core rd ra rb => Sys2Proof.Machine.execShl core rd ra rb s
  | .shr core rd ra rb => Sys2Proof.Machine.execShr core rd ra rb s
  | .sar core rd ra rb => Sys2Proof.Machine.execSar core rd ra rb s
  | .clt core rd ra rb => Sys2Proof.Machine.execClt core rd ra rb s
  | .cltu core rd ra rb => Sys2Proof.Machine.execCltu core rd ra rb s
  | .mul core rd ra rb => Sys2Proof.Machine.execMul core rd ra rb s
  | .mulHi core rd ra rb => Sys2Proof.Machine.execMulHi core rd ra rb s
  | .mulHiu core rd ra rb => Sys2Proof.Machine.execMulHiu core rd ra rb s
  | .quo core rd ra rb => Sys2Proof.Machine.execQuo core rd ra rb s
  | .quou core rd ra rb => Sys2Proof.Machine.execQuou core rd ra rb s
  | .mod core rd ra rb => Sys2Proof.Machine.execMod core rd ra rb s
  | .modu core rd ra rb => Sys2Proof.Machine.execModu core rd ra rb s
  | .min core rd ra rb => Sys2Proof.Machine.execMin core rd ra rb s
  | .max core rd ra rb => Sys2Proof.Machine.execMax core rd ra rb s
  | .minu core rd ra rb => Sys2Proof.Machine.execMinu core rd ra rb s
  | .maxu core rd ra rb => Sys2Proof.Machine.execMaxu core rd ra rb s
  | .fadd core rd ra rb => Sys2Proof.Machine.execFadd core rd ra rb s
  | .fsub core rd ra rb => Sys2Proof.Machine.execFsub core rd ra rb s
  | .fmul core rd ra rb => Sys2Proof.Machine.execFmul core rd ra rb s
  | .fmin core rd ra rb => Sys2Proof.Machine.execFmin core rd ra rb s
  | .fmax core rd ra rb => Sys2Proof.Machine.execFmax core rd ra rb s
  | .fclt core rd ra rb => Sys2Proof.Machine.execFclt core rd ra rb s
  | .fceq core rd ra rb => Sys2Proof.Machine.execFceq core rd ra rb s
  | .addK core rd ra imm => Sys2Proof.Machine.execAddK core rd ra imm s
  | .andK core rd ra imm => Sys2Proof.Machine.execAndK core rd ra imm s
  | .orK core rd ra imm => Sys2Proof.Machine.execOrK core rd ra imm s
  | .xorK core rd ra imm => Sys2Proof.Machine.execXorK core rd ra imm s
  | .cltK core rd ra imm => Sys2Proof.Machine.execCltK core rd ra imm s
  | .cltuK core rd ra imm => Sys2Proof.Machine.execCltuK core rd ra imm s
  | .hiK core rd ra imm => Sys2Proof.Machine.execHiK core rd ra imm s
  | .shlK core rd ra k => Sys2Proof.Machine.execShlK core rd ra k s
  | .shrK core rd ra k => Sys2Proof.Machine.execShrK core rd ra k s
  | .sarK core rd ra k => Sys2Proof.Machine.execSarK core rd ra k s
  | .pcrel core rd imm => Sys2Proof.Machine.execPcrel core rd imm s
  | .ldW core rd ra imm => Sys2Proof.Machine.execLdW core rd ra imm s
  | .ldHs core rd ra imm => Sys2Proof.Machine.execLdHs core rd ra imm s
  | .ldHu core rd ra imm => Sys2Proof.Machine.execLdHu core rd ra imm s
  | .ldBs core rd ra imm => Sys2Proof.Machine.execLdBs core rd ra imm s
  | .ldBu core rd ra imm => Sys2Proof.Machine.execLdBu core rd ra imm s
  | .stW core rd ra imm => Sys2Proof.Machine.execStW core rd ra imm s
  | .stH core rd ra imm => Sys2Proof.Machine.execStH core rd ra imm s
  | .stB core rd ra imm => Sys2Proof.Machine.execStB core rd ra imm s
  | .brEq core rd ra imm => Sys2Proof.Machine.execBrEq core rd ra imm s
  | .brNe core rd ra imm => Sys2Proof.Machine.execBrNe core rd ra imm s
  | .brLt core rd ra imm => Sys2Proof.Machine.execBrLt core rd ra imm s
  | .brGe core rd ra imm => Sys2Proof.Machine.execBrGe core rd ra imm s
  | .brLtu core rd ra imm => Sys2Proof.Machine.execBrLtu core rd ra imm s
  | .brGeu core rd ra imm => Sys2Proof.Machine.execBrGeu core rd ra imm s
  | .bra core off => Sys2Proof.Machine.execBra core off s
  | .call core off => Sys2Proof.Machine.execCall core off s
  | .callr core rd ra imm => Sys2Proof.Machine.execCallr core rd ra imm s
  | .sget core rd rb => Sys2Proof.Machine.execSget core rd rb s
  | .sput core ra rb => Sys2Proof.Machine.execSput core ra rb s
  | .hret core => Sys2Proof.Machine.execHret core s
  | .trap core code => Sys2Proof.Machine.execTrap core code s
  | .done core code => Sys2Proof.Machine.execDone core code s
  | .fence core => Sys2Proof.Machine.execFence core s
  | .qt core rd ra rb => Sys2Proof.Machine.execQt core rd ra rb s
  | .sest core ra eng => Sys2Proof.Machine.execSest core ra eng s
  | .tget core eng ctr => Sys2Proof.Machine.execTget core eng ctr s
  | .tput core eng ctr => Sys2Proof.Machine.execTput core eng ctr s
  | .cvt core rd ra rb site dst src => Sys2Proof.Machine.execCvt core rd ra rb site dst src s
  | .dec core rd ra src => Sys2Proof.Machine.execDec core rd ra src s
  | .illegalInstruction core word => Sys2Proof.Machine.execIllegalInstruction core word s
  -- Tile entries (chapter 12)
  | .ldw core id => Sys2Proof.Machine.execLdw core id s
  | .str core id freezeDry freezeAcc mismatch => Sys2Proof.Machine.execStr core id freezeDry freezeAcc mismatch s
  | .acc core id mismatch => Sys2Proof.Machine.execAcc core id mismatch s
  | .mv core id mismatch => Sys2Proof.Machine.execMv core id mismatch s
  | .ew core id => Sys2Proof.Machine.execEw core id s
  | .close core id => Sys2Proof.Machine.execClose core id s
  | .drain core id => Sys2Proof.Machine.execDrain core id s
  | .merge core id => Sys2Proof.Machine.execMerge core id s
  | .gather core id => Sys2Proof.Machine.execGather core id s
  | .tileEntryRetire core id => Sys2Proof.Machine.execTileEntryRetire core id s
  | .closeDrainEnd core array tile => Sys2Proof.Machine.execCloseDrainEnd core array tile s
  | .itemEnd core asn item => Sys2Proof.Machine.execItemEnd core asn item s
  | .chainPartialReceived core asn item array ltile terms flags rows => Sys2Proof.Machine.execChainPartialReceived core asn item array ltile terms flags rows s
  -- Memory and L2 (chapter 13)
  | .l2Read t src addr len cls err asn size mirrored => Sys2Proof.Machine.execL2Read t src addr len cls err asn size mirrored s
  | .l2Write t src addr cls asn data size mirrored => Sys2Proof.Machine.execL2Write t src addr cls asn data size mirrored s
  | .l2FillReturn t slice line err asn => Sys2Proof.Machine.execL2FillReturn t slice line err asn s
  | .patrolScrub t stack corrected uncorrectable => Sys2Proof.Machine.execPatrolScrub t stack corrected uncorrectable s
  | .refresh t stack bank temp => Sys2Proof.Machine.execRefresh t stack bank temp s
  | .maintClean t port be v => Sys2Proof.Machine.execMaintClean t port be v s
  | .maintInv t port be v => Sys2Proof.Machine.execMaintInv t port be v s
  | .maintDone t fd => Sys2Proof.Machine.execMaintDone t fd s
  -- Fabric and Quinulait ports (chapter 14)
  | .ucieLinkDown t links => Sys2Proof.Machine.execUcieLinkDown t links s
  | .linkWatchdog t links => Sys2Proof.Machine.execLinkWatchdog t links s
  | .ucieModuleLost t a b => Sys2Proof.Machine.execUcieModuleLost t a b s
  | .routeChange t atomics sets => Sys2Proof.Machine.execRouteChange t atomics sets s
  | .isolation t lo hi => Sys2Proof.Machine.execIsolation t lo hi s
  | .ageLimit t slice id => Sys2Proof.Machine.execAgeLimit t slice id s
  | .qlPortTrained t port ql2 ql3 => Sys2Proof.Machine.execQlPortTrained t port ql2 ql3 s
  | .qlPortDegraded t port => Sys2Proof.Machine.execQlPortDegraded t port s
  | .qlPortLost t port => Sys2Proof.Machine.execQlPortLost t port s
  -- Pool messages, atomics and locks (chapter 15)
  | .rd t port init win off len => Sys2Proof.Machine.execRd t port init win off len s
  | .rdr t core eng xfer status data => Sys2Proof.Machine.execRdr t core eng xfer status data s
  | .wr t port init win off lock data => Sys2Proof.Machine.execWr t port init win off lock data s
  | .swr t port init win off frn asn attempt token lock data => Sys2Proof.Machine.execSwr t port init win off frn asn attempt token lock data s
  | .sacc t port init win asn attempt token lock data => Sys2Proof.Machine.execSacc t port init win asn attempt token lock data s
  | .ack t core eng xfer asn status => Sys2Proof.Machine.execAck t core eng xfer asn status s
  | .ackDeadline t core eng xfer asn => Sys2Proof.Machine.execAckDeadline t core eng xfer asn s
  | .prepSend t sub => Sys2Proof.Machine.execPrepSend t sub s
  | .prep t port init win frn sub token list => Sys2Proof.Machine.execPrep t port init win frn sub token list s
  | .vote t epid rwin frn sub yes => Sys2Proof.Machine.execVote t epid rwin frn sub yes s
  | .commit t port init win frn sub token aborted => Sys2Proof.Machine.execCommit t port init win frn sub token aborted s
  | .abort t port init win frn sub token asns => Sys2Proof.Machine.execAbort t port init win frn sub token asns s
  | .cack t epid rwin frn sub appliedOk => Sys2Proof.Machine.execCack t epid rwin frn sub appliedOk s
  | .qlFence t port init token => Sys2Proof.Machine.execQlFence t port init token s
  | .late t epid rwin frn => Sys2Proof.Machine.execLate t epid rwin frn s
  | .poolHoldExpired t win init asn => Sys2Proof.Machine.execPoolHoldExpired t win init asn s
  | .cas64 t via port init win off a b lock => Sys2Proof.Machine.execCas64 t via port init win off a b lock s
  | .swap64 t via port init win off a lock => Sys2Proof.Machine.execSwap64 t via port init win off a lock s
  | .add64 t via port init win off a lock => Sys2Proof.Machine.execAdd64 t via port init win off a lock s
  | .add32 t via port init win off a lock => Sys2Proof.Machine.execAdd32 t via port init win off a lock s
  | .lacq t via port init win n => Sys2Proof.Machine.execLacq t via port init win n s
  | .lren t via port init win token n => Sys2Proof.Machine.execLren t via port init win token n s
  | .lrel t via port init win token => Sys2Proof.Machine.execLrel t via port init win token s
  | .lockLeaseExpiry t win => Sys2Proof.Machine.execLockLeaseExpiry t win s
  -- Host ports (chapter 4)
  | .linkDown t port => Sys2Proof.Machine.execLinkDown t port s
  | .hostPortLost t port => Sys2Proof.Machine.execHostPortLost t port s
  | .portReturned t port => Sys2Proof.Machine.execPortReturned t port s
  | .linkUp t port rate width proto flit => Sys2Proof.Machine.execLinkUp t port rate width proto flit s
  | .dlDown t port => Sys2Proof.Machine.execDlDown t port s
  | .cxlCacheToggle t port on => Sys2Proof.Machine.execCxlCacheToggle t port on s
  | .busMasterEnable t port func bme d3 => Sys2Proof.Machine.execBusMasterEnable t port func bme d3 s
  | .vfEnable t port num on => Sys2Proof.Machine.execVfEnable t port num on s
  | .initiateFlr t port func => Sys2Proof.Machine.execInitiateFlr t port func s
  | .msixUnmask t port func vec => Sys2Proof.Machine.execMsixUnmask t port func vec s
  | .hostHbmRead t port cxl addr len func regions => Sys2Proof.Machine.execHostHbmRead t port cxl addr len func regions s
  | .hostHbmWrite t port cxl addr data regions => Sys2Proof.Machine.execHostHbmWrite t port cxl addr data regions s
  | .heldReadAnswer t port id regions => Sys2Proof.Machine.execHeldReadAnswer t port id regions s
  | .atsInvalidation t port func done => Sys2Proof.Machine.execAtsInvalidation t port func done s
  | .atsInvalidationTimeout t port func => Sys2Proof.Machine.execAtsInvalidationTimeout t port func s
  | .requestError t port func kind => Sys2Proof.Machine.execRequestError t port func kind s
  | .ideIntegrityFailure t port stream => Sys2Proof.Machine.execIdeIntegrityFailure t port stream s
  | .ideKm t port stream op => Sys2Proof.Machine.execIdeKm t port stream op s
  -- SPDM (R627-R629)
  | .getVersion t port => Sys2Proof.Machine.execGetVersion t port s
  | .getCapabilities t port => Sys2Proof.Machine.execGetCapabilities t port s
  | .negotiateAlgorithms t port algs => Sys2Proof.Machine.execNegotiateAlgorithms t port algs s
  | .getDigests t port => Sys2Proof.Machine.execGetDigests t port s
  | .getCertificate t port slot offset len => Sys2Proof.Machine.execGetCertificate t port slot offset len s
  | .challenge t port slot nonce => Sys2Proof.Machine.execChallenge t port slot nonce s
  | .getMeasurements t port index nonce => Sys2Proof.Machine.execGetMeasurements t port index nonce s
  | .keyExchange t port reqSession exchange => Sys2Proof.Machine.execKeyExchange t port reqSession exchange s
  | .finish t port session => Sys2Proof.Machine.execFinish t port session s
  | .heartbeat t port session => Sys2Proof.Machine.execHeartbeat t port session s
  | .keyUpdate t port session => Sys2Proof.Machine.execKeyUpdate t port session s
  | .endSession t port session => Sys2Proof.Machine.execEndSession t port session s
  -- Faults (chapter 16)
  | .fatalErrorReport t die => Sys2Proof.Machine.execFatalErrorReport t die s
  | .standbyLeaseAckMissed t => Sys2Proof.Machine.execStandbyLeaseAckMissed t s
  | .checksumReport t core => Sys2Proof.Machine.execChecksumReport t core s
  | .coreStoreUe t core addr => Sys2Proof.Machine.execCoreStoreUe t core addr s
  -- The meter (chapter 17)
  | .summary t link msg => Sys2Proof.Machine.execSummary t link msg s
  | .summaryApply t => Sys2Proof.Machine.execSummaryApply t s
  | .mdFence t session token => Sys2Proof.Machine.execMdFence t session token s
  | .read t path sel arg nonce => Sys2Proof.Machine.execRead t path sel arg nonce s
  | .param t id value => Sys2Proof.Machine.execParam t id value s
  | .clear t mask => Sys2Proof.Machine.execClear t mask s
  | .fwBegin t target len => Sys2Proof.Machine.execFwBegin t target len s
  | .fwData t off data => Sys2Proof.Machine.execFwData t off data s
  | .fwEnd t version hash sig => Sys2Proof.Machine.execFwEnd t version hash sig s
  | .i3cPrivateRead t => Sys2Proof.Machine.execI3cPrivateRead t s
  | .entdaa t addr => Sys2Proof.Machine.execEntdaa t addr s
  | .setdasa t static addr => Sys2Proof.Machine.execSetdasa t static addr s
  | .rstdaa t => Sys2Proof.Machine.execRstdaa t s
  | .enec t => Sys2Proof.Machine.execEnec t s
  | .disec t => Sys2Proof.Machine.execDisec t s
  | .getpid t => Sys2Proof.Machine.execGetpid t s
  | .getbcr t => Sys2Proof.Machine.execGetbcr t s
  | .getdcr t => Sys2Proof.Machine.execGetdcr t s
  | .getstatus t => Sys2Proof.Machine.execGetstatus t s
  | .getmwl t => Sys2Proof.Machine.execGetmwl t s
  | .getmrl t => Sys2Proof.Machine.execGetmrl t s
  | .rstact t action => Sys2Proof.Machine.execRstact t action s
  | .sealChange t sealed => Sys2Proof.Machine.execSealChange t sealed s
  | .clockCheck t ppm => Sys2Proof.Machine.execClockCheck t ppm s
  | .fwHashCheck t good => Sys2Proof.Machine.execFwHashCheck t good s
  | .nvSnapshot t verified => Sys2Proof.Machine.execNvSnapshot t verified s
  | .mdBranchFall t verified => Sys2Proof.Machine.execMdBranchFall t verified s
  | .mdPowerOn t rtcNow => Sys2Proof.Machine.execMdPowerOn t rtcNow s
  | .statusWord t fd => Sys2Proof.Machine.execStatusWord t fd s
  | .statusWordTimeout t fd => Sys2Proof.Machine.execStatusWordTimeout t fd s
  | .mbxGo t port be v => Sys2Proof.Machine.execMbxGo t port be v s
  | .mbxTimeout t fd => Sys2Proof.Machine.execMbxTimeout t fd s
  -- Power, resets and signals (chapter 18)
  | .vinLoss t input => Sys2Proof.Machine.execVinLoss t input s
  | .vinReconnect t input => Sys2Proof.Machine.execVinReconnect t input s
  | .vinOvervoltage t input => Sys2Proof.Machine.execVinOvervoltage t input s
  | .modfail t => Sys2Proof.Machine.execModfail t s
  | .supplyTrip t kind index => Sys2Proof.Machine.execSupplyTrip t kind index s
  | .thermalTrip t kind index => Sys2Proof.Machine.execThermalTrip t kind index s
  | .pwrOk t msel recov test cold => Sys2Proof.Machine.execPwrOk t msel recov test cold s
  | .perstRelease t port => Sys2Proof.Machine.execPerstRelease t port s
  | .pwrDnN t => Sys2Proof.Machine.execPwrDnN t s
  | .pwrDnRelease t => Sys2Proof.Machine.execPwrDnRelease t s
  | .coldRstN t => Sys2Proof.Machine.execColdRstN t s
  | .coldResetRelease t msel recov test => Sys2Proof.Machine.execColdResetRelease t msel recov test s
  | .refclkLoss t => Sys2Proof.Machine.execRefclkLoss t s
  | .refclkReturn t => Sys2Proof.Machine.execRefclkReturn t s
  | .qlRefclkLoss t fd => Sys2Proof.Machine.execQlRefclkLoss t fd s
  | .testPortAccess t => Sys2Proof.Machine.execTestPortAccess t s
  -- Boot and flash (chapter 19)
  | .slotVerified t fd slot dead => Sys2Proof.Machine.execSlotVerified t fd slot dead s
  | .imageCompare t => Sys2Proof.Machine.execImageCompare t s
  | .recoveryGo t port v => Sys2Proof.Machine.execRecoveryGo t port v s
  | .svnCommit t port be v => Sys2Proof.Machine.execSvnCommit t port be v s
  | .flashErase t port be v => Sys2Proof.Machine.execFlashErase t port be v s
  | .flashProgram t port be v => Sys2Proof.Machine.execFlashProgram t port be v s
  | .flashCheck t port be v => Sys2Proof.Machine.execFlashCheck t port be v s
  | .flashDone t fd => Sys2Proof.Machine.execFlashDone t fd s
  -- Further events
  | .energySample t va ia vb ib => Sys2Proof.Machine.execEnergySample t va ia vb ib s
  | .lidLoopOpen t opened => Sys2Proof.Machine.execLidLoopOpen t opened s
  | .completionTimeout t port func => Sys2Proof.Machine.execCompletionTimeout t port func s
  | .throttleThreshold t die rising => Sys2Proof.Machine.execThrottleThreshold t die rising s
  | .fenceAcknowledgement t who => Sys2Proof.Machine.execFenceAcknowledgement t who s
  | .readoutRecord t fd bytes => Sys2Proof.Machine.execReadoutRecord t fd bytes s
  | .doeDiscovery t port index => Sys2Proof.Machine.execDoeDiscovery t port index s
  | .cdatTableAccess t port entry => Sys2Proof.Machine.execCdatTableAccess t port entry s
  | .configurationRequest t port func req => Sys2Proof.Machine.execConfigurationRequest t port func req s

end Sys2Proof.Machine
end

