-- ==== Sys2Proof/WellFormed.lean ====
section
/-! DEFINITION. Which commands are well formed: every part, port, function, ring and address named exists. -/

namespace Sys2Proof

/-- A number of a thing of which there are n. -/
def below (n x : Nat) : Bool := decide (x < n)

/-- A register offset (R639). -/
def aligned (off : Nat) : Bool := off % 4 = 0

/-- A virtual function number (R124). -/
def vfOk : Option Nat → Bool
  | none => true
  | some f => decide (1 ≤ f) && decide (f < 64)

/-- A sub-tick number (R32). -/
def tickNo (k : Nat) : Bool := decide (1 ≤ k) && decide (k < 8)

/-- A 32-byte nonce (R568, R629). -/
def nonceOk (n : List Byte) : Bool := n.length = 32

/-- A readout record's length (R568). -/
def recordOk (b : List Byte) : Bool := b.length = 256

/-- An atomic started by the host names the register write that starts it (R506). -/
def viaOk : Option (Nat × Option Nat × Nat × BitVec 4 × Word) → Bool
  | none => true
  | some v => below 2 v.1 && vfOk v.2.1 && aligned v.2.2.1

/-- A well-formed command. -/
def Instr.wellFormed : Instr → Bool
  | .registerWrite _ port vf off _ _ => below 2 port && vfOk vf && aligned off
  | .wsFieldWrite _ port off _ _ => below 2 port && aligned off
  | .commitArm _ port off _ _ => below 2 port && aligned off
  | .loReadLatch _ port vf off => below 2 port && vfOk vf && aligned off
  | .rcRead _ port vf off => below 2 port && vfOk vf && aligned off
  | .run _ port _ _ => below 2 port
  | .frameTick _ _ _ _ _ => true
  | .tickMessage _ die _ _ => below 11 die
  | .tickWatchdog _ die => below 11 die
  | .subTick _ k => tickNo k
  | .guardOpen _ => true
  | .waitWindowExpired _ _ => true
  | .prepareVote _ die sb => below 9 die && below 8 sb
  | .voteEvaluate _ => true
  | .lease _ _ _ => true
  | .decisionDurable _ _ sb => below 8 sb
  | .dieCommitApply _ die _ sb => below 9 die && below 8 sb
  | .completionRecordPosted _ page ring => below 128 page && below 64 ring
  | .moderationTimer _ page cq => below 128 page && below 64 cq
  | .cqHeadRead _ page cq _ => below 128 page && below 64 cq
  | .leaseRenewalMissed _ => true
  | .takeover _ _ => true
  | .fenceTokenMessage _ who _ => below 11 who
  | .fenceAckTimeout _ _ => true
  | .perstN _ port => below 2 port
  | .hotReset _ port => below 2 port
  | .fullReset _ port _ _ => below 2 port
  | .resetRebootReady _ => true
  | .recoverGoFresh _ port _ _ => below 2 port
  | .recoverGoRecover _ port _ _ _ _ _ _ => below 2 port
  | .journalPassDone _ => true
  | .ppsEdge _ => true
  | .ppsTimeout _ => true
  | .ptpMessage _ qlPort _ _ => below 16 qlPort
  | .timeHoldover _ => true
  | .timeLocked _ => true
  | .snpinv _ port _ => below 2 port
  | .snpdata _ port _ => below 2 port
  | .snpcur _ port _ => below 2 port
  | .pollInterval _ port _ => below 2 port
  | .doorbellLineReturn _ port _ _ => below 2 port
  | .descriptorFetched _ page ring _ _ _ => below 128 page && below 64 ring
  | .journalEntryConfirmed _ _ => true
  | .journalDeadlineMissed _ _ => true
  | .rejectionConfirmed _ page ring => below 128 page && below 64 ring
  | .urgentDispatch _ _ _ => true
  | .urgentEndResume _ core => below 36 core
  | .itemStart _ core => below 36 core
  | .steal _ core => below 36 core
  | .ringEnable _ port vf off _ _ => below 2 port && vfOk vf && aligned off
  | .ringDisable _ port vf off _ _ => below 2 port && vfOk vf && aligned off
  | .cqEnable _ port vf off _ _ => below 2 port && vfOk vf && aligned off
  | .cqDisable _ port vf off _ _ => below 2 port && vfOk vf && aligned off
  | .flagCfgWrite _ port vf off _ _ => below 2 port && vfOk vf && aligned off
  | .flagValWrite _ port vf off _ _ => below 2 port && vfOk vf && aligned off
  | .mark _ _ => true
  | .program _ _ core => below 36 core
  | .spmm _ _ core _ => below 36 core
  | .spgemm _ _ core _ => below 36 core
  | .sddmm _ _ core _ => below 36 core
  | .gemm _ _ core _ => below 36 core
  | .spattn _ _ core _ => below 36 core
  | .aggr _ _ core _ => below 36 core
  | .moeRoute _ _ core _ => below 36 core
  | .embReduce _ _ core _ => below 36 core
  | .copy _ _ core _ => below 36 core
  | .convert _ _ core _ => below 36 core
  | .streamProgramStart core eng => below 36 core && below 6 eng
  | .seEnd core eng => below 36 core && below 6 eng
  | .seSetw core eng _ _ _ => below 36 core && below 6 eng
  | .seAddi core eng _ _ _ => below 36 core && below 6 eng
  | .seAdd core eng _ _ _ => below 36 core && below 6 eng
  | .seSub core eng _ _ _ => below 36 core && below 6 eng
  | .seMuli core eng _ _ _ => below 36 core && below 6 eng
  | .seShli core eng _ _ _ => below 36 core && below 6 eng
  | .seLdw core eng _ _ _ => below 36 core && below 6 eng
  | .seLdh core eng _ _ _ => below 36 core && below 6 eng
  | .seLoop core eng _ _ _ _ => below 36 core && below 6 eng
  | .seNext core eng _ => below 36 core && below 6 eng
  | .seRdl core eng _ _ _ _ _ _ => below 36 core && below 6 eng
  | .seWrl core eng _ _ _ _ _ _ => below 36 core && below 6 eng
  | .seRda core eng _ _ _ _ _ _ => below 36 core && below 6 eng
  | .seRdw core eng _ _ _ _ _ _ => below 36 core && below 6 eng
  | .seRdb core eng _ _ _ _ _ _ => below 36 core && below 6 eng
  | .seGet core eng _ => below 36 core && below 6 eng
  | .sePut core eng _ => below 36 core && below 6 eng
  | .seFence core eng => below 36 core && below 6 eng
  | .seRstep core eng _ _ _ _ => below 36 core && below 6 eng
  | .transferRetire core eng _ => below 36 core && below 6 eng
  | .residentShardFilled core set => below 36 core && below 4 set
  | .add core _ _ _ => below 36 core
  | .sub core _ _ _ => below 36 core
  | .and core _ _ _ => below 36 core
  | .or core _ _ _ => below 36 core
  | .xor core _ _ _ => below 36 core
  | .shl core _ _ _ => below 36 core
  | .shr core _ _ _ => below 36 core
  | .sar core _ _ _ => below 36 core
  | .clt core _ _ _ => below 36 core
  | .cltu core _ _ _ => below 36 core
  | .mul core _ _ _ => below 36 core
  | .mulHi core _ _ _ => below 36 core
  | .mulHiu core _ _ _ => below 36 core
  | .quo core _ _ _ => below 36 core
  | .quou core _ _ _ => below 36 core
  | .mod core _ _ _ => below 36 core
  | .modu core _ _ _ => below 36 core
  | .min core _ _ _ => below 36 core
  | .max core _ _ _ => below 36 core
  | .minu core _ _ _ => below 36 core
  | .maxu core _ _ _ => below 36 core
  | .fadd core _ _ _ => below 36 core
  | .fsub core _ _ _ => below 36 core
  | .fmul core _ _ _ => below 36 core
  | .fmin core _ _ _ => below 36 core
  | .fmax core _ _ _ => below 36 core
  | .fclt core _ _ _ => below 36 core
  | .fceq core _ _ _ => below 36 core
  | .addK core _ _ _ => below 36 core
  | .andK core _ _ _ => below 36 core
  | .orK core _ _ _ => below 36 core
  | .xorK core _ _ _ => below 36 core
  | .cltK core _ _ _ => below 36 core
  | .cltuK core _ _ _ => below 36 core
  | .hiK core _ _ _ => below 36 core
  | .shlK core _ _ _ => below 36 core
  | .shrK core _ _ _ => below 36 core
  | .sarK core _ _ _ => below 36 core
  | .pcrel core _ _ => below 36 core
  | .ldW core _ _ _ => below 36 core
  | .ldHs core _ _ _ => below 36 core
  | .ldHu core _ _ _ => below 36 core
  | .ldBs core _ _ _ => below 36 core
  | .ldBu core _ _ _ => below 36 core
  | .stW core _ _ _ => below 36 core
  | .stH core _ _ _ => below 36 core
  | .stB core _ _ _ => below 36 core
  | .brEq core _ _ _ => below 36 core
  | .brNe core _ _ _ => below 36 core
  | .brLt core _ _ _ => below 36 core
  | .brGe core _ _ _ => below 36 core
  | .brLtu core _ _ _ => below 36 core
  | .brGeu core _ _ _ => below 36 core
  | .bra core _ => below 36 core
  | .call core _ => below 36 core
  | .callr core _ _ _ => below 36 core
  | .sget core _ _ => below 36 core
  | .sput core _ _ => below 36 core
  | .hret core => below 36 core
  | .trap core _ => below 36 core
  | .done core _ => below 36 core
  | .fence core => below 36 core
  | .qt core _ _ _ => below 36 core
  | .sest core _ _ => below 36 core
  | .tget core _ _ => below 36 core
  | .tput core _ _ => below 36 core
  | .cvt core _ _ _ _ _ _ => below 36 core
  | .dec core _ _ _ => below 36 core
  | .illegalInstruction core _ => below 36 core
  | .ldw core _ => below 36 core
  | .str core _ _ _ _ => below 36 core
  | .acc core _ _ => below 36 core
  | .mv core _ _ => below 36 core
  | .ew core _ => below 36 core
  | .close core _ => below 36 core
  | .drain core _ => below 36 core
  | .merge core _ => below 36 core
  | .gather core _ => below 36 core
  | .tileEntryRetire core _ => below 36 core
  | .closeDrainEnd core array tile => below 36 core && below 4 array && below 8 tile
  | .itemEnd core _ _ => below 36 core
  | .chainPartialReceived core _ _ array _ _ _ _ => below 36 core && below 4 array
  | .l2Read _ src _ _ cls _ _ _ _ => below 64 src && below 4 cls
  | .l2Write _ src _ cls _ _ _ _ => below 64 src && below 4 cls
  | .l2FillReturn _ slice _ _ _ => below 9 slice
  | .patrolScrub _ stack _ _ => below 9 stack
  | .refresh _ stack _ _ => below 9 stack
  | .maintClean _ port _ _ => below 2 port
  | .maintInv _ port _ _ => below 2 port
  | .maintDone _ fd => below 2 fd
  | .ucieLinkDown _ links => (links.all fun l => below 11 l.1 && below 11 l.2)
  | .linkWatchdog _ links => (links.all fun l => below 11 l.1 && below 11 l.2.1)
  | .ucieModuleLost _ a b => below 11 a && below 11 b
  | .routeChange _ _ _ => true
  | .isolation _ _ _ => true
  | .ageLimit _ slice _ => below 9 slice
  | .qlPortTrained _ port _ _ => below 16 port
  | .qlPortDegraded _ port => below 16 port
  | .qlPortLost _ port => below 16 port
  | .rd _ port _ win _ _ => below 16 port && below 256 win
  | .rdr _ core eng _ _ _ => below 36 core && below 6 eng
  | .wr _ port _ win _ _ _ => below 16 port && below 256 win
  | .swr _ port _ win _ _ _ _ _ _ _ => below 16 port && below 256 win
  | .sacc _ port _ win _ _ _ _ _ => below 16 port && below 256 win
  | .ack _ core eng _ _ _ => below 36 core && below 6 eng
  | .ackDeadline _ core eng _ _ => below 36 core && below 6 eng
  | .prepSend _ sb => below 8 sb
  | .prep _ port _ win _ sb _ _ => below 16 port && below 256 win && below 8 sb
  | .vote _ epid rwin _ sb _ => below 65536 epid && below 256 rwin && below 8 sb
  | .commit _ port _ win _ sb _ _ => below 16 port && below 256 win && below 8 sb
  | .abort _ port _ win _ sb _ _ => below 16 port && below 256 win && below 8 sb
  | .cack _ epid rwin _ sb _ => below 65536 epid && below 256 rwin && below 8 sb
  | .qlFence _ port _ _ => below 16 port
  | .late _ epid rwin _ => below 65536 epid && below 256 rwin
  | .poolHoldExpired _ win _ _ => below 256 win
  | .cas64 _ via port _ win _ _ _ _ => viaOk via && below 16 port && below 256 win
  | .swap64 _ via port _ win _ _ _ => viaOk via && below 16 port && below 256 win
  | .add64 _ via port _ win _ _ _ => viaOk via && below 16 port && below 256 win
  | .add32 _ via port _ win _ _ _ => viaOk via && below 16 port && below 256 win
  | .lacq _ via port _ win _ => viaOk via && below 16 port && below 256 win
  | .lren _ via port _ win _ _ => viaOk via && below 16 port && below 256 win
  | .lrel _ via port _ win _ => viaOk via && below 16 port && below 256 win
  | .lockLeaseExpiry _ win => below 256 win
  | .linkDown _ port => below 2 port
  | .hostPortLost _ port => below 2 port
  | .portReturned _ port => below 2 port
  | .linkUp _ port _ _ _ _ => below 2 port
  | .dlDown _ port => below 2 port
  | .cxlCacheToggle _ port _ => below 2 port
  | .busMasterEnable _ port func _ _ => below 2 port && below 64 func
  | .vfEnable _ port _ _ => below 2 port
  | .initiateFlr _ port func => below 2 port && below 64 func
  | .msixUnmask _ port func vec => below 2 port && below 64 func && below 32 vec
  | .hostHbmRead _ port _ _ _ func _ => below 2 port && below 64 func
  | .hostHbmWrite _ port _ _ _ _ => below 2 port
  | .heldReadAnswer _ port _ _ => below 2 port
  | .atsInvalidation _ port func _ => below 2 port && below 64 func
  | .atsInvalidationTimeout _ port func => below 2 port && below 64 func
  | .requestError _ port func _ => below 2 port && below 64 func
  | .ideIntegrityFailure _ port stream => below 2 port && below 3 stream
  | .ideKm _ port stream _ => below 2 port && below 3 stream
  | .getVersion _ port => below 2 port
  | .getCapabilities _ port => below 2 port
  | .negotiateAlgorithms _ port _ => below 2 port
  | .getDigests _ port => below 2 port
  | .getCertificate _ port _ _ _ => below 2 port
  | .challenge _ port _ nonce => below 2 port && nonceOk nonce
  | .getMeasurements _ port _ nonce => below 2 port && nonceOk nonce
  | .keyExchange _ port _ _ => below 2 port
  | .finish _ port _ => below 2 port
  | .heartbeat _ port _ => below 2 port
  | .keyUpdate _ port _ => below 2 port
  | .endSession _ port _ => below 2 port
  | .fatalErrorReport _ die => below 9 die
  | .standbyLeaseAckMissed _ => true
  | .checksumReport _ core => below 36 core
  | .coreStoreUe _ core _ => below 36 core
  | .summary _ link _ => below 2 link
  | .summaryApply _ => true
  | .mdFence _ _ _ => true
  | .read _ path _ _ nonce => below 3 path && nonceOk nonce
  | .param _ _ _ => true
  | .clear _ _ => true
  | .fwBegin _ _ _ => true
  | .fwData _ _ _ => true
  | .fwEnd _ _ _ _ => true
  | .i3cPrivateRead _ => true
  | .entdaa _ addr => below 128 addr
  | .setdasa _ static addr => below 128 static && below 128 addr
  | .rstdaa _ => true
  | .enec _ => true
  | .disec _ => true
  | .getpid _ => true
  | .getbcr _ => true
  | .getdcr _ => true
  | .getstatus _ => true
  | .getmwl _ => true
  | .getmrl _ => true
  | .rstact _ _ => true
  | .sealChange _ _ => true
  | .clockCheck _ _ => true
  | .fwHashCheck _ _ => true
  | .nvSnapshot _ _ => true
  | .mdBranchFall _ _ => true
  | .mdPowerOn _ _ => true
  | .statusWord _ fd => below 2 fd
  | .statusWordTimeout _ fd => below 2 fd
  | .mbxGo _ port _ _ => below 2 port
  | .mbxTimeout _ fd => below 2 fd
  | .vinLoss _ input => below 2 input
  | .vinReconnect _ input => below 2 input
  | .vinOvervoltage _ input => below 2 input
  | .modfail _ => true
  | .supplyTrip _ _ _ => true
  | .thermalTrip _ _ _ => true
  | .pwrOk _ _ _ _ _ => true
  | .perstRelease _ port => below 2 port
  | .pwrDnN _ => true
  | .pwrDnRelease _ => true
  | .coldRstN _ => true
  | .coldResetRelease _ _ _ _ => true
  | .refclkLoss _ => true
  | .refclkReturn _ => true
  | .qlRefclkLoss _ fd => below 2 fd
  | .testPortAccess _ => true
  | .slotVerified _ fd slot _ => below 2 fd && below 2 slot
  | .imageCompare _ => true
  | .recoveryGo _ port _ => below 2 port
  | .svnCommit _ port _ _ => below 2 port
  | .flashErase _ port _ _ => below 2 port
  | .flashProgram _ port _ _ => below 2 port
  | .flashCheck _ port _ _ => below 2 port
  | .flashDone _ fd => below 2 fd
  | .energySample _ _ _ _ _ => true
  | .lidLoopOpen _ _ => true
  | .completionTimeout _ port func => below 2 port && below 64 func
  | .throttleThreshold _ die _ => below 11 die
  | .fenceAcknowledgement _ _ => true
  | .readoutRecord _ fd bytes => below 2 fd && recordOk bytes
  | .doeDiscovery _ port _ => below 2 port
  | .cdatTableAccess _ port _ => below 2 port
  | .configurationRequest _ port func _ => below 2 port && below 64 func

end Sys2Proof
end

