-- ==== Sys2Proof/Safety.lean ====
section
/-! DEFINITION. What counts as a safe run, and the terms in which claims speak of commands: completing with a property,
a sequencer ready to fetch, the core an instruction belongs to, its destination register, and the meter's ledger. -/

namespace Sys2Proof.Machine

/-- An outcome that goes on. -/
def goesOn : Host.Outcome State Fault Refusal → Prop
  | .next _ => True
  | _ => False

/-- A run of n steps that never stops. -/
def safeFor : Nat → State → Prop
  | 0, _ => True
  | n + 1, s => match step s with
    | .next t => safeFor n t
    | _ => False

/-- The command completes and the next state has the property. -/
def Does (i : Instr) (s : State) (p : State → Prop) : Prop := ∃ t, exec i s = .next t ∧ p t

/-- Core c is present and its sequencer fetches from its image (R375, R396): a program runs and no guard is open. -/
def Fetches (s : State) (c : Nat) : Prop :=
  c < s.cores.length ∧ (s.core c).bank.active = true ∧ (s.core c).guard = false
    ∧ (s.core c).bank.inImage (s.core c).bank.pc.toNat 4 = true

/-- An engine of a core runs a stream program whose next instruction is well formed (R338, R339, R352, R353). -/
def Streaming (k : Core) (eng : Nat) : Prop :=
  eng < k.engines.length ∧ (k.engine eng).running = true ∧ (k.engine eng).stopped = false ∧ k.guard = false
    ∧ (k.engine eng).preFault = none

/-- Entry q of a core's tile queue, a TOP instruction, may issue now (R420), every logical tile it names being mapped. -/
def Issues (k : Core) (top id : Nat) (q : TileEntry) : Prop :=
  k.entry? id = some q ∧ q.start = none ∧ q.top = top ∧ q.issued = false ∧ k.orderOk q = true ∧ k.tilesOk q = true
    ∧ ∀ jl ∈ q.tiles, (k.physOf jl.1 q.asn q.item jl.2 (k.groupOf q.asn)).isSome = true

/-- The core and destination register of a sequencer instruction whose one effect is to write a register (R379, R380,
R385): ALU, .K forms, PCREL and DEC. -/
def regDest : Instr → Option (Nat × BitVec 5)
  | .add c rd _ _ | .sub c rd _ _ | .and c rd _ _ | .or c rd _ _ | .xor c rd _ _ | .shl c rd _ _ | .shr c rd _ _
  | .sar c rd _ _ | .clt c rd _ _ | .cltu c rd _ _ | .mul c rd _ _ | .mulHi c rd _ _ | .mulHiu c rd _ _
  | .quo c rd _ _ | .quou c rd _ _ | .mod c rd _ _ | .modu c rd _ _ | .min c rd _ _ | .max c rd _ _
  | .minu c rd _ _ | .maxu c rd _ _ | .fadd c rd _ _ | .fsub c rd _ _ | .fmul c rd _ _ | .fmin c rd _ _
  | .fmax c rd _ _ | .fclt c rd _ _ | .fceq c rd _ _ => some (c, rd)
  | .addK c rd _ _ | .andK c rd _ _ | .orK c rd _ _ | .xorK c rd _ _ | .cltK c rd _ _ | .cltuK c rd _ _
  | .hiK c rd _ _ | .shlK c rd _ _ | .shrK c rd _ _ | .sarK c rd _ _ => some (c, rd)
  | .pcrel c rd _ => some (c, rd)
  | _ => none

/-- The core of a sequencer instruction of chapter 11. -/
def seqCore : Instr → Option Nat
  | .ldW c _ _ _ | .ldHs c _ _ _ | .ldHu c _ _ _ | .ldBs c _ _ _ | .ldBu c _ _ _ | .stW c _ _ _ | .stH c _ _ _
  | .stB c _ _ _ | .brEq c _ _ _ | .brNe c _ _ _ | .brLt c _ _ _ | .brGe c _ _ _ | .brLtu c _ _ _
  | .brGeu c _ _ _ | .callr c _ _ _ => some c
  | .bra c _ | .call c _ | .trap c _ | .done c _ | .hret c | .fence c | .illegalInstruction c _ => some c
  | .sget c _ _ | .sput c _ _ | .sest c _ _ | .tget c _ _ | .tput c _ _ => some c
  | .qt c _ _ _ | .dec c _ _ _ => some c
  | .cvt c _ _ _ _ _ _ => some c
  | i => (regDest i).map (·.1)

/-! ### The meter's ledger -/

/-- The legal registers partition the energy: E_TOTAL is E_IDLE, every E_FN and the pending energy together, and what the
two inputs registered; there are 128 accounts (R549, R559). -/
def Legal.lawful (l : Legal) : Prop :=
  l.eTot = l.eIdle + l.eFn.sum + l.ePend ∧ l.eTot = l.eA + l.eB ∧ l.eFn.length = 128

/-- The ledger of a meter: its registers and those of every snapshot partition the energy, and every summary it holds
names accounts below 128 in rising order (R555, R558). -/
def Meter.lawful (m : Meter) : Prop :=
  m.legal.lawful ∧ (∀ x ∈ m.snaps, x.legal.lawful)
    ∧ ∀ h ∈ m.held, Meter.risingAcc h.entries = true ∧ ∀ e ∈ h.entries, e.1 < 128

/-- The ledger of the package's meter. -/
def State.meterLawful (s : State) : Prop := s.md.lawful

end Sys2Proof.Machine
end

