-- ==== Sys2Proof/Certificates/Slice0/Obligations.lean ====
section
/-! DEFINITION. The statements for the provers. -/

open Sys2Proof Sys2Proof.Machine

/-- The step of the block: the command at the front of the queue runs on the state with the queue's rest. On an empty
queue the block idles, which is the model's choice (log entry 1). -/
def Obligations.StepRunsTheFrontCommand : Prop :=
  (∀ (c : Instr) (s : State), step { s with pending := c :: s.pending } = exec c s)
  ∧ ∀ s : State, s.pending = [] → step s = .next s

/-- Every command completes in every state, and none takes or adds a command of the queue. -/
def Obligations.EveryCommandCompletesAndLeavesTheQueue : Prop :=
  ∀ (c : Instr) (s : State), ∃ t, exec c s = .next t ∧ t.pending = s.pending

/-- What reset leaves: every register at the reset value its table gives; no program, stream program, tile entry or
operation; empty rings, links down, empty L2 slices, no lock, no scope, the frames stopped, fencing token 1 (R589,
R643), CD8 banked (R20), a meter that runs, and no command waiting. Bytes nothing has written read 0, and general
registers are 0: those are the model's (log entries 2 and 3). -/
def Obligations.ResetHoldsTheStatedValues : Prop :=
  let s := State.reset
  (∀ r : Reg, s.reg r = r.reset.toNat)
  ∧ s.cores.length = 36
  ∧ (∀ k ∈ s.cores, k.bankN.active = false ∧ k.bankU.active = false ∧ k.urgent = false ∧ k.queue = [] ∧ k.segs = []
      ∧ k.arrays.length = 4 ∧ k.engines.length = 6 ∧ (∀ e ∈ k.engines, e.running = false ∧ e.xfers = [])
      ∧ (∀ r : BitVec 5, k.bankN.reg r = 0 ∧ k.bankU.reg r = 0) ∧ ∀ a, k.store.read a = 0)
  ∧ s.ops.list = [] ∧ s.ops.decs = [] ∧ s.ops.votes = [] ∧ s.rings.sq = [] ∧ s.rings.cq = []
  ∧ (∀ h ∈ s.mem.slices, h.lines = [] ∧ h.mshrs = [] ∧ h.waitq = []) ∧ s.mem.slices.length = 9
  ∧ s.pool.locks = [] ∧ s.pool.scopes = [] ∧ s.frames.ticking = false ∧ s.frames.guard = false
  ∧ s.ports.length = 2 ∧ (∀ p ∈ s.ports, p.up = false) ∧ s.cm.token = 1 ∧ s.flt.banked = some 8
  ∧ s.boot.ready = false ∧ s.boot.done = false ∧ s.md.on = true ∧ s.md.log = [] ∧ s.out = [] ∧ s.pending = []

/-- The meter's ledger holds at reset. -/
def Obligations.MeterLedgerHoldsAtReset : Prop := State.reset.meterLawful

/-- R549: at every instant E_TOT is E_IDLE, every E_FN and E_PEND together, and the sum of E_A and E_B; and a snapshot
that may come back keeps the same. Every step of the package keeps it from every state in which it holds, whatever the
command. -/
def Obligations.MeterLedgerIsKeptByEveryStep : Prop :=
  ∀ s t : State, s.meterLawful → step s = .next t → t.meterLawful

/-- R382: division saturates instead of wrapping, with the decided cases, and no integer instruction raises an
exception or sets a flag: every integer row of the ALU and every .K form (R379, R380) writes its result to g[rd] and
does nothing else than continue, and that write leaves STA, ECAUSE and ERA. -/
def Obligations.IntegerInstructionsSaturateAndRaiseNothing : Prop :=
  (∀ (s : State) (c : Nat) (rd ra rb : BitVec 5), Fetches s c →
     let a := (s.core c).bank.reg ra
     let b := (s.core c).bank.reg rb
     let put := fun v : Word => Host.Outcome.next (s.onCore c fun k => k.putReg rd v)
     exec (.add c rd ra rb) s = put (a + b)
     ∧ exec (.sub c rd ra rb) s = put (a - b)
     ∧ exec (.and c rd ra rb) s = put (a &&& b)
     ∧ exec (.or c rd ra rb) s = put (a ||| b)
     ∧ exec (.xor c rd ra rb) s = put (a ^^^ b)
     ∧ exec (.shl c rd ra rb) s = put (a <<< (b.toNat % 32))
     ∧ exec (.shr c rd ra rb) s = put (a >>> (b.toNat % 32))
     ∧ exec (.sar c rd ra rb) s = put (a.sshiftRight (b.toNat % 32))
     ∧ exec (.clt c rd ra rb) s = put (if a.toInt < b.toInt then 1 else 0)
     ∧ exec (.cltu c rd ra rb) s = put (if a.toNat < b.toNat then 1 else 0)
     ∧ exec (.mul c rd ra rb) s = put (BitVec.ofNat 32 (a.toNat * b.toNat))
     ∧ exec (.mulHi c rd ra rb) s = put (BitVec.ofInt 32 (a.toInt * b.toInt / 2 ^ 32))
     ∧ exec (.mulHiu c rd ra rb) s = put (BitVec.ofNat 32 (a.toNat * b.toNat / 2 ^ 32))
     ∧ exec (.min c rd ra rb) s = put (if a.toInt ≤ b.toInt then a else b)
     ∧ exec (.max c rd ra rb) s = put (if b.toInt ≤ a.toInt then a else b)
     ∧ exec (.minu c rd ra rb) s = put (if a.toNat ≤ b.toNat then a else b)
     ∧ exec (.maxu c rd ra rb) s = put (if b.toNat ≤ a.toNat then a else b))
  ∧ (∀ (s : State) (c : Nat) (rd ra k : BitVec 5) (imm : BitVec 16), Fetches s c →
     let a := (s.core c).bank.reg ra
     let put := fun v : Word => Host.Outcome.next (s.onCore c fun k => k.putReg rd v)
     exec (.addK c rd ra imm) s = put (a + imm.signExtend 32)
     ∧ exec (.andK c rd ra imm) s = put (a &&& imm.zeroExtend 32)
     ∧ exec (.orK c rd ra imm) s = put (a ||| imm.zeroExtend 32)
     ∧ exec (.xorK c rd ra imm) s = put (a ^^^ imm.zeroExtend 32)
     ∧ exec (.cltK c rd ra imm) s = put (if a.toInt < imm.toInt then 1 else 0)
     ∧ exec (.cltuK c rd ra imm) s = put (if a.toNat < (imm.signExtend 32).toNat then 1 else 0)
     ∧ exec (.hiK c rd ra imm) s = put (imm ++ a.extractLsb' 0 16)
     ∧ exec (.shlK c rd ra k) s = put (a <<< k.toNat)
     ∧ exec (.shrK c rd ra k) s = put (a >>> k.toNat)
     ∧ exec (.sarK c rd ra k) s = put (a.sshiftRight k.toNat))
  ∧ ((∀ (s : State) (c : Nat) (rd ra rb : BitVec 5), Fetches s c →
     let a := (s.core c).bank.reg ra
     let b := (s.core c).bank.reg rb
     let put := fun v : Word => Host.Outcome.next (s.onCore c fun k => k.putReg rd v)
     (b = 0 → 0 ≤ a.toInt → exec (.quo c rd ra rb) s = put 0x7FFFFFFF#32)
     ∧ (b = 0 → a.toInt < 0 → exec (.quo c rd ra rb) s = put 0x80000000#32)
     ∧ (b = 0 → exec (.quou c rd ra rb) s = put 0xFFFFFFFF#32)
     ∧ (b = 0 → exec (.mod c rd ra rb) s = put a)
     ∧ (b = 0 → exec (.modu c rd ra rb) s = put a)
     ∧ (a.toInt = -2 ^ 31 → b.toInt = -1 → exec (.quo c rd ra rb) s = put 0x7FFFFFFF#32
         ∧ exec (.mod c rd ra rb) s = put 0)
     ∧ (b ≠ 0 → ¬(a.toInt = -2 ^ 31 ∧ b.toInt = -1) →
         ∃ q r : Int, a.toInt = b.toInt * q + r ∧ |r| < |b.toInt| ∧ (0 ≤ a.toInt → 0 ≤ r) ∧ (a.toInt ≤ 0 → r ≤ 0)
           ∧ exec (.quo c rd ra rb) s = put (BitVec.ofInt 32 q) ∧ exec (.mod c rd ra rb) s = put (BitVec.ofInt 32 r))
     ∧ (b ≠ 0 → exec (.quou c rd ra rb) s = put (BitVec.ofNat 32 (a.toNat / b.toNat))
         ∧ exec (.modu c rd ra rb) s = put (BitVec.ofNat 32 (a.toNat % b.toNat))))
   ∧ ∀ (k : Core) (rd : BitVec 5) (v : Word), (k.putReg rd v).bank.sta = k.bank.sta
       ∧ (k.putReg rd v).bank.ecause = k.bank.ecause ∧ (k.putReg rd v).bank.era = k.bank.era)

/-- R379, R380, R383, R385: the binary32 ALU rows, PCREL and DEC write their results. A NaN operand makes FMIN and
FMAX 0x7FC0_0000 and FCLT and FCEQ 0; FMIN and FMAX order -0 below +0; a reserved source code of DEC is an exception.
-/
def Obligations.BinaryFloatAndDecodeResults : Prop :=
  ∀ (s : State) (c : Nat) (rd ra rb : BitVec 5) (imm : BitVec 16) (src : BitVec 4), Fetches s c →
    let a := (s.core c).bank.reg ra
    let b := (s.core c).bank.reg rb
    let put := fun v : Word => Host.Outcome.next (s.onCore c fun k => k.putReg rd v)
    let less := fun x y : Word => Val.lt (f32 x) (f32 y)
      || ((f32 x).isZero && (f32 y).isZero && bit x.toNat 31 && !bit y.toNat 31)
    exec (.fadd c rd ra rb) s = put (rne32z (Val.add (f32 a) (f32 b)))
    ∧ exec (.fsub c rd ra rb) s = put (rne32z (Val.sub (f32 a) (f32 b)))
    ∧ exec (.fmul c rd ra rb) s = put (rne32z (Val.mul (f32 a) (f32 b)))
    ∧ ((f32 a).isNan || (f32 b).isNan → exec (.fmin c rd ra rb) s = put 0x7FC00000#32
        ∧ exec (.fmax c rd ra rb) s = put 0x7FC00000#32 ∧ exec (.fclt c rd ra rb) s = put 0
        ∧ exec (.fceq c rd ra rb) s = put 0)
    ∧ ((f32 a).isNan = false → (f32 b).isNan = false →
        exec (.fmin c rd ra rb) s = put (if less b a then b else a)
        ∧ exec (.fmax c rd ra rb) s = put (if less a b then b else a)
        ∧ exec (.fclt c rd ra rb) s = put (if Val.lt (f32 a) (f32 b) then 1 else 0)
        ∧ exec (.fceq c rd ra rb) s
            = put (if !Val.lt (f32 a) (f32 b) && !Val.lt (f32 b) (f32 a) then 1 else 0))
    ∧ exec (.pcrel c rd imm) s = put ((s.core c).bank.pc + imm.signExtend 32 * 4)
    ∧ (∀ f, decSrcDefined src.toNat = true → cvtFormat src.toNat = some f →
        exec (.dec c rd ra src) s = put (rne32 (f.decode (a.toNat % 2 ^ f.bits))))
    ∧ (decSrcDefined src.toNat = false → exec (.dec c rd ra src) s
        = .next (s.onCore c fun k => k.raiseAt 3 (wordI 0x35 rd ra (src.zeroExtend 16 <<< 12))))

/-- What an instruction that only writes a register leaves: every other register, the special registers, the bank that
does not run, core store, tile queue, arrays, engines, and everything outside its core; g0 still reads 0 and pc moves
to the next word (R372, R374, R379). And no instruction of the sequencer changes anything outside its own core (R377).
-/
def Obligations.SequencerInstructionsKeepTheRest : Prop :=
  (∀ (i : Instr) (s t : State) (c : Nat) (rd : BitVec 5), regDest i = some (c, rd) → Fetches s c →
     (∀ ra src, i = .dec c rd ra src → decSrcDefined src.toNat = true) → exec i s = .next t →
     let k := s.core c
     let k' := t.core c
     (∀ r, r ≠ rd → k'.bank.reg r = k.bank.reg r) ∧ k'.bank.reg 0 = 0 ∧ k'.bank.pc = k.bank.pc + 4
       ∧ (∀ n, k'.bank.special n = k.bank.special n) ∧ k'.bank.active = k.bank.active
       ∧ k'.urgent = k.urgent ∧ (if k.urgent then k'.bankN = k.bankN else k'.bankU = k.bankU)
       ∧ (∀ a, k'.store.read a = k.store.read a) ∧ k'.queue = k.queue ∧ k'.arrays = k.arrays
       ∧ k'.engines = k.engines ∧ k'.endings = k.endings ∧ k'.notes = k.notes ∧ k'.ft = k.ft
       ∧ t = s.onCore c fun _ => k')
  ∧ (∀ (i : Instr) (s : State) (c : Nat), seqCore i = some c → ∃ t, exec i s = .next t ∧ t = s.onCore c fun _ => t.core c)

/-- R375, R379, R388: a load puts its little-endian bytes, extended as its row says, into g[rd]; a misaligned address
is an ALIGN exception, an aligned one outside the program range and the operation window an ACCESS exception. -/
def Obligations.LoadsExtendAndCheckTheirAddress : Prop :=
  ∀ (s : State) (c : Nat) (rd ra : BitVec 5) (imm : BitVec 16), Fetches s c →
    let k := s.core c
    let a := k.bank.reg ra + imm.signExtend 32
    let put := fun v : Word => Host.Outcome.next (s.onCore c fun k => k.putReg rd v)
    let raised := fun n : Nat => Host.Outcome.next (s.onCore c fun k => k.raiseAt n a)
    let reach := fun n : Nat => k.bank.inProgram a.toNat n || inWindow a.toNat n
    (a.toNat % 4 = 0 → reach 4 → exec (.ldW c rd ra imm) s = put (BitVec.ofNat 32 (k.loadNat a.toNat 4)))
    ∧ (a.toNat % 2 = 0 → reach 2 →
        exec (.ldHs c rd ra imm) s = put ((BitVec.ofNat 16 (k.loadNat a.toNat 2)).signExtend 32)
        ∧ exec (.ldHu c rd ra imm) s = put ((BitVec.ofNat 16 (k.loadNat a.toNat 2)).zeroExtend 32))
    ∧ (reach 1 → exec (.ldBs c rd ra imm) s = put ((BitVec.ofNat 8 (k.loadNat a.toNat 1)).signExtend 32)
        ∧ exec (.ldBu c rd ra imm) s = put ((BitVec.ofNat 8 (k.loadNat a.toNat 1)).zeroExtend 32))
    ∧ (a.toNat % 4 ≠ 0 → exec (.ldW c rd ra imm) s = raised 4)
    ∧ (a.toNat % 2 ≠ 0 → exec (.ldHs c rd ra imm) s = raised 4 ∧ exec (.ldHu c rd ra imm) s = raised 4)
    ∧ (a.toNat % 4 = 0 → reach 4 = false → exec (.ldW c rd ra imm) s = raised 5)
    ∧ (a.toNat % 2 = 0 → reach 2 = false → exec (.ldHs c rd ra imm) s = raised 5
        ∧ exec (.ldHu c rd ra imm) s = raised 5)
    ∧ (reach 1 = false → exec (.ldBs c rd ra imm) s = raised 5 ∧ exec (.ldBu c rd ra imm) s = raised 5)

/-- R375, R379, R388: a store writes exactly its bytes, little-endian, and changes no register; the operation window
and every other address outside the program range is an ACCESS exception, a misaligned address an ALIGN exception. -/
def Obligations.StoresWriteExactlyTheirBytes : Prop :=
  ∀ (s : State) (c : Nat) (rd ra : BitVec 5) (imm : BitVec 16), Fetches s c → Memory.wf (s.core c).store.mem = true →
    let k := s.core c
    let a := k.bank.reg ra + imm.signExtend 32
    let wrote := fun (n : Nat) (i : Instr) => Does i s fun t =>
      (t.core c).store.readLe a.toNat n = (k.bank.reg rd).toNat % 256 ^ n
      ∧ (∀ x, x < a.toNat ∨ a.toNat + n ≤ x → (t.core c).store.read x = k.store.read x)
      ∧ Memory.wf (t.core c).store.mem = true
      ∧ (∀ r, (t.core c).bank.reg r = k.bank.reg r) ∧ (∀ n, (t.core c).bank.special n = k.bank.special n)
      ∧ (t.core c).bank.pc = k.bank.pc + 4 ∧ t = s.onCore c fun _ => t.core c
    let raised := fun n : Nat => Host.Outcome.next (s.onCore c fun k => k.raiseAt n a)
    (a.toNat % 4 = 0 → k.bank.inProgram a.toNat 4 → wrote 4 (.stW c rd ra imm))
    ∧ (a.toNat % 2 = 0 → k.bank.inProgram a.toNat 2 → wrote 2 (.stH c rd ra imm))
    ∧ (k.bank.inProgram a.toNat 1 → wrote 1 (.stB c rd ra imm))
    ∧ (a.toNat % 4 ≠ 0 → exec (.stW c rd ra imm) s = raised 4)
    ∧ (a.toNat % 2 ≠ 0 → exec (.stH c rd ra imm) s = raised 4)
    ∧ (a.toNat % 4 = 0 → k.bank.inProgram a.toNat 4 = false → exec (.stW c rd ra imm) s = raised 5)
    ∧ (a.toNat % 2 = 0 → k.bank.inProgram a.toNat 2 = false → exec (.stH c rd ra imm) s = raised 5)
    ∧ (k.bank.inProgram a.toNat 1 = false → exec (.stB c rd ra imm) s = raised 5)

/-- R379: where branches, jumps and calls continue. -/
def Obligations.BranchesAndCallsContinueAtTheirTargets : Prop :=
  ∀ (s : State) (c : Nat) (rd ra rb : BitVec 5) (off : BitVec 16) (far : BitVec 26), Fetches s c →
    let k := s.core c
    let a := k.bank.reg ra
    let b := k.bank.reg rb
    let goes := fun t : Word => Host.Outcome.next (s.onCore c fun k => k.setBank (k.bank.jump t))
    let br := fun p : Prop => fun [Decidable p] => goes (if p then k.bank.pc + off.signExtend 32 * 4 else k.bank.pc + 4)
    let t := a + off.signExtend 32
    exec (.brEq c ra rb off) s = br (a = b)
    ∧ exec (.brNe c ra rb off) s = br (a ≠ b)
    ∧ exec (.brLt c ra rb off) s = br (a.toInt < b.toInt)
    ∧ exec (.brGe c ra rb off) s = br (b.toInt ≤ a.toInt)
    ∧ exec (.brLtu c ra rb off) s = br (a.toNat < b.toNat)
    ∧ exec (.brGeu c ra rb off) s = br (b.toNat ≤ a.toNat)
    ∧ exec (.bra c far) s = goes (k.bank.pc + far.signExtend 32 * 4)
    ∧ exec (.call c far) s = .next (s.onCore c fun k =>
        k.setBank ((k.bank.setReg 30 (k.bank.pc + 4)).jump (k.bank.pc + far.signExtend 32 * 4)))
    ∧ (t.toNat % 4 = 0 → exec (.callr c rd ra off) s = .next (s.onCore c fun k =>
        k.setBank ((k.bank.setReg rd (k.bank.pc + 4)).jump t)))
    ∧ (t.toNat % 4 ≠ 0 → exec (.callr c rd ra off) s
        = .next (s.onCore c fun k => k.raiseAt 4 (wordI 0x20 rd ra off)))

/-- R389, whole: the row that applies to an exception, the four steps of a first-level entry, and HRET at HLV = 0b01.
-/
def Obligations.FirstLevelEntryAndReturn : Prop :=
  (∀ (k : Core) (x : Exc), Memory.wf k.store.mem = true → x.cause < 32 →
    let b := k.bank
    let handled := x.cause ≠ 9 ∧ bit b.evb.toNat 0 = true
    let sp := b.reg 31 - 16
    let fits := sp.toNat % 16 = 0 ∧ b.slo.toNat ≤ sp.toNat ∧ sp.toNat + 16 ≤ b.shi.toNat
    (¬handled → b.active = true → k.endings = [] →
      (k.raise x).endings = [⟨b.ctx.asn, 0x20, seqInfo x.cause (if x.cause = 9 then 0 else x.addr) 0⟩]
        ∧ (k.raise x).store = k.store ∧ (k.raise x).bank.active = false)
    ∧ (handled → b.hlv = 2 → k.raise x = k.doubleFault x 2)
    ∧ (handled → b.hlv = 1 → k.raise x = k.enterSecond x 2)
    ∧ (handled → b.hlv = 0 → ¬fits → k.raise x = k.enterSecond x 1)
    ∧ (handled → b.hlv = 0 → fits →
      let t := k.raise x
      t.store.readLe sp.toNat 4 = b.era.toNat ∧ t.store.readLe (sp.toNat + 4) 4 = b.sta.toNat
        ∧ t.store.readLe (sp.toNat + 8) 4 = b.ecause.toNat ∧ t.store.readLe (sp.toNat + 12) 4 = x.eaddr.toNat
        ∧ (∀ a, a < sp.toNat ∨ sp.toNat + 16 ≤ a → t.store.read a = k.store.read a)
        ∧ t.bank.reg 31 = sp ∧ (∀ r, r ≠ 31 → t.bank.reg r = b.reg r)
        ∧ t.bank.era = x.ret &&& 0x7FFFFC#32 ∧ t.bank.ecause.toNat = x.cause
        ∧ t.bank.sta = (b.sta &&& 0xC#32) ||| 0x1#32
        ∧ t.bank.pc = (b.evb &&& 0x7FFF00#32) + (if x.cause < 0x10 then 0 else 0x40)
        ∧ t.bank.evb = b.evb ∧ t.bank.slo = b.slo ∧ t.bank.shi = b.shi ∧ t.bank.fsb = b.fsb))
  ∧ ∀ (s : State) (c : Nat), Fetches s c → (s.core c).bank.hlv = 1 →
    let k := s.core c
    Does (.hret c) s fun t =>
      (t.core c).bank.sta = (BitVec.ofNat 32 (k.store.readLe ((k.bank.reg 31).toNat + 4) 4) &&& 0xB#32)
          ||| (k.bank.sta &&& 0x4#32)
        ∧ (t.core c).bank.reg 31 = k.bank.reg 31 + 16 ∧ (∀ r, r ≠ 31 → (t.core c).bank.reg r = k.bank.reg r)
        ∧ (t.core c).bank.pc = k.bank.era ∧ (t.core c).store = k.store ∧ t = s.onCore c fun _ => t.core c

/-- R390, R392: second-level entry writes the fault save block and leaves every register; with an invalid FSB_BASE,
and for an exception at second level, the double fault ends the program with SEQ_DOUBLE_FAULT, writes no core store
and records the halt. -/
def Obligations.SecondLevelEntryAndDoubleFault : Prop :=
  ∀ (k : Core) (x : Exc) (reason : Nat), Memory.wf k.store.mem = true → x.cause < 32 → reason < 256 →
    let b := k.bank
    let f := b.fsb.toNat
    (b.fsbValid = true →
      let t := k.enterSecond x reason
      t.store.readLe f 4 = b.era.toNat ∧ t.store.readLe (f + 0x04) 4 = b.sta.toNat
        ∧ t.store.readLe (f + 0x08) 4 = b.ecause.toNat ∧ t.store.readLe (f + 0x0C) 4 = x.eaddr.toNat
        ∧ t.store.readLe (f + 0x10) 4 = (b.reg 31).toNat ∧ t.store.readLe (f + 0x14) 4 = (b.reg 30).toNat
        ∧ t.store.readLe (f + 0x18) 4 = x.cause ∧ t.store.readLe (f + 0x1C) 4 = x.addr.toNat
        ∧ t.store.readLe (f + 0x20) 1 = reason ∧ t.store.readLe (f + 0x21) 31 = 0
        ∧ (∀ a, a < f ∨ f + 64 ≤ a → t.store.read a = k.store.read a)
        ∧ (∀ r, t.bank.reg r = b.reg r) ∧ t.bank.era = x.ret &&& 0x7FFFFC#32 ∧ t.bank.ecause.toNat = x.cause
        ∧ t.bank.sta = (b.sta &&& 0xC#32) ||| 0x2#32 ∧ t.bank.pc = (b.evb &&& 0x7FFF00#32) + 0x100)
    ∧ (b.fsbValid = false → k.enterSecond x reason = k.doubleFault x 1)
    ∧ ∀ kind, b.active = true → k.endings = [] →
      let t := k.doubleFault x kind
      t.store = k.store ∧ t.bank.active = false ∧ t.ft.halt = true ∧ t.ft.hasn = b.ctx.asn
        ∧ t.endings = [⟨b.ctx.asn, 0x21, seqInfo x.cause x.addr kind⟩]
        ∧ (∀ e ∈ t.engines, e.running = true → e.asn = b.ctx.asn → e.stopped = true)
        ∧ ∀ q ∈ t.queue, q.asn = b.ctx.asn → q.issued = true

/-- R373, R381, R388, R390: SGET and SPUT by special register number, HRET at second level and outside a handler,
TRAP, FENCE, and DONE at both codes. -/
def Obligations.SystemInstructionsAct : Prop :=
  ∀ (s : State) (c : Nat) (rd ra n code : BitVec 5), Fetches s c →
    let k := s.core c
    let b := k.bank
    let a := b.reg ra
    let becomes := fun k' : Core => Host.Outcome.next (s.onCore c fun _ => k')
    let put := fun v : Word => becomes (k.putReg rd v)
    let spec := fun b' : SeqBank => becomes (k.setBank b'.next)
    let w := fun x y z fn => wordR 0x28 x y z fn
    (n = 0 → exec (.sget c rd n) s = put b.sta ∧ exec (.sput c ra n) s
        = spec { b with sta := (b.sta &&& 0x7#32) ||| (a &&& 0x8#32) })
    ∧ (n = 1 → exec (.sget c rd n) s = put b.ecause ∧ exec (.sput c ra n) s = spec { b with ecause := a &&& 0xFF#32 })
    ∧ (n = 2 → exec (.sget c rd n) s = put b.era ∧ exec (.sput c ra n) s = spec { b with era := a &&& 0x7FFFFC#32 })
    ∧ (n = 3 → exec (.sget c rd n) s = put b.evb ∧ exec (.sput c ra n) s = spec { b with evb := a &&& 0x7FFF01#32 })
    ∧ (n = 4 → exec (.sget c rd n) s = put b.slo ∧ exec (.sput c ra n) s = spec { b with slo := a &&& 0x7FFFF0#32 })
    ∧ (n = 5 → exec (.sget c rd n) s = put b.shi ∧ exec (.sput c ra n) s = spec { b with shi := a &&& 0x7FFFF0#32 })
    ∧ (n = 6 → exec (.sget c rd n) s = put b.fsb ∧ exec (.sput c ra n) s = spec { b with fsb := a })
    ∧ (7 ≤ n.toNat → exec (.sget c rd n) s = becomes (k.raiseAt 6 (w rd 0 n 0))
        ∧ exec (.sput c ra n) s = becomes (k.raiseAt 6 (w 0 ra n 1)))
    ∧ (b.hlv = 0 → exec (.hret c) s = becomes (k.raiseAt 7 (w 0 0 0 2)))
    ∧ (b.hlv = 2 → Does (.hret c) s fun t =>
        (t.core c).bank.sta = (BitVec.ofNat 32 (k.store.readLe (b.fsb.toNat + 4) 4) &&& 0xB#32) ||| (b.sta &&& 0x4#32)
        ∧ (t.core c).bank.reg 31 = BitVec.ofNat 32 (k.store.readLe (b.fsb.toNat + 0x10) 4)
        ∧ (∀ r, r ≠ 31 → (t.core c).bank.reg r = b.reg r) ∧ (t.core c).bank.pc = b.era
        ∧ (t.core c).store = k.store)
    ∧ (code.toNat < 16 → exec (.trap c code) s
        = becomes (k.raise ⟨0x10 + code.toNat, w 0 0 code 3, b.pc, b.pc + 4⟩))
    ∧ (16 ≤ code.toNat → exec (.trap c code) s = becomes (k.raiseAt 3 (w 0 0 code 3)))
    ∧ exec (.fence c) s = becomes (k.setBank b.next)
    ∧ (2 ≤ code.toNat → exec (.done c code) s = becomes (k.raiseAt 3 (w 0 0 code 4)))
    ∧ (code = 1 → exec (.done c code) s
        = becomes (k.endProgram 0x20 (seqInfo (if b.hlv = 0 then 0x0F else b.ecause.toNat % 256) b.pc 0)))
    ∧ (code = 0 → k.streaming b.ctx.asn = true → exec (.done c code) s = .next s)
    ∧ (code = 0 → k.streaming b.ctx.asn = false → Does (.done c code) s fun t =>
        (t.core c).bank.active = false ∧ (t.core c).store = k.store
        ∧ ∀ g ∈ (t.core c).segs, g.ctx.asn = b.ctx.asn → ∀ i ∈ g.items, i.num = b.item → i.done = true)

/-- R394: no undefined word has an effect of its own; each raises the exception its row names. -/
def Obligations.UndefinedWordsRaise : Prop :=
  ∀ (s : State) (c : Nat) (w : Word), Fetches s c →
    let op := w.toNat / 2 ^ 26
    let fn := w.toNat % 64
    let raised := fun n : Nat => Host.Outcome.next (s.onCore c fun k => k.raiseAt n w)
    let defined := [0x01, 0x02, 0x03, 0x04, 0x05, 0x06, 0x07, 0x08, 0x09, 0x0A, 0x0B, 0x0C, 0x10, 0x11, 0x12, 0x13, 0x14,
      0x15, 0x16, 0x17, 0x18, 0x19, 0x1A, 0x1B, 0x1C, 0x1D, 0x1E, 0x1F, 0x20, 0x28, 0x30, 0x31, 0x32, 0x33, 0x34, 0x35]
    (op ∉ defined → exec (.illegalInstruction c w) s = raised 1)
    ∧ (op = 0x01 → (0x15 ≤ fn ∧ fn < 0x20 ∨ 0x27 ≤ fn) → exec (.illegalInstruction c w) s = raised 2)
    ∧ (op = 0x28 → 6 ≤ fn → exec (.illegalInstruction c w) s = raised 2)
    ∧ (op = 0x01 → (fn < 0x15 ∨ 0x20 ≤ fn ∧ fn < 0x27) → bitf w.toNat 6 5 ≠ 0 →
        exec (.illegalInstruction c w) s = raised 3)
    ∧ (op ∈ [0x09, 0x0A, 0x0B] → bitf w.toNat 5 11 ≠ 0 → exec (.illegalInstruction c w) s = raised 3)
    ∧ (op = 0x0C → bitf w.toNat 16 5 ≠ 0 → exec (.illegalInstruction c w) s = raised 3)
    ∧ (op = 0x30 → w.toNat % 2 ^ 11 ≠ 0 → exec (.illegalInstruction c w) s = raised 3)
    ∧ (op ∈ [0x31, 0x32, 0x33] → 6 ≤ bitf w.toNat 13 3 → exec (.illegalInstruction c w) s = raised 3)
    ∧ (op = 0x34 → (w.toNat % 4 ≠ 0 ∨ 12 ≤ bitf w.toNat 3 4 ∨ bitf w.toNat 7 4 < 2) →
        exec (.illegalInstruction c w) s = raised 3)
    ∧ (op = 0x35 → (w.toNat % 2 ^ 12 ≠ 0 ∨ decSrcDefined (bitf w.toNat 12 4) = false) →
        exec (.illegalInstruction c w) s = raised 3)

/-- R386, R398: QT and SEST append to the tile queue; TGET takes a token and TPUT gives one to the operation's own
running program; CVT writes the converted code, zero-extended, and marks a block that becomes NaN. -/
def Obligations.QueueTokenAndConversionInstructions : Prop :=
  ∀ (s : State) (c : Nat) (rd ra rb rc : BitVec 5) (eng : BitVec 3) (ctr : BitVec 2) (site dst : BitVec 4) (src : Bool),
    Fetches s c →
    let k := s.core c
    let b := k.bank
    let onward := fun t : State => (t.core c).bank.pc = b.pc + 4 ∧ (∀ r, (t.core c).bank.reg r = b.reg r)
      ∧ (t.core c).store = k.store ∧ t = s.onCore c fun _ => t.core c
    (k.shareFull k.urgent = false →
      firstFault (k.tileFaults (s.resident c) (k.newEntry (b.reg ra) (b.reg rb) (b.reg rc))) = none →
      Does (.qt c ra rb rc) s fun t => onward t ∧ ∃ q, (t.core c).queue = k.queue ++ [q] ∧ q.id = k.nextId
        ∧ q.w0 = b.reg ra ∧ q.w1 = b.reg rb ∧ q.w2 = b.reg rc ∧ q.asn = b.ctx.asn ∧ q.item = b.item
        ∧ q.bankU = k.urgent ∧ q.start = none ∧ q.issued = false)
    ∧ (k.shareFull k.urgent = true → exec (.qt c ra rb rc) s = .next s)
    ∧ (eng.toNat < 6 → (eng = 5 → b.ctx.desc.isUrgent = true) → (b.reg ra).toNat % 64 = 0 →
      b.inProgram (b.reg ra).toNat 192 = true → k.shareFull k.urgent = false →
      Does (.sest c ra eng) s fun t => onward t ∧ ∃ q, (t.core c).queue = k.queue ++ [q]
        ∧ q.start = some (eng.toNat, (b.reg ra).toNat) ∧ q.asn = b.ctx.asn ∧ q.issued = false)
    ∧ (eng = 5 → b.ctx.desc.isUrgent = false → exec (.sest c ra eng) s
        = .next (s.onCore c fun k => k.raiseAt 8 (wordE 0x31 ra eng 0)))
    ∧ (∀ e n, eng.toNat < 6 → k.engines[eng.toNat]? = some e → e.running = true → e.asn = b.ctx.asn →
      e.tok[ctr.toNat]? = some n → (0 < n → Does (.tget c eng ctr) s fun t => onward t
        ∧ (t.core c).engines[eng.toNat]? = some { e with tok := e.tok.set ctr.toNat (n - 1) }
        ∧ ∀ j, j ≠ eng.toNat → (t.core c).engines[j]? = k.engines[j]?)
        ∧ (n = 0 → exec (.tget c eng ctr) s = .next s)
        ∧ (n < 255 → Does (.tput c eng ctr) s fun t => onward t
          ∧ (t.core c).engines[eng.toNat]? = some { e with tok := e.tok.set ctr.toNat (n + 1) }
          ∧ ∀ j, j ≠ eng.toNat → (t.core c).engines[j]? = k.engines[j]?))
    ∧ (k.engineServes b.ctx.asn eng.toNat = false → eng.toNat < 6 →
      exec (.tget c eng ctr) s = .next (s.onCore c fun k => k.raiseAt 8 (wordE 0x32 0 eng ctr))
      ∧ exec (.tput c eng ctr) s = .next (s.onCore c fun k => k.raiseAt 8 (wordE 0x33 0 eng ctr)))
    ∧ ∀ f, cvtFormat dst.toNat = some f → 2 ≤ site.toNat →
      let v := convElem f b.ctx.desc.rnd b.ctx.desc.ieee (draw b.ctx.desc.seed site.toNat (b.reg rb).toNat 0 0 0)
        (if src then Val.ofZ (b.reg ra).toInt else f32 (b.reg ra))
      Does (.cvt c rd ra rb site dst src) s fun t =>
        (t.core c).bank.reg rd = (if rd = 0 then 0 else BitVec.ofNat 32 (if v.blockNan then 0 else v.code))
        ∧ (∀ r, r ≠ rd → (t.core c).bank.reg r = b.reg r) ∧ (t.core c).bank.pc = b.pc + 4
        ∧ (t.core c).bank.sta = (if v.blockNan then b.sta ||| 0x8#32 else b.sta)
        ∧ (t.core c).store = k.store ∧ t = s.onCore c fun _ => t.core c

/-- R339: the stream instructions that write an address register, and what the write leaves. -/
def Obligations.StreamRegisterInstructions : Prop :=
  (∀ (e : StreamEng) (d r : BitVec 4) (v : DWord), (e.setS d v).sreg r = if r = d then v else e.sreg r)
  ∧ ∀ (s : State) (c eng : Nat) (d a b : BitVec 4) (pos : BitVec 2) (i16 : BitVec 16) (imm : BitVec 14) (sh : BitVec 6),
    c < s.cores.length → Streaming (s.core c) eng →
    let k := s.core c
    let e := k.engine eng
    let put := fun v : DWord => Host.Outcome.next (s.onCore c fun k => k.putEngine eng (e.setS d v).next)
    let fault := fun n : Nat => Host.Outcome.next (s.onCore c fun k => k.seFault eng n)
    let addr := (e.sreg a + imm.signExtend 64).toNat
    exec (.seAddi c eng d a imm) s = put (e.sreg a + imm.signExtend 64)
    ∧ exec (.seAdd c eng d a b) s = put (e.sreg a + e.sreg b)
    ∧ exec (.seSub c eng d a b) s = put (e.sreg a - e.sreg b)
    ∧ exec (.seMuli c eng d a imm) s = put (e.sreg a * imm.zeroExtend 64)
    ∧ exec (.seShli c eng d a sh) s = put (e.sreg a <<< sh.toNat)
    ∧ exec (.seSetw c eng d 0 i16) s = put (i16.zeroExtend 64)
    ∧ (pos ≠ 0 → ∃ v, exec (.seSetw c eng d pos i16) s = put v ∧ ∀ i, i < 64 → v.getLsbD i =
        if 16 * pos.toNat ≤ i ∧ i < 16 * pos.toNat + 16 then i16.getLsbD (i - 16 * pos.toNat)
        else (e.sreg d).getLsbD i)
    ∧ (addr % 8 = 0 → addr < 0x800000 →
        exec (.seLdw c eng d a imm) s = put (BitVec.ofNat 64 (k.store.readLe addr 8)))
    ∧ (addr % 4 = 0 → addr < 0x800000 →
        exec (.seLdh c eng d a imm) s = put (BitVec.ofNat 64 (k.store.readLe addr 4)))
    ∧ (addr % 8 ≠ 0 → exec (.seLdw c eng d a imm) s = fault 0xA04)
    ∧ (addr % 4 ≠ 0 → exec (.seLdh c eng d a imm) s = fault 0xA04)
    ∧ (addr % 8 = 0 → 0x800000 ≤ addr → exec (.seLdw c eng d a imm) s = fault 0xA05)
    ∧ (addr % 4 = 0 → 0x800000 ≤ addr → exec (.seLdh c eng d a imm) s = fault 0xA05)

/-- R336, R338, R339, R340, R347: loops, tokens, waiting, the end of a stream program and the start of the next. -/
def Obligations.StreamControlAndTokens : Prop :=
  ∀ (s : State) (c eng : Nat) (d a : BitVec 4) (lvl : BitVec 2) (imm : BitVec 18), c < s.cores.length →
    let k := s.core c
    let e := k.engine eng
    let becomes := fun e' : StreamEng => Host.Outcome.next (s.onCore c fun k => k.putEngine eng e')
    let fault := fun n : Nat => Host.Outcome.next (s.onCore c fun k => k.seFault eng n)
    let count := fun r : Bool => if r then (e.sreg a).toNat % 2 ^ 32 else imm.toNat
    (Streaming k eng →
      (∀ r, e.loops.getD lvl.toNat none = none → count r ≠ 0 → exec (.seLoop c eng lvl r a imm) s
        = becomes { e with index := e.index + 1, loops := e.loops.set lvl.toNat (some ⟨e.index + 1, count r⟩) })
      ∧ (∀ r, e.loops.getD lvl.toNat none = none → count r = 0 → exec (.seLoop c eng lvl r a imm) s
        = becomes { e with index := afterNext e.code lvl.toNat (e.index + 1) })
      ∧ (∀ r l, e.loops.getD lvl.toNat none = some l → exec (.seLoop c eng lvl r a imm) s = fault 0xA07)
      ∧ (∀ l, e.loops.getD lvl.toNat none = some l → l.left = 1 → exec (.seNext c eng lvl) s
        = becomes { e with index := e.index + 1, loops := e.loops.set lvl.toNat none })
      ∧ (∀ l, e.loops.getD lvl.toNat none = some l → l.left ≠ 1 → exec (.seNext c eng lvl) s
        = becomes { e with index := l.start, loops := e.loops.set lvl.toNat (some ⟨l.start, l.left - 1⟩) })
      ∧ (e.loops.getD lvl.toNat none = none → exec (.seNext c eng lvl) s = fault 0xA07)
      ∧ (e.xfers = [] → exec (.seFence c eng) s = becomes { e with index := e.index + 1 })
      ∧ (e.xfers ≠ [] → exec (.seFence c eng) s = .next s)
      ∧ (e.xfers = [] → (∀ l ∈ e.loops, l = none) → exec (.seEnd c eng) s
        = becomes { e with running := false, puts := [] })
      ∧ (e.xfers ≠ [] → (∀ l ∈ e.loops, l = none) → exec (.seEnd c eng) s = .next s)
      ∧ ((∃ l ∈ e.loops, l ≠ none) → exec (.seEnd c eng) s = fault 0xA07)
      ∧ (d.toNat ≤ 3 → 0 < e.tok.getD d.toNat 0 → exec (.seGet c eng d) s
        = becomes { e with index := e.index + 1, tok := e.tok.set d.toNat (e.tok.getD d.toNat 0 - 1) })
      ∧ (d.toNat ≤ 3 → e.tok.getD d.toNat 0 = 0 → exec (.seGet c eng d) s = .next s)
      ∧ (d.toNat ≤ 3 → e.xfers = [] → e.tok.getD d.toNat 0 < 255 → exec (.sePut c eng d) s
        = becomes { e with index := e.index + 1, tok := e.tok.set d.toNat (e.tok.getD d.toNat 0 + 1) })
      ∧ (d.toNat ≤ 3 → e.xfers ≠ [] → exec (.sePut c eng d) s
        = becomes { e with index := e.index + 1, puts := e.puts ++ [⟨d.toNat, e.nextXfer⟩] })
      ∧ (3 < d.toNat → exec (.seGet c eng d) s = fault 0xA01 ∧ exec (.sePut c eng d) s = fault 0xA01))
    ∧ (k.guard = false → eng < k.engines.length → e.running = false → ∀ asn img, e.queued = some (asn, img) →
      0 < fld img 0x80 2 → fld img 0x80 2 ≤ 256 → zeroBytes img 0x82 62 = true →
      Does (.streamProgramStart c eng) s fun t =>
        let e' := (t.core c).engine eng
        e'.running = true ∧ e'.asn = asn ∧ e'.index = 0 ∧ e'.tok = [0, 0, 0, 0] ∧ e'.loops = [none, none, none, none]
          ∧ e'.queued = none ∧ e'.code.length = fld img 0x80 2
          ∧ (∀ n : BitVec 4, e'.sreg n = BitVec.ofNat 64 (fld img (8 * n.toNat) 8))
          ∧ (∀ i, i < fld img 0x80 2 → e'.code[i]? = some (BitVec.ofNat 32 (fld img (0xC0 + 4 * i) 4)))
          ∧ t = s.onCore c fun _ => t.core c)

/-- R339, R341-R346, R358, R361: transfers between regions and core store: the bytes they move, the record each leaves
until it retires, and the fault that stops one. -/
def Obligations.StreamTransfersMoveTheirBytes : Prop :=
  ∀ (s : State) (c eng idle : Nat) (d a b : BitVec 4) (slot : BitVec 3) (imm : BitVec 11) (g : Seg) (o : OpRec)
    (r : Region), c < s.cores.length → Streaming (s.core c) eng → imm.getLsbD 0 = false →
    let k := s.core c
    let e := k.engine eng
    k.segOf e.asn = some g → s.op? e.asn = some o → (g.ctx.slot slot.toNat).2 = some r → r.kind ≠ .poolRemote →
    let cnt := imm.toNat / 4 + 1
    let list := (List.range cnt).map fun i => k.store.readLe ((e.sreg b).toNat + 4 * i) 4
    let x := fun op : Nat => (⟨op, (e.sreg d).toNat, (e.sreg a).toNat, (e.sreg b).toNat, cnt, imm.getLsbD 1, slot.toNat,
      (e.sreg 14).toNat, list⟩ : XferReq)
    let tensor := (g.ctx.slot slot.toNat).1
    let out := slot.toNat = 4 ∨ slot.toNat = 5
    let read := fun (op : Nat) (i : Instr) => ∀ bs, (op = 0x13 → cnt ≤ 16) → s.xferFault c g.ctx (x op) = none →
      e.blocked (x op) tensor = false → s.readPieces o r out ((x op).pieces tensor) = .ok bs →
      Does i s fun t =>
        (t.core c).store = (k.fill (x op) tensor s.freeByte (pieceRd bs)).store
        ∧ (op = 0x10 → Memory.wf k.store.mem = true →
          ∀ j, j < 64 * cnt → (t.core c).store.read ((e.sreg d).toNat + j) = pieceRd bs ((e.sreg a).toNat + j))
        ∧ ((t.core c).engine eng).index = e.index + 1
        ∧ ((t.core c).engine eng).xfers = e.xfers
            ++ [{ (x op).record tensor .read 0 s.now with id := e.nextXfer, index := e.index }]
        ∧ t.mem = s.mem ∧ t.ops = s.ops
    read 0x10 (.seRdl c eng idle d a b slot imm) ∧ read 0x12 (.seRda c eng idle d a b slot imm)
    ∧ read 0x13 (.seRdw c eng idle d a b slot imm) ∧ read 0x14 (.seRdb c eng idle d a b slot imm)
    ∧ (∀ s1, s.xferFault c g.ctx (x 0x11) = none → e.blocked (x 0x11) tensor = false → s1.cores = s.cores →
      s.opWrite o r (e.sreg a).toNat (k.store.readBytes (e.sreg d).toNat (64 * cnt)) = .ok s1 →
      Does (.seWrl c eng idle d a b slot imm) s fun t => t.mem = s1.mem ∧ t.ops = s1.ops
        ∧ ((t.core c).engine eng).index = e.index + 1 ∧ (t.core c).store = k.store
        ∧ ((t.core c).engine eng).xfers = e.xfers
            ++ [{ (x 0x11).record tensor .write 0 s1.now with id := e.nextXfer, index := e.index }])
    ∧ ∀ op, op ∈ [0x10, 0x11, 0x12, 0x13, 0x14] → (op = 0x13 → cnt ≤ 16) → ∀ n, s.xferFault c g.ctx (x op) = some n →
      s.transfer c eng idle op d a b slot imm = s.onCore c fun k => k.seFault eng n

/-- R345, R358, R361: a transfer whose effect is complete retires and releases the PUT behind it; a ring step hands
the resident shard on and takes the one received; the loader fills a member's shard. -/
def Obligations.RetirementAndResidentRing : Prop :=
  ∀ (s : State) (c eng id set dst : Nat) (d a b : BitVec 4) (n : BitVec 2), c < s.cores.length →
    let k := s.core c
    let e := k.engine eng
    (∀ y, eng < k.engines.length → k.xfer? eng id = some y → y.ripe = true → e.puts = [] →
      Does (.transferRetire c eng id) s fun t =>
        (t.core c).engine eng = { e with xfers := e.xfers.filter (·.id != id) }
        ∧ (∀ j, j ≠ eng → (t.core c).engine j = k.engine j) ∧ (t.core c).store = k.store
        ∧ t = s.onCore c fun _ => t.core c)
    ∧ (∀ y, k.xfer? eng id = some y → y.ripe = false → exec (.transferRetire c eng id) s = .next s)
    ∧ (let sh := k.shards.getD set Shard.none
       let size := s.fieldOf { name := .coRsSz, n := set } 0 9 * 4096
       let base := s.fieldOf { name := .coRsCs, n := set } 0 11 * 4096
       set < k.shards.length → sh.member = true → s.bitOf { name := .coRsCfg, n := set } 0 = true →
       Does (.residentShardFilled c set) s fun t =>
         (t.core c).shards.getD set Shard.none = { sh with filled := true }
         ∧ (t.core c).store = k.store.writeBytes base (s.shardSource set sh.pos size)
         ∧ (∀ j, j ≠ c → t.core j = s.core j) ∧ t.mem = s.mem)
    ∧ (let set := n.toNat
       let sh := k.shards.getD set Shard.none
       let size := s.fieldOf { name := .coRsSz, n := set } 0 9 * 4096
       let base := s.fieldOf { name := .coRsCs, n := set } 0 11 * 4096
       Streaming k eng → s.bitOf { name := .coRsCfg, n := set } 0 = true → sh.member = true → sh.filled = true →
       ((k.segOf e.asn).bind (·.prog)).bind (·.gang) = some set → 0 < size → (e.sreg a).toNat = base →
       (e.sreg b).toNat = base + size → e.rsent = false → s.ringNext set sh.pos = some dst → dst ≠ c →
       dst < s.cores.length → ∀ num bytes, k.ringIn = [(set, num, bytes)] →
       Does (.seRstep c eng d a b n) s fun t =>
         (t.core dst).ringIn = (s.core dst).ringIn ++ [(set, sh.pos, k.store.readBytes base size)]
         ∧ (t.core c).store = k.store.writeBytes (base + size) bytes
         ∧ ((t.core c).engine eng).sreg d = BitVec.ofNat 64 num ∧ ((t.core c).engine eng).index = e.index + 1
         ∧ (t.core c).ringIn = [] ∧ ((t.core c).shards.getD set Shard.none) = { sh with bufA := some num })

/-- R402, R407-R417, R420: an entry that may issue is marked issued, takes the token it waits for, and has its
instruction's effect on its core; a residue mismatch (R249) discards the operation's other entries. -/
def Obligations.TileEntriesIssueWithTheirEffect : Prop :=
  ∀ (s : State) (c id dry acc mis : Nat) (q : TileEntry), c < s.cores.length → s.shardWaits c q = false →
    let k := s.core c
    let m := k.markIssued q
    let issues := fun (top : Nat) (i : Instr) (k' : Core) => Issues k top id q →
      Does i s fun t => t.core c = k' ∧ (∀ j, j ≠ c → t.core j = s.core j) ∧ t.mem = s.mem
    issues topLDW (.ldw c id) (Core.ldw q m)
    ∧ issues topSTR (.str c id dry acc 0) ((Core.str q m).freeze dry acc)
    ∧ issues topACC (.acc c id 0) (Core.acc q m)
    ∧ issues topMV (.mv c id 0) (Core.mv q m)
    ∧ issues topEW (.ew c id) (Core.ew q m)
    ∧ issues topMERGE (.merge c id) (Core.merge q m)
    ∧ issues topGATHER (.gather c id) (Core.gather q m)
    ∧ (k.draining q = false → issues topDRAIN (.drain c id) m)
    ∧ (q.f0 6 2 = 2 → issues topCLOSE (.close c id) (Core.close q m))
    ∧ (q.f0 6 2 = 0 → q.blk 9 1 < 2 → issues topCLOSE (.close c id) (Core.close q m))
    ∧ (mis ≠ 0 → Issues k topACC id q → Does (.acc c id mis) s fun t =>
        (∃ cause, (q.asn, cause) ∈ (t.core c).aborts) ∧ (∀ x ∈ (t.core c).queue, x.asn = q.asn → x.issued = true))
    ∧ (m.entry? id = some { q with issued := true } ∨ k.entry? id ≠ some q)
    ∧ (q.wen = false → m.engines = k.engines)
    ∧ ∀ e, q.wen = true → k.engines[q.weng]? = some e →
        m.engines[q.weng]? = some { e with tok := e.tok.set q.wctr (e.tok.getD q.wctr 0 - 1) }

/-- R299, R301, R407, R414, R416, R417: what LDW, DISCARD, GATHER CLEAR and an INTERSECT merge of strictly increasing
inputs leave. -/
def Obligations.TileEffectsMatchTheirRules : Prop :=
  ∀ (k : Core) (q : TileEntry),
    (∀ j, q.bankU = false → q.arrays = [j] → j < k.arrays.length →
      let base := q.line + if q.f0 10 1 = 1 then 0 else maskRank q.amask j * wtSize (welemOf q)
      (Core.ldw q k).array j = { k.array j with bg := k.loadSet (welemOf q) base }
        ∧ (∀ i, i ≠ j → (Core.ldw q k).array i = k.array i) ∧ (Core.ldw q k).store = k.store)
    ∧ (q.f0 6 2 = 2 → k.lastMember q.asn = true → q.arrays = [0] → ∀ p, 0 < k.arrays.length → p < (k.array 0).tiles.length →
      k.physOf 0 q.asn q.item (q.f0 8 3) (k.groupOf q.asn) = some p →
      ((Core.close q k).array 0).tile p = AccTile.free ∧ (Core.close q k).store = k.store)
    ∧ (q.f0 14 1 = 1 → Memory.wf k.store.mem = true → ∀ a, (Core.gather q k).store.read a =
        if q.blk 0x28 4 ≤ a ∧ a < q.blk 0x28 4 + atSize (q.blk 2 2) (q.bElem 0) then 0 else k.store.read a)
    ∧ ∀ (as bs : List Nat) (n ia ib : Nat), as.Pairwise (· < ·) → bs.Pairwise (· < ·) → as.length + bs.length < n →
      ((mergeRuns 0 n (combine 0 as ia) (combine 0 bs ib)).map (·.coord)) = as.filter (bs.contains ·)

/-- R281, R282, R402, R414: retirement, the end of a CLOSE drain, the end of an item, and a received chain partial. -/
def Obligations.TileEntriesRetireAndReleaseTiles : Prop :=
  ∀ (s : State) (c id j p asn item ltile terms flags : Nat) (rows : List (List SpillE)), c < s.cores.length →
    let k := s.core c
    (∀ q, k.entry? id = some q → q.issued = true → k.drainOpen q = false → Does (.tileEntryRetire c id) s fun t =>
      (∀ e n, q.sen = true → k.engines[q.seng]? = some e → e.running = true → e.asn = q.asn → e.tok[q.sctr]? = some n →
        n < 255 → (t.core c).engines[q.seng]? = some { e with tok := e.tok.set q.sctr (n + 1) }
          ∧ (t.core c).queue = k.queue.filter (·.id != id))
      ∧ (q.sen = false → t.core c = { k with queue := k.queue.filter (·.id != id) })
      ∧ t = s.onCore c fun _ => t.core c)
    ∧ (∀ q, k.entry? id = some q → q.issued = false ∨ k.drainOpen q = true → exec (.tileEntryRetire c id) s = .next s)
    ∧ (j < k.arrays.length → p < (k.array j).tiles.length → ((k.array j).tile p).closed = true →
      Does (.closeDrainEnd c j p) s fun t => ((t.core c).array j).tile p = AccTile.free
        ∧ (∀ i, i ≠ j → (t.core c).array i = k.array i) ∧ (∀ r, r ≠ p → ((t.core c).array j).tile r = (k.array j).tile r)
        ∧ (t.core c).store = k.store ∧ t = s.onCore c fun _ => t.core c)
    ∧ (k.itemEnded asn item = true → Does (.itemEnd c asn item) s fun t =>
        (∀ r ∈ (t.core c).recs, r.asn = asn → r.item ≠ item)
        ∧ (∀ a ∈ (t.core c).arrays, ∀ x ∈ a.tiles, ∀ o, x.owner = some o → o.group = none → x.closed = false →
            o.asn = asn → o.item ≠ item)
        ∧ (t.core c).store = k.store ∧ (t.core c).queue = k.queue ∧ t = s.onCore c fun _ => t.core c)
    ∧ (j < k.arrays.length → p < (k.array j).tiles.length → k.physOf j asn item ltile none = some p →
      let x := (k.array j).tile p
      Does (.chainPartialReceived c asn item j ltile terms flags rows) s fun t =>
        let y := ((t.core c).array j).tile p
        y.owner = x.owner ∧ y.spilled = true ∧ y.partials = x.partials - 1 ∧ y.terms = min 65535 (x.terms + terms)
          ∧ (flags % 2 = 1 → y.isat = true) ∧ y.front = x.front ∧ t = s.onCore c fun _ => t.core c)

/-- R281, R314-R324, R363, R204: a built-in operation's command runs every item its core still has: split items it
only sends are sent and done; the others are computed once the other splits are done, their bytes written and the
items done; a run-time fault ends the operation with OP_FAULT and its code, lost data with MEM_FAULT. -/
def Obligations.BuiltinOperationsRunTheirItems : Prop :=
  ∀ (s : State) (t asn core : Nat) (remote : List (List Byte)) (g : Seg) (o : OpRec),
  ∀ x ∈ ([(Instr.spmm, Op.spmm, Job.spmm), (Instr.sddmm, Op.sddmm, Job.sddmm), (Instr.gemm, Op.gemm, Job.gemm),
      (Instr.spattn, Op.spattn, Job.spattn), (Instr.aggr, Op.aggr, Job.spmm), (Instr.moeRoute, Op.moeRoute, Job.moeRoute),
      (Instr.embReduce, Op.embReduce, Job.embReduce), (Instr.copy, Op.copy, Job.copy),
      (Instr.convert, Op.convert, Job.convert),
      (Instr.spgemm, Op.spgemm, fun j n => if bit j.desc.mode 0 then j.spgemmNum n else j.spgemmSym n)] :
      List ((Nat → Nat → Nat → List (List Byte) → Instr) × Op × (Job → Nat → Get ItemOut))),
    let a := s.stamped t
    let k := a.core core
    let send := g.todo.filter fun i => i.split + 1 < i.splits
    let recv := g.todo.filter fun i => !(i.split + 1 < i.splits)
    let b := (a.itemsDone core asn send {}).sayAll (send.map fun i => .chain core asn i.num 0 0)
    let done := fun (u : State) (l : List Item) => ∀ h ∈ (u.core core).segs, h.ctx.asn = asn →
      ∀ i ∈ h.items, (∃ j ∈ l, i.num = j.num ∧ i.split = j.split) → i.done = true
    let run := recv.mapM fun i => Job.bounded x.2.2 { s := b, o := o, ctx := g.ctx, remote := remote } i.num
    core < a.cores.length → k.segOf asn = some g → a.op? asn = some o → g.finished = false → g.started = true →
    g.ctx.desc.op = some x.2.1 → k.guard = false →
    ((recv.all fun i => i.splits ≤ 1 || b.splitsDone core asn i) = false →
      Does (x.1 t asn core remote) s fun u => done u send ∧ u.mem = a.mem ∧ u.regs = a.regs)
    ∧ ((recv.all fun i => i.splits ≤ 1 || b.splitsDone core asn i) = true →
        (run = .error .wait → Does (x.1 t asn core remote) s fun u => done u send ∧ u.mem = a.mem ∧ u.regs = a.regs)
        ∧ (∀ e, run = .error e → e ≠ .wait → Does (x.1 t asn core remote) s fun u =>
            (u.core core).endings = k.recordEnd asn (match e with | .fault _ => 0x23 | _ => 0x13)
              (match e with | .fault c => c | _ => 0) ∧ u.mem = a.mem ∧ u.regs = a.regs)
        ∧ ∀ outs w, run = .ok outs → b.writeItems o g.ctx (ItemOut.join outs).writes = .ok w →
            Does (x.1 t asn core remote) s fun u => done u (send ++ recv) ∧ u.mem = w.mem ∧ u.regs = w.regs
              ∧ (∀ d, d ≠ core → u.core d = a.core d)
              ∧ ∀ y, w.op? asn = some y → (u.op? asn).map (·.units) = some (y.units + (ItemOut.join outs).work))

/-- R56, R82, R166, R168: an URGENT operation whose waits hold goes to the chosen core outside guard and frame plan,
one whose waits do not hold is held; a MARK has finished once its waits hold. -/
def Obligations.UrgentAndMarkOperationsRun : Prop :=
  ∀ (s : State) (t asn consume c : Nat) (o : OpRec),
    let a := s.arrive t
    a.op? asn = some o → o.stage = .accepted → o.ended = none → a.excluded o = false → a.frames.ticking = true →
    a.frames.guard = false →
    let first := some (o.firstFrn.getD a.frames.frn)
    (o.ctx.desc.isUrgent = true → o.ctx.desc.op ≠ some .mark →
      (a.waitsOk o = false → Does (.urgentDispatch t asn consume) s fun u =>
        u.op? asn = some { o with firstFrn := first, held := true } ∧ u.cores = a.cores ∧ u.mem = a.mem ∧ u.regs = a.regs)
      ∧ (a.waitsOk o = true → o.appendRegion = none → a.urgentCore o = some c → c < a.cores.length →
        Does (.urgentDispatch t asn consume) s fun u => (∃ x, u.op? asn = some x ∧ x.stage = .running ∧ x.held = false
            ∧ x.ctx = o.ctx ∧ x.firstFrn = first ∧ ∀ k, k ∈ x.cores → k = c)
          ∧ (u.core c).urgent = true ∧ ((a.core c).bankN.ctx.asn ≠ asn → (u.core c).bankN = { (a.core c).bankN with tags := [] })
          ∧ (∀ d, d ≠ c → u.core d = a.core d) ∧ u.mem = a.mem ∧ u.regs = a.regs))
    ∧ (o.ctx.desc.op = some .mark → o.ctx.desc.isUrgent = true ∨ o.firstFrn ≠ none → a.waitsOk o = true →
        Does (.mark t asn) s fun u =>
          u.op? asn = some { o with stage := .finished, voted := o.ctx.desc.isUrgent, firstFrn := first }
          ∧ (∀ x, x ≠ asn → u.op? x = a.op? x) ∧ u.cores = a.cores ∧ u.mem = a.mem ∧ u.regs = a.regs)

/-- R331, R366-R370, R397, R423, R424: the next item of a started program enters its bank with the registers of R370;
a thief takes the victim's last stealable item; the URGENT bank done, bank N goes on; a PROGRAM's image is loaded and
its segment started, or its operation ends where the header is invalid. -/
def Obligations.SegmentsLoadStartMoveAndResume : Prop :=
  ∀ (s : State) (t c v asn : Nat) (g : Seg) (x : Seg × Item) (p : Prog) (i : Item),
    let a := s.arrive t
    let k := a.core c
    c < a.cores.length →
    (k.bank.active = false → k.guard = false → g.prog = some p → g.nextItem = some i →
      k.segs.find? (fun g => g.urgent = k.urgent && g.started && !g.finished && g.prog.isSome && g.nextItem.isSome) = some g →
      Does (.itemStart t c) s fun u => (u.core c).bank = SeqBank.entry g.ctx p i.num g.urgent
        ∧ (u.core c).store = k.store.forget p.wbase p.work a.free ∧ u.free = a.free + 1
        ∧ (∀ d, d ≠ c → u.core d = a.core d) ∧ u.ops = a.ops ∧ u.mem = a.mem ∧ u.regs = a.regs)
    ∧ (k.urgentOver = true → Does (.urgentEndResume t c) s fun u => (u.core c).urgent = false ∧ (u.core c).saves = []
        ∧ (u.core c).bankN = { k.bankN with tags := [] } ∧ (u.core c).segs = k.segs
        ∧ (∀ d, d ≠ c → u.core d = a.core d) ∧ u.ops = a.ops ∧ u.mem = a.mem ∧ u.regs = a.regs)
    ∧ (a.bitOf { name := .frSplitCfg } 8 = true → a.frames.guard = false → a.schedCores.contains c = true →
        a.shunned c = false → a.flt.banked ≠ some (c / 4) → k.mayThieve = true → a.victim c = some v → v ≠ c →
        (a.core v).unstarted.reverse.find? (stealable c) = some x → a.inFlight c < 64 → Does (.steal t c) s fun u =>
          (∃ h ∈ (u.core c).segs, h.ctx.asn = x.1.ctx.asn ∧ x.2 ∈ h.items)
          ∧ (v < a.cores.length → ∀ h ∈ (u.core v).segs, h.ctx.asn = x.1.ctx.asn →
              ∀ y ∈ h.items, ¬(y.num = x.2.num ∧ y.split = x.2.split))
          ∧ (∀ d, d ≠ c → d ≠ v → u.core d = a.core d) ∧ u.mem = a.mem ∧ u.regs = a.regs ∧ u.frames = a.frames)
    ∧ ∀ (o : OpRec) (r : Region) (b img : List Byte), a.op? asn = some o → o.ctx.desc.op = some .program →
        k.segOf asn = some g → g.ctx.desc.op = some .program → g.started = false → g.finished = false → k.guard = false →
        o.ctx.regions.getD 6 none = some r → a.opRead o r false o.ctx.desc.arg1 (min 64 (r.size - o.ctx.desc.arg1)) = .ok b →
        (Head.parse b o.ctx.desc.isUrgent o.headRoom = none → Does (.program t asn c) s fun u =>
          (u.core c).endings = k.recordEnd asn 0x20 (seqInfo 9 0 0) ∧ (∀ d, d ≠ c → u.core d = a.core d) ∧ u.ops = a.ops)
        ∧ ∀ h w n, Head.parse b o.ctx.desc.isUrgent o.headRoom = some h →
            a.placeProgram c h o.ctx.desc.isUrgent = some (n, w) → a.opRead o r false (o.ctx.desc.arg1 + 64) h.image = .ok img →
            Does (.program t asn c) s fun u => (u.core c).store = k.store.writeBytes n img
              ∧ (u.core c).segOf asn = some { g with started := true, prog := some (a.progOf h n w) }
              ∧ (∀ d, d ≠ c → u.core d = a.core d) ∧ u.ops = a.ops ∧ u.mem = a.mem ∧ u.regs = a.regs

/-- R30, R598: RUN starts the frames at the first tick; with STRAP_TEST high the write is refused as busy. R31, R34,
R41, R42, R58, R167: a tick begins its frame at its instant and every die accepts it unless its number or token is too
low; a die without a tick holds; the guard stops every core and plans the next frame; a wait still open at its
window's last guard ends its operation. -/
def Obligations.FramesStartBeginHoldAndGuard : Prop :=
  (∀ (s : State) (t p : Nat) (be : BitVec 4) (v : Word),
     let a := s.stamped t
     a.wrFront p none offFrCtl be = (a, some rFrCtl) → bit v.toNat 0 = true → a.running = false →
     (a.pwr.straps.getD 2 false = false → Does (.run t p be v) s fun u =>
         u = { a.applyWrite p none offFrCtl rFrCtl v.toNat with frames := { (a.applyWrite p none offFrCtl rFrCtl v.toNat).frames with first := some ((a.applyWrite p none offFrCtl rFrCtl v.toNat).firstTick t) } })
     ∧ (a.pwr.straps.getD 2 false = true → Does (.run t p be v) s
         (· = (a.applyWrite p none offFrCtl rFrCtl (putBits v.toNat 0 1 0)).cfgErr none errBUSY offFrCtl p)))
  ∧ (∀ (s : State) (t die frn token power hottest asn T : Nat) (sources : List (List Byte)) (consumes : List (Nat × Nat)),
     let a := s.arrive t
     let fresh := fun (d frn token : Nat) => (∀ f, (a.die d).frn = some f → f < frn) ∧ (a.die d).token ≤ token
     a.frames.dies.length = 11 →
     (a.tickOf t = some (T, frn) → a.hasMaster = true → a.cm.fenceAt = none →
       Does (.frameTick t power hottest sources consumes) s fun u =>
         u.frames.ticking = true ∧ u.frames.frn = frn ∧ u.frames.tick = T ∧ u.frames.guard = false ∧ u.frames.sub = 0
         ∧ u.frames.lastFrn = some frn ∧ u.frames.plan = none ∧ u.cm = a.cm
         ∧ ∀ d, d < 11 → fresh d frn a.cm.token →
             u.die d = { a.die d with frn := some frn, token := a.cm.token, hold := false })
     ∧ (a.tickOf t = none → exec (.frameTick t power hottest sources consumes) s = .next a)
     ∧ (die < 11 → (fresh die frn token → Does (.tickMessage t die frn token) s fun u =>
           u.die die = { a.die die with frn := some frn, token := token, hold := false } ∧ u.cm = a.cm
           ∧ ∀ d, d ≠ die → u.die d = a.die d)
         ∧ (token < (a.die die).token → Does (.tickMessage t die frn token) s fun u => u.frames = a.frames))
     ∧ (die < 11 → a.frames.ticking = true → a.frames.tick + (t - a.frames.tick) / max 1 a.lenF * max 1 a.lenF + 1032 ≤ t →
         (a.die die).frn = none → Does (.tickWatchdog t die) s fun u =>
           (u.die die).hold = true ∧ (∀ c, c ∈ dieCores die → c < a.cores.length → (u.core c).guard = true)
           ∧ (∀ d, d ≠ die → u.die d = a.die d) ∧ u.ops = a.ops ∧ u.mem = a.mem)
     ∧ (a.frames.ticking = true → a.frames.guard = false → a.guardAt ≤ t → Does (.guardOpen t) s fun u =>
         u.frames.guard = true ∧ (∀ k ∈ u.cores, k.guard = true) ∧ u.frames.plan.isSome = true
         ∧ u.frames.frn = a.frames.frn ∧ u.frames.tick = a.frames.tick)
     ∧ ∀ o f, a.op? asn = some o → a.frames.guard = true → o.firstFrn = some f → o.stage = .accepted → o.ended = none →
         f + o.window ≤ a.frames.frn + 1 → (a.waitsOk o = false → Does (.waitWindowExpired t asn) s fun u =>
           u.op? asn = some { o with ended := some (0x11, 0) } ∧ u.cores = a.cores ∧ u.mem = a.mem)
         ∧ (a.waitsOk o = true → exec (.waitWindowExpired t asn) s = .next a))

/-- R55, R84, R86, R87, R88: a die whose work of the point is done sends its vote with every operation its cores give
up; 32 ns after the vote deadline, and at a sub-tick, the master decides the point; a record confirmed in time makes
the decision durable, one confirmed later makes it late; a die applies a decision that is due once. -/
def Obligations.VotesAndDecisions : Prop :=
  ∀ (s : State) (t die sub k frn : Nat),
    let a := s.arrive t
    let decided := fun (u : State) (sub deadline : Nat) => ∃ d, u.dec? a.frames.frn sub = some d ∧ d.stamp = t ∧ d.inForce = false
      ∧ d.token = a.cm.token ∧ d.deadline = deadline ∧ d.allAbort = false
      ∧ d.scope = (a.scopeAt sub).map (·.ctx.asn) ∧ d.outs = a.outcomes a.frames.frn sub (a.scopeAt sub)
    (a.frames.ticking = true → a.votes die = true → (a.die die).hold = false → a.frames.guard = true →
      (a.die die).withhold = false → t ≤ a.voteAt → a.voteOf a.frames.frn 0 die = none →
      (∀ c ∈ dieCores die, ∀ g ∈ (a.core c).segs, g.urgent = true ∨ (a.core c).segDone g = true) →
      Does (.prepareVote t die 0) s fun u => (∃ v, u.voteOf a.frames.frn 0 die = some v ∧ v.stamp = t
        ∧ ∀ c ∈ dieCores die, ∀ x ∈ (a.core c).aborts,
            (∀ o, a.op? x.1 = some o → o.ctx.desc.isUrgent = false) → x ∈ v.aborts) ∧ u.cores = a.cores)
    ∧ (a.frames.guard = true → a.hasMaster = true → a.voteAt + 32 ≤ t → a.dec? a.frames.frn 0 = none →
      Does (.voteEvaluate t) s fun u => decided u 0 a.nextTick ∧ u.cores = a.cores
        ∧ (∀ x ∈ u.frames.dies, x.withhold = false) ∧ u.frames.frn = a.frames.frn)
    ∧ (a.frames.ticking = true → a.frames.guard = false → 1 ≤ k → k ≤ 7 → a.subAt k ≤ t → a.frames.sub < k →
      a.hasMaster = true → Does (.subTick t k) s fun u => u.frames = { a.frames with sub := k } ∧ u.cores = a.cores
        ∧ ((a.scopeAt k).isEmpty = true → u.ops = a.ops)
        ∧ ((a.scopeAt k).isEmpty = false → decided u k (a.subAt k + 1000)))
    ∧ ∀ d, a.dec? frn sub = some d →
      (d.durable = false → d.late = false → (∀ x ∈ d.offs, a.portLost x.1 = false) →
        (t ≤ d.deadline → Does (.decisionDurable t frn sub) s fun u =>
          u.dec? frn sub = some { d with durable := true } ∧ u.pairOf .cmDecided 0 0 = frn % 2 ^ 64 ∧ u.cores = a.cores)
        ∧ (d.deadline < t → Does (.decisionDurable t frn sub) s fun u =>
          u.dec? frn sub = some { d with late := true } ∧ u.regs = a.regs ∧ u.cores = a.cores))
      ∧ (a.votes die = true → (a.die die).token ≤ d.token → d.applied.contains die = false →
        (if sub = 0 then frn < a.frames.frn else d.durable = true ∨ d.late = true ∨ d.deadline < t) →
        Does (.dieCommitApply t die frn sub) s fun u => ∃ d', u.dec? frn sub = some d' ∧ d'.inForce = true
          ∧ d'.applied = die :: d.applied ∧ d'.late = (if d.inForce then d.late else !d.durable) ∧ d'.outs = d.outs)

/-- R93-R95, R530: the standby renews or misses its lease; a recipient takes a FENCE token that is not lower and
acknowledges it; the new master waits for every acknowledgement; a standby that misses two lease acknowledgements is
declared failed. R93, R94, R529: after two missed renewals the standby takes over: it becomes master under a token
above every one seen, declares the old master failed, and sends FENCE to every die in service, all of which it awaits.
-/
def Obligations.LeasesFencesAndTakeoverKeepOneMaster : Prop :=
  (∀ (s : State) (t frn token who : Nat),
     let a := s.arrive t
     (a.cm.standby = true → a.cm.token ≤ token → t ≤ a.frames.tick + (frn - a.frames.frn) * a.lenF →
       Does (.lease t frn token) s fun u => u = { a with cm := { a.cm with leaseFrn := some frn, missed := 0, ackMiss := 0 } })
     ∧ (a.cm.standby = true → token < a.cm.token → exec (.lease t frn token) s = .next a)
     ∧ (a.cm.standby = true → a.frames.ticking = true → a.cm.leaseFrn = none →
         Does (.leaseRenewalMissed t) s fun u => u = { a with cm := { a.cm with missed := a.cm.missed + 1 } })
     ∧ (who < 11 → (a.die who).token ≤ token → a.frames.dies.length = 11 → Does (.fenceTokenMessage t who token) s fun u =>
         u.die who = { a.die who with token := token } ∧ u.out = .fenceAck who :: a.out ∧ u.cm = a.cm
         ∧ ∀ d, d ≠ who → u.die d = a.die d)
     ∧ (who < 11 → token < (a.die who).token → exec (.fenceTokenMessage t who token) s = .next a)
     ∧ (∀ x w, a.cm.fenceAt = some x → who ∈ a.cm.waiting → w ∈ a.cm.waiting → w ≠ who →
         Does (.fenceAcknowledgement t who) s fun u =>
           u = { a with cm := { a.cm with waiting := a.cm.waiting.filter (· != who) } })
     ∧ (∀ x w, a.cm.fenceAt = some x → who ∈ a.cm.waiting → w ∈ a.cm.waiting → w ≠ who → 11 ≤ who → x + 10032 ≤ t →
         Does (.fenceAckTimeout t who) s fun u =>
           u = { a with cm := { a.cm with waiting := a.cm.waiting.filter (· != who) } })
     ∧ (∀ x, a.cm.fenceAt = some x → t < x + 10032 → exec (.fenceAckTimeout t who) s = .next a)
     ∧ (a.cm.standby = true → a.cm.ackMiss = 0 → Does (.standbyLeaseAckMissed t) s fun u =>
         u = { a with cm := { a.cm with ackMiss := 1 } })
     ∧ (a.cm.standby = true → 1 ≤ a.cm.ackMiss → a.cm.master < 2 → a.fdAlive (1 - a.cm.master) = true →
         Does (.standbyLeaseAckMissed t) s fun u => u.fdAlive (1 - a.cm.master) = false ∧ u.cm.standby = false
           ∧ u.cm.master = a.cm.master ∧ u.cm.token = a.cm.token ∧ u.fab.changed = true))
  ∧ (∀ (s : State) (t : Nat) (durable : List (Nat × Nat)),
     let a := s.arrive t
     let m := 1 - a.cm.master
     a.cm.standby = true → 2 ≤ a.cm.missed → a.cm.master < 2 → a.fdAlive m = true → a.fdAlive a.cm.master = true →
     a.pwr.waits = [] → Does (.takeover t durable) s fun u =>
       u.cm.master = m ∧ a.cm.token < u.cm.token ∧ (∀ x ∈ a.frames.dies, x.token < u.cm.token)
       ∧ u.fdAlive a.cm.master = false ∧ u.cm.standby = false ∧ u.cm.fenceAt = some u.now
       ∧ (∀ d, d < 9 → u.votes d = true → d ∈ u.cm.waiting ∧ .fence d u.cm.token ∈ u.out)
       ∧ ∀ d ∈ a.ops.decs, d.durable = false → d.late = false → (d.frn, d.sub) ∈ durable →
           ∃ e ∈ u.ops.decs, e.frn = d.frn ∧ e.sub = d.sub ∧ e.durable = true)

/-- R29, R43, R46, R47, R599: time locks and goes to holdover as the reference and its measured offset say; the first
TS_PPS edge before RUN steps the PTB to the second it marks, later ones advance the count; two bad edges in a row or
none for 1.5 s lose the reference; PTP may step the PTB once before RUN. -/
def Obligations.TimeLocksStepsAndHoldsOver : Prop :=
  ∀ (s : State) (t qlPort domain : Nat) (offset : Int),
    let a := s.arrive t
    let locked := fun (u : State) => ∀ d, d < 2 → u.bitOf { name := .frStat, dev := d } 0 = true
      ∧ u.bitOf { name := .frStat, dev := d } 1 = false
    let lost := fun (u : State) => ∀ d, d < 2 → u.bitOf { name := .frStat, dev := d } 0 = false
      ∧ u.bitOf { name := .frStat, dev := d } 1 = true
    let shows := fun (u : State) (x : Int) => ∀ d, d < 2 →
      u.fieldOf { name := .frStat, dev := d } 16 16 = ((max (-32767) (min 32767 x)) % 65536).toNat
    let kept := fun (u : State) => u.cores = a.cores ∧ u.ops = a.ops ∧ u.mem = a.mem ∧ u.cm = a.cm ∧ u.frames.frn = a.frames.frn
      ∧ u.frames.tick = a.frames.tick
    (a.syncSrc ≠ 2 → a.locked = false → Does (.timeLocked t) s fun u => locked u ∧ kept u ∧ u.now = a.now)
    ∧ (a.syncSrc ≠ 2 → a.holdover = false → Does (.timeHoldover t) s fun u => lost u ∧ kept u ∧ u.now = a.now)
    ∧ (∀ x, a.syncSrc = 1 → a.frames.ppsLast = some x → x + 1500000000 + 32 ≤ t → a.holdover = false →
        Does (.ppsTimeout t) s fun u => lost u ∧ kept u ∧ u.now = a.now)
    ∧ (a.syncSrc = 1 → a.frames.ppsDone = false → a.running = false → Does (.ppsEdge t) s fun u =>
        u.now = a.frames.ppsSec * 1000000000 ∧ u.frames.ppsDone = true ∧ shows u 0 ∧ kept u ∧ (a.locked = false → locked u))
    ∧ (a.syncSrc = 1 → a.frames.ppsDone = true ∨ a.running = true →
        let off : Int := (t : Int) - ((t + 500000000) / 1000000000 * 1000000000 : Nat)
        (-1000 ≤ off → off ≤ 1000 → Does (.ppsEdge t) s fun u => u.frames.ppsSec = a.frames.ppsSec + 1
          ∧ u.frames.ppsBad = 0 ∧ u.frames.ppsLast = some t ∧ u.now = a.now ∧ shows u off ∧ kept u
          ∧ (-100 ≤ off → off ≤ 100 → a.locked = false → locked u)
          ∧ ((off < -100 ∨ 100 < off) → a.holdover = false → lost u))
        ∧ ((off < -1000 ∨ 1000 < off) → Does (.ppsEdge t) s fun u => u.frames.ppsSec = a.frames.ppsSec
          ∧ u.frames.ppsBad = a.frames.ppsBad + 1 ∧ u.now = a.now ∧ kept u
          ∧ (1 ≤ a.frames.ppsBad → a.holdover = false → lost u)))
    ∧ (a.syncSrc = 0 → a.bitOf rFrCtl (10 + qlPort % 16) = true → domain = a.fieldOf rFrCtl 3 7 →
        a.fieldOf (qlStatReg (qlPort % 16)) 0 2 = 2 → Does (.ptpMessage t qlPort domain offset) s fun u =>
          u.bitOf (qlStatReg (qlPort % 16)) 4 = true ∧ kept u
          ∧ (if a.frames.ppsDone = false ∧ a.running = false ∧ (offset < -100 ∨ 100 < offset) then
              u.now = ((a.now : Int) - offset).toNat ∧ u.frames.ppsDone = true ∧ shows u 0
            else u.now = a.now ∧ shows u offset
              ∧ (-100 ≤ offset → offset ≤ 100 → a.locked = false → locked u)
              ∧ ((offset < -100 ∨ 100 < offset) → a.holdover = false → lost u)))

/-- R109, R110, R112, R143, R144: a snooped doorbell line is answered and read again; a read that ends in error is
issued again, unless that error wedged the line's function (R138); a line that returns is held where its port snoops, and each of its words moves PRODUCE or is refused. -/
def Obligations.DoorbellLinesAreWatchedAndRead : Prop :=
  ∀ (s : State) (t port addr : Nat), port < 2 →
    let a := s.arrive t
    let reads := fun (u : State) => u.dbLine? port addr = some { addr := lineAddr addr, held := false, reading := true }
      ∧ ∃ f, u.out.head? = some (.hostRead port f (lineAddr addr) 64)
    a.ports.length = 2 →
    (∀ l, a.dbLine? port addr = some l → l.held = true →
      Does (.snpinv t port addr) s (fun u => reads u ∧ .snoopRsp port l.addr false ∈ u.out)
      ∧ Does (.snpdata t port addr) s (fun u => u = a.say (.snoopRsp port l.addr true))
      ∧ Does (.snpcur t port addr) s (fun u => u = a.say (.snoopRsp port l.addr true)))
    ∧ (a.snoops port = false → lineAddr addr ∈ a.watchedLines port → Does (.pollInterval t port addr) s reads)
    ∧ (∀ l, a.dbLine? port addr = some l → l.reading = true →
        (let v := a.requestEnds port (a.lineFunc port addr) false
          if (v.dbLine? port addr).isSome then Does (.doorbellLineReturn t port addr none) s reads
          else Does (.doorbellLineReturn t port addr none) s (· = v))
        ∧ ∀ bs, Does (.doorbellLineReturn t port addr (some bs)) s fun u =>
            u.dbLine? port addr = some { l with held := a.snoops port, reading := false })
    ∧ ∀ (b : State) (pg n w : Nat),
        let u := b.doorbell pg n w
        (u.ring pg n).lastDb = some w
        ∧ (w = ((b.ring pg n).lastDb.getD (b.ring pg n).consumed) → (u.ring pg n).produce = (b.ring pg n).produce)
        ∧ (w ≠ ((b.ring pg n).lastDb.getD (b.ring pg n).consumed) →
            if (w + 2 ^ 32 - (b.ring pg n).consumed) % 2 ^ 32 ≤ b.sqSize pg n then (u.ring pg n).produce = w
            else (u.ring pg n).produce = (b.ring pg n).produce ∧ u.bitOf { name := .sqStat, dev := pg, n := n } 1 = true)

/-- R70-R72, R170, R174: a descriptor that passes the checks is journaled under a new ASN; one that does not is
rejected with the first failing check; a confirmation in time accepts the operation, a missed one writes its entry
again, and a confirmed rejection passes its slot. -/
def Obligations.AcceptanceJournalsOrRejects : Prop :=
  ∀ (s : State) (t pg n asn : Nat) (desc : List Byte) (tensors regions : List (Nat × List Byte)),
    let a := s.arrive t
    let fmt := a.sqFmt pg n
    let c : Cand := ⟨pg, n, fmt, desc.take (fmtSize fmt), tensors, regions⟩
    (a.mayFetch pg n = true → a.verdict (a.serving pg n) c = none →
      Does (.descriptorFetched t pg n desc tensors regions) s fun u =>
        (u.ring pg n).fetched = ((a.ring pg n).fetched + 1) % 2 ^ 32
        ∧ ∃ o, u.ops.list = a.ops.list ++ [o] ∧ o.page = pg ∧ o.ctx.ring = n ∧ o.stage = .issued ∧ o.raw = c.raw
            ∧ o.issue = t ∧ o.deadline = t + 2000 ∧ (a.ring pg n).lastAsn < o.ctx.asn ∧ 2 * t ≤ o.ctx.asn)
    ∧ (∀ st info, a.mayFetch pg n = true → a.verdict (a.serving pg n) c = some (st, info) →
        Does (.descriptorFetched t pg n desc tensors regions) s fun u =>
          (u.ring pg n).fetched = ((a.ring pg n).fetched + 1) % 2 ^ 32 ∧ u.ops = a.ops
          ∧ (u.ring pg n).reject = some { status := st, info := info, tag := c.d.tag, fmt := fmt })
    ∧ (∀ o, a.op? asn = some o → o.stage = .issued → o.accept = none → t ≤ o.deadline →
        (∀ x ∈ a.ops.list, x.page = o.page → x.ctx.ring = o.ctx.ring → x.stage = .issued → x = o) →
        Does (.journalEntryConfirmed t asn) s fun u =>
          u.op? asn = some { o with stage := .accepted, accept := some t } ∧ (u.ring o.page o.ctx.ring).missed = 0)
    ∧ (∀ o, a.op? asn = some o → o.stage = .issued → o.accept = none → o.deadline + 32 ≤ t →
        Does (.journalDeadlineMissed t asn) s fun u =>
          u.op? asn = some { o with deadline := o.deadline + 2000 }
          ∧ (u.ring o.page o.ctx.ring).missed = (a.ring o.page o.ctx.ring).missed + 1)
    ∧ (∀ r, (a.ring pg n).reject = some r → (∀ o ∈ a.ringOps pg n, o.stage ≠ .issued) →
        Does (.rejectionConfirmed t pg n) s fun u => (u.ring pg n).reject = none
          ∧ (u.ring pg n).consumed = ((a.ring pg n).consumed + 1) % 2 ^ 32)

/-- R92, R145-R147, R175, R179: a resolved operation's record takes the next slot of its completion ring and the
operation leaves the journal; the timer announces what waits; a head line read frees slots. -/
def Obligations.CompletionRecordsArePostedAndAnnounced : Prop :=
  ∀ (s : State) (t pg n : Nat),
    let a := s.arrive t
    let cq := a.cqOf pg n
    (∀ o x, a.nextToPost pg n = some o → o.stage = .resolved → o.res = some x → a.cqFree pg cq ≠ 0 →
      a.funcServed pg = true → a.owedBefore pg n = false → Does (.completionRecordPosted t pg n) s fun u =>
        (u.ring pg n).posted = o.ctx.asn ∧ (u.ring pg n).durable = (a.ring pg n).durable + 1
        ∧ (u.cring pg cq).tail = ((a.cring pg cq).tail + 1) % 2 ^ 32 ∧ u.op? o.ctx.asn = none
        ∧ .hostWrite (a.viaPort pg) (a.pairOf .cqBase pg cq + 64 * ((a.cring pg cq).tail % a.cqSize pg cq))
            ((o.record x).bytes ((a.cring pg cq).tail / a.cqSize pg cq % 2 = 0)) ∈ u.out)
    ∧ (∀ x r, (a.cring pg n).pend = x :: r → a.fieldOf { name := .cqMod, dev := pg, n := n } 8 14 ≠ 0 →
        x + 100 * a.fieldOf { name := .cqMod, dev := pg, n := n } 8 14 + 32 ≤ t →
        Does (.moderationTimer t pg n) s fun u => (u.cring pg n) = { a.cring pg n with pend := [] })
    ∧ ∀ head, a.cqEnabled pg n = true → a.cqFree pg n = 0 → Does (.cqHeadRead t pg n head) s fun u =>
        u.cring pg n = { a.cring pg n with head := head % 2 ^ 32 } ∧ u.rings.sq = a.rings.sq ∧ u.out = a.out

/-- R144, R145, R164, R169, R182: enabling a ring starts it with what it had fetched, disabling it stops it; a
completion ring starts empty and is not stopped while a ring names it; a flag's level and validity are written, its
value only while it is not valid. -/
def Obligations.RingsAndFlagsAreSetUp : Prop :=
  ∀ (s : State) (t port off : Nat) (vf : Option Nat) (be : BitVec 4) (v : Word) (r : Reg),
    let a := s.arrive t
    let b := s.stamped t
    let kept := fun (u : State) => u.cores = a.cores ∧ u.ops = a.ops ∧ u.mem = a.mem ∧ u.md = a.md ∧ u.frames = a.frames
    let busy := fun (u : State) => u.bitOf { name := .pgErr, dev := r.dev } errBUSY = true
    (a.wrFront port vf off be = (a, some r) → r.name = .sqCfg → bit v.toNat 31 = true → a.bitOf r 31 = false →
      (a.cqEnabled r.dev (bitf v.toNat 8 6) = false → Does (.ringEnable t port vf off be v) s fun u => busy u ∧ kept u
        ∧ u.reg r = a.reg r)
      ∧ (a.cqEnabled r.dev (bitf v.toNat 8 6) = true → (a.applyWrite port vf off r v.toNat).bitOf r 31 = true →
          Does (.ringEnable t port vf off be v) s fun u => u.bitOf r 31 = true ∧ kept u
            ∧ u.ring r.dev r.n = { a.ring r.dev r.n with produce := (a.ring r.dev r.n).fetched, lastDb := none, pending := false, missed := 0, recover := (a.ring r.dev r.n).recover && !a.boot.done }))
    ∧ (a.wrFront port vf off be = (a, some r) → r.name = .sqCfg → bit v.toNat 31 = false → a.bitOf r 31 = true →
        Does (.ringDisable t port vf off be v) s fun u => u.bitOf r 31 = false ∧ kept u
          ∧ u.ring r.dev r.n = { a.ring r.dev r.n with produce := (a.ring r.dev r.n).fetched, pending := false }
          ∧ (a.othersDiffer r v.toNat = true → busy u))
    ∧ (a.wrFront port vf off be = (a, some r) → r.name = .cqCfg → bit v.toNat 31 = true → a.bitOf r 31 = false →
        (a.applyWrite port vf off r v.toNat).bitOf r 31 = true → Does (.cqEnable t port vf off be v) s fun u =>
          u.bitOf r 31 = true ∧ u.cring r.dev r.n = { page := r.dev, n := r.n, tail := 0, head := 0, pend := [] } ∧ kept u)
    ∧ (a.wrFront port vf off be = (a, some r) → r.name = .cqCfg → bit v.toNat 31 = false → a.bitOf r 31 = true →
        let used := (List.range 64).any fun n => a.sqActive r.dev n && a.cqOf r.dev n = r.n
        (used = true → Does (.cqDisable t port vf off be v) s fun u => busy u ∧ u.bitOf r 31 = true ∧ kept u)
        ∧ (used = false → Does (.cqDisable t port vf off be v) s fun u => u.bitOf r 31 = false ∧ kept u
            ∧ (a.othersDiffer r v.toNat = true → busy u)))
    ∧ (b.wrFront port vf off be = (b, some r) → r.name = .rgFlagCfg → Does (.flagCfgWrite t port vf off be v) s fun u =>
        let f := b.flag r.dev (b.flagSel r.dev)
        u = b.setFlag r.dev (b.flagSel r.dev) { value := f.value, level := bitf v.toNat 0 8, valid := bit v.toNat 8 })
    ∧ (b.wrFront port vf off be = (b, some r) → r.name = .rgFlagVal →
        let f := b.flag r.dev (b.flagSel r.dev)
        (f.valid = true → Does (.flagValWrite t port vf off be v) s fun u => busy u ∧ u.mem = b.mem ∧ u.ops = b.ops)
        ∧ (f.valid = false → Does (.flagValWrite t port vf off be v) s fun u =>
            u = b.setFlag r.dev (b.flagSel r.dev) { f with value := if r.hi then f.value % 2 ^ 32 + bitf v.toNat 0 16 * 2 ^ 32 else f.value / 2 ^ 32 * 2 ^ 32 + v.toNat }))

/-- R65, R640-R642, R646, R647: a register write stores the judged value, a reserved encoding or a held field shows in
CFG_ERR; WS fields enter the shadow; a commit control arms its block; a LO read latches HI; a read of RC fields clears
them. -/
def Obligations.RegisterCommandsStoreShadowLatchAndClear : Prop :=
  ∀ (s : State) (t port off : Nat) (vf : Option Nat) (be : BitVec 4) (v : Word) (r : Reg),
    let a := s.arrive t
    let b := s.stamped t
    let aside : List RegName := [.plExpD, .plImpD, .scFlashBuf, .scRcvBuf, .ftCore, .frPpsSec, .sqCfg, .cqMod, .hlLstat, .cfgErr,
      .cfgErrInfo, .pgErr, .pgErrInfo]
    let err : Reg := match r.page with | some g => { name := .pgErr, dev := g } | none => { name := .cfgErr }
    let kept := fun (a u : State) => u.cores = a.cores ∧ u.ops = a.ops ∧ u.mem = a.mem ∧ u.md = a.md ∧ u.frames = a.frames
    (a.wrFront port vf off be = (a, some r) → a.rowOwned r v.toNat = false → r.name ∉ aside →
      (a.refuses r v.toNat = false → Does (.registerWrite t port vf off be v) s fun u =>
        u.reg r = (judge r.fields (a.readReg r) v.toNat).1 % 2 ^ 32 ∧ kept a u
        ∧ ((judge r.fields (a.readReg r) v.toNat).2 = true → u.bitOf err errRSVD = true))
      ∧ (a.refuses r v.toNat = true → Does (.registerWrite t port vf off be v) s fun u =>
        u.reg r = a.reg r ∧ u.bitOf err errBUSY = true ∧ kept a u))
    ∧ (b.wrFront port none off be = (b, some r) → r.wsBlk.isSome = true → Does (.wsFieldWrite t port off be v) s fun u =>
        u.shadow.get r = BitVec.ofNat 32 (judgeWs r.fields (b.shadow.get r).toNat v.toNat).1 ∧ kept b u
        ∧ (r.name ≠ .cfgErr → r.name ≠ .cfgErrInfo → u.reg r = b.reg r)
        ∧ ((judgeWs r.fields (b.shadow.get r).toNat v.toNat).2 = true → u.bitOf { name := .cfgErr } errRSVD = true))
    ∧ (∀ k, b.wrFront port none off be = (b, some r) → r.name.blk = some k → bit v.toNat 0 = true →
        (b.armed.any fun x => x.1 = k) = false → Does (.commitArm t port off be v) s fun u =>
          u = { b with armed := (k, t) :: b.armed })
    ∧ (b.target port vf off = some r → r.name.latched = true → r.hi = false → Does (.loReadLatch t port vf off) s fun u =>
        u.latches.head? = some (64 * port + vf.getD 0, { r with hi := true }, BitVec.ofNat 32 (b.readReg { r with hi := true }))
        ∧ u.out = .regValue port (BitVec.ofNat 32 (b.readReg r)) :: b.out ∧ u.regs = b.regs ∧ kept b u)
    ∧ (b.target port vf off = some r → r.name ≠ .coFrz → r.name ≠ .coChk → r.name ≠ .ftCore →
        Does (.rcRead t port vf off) s fun u => u.out = .regValue port (BitVec.ofNat 32 (b.readReg r)) :: b.out
          ∧ u.reg r = (r.fields.foldl (fun v f => if f.acc = .rc then putBits v f.lo f.len 0 else v) (b.reg r)) % 2 ^ 32
          ∧ (∀ q, q ≠ r → u.reg q = b.reg q) ∧ kept b u)
    ∧ (b.target port vf off = some r → r.dev < b.cores.length → Does (.rcRead t port vf off) s fun u =>
        (r.name = .coFrz → (u.core r.dev).frzDry = 0 ∧ (u.core r.dev).frzAcc = 0)
        ∧ (r.name = .coChk → (u.core r.dev).chkArray = 0 ∧ (u.core r.dev).chkMv = false)
        ∧ (r.name = .ftCore → (u.core r.dev).ft = { (b.core r.dev).ft with csCe := 0, accCe := 0, mismatch := 0 })
        ∧ u.ops = b.ops ∧ u.mem = b.mem)

/-- R445-R449, R465: a read that hits a line's valid sectors is answered at once with its bytes under the slice's next
identifier; a write that hits changes exactly its bytes of the line, in the stack too when it is written through; the
source numbers its request. -/
def Obligations.SliceHitsServeReadsAndWrites : Prop :=
  ∀ (s : State) (t src addr len cls asn : Nat) (data : List Byte) (l : L2Line),
    let a := s.stamped t
    let h := stackOf addr
    let x := localOf addr
    let sl := a.slice h
    let n := min len (128 - addr % 128)
    let bs := data.take (min data.length (128 - addr % 128))
    let sectors := (List.range 2).filter fun k => x % 128 < 64 * (k + 1) && 64 * k < x % 128 + bs.length
    a.maskedSrc src = false → addr < devT → a.stackDead h = false → h < a.mem.slices.length →
    (sl.waitq.any fun q => q.addr / 128 = x / 128) = false → sl.mshr? (x / 128) = none → sl.line? (x / 128) = some l →
    (l.valid.getD 0 false = true → l.valid.getD 1 false = true →
      Does (.l2Read t src addr len cls 0 asn none false) s fun u =>
        u.out.head? = some (.l2Data h sl.next ((l.data.drop (x % 128)).take n)) ∧ (u.slice h).next = sl.next + 1
        ∧ (u.slice h).lines = sl.lines ∧ u.mem.hbm = a.mem.hbm ∧ u.ops = a.ops ∧ u.cores = a.cores
        ∧ u.fab.seqs = a.fab.seqs.set src ((a.fab.seqs.getD src 0 + 1) % 65536))
    ∧ (l.valid.getD 0 false = true → l.valid.getD 1 false = true → data ≠ [] →
        Does (.l2Write t src addr cls asn data none false) s fun u =>
          (∃ l', (u.slice h).line? (x / 128) = some l' ∧ l'.data = patch l.data (x % 128) bs)
          ∧ (u.slice h).next = sl.next + 1 ∧ u.ops = a.ops ∧ u.cores = a.cores
          ∧ (a.writeThrough h src addr cls false sectors = true → sl.order = [] → l.dirty = [false, false] →
              u.mem.hbm.dram = a.mem.hbm.dram.modify h fun m => m.writeBytes x bs))

/-- R437, R440, R441, R446, R450-R454: a fill answers the requests that waited for its line; corrected and lost data
are counted; patrol scrub and refresh show in their registers; a maintenance range is handled line by line, busy until
its last fill, then done. -/
def Obligations.FillsScrubsAndMaintenance : Prop :=
  ∀ (s : State) (t stack line port bank temp ce ue fd : Nat) (be : BitVec 4) (v : Word) (r : Reg) (m : Maint),
    let a := s.stamped t
    let base := deviceOf stack (128 * line)
    let clear : State := { a with mem := { a.mem with parity := a.mem.parity.set stack 0 } }
    (a.stackDead stack = false → (∃ q, (a.slice stack).mshr? line = some q) →
      Does (.l2FillReturn t stack line 0 0) s (· = clear.l2Fill stack line (clear.devRead base 128))
      ∧ Does (.l2FillReturn t stack line 1 0) s
          (· = (clear.memErr stack 8 1).l2Fill stack line (clear.devRead base 128))
      ∧ Does (.l2FillReturn t stack line 5 0) s (· = (clear.memErr stack 16 1).l2Poison stack line))
    ∧ (a.fieldOf { name := .mcScrub } 0 8 ≠ 0 → stack < 9 → a.stackDead stack = false →
        Does (.patrolScrub t stack ce ue) s fun u =>
          u.fieldOf { name := .mcErr, n := stack } 8 8 = min 255 (a.fieldOf { name := .mcErr, n := stack } 8 8 + ce)
          ∧ u.fieldOf { name := .mcErr, n := stack } 16 8 = min 255 (a.fieldOf { name := .mcErr, n := stack } 16 8 + ue)
          ∧ (∀ q, q ≠ { name := .mcErr, n := stack } → u.reg q = a.reg q) ∧ u.mem = a.mem)
    ∧ (stack < 9 → bank < 64 → a.stackDead stack = false → Does (.refresh t stack bank temp) s fun u =>
        u.fieldOf { name := .mcHbm, n := stack } 2 8 = min 255 temp
        ∧ (∀ q, q ≠ { name := .mcHbm, n := stack } → u.reg q = a.reg q) ∧ u.mem = a.mem)
    ∧ (∀ op, (op = 1 ∨ op = 2) → a.wrFront port none offMaintCtl be = (a, some r) → r = rMaintCtl fd →
        bit v.toNat 2 = true → bitf (judge r.fields (a.readReg r) v.toNat).1 0 2 = op → fd < a.mem.maint.length →
        let b := a.applyWrite port none offMaintCtl r (putBits v.toNat 2 1 0)
        let lo := b.pairOf .maintAddr fd / 128
        let len := b.reg { name := .maintLen, dev := fd }
        let goes := if op = 1 then Instr.maintClean t port be v else Instr.maintInv t port be v
        (devT ≤ (lo + len - 1) * 128 → Does goes s (· = b.cfgErr none errRSVD offMaintCtl port))
        ∧ ((lo + len - 1) * 128 < devT → Does goes s fun u => u.bitOf r 3 = true
            ∧ ∃ q, u.mem.maint.getD fd none = some q ∧ q.inv = decide (op = 2)))
    ∧ (a.mem.maint.getD fd none = some m → (a.maintLeft m).isEmpty = true → Does (.maintDone t fd) s fun u =>
        u.bitOf (rMaintCtl fd) 3 = false ∧ u.bitOf (rMaintCtl fd) 4 = true ∧ u.mem.maint.getD fd none = none
        ∧ u.mem.slices = a.mem.slices ∧ u.mem.hbm = a.mem.hbm)

/-- R456, R457, R461, R466, R476, R480: links reported down or silent too long are failed, a link that loses one
module runs on at half rate; a route change sends again what passed a failed part; isolation masks sources and
discards their queued accesses; an access past the age limit is raised to level 2. R467, R468, R471: a Quinulait port
trains to the best generation both ends offer; without a common one training fails, and the third failed retraining in
a row loses the port; degrading is counted and shown; a port down for more than 1 ms is lost. -/
def Obligations.LinksPortsAndSourcesFailOrAreIsolated : Prop :=
  (∀ (s : State) (t x y lo hi slice id : Nat) (ls : List (Nat × Nat)) (ws : List (Nat × Nat × Nat)) (ats sets : List Nat),
     let a := s.stamped t
     let late := (ws.filter fun w => w.2.2 + 1000 + 32 ≤ t).map fun w => linkOf w.1 w.2.1
     let named := ls.map fun w => linkOf w.1 w.2
     let fresh := fun (fs : List (Nat × Nat)) => (fs.filter fun l => links.contains l && !a.fab.deadLinks.contains l).eraseDups
     let fail := fun (fs : List (Nat × Nat)) (u : State) => u.fab.deadLinks = a.fab.deadLinks ++ fresh fs
       ∧ (fresh fs = [] → u = a)
     let mask := a.pairOf .arIso ||| (lo % 2 ^ 32 + hi % 2 ^ 32 * 2 ^ 32)
     Does (.ucieLinkDown t ls) s (fail named)
     ∧ Does (.linkWatchdog t ws) s (fail late)
     ∧ (linkOf x y ∈ links → linkOf x y ∉ a.fab.deadLinks →
         (linkOf x y ∈ a.fab.halfLinks → Does (.ucieModuleLost t x y) s (fail [linkOf x y]))
         ∧ (linkOf x y ∉ a.fab.halfLinks → Does (.ucieModuleLost t x y) s fun u =>
             u.fab = { a.fab with halfLinks := linkOf x y :: a.fab.halfLinks } ∧ u.cores = a.cores ∧ u.mem = a.mem
             ∧ u.ops = a.ops ∧ u.flt = a.flt ∧ ∀ r, r.name ≠ .evqTail → r.name ≠ .evqStat → u.reg r = a.reg r))
     ∧ (a.fab.changed = true → Does (.routeChange t ats sets) s fun u =>
         u.fab.changed = false ∧ u.fab.deadLinks = a.fab.deadLinks
         ∧ u.fab.kept = a.fab.kept.map (fun m => if a.routeOk m.path then m else { m with path := a.route (srcDie m.src) m.slice })
         ∧ u.out = ((a.fab.kept.filter fun m => !a.routeOk m.path).map fun m => Msg.resend m.src m.seq).reverse ++ a.out
         ∧ u.regs = a.regs ∧ u.ops = a.ops ∧ u.cores = a.cores ∧ u.mem = a.mem)
     ∧ (a.fab.changed = false → Does (.routeChange t ats sets) s (· = a))
     ∧ (a.pairOf .arIso < 2 ^ 64 → Does (.isolation t lo hi) s fun u => u.pairOf .arIso = mask
         ∧ u.fab = { a.fab with kept := a.fab.kept.filter fun m => !bit mask m.src }
         ∧ (∀ h, (u.slice h).waitq = (a.slice h).waitq.filter (fun r => !bit mask r.src) ∧ (u.slice h).lines = (a.slice h).lines)
         ∧ u.mem.hbm = a.mem.hbm ∧ u.cores = a.cores ∧ u.ops = a.ops)
     ∧ (slice < a.mem.slices.length → Does (.ageLimit t slice id) s fun u =>
         (u.slice slice).waitq = (a.slice slice).waitq.map (fun r =>
           if r.id = id ∧ r.level < 2 ∧ r.stamp + a.fieldOf { name := .arAge } 0 10 * 100 + 32 ≤ t then { r with level := 2 } else r)
         ∧ (∀ h, h ≠ slice → u.slice h = a.slice h) ∧ u.mem.hbm = a.mem.hbm ∧ u.regs = a.regs ∧ u.cores = a.cores))
  ∧ (∀ (s : State) (t p : Nat) (g2 g3 : Bool), p < 16 →
     let a := s.stamped t
     let st := qlStatReg p
     let g := g3 && a.bitOf (qlCfgReg p) 1
     let q := a.fab.ports.getD p { downAt := none, fails := 0, cur := p }
     (a.bitOf (qlCfgReg p) 0 = true → a.fdAlive (p / 8) = true → p < a.fab.ports.length →
       ((g || g2) = true → Does (.qlPortTrained t p g2 g3) s fun u => u.fieldOf st 0 2 = 2 ∧ u.bitOf st 2 = g
         ∧ u.bitOf st 3 = false ∧ u.bitOf rFtQlfail p = false ∧ (∀ r, r ≠ st → r ≠ rFtQlfail → u.reg r = a.reg r)
         ∧ (u.fab.ports.getD p { downAt := none, fails := 0, cur := p }) = { q with downAt := none, fails := 0 })
       ∧ ((g || g2) = false → a.fieldOf st 0 2 = 0 → q.fails < 3 → Does (.qlPortTrained t p g2 g3) s fun u =>
           u.fieldOf st 0 2 = 1 ∧ u.fab.ports.getD p { downAt := none, fails := 0, cur := p } = q
           ∧ ∀ r, r ≠ st → u.reg r = a.reg r)
       ∧ ((g || g2) = false → a.fieldOf st 0 2 ≠ 0 → 2 ≤ q.fails → Does (.qlPortTrained t p g2 g3) s
           (· = ((a.bump st 8 8).onQl p fun z => { z with fails := q.fails + 1 }).declareOrWait 6 p 0)))
     ∧ (a.fieldOf st 0 2 = 2 → Does (.qlPortDegraded t p) s fun u => u.bitOf st 3 = true ∧ u.fieldOf st 0 2 = 2
         ∧ u.fieldOf st 8 8 = min 255 (a.fieldOf st 8 8 + 1) ∧ u.fab = a.fab ∧ u.cores = a.cores ∧ u.ops = a.ops)
     ∧ (a.fieldOf st 0 2 ≠ 0 → (∀ d, q.downAt = some d → d + 1000000 + 32 ≤ t) →
         Does (.qlPortLost t p) s (· = a.declareOrWait 6 p 0)))

/-- R493-R495, R502, R508: a read of a window returns its committed bytes in one answer; a write to a SCRATCH window
is applied at once; a request that does not fit, has no right, names another kind or lacks the lock's token is refused
with its status and changes nothing; an answer to a remote read retires its transfer. -/
def Obligations.WindowsAreReadAndWritten : Prop :=
  ∀ (s : State) (t p init win off len lock core eng id status : Nat) (data : List Byte),
    let a := s.stamped t
    let answer := fun (st : Nat) => a.say (.ql p 0x02 [init, win, off, st] [])
    let wrote := fun (st : Nat) (v : State) => v.say (.ql p 0x06 [init, win, st] [])
    (a.window win = none → Does (.rd t p init win off len) s (· = answer stRANGE)
      ∧ Does (.wr t p init win off lock data) s (· = wrote stRANGE a))
    ∧ (∀ b, a.window win = some b →
      ((len = 0 ∨ 512 < len ∨ len % 64 ≠ 0 ∨ expSize b < off + len) → Does (.rd t p init win off len) s (· = answer stRANGE))
      ∧ (0 < len → len ≤ 512 → len % 64 = 0 → off + len ≤ expSize b →
          (remoteRight b init 17 = false → Does (.rd t p init win off len) s (· = answer stRIGHTS))
          ∧ (remoteRight b init 17 = true →
              let phys := fun i => expBase b + off + i + (if expKind b = 0 ∧ (a.pageEntry ((expBase b + off + i) / 65536)).cur = true then expSize b else 0)
              (∀ i, i < len → (a.serve (expMirror b) (phys i)).isSome = true) →
              Does (.rd t p init win off len) s (· = a.say (.ql p 0x02 [init, win, off, stOK]
                ((List.range len).map fun i => a.devByte ((a.serve (expMirror b) (phys i)).getD 0))))))
      ∧ (expKind b ≠ 1 → Does (.wr t p init win off lock data) s (· = wrote stKIND a))
      ∧ (expKind b = 1 →
          (expSize b < off + data.length → Does (.wr t p init win off lock data) s (· = wrote stRANGE a))
          ∧ (off + data.length ≤ expSize b →
            (remoteRight b init 18 = false → Does (.wr t p init win off lock data) s (· = wrote stRIGHTS a))
            ∧ (remoteRight b init 18 = true →
              (a.lockOk win b lock = false → Does (.wr t p init win off lock data) s (· = wrote stFENCED a))
              ∧ (a.lockOk win b lock = true → ∀ v, a.writeRange (expMirror b) (expBase b + off) data = some v →
                  Does (.wr t p init win off lock data) s (· = wrote stOK v))))))
    ∧ (∀ y, (a.core core).xfer? eng id = some y → y.kind = .remote → y.op = 0x10 → y.acks ≠ 0 → data.length = y.csLen →
        status = 0 → Does (.rdr t core eng id status data) s
          (· = ((a.onCore core fun k => { k with store := k.store.writeBytes y.csLo data }).onCore core fun k => k.onXfer eng id fun x => { x with acks := 0 }).takeFree))

/-- R505, R506, R508, 15.9: an atomic reads a word of a SCRATCH window, writes its new value through and returns the
old one; it refuses a window of another kind, a misaligned or outside word, a missing right and a missing lock token,
each with its status; a mailbox write runs the same operation and shows result and status. -/
def Obligations.AtomicsActAtOnce : Prop :=
  ∀ (s : State) (t p init win off x y lock : Nat),
    let a := s.stamped t
    let all : List (Instr × Nat × (Nat → Nat)) :=
      [(.cas64 t none p init win off x y lock, 8, fun w => if w = x % 2 ^ 64 then y % 2 ^ 64 else w),
       (.swap64 t none p init win off x lock, 8, fun _ => x % 2 ^ 64),
       (.add64 t none p init win off x lock, 8, fun w => (w + x) % 2 ^ 64),
       (.add32 t none p init win off x lock, 4, fun w => (w + x) % 2 ^ 32)]
    let answer := fun (st old : Nat) (v : State) => v.say (.ql p 0x08 [init, win, st, old] [])
    (∀ c ∈ all, (a.window win = none → Does c.1 s (· = answer stRANGE 0 a))
      ∧ ∀ b, a.window win = some b →
        (expKind b ≠ 1 → Does c.1 s (· = answer stKIND 0 a))
        ∧ (expKind b = 1 →
          ((off % c.2.1 ≠ 0 ∨ expSize b < off + c.2.1) → Does c.1 s (· = answer stRANGE 0 a))
          ∧ (off % c.2.1 = 0 → off + c.2.1 ≤ expSize b →
            (remoteRight b init 19 = false → Does c.1 s (· = answer stRIGHTS 0 a))
            ∧ (remoteRight b init 19 = true →
              (a.lockOk win b lock = false → Does c.1 s (· = answer stFENCED 0 a))
              ∧ (a.lockOk win b lock = true → a.windowLost b (expBase b + off) c.2.1 = false →
                let old := leNat ((a.readRange (expMirror b) false (expBase b + off) c.2.1).getD [])
                ∃ v, a.writeRange (expMirror b) (expBase b + off) (leBytes c.2.1 (c.2.2 old)) = some v
                  ∧ Does c.1 s (· = answer stOK old v))))))
    ∧ ∀ (port o op : Nat) (vf : Option Nat) (be : BitVec 4) (v : Word) (r : Reg),
        a.wrFront port vf o be = (a, some r) → r.name = .amCmd → bit v.toNat 12 = true →
        bitf (judge r.fields (a.readReg r) v.toNat).1 0 4 = op →
        let b := a.applyWrite port vf o r (putBits v.toNat 12 1 0)
        let z := b.atomicOp (.mailbox r.dev) op (b.fieldOf r 4 8) (b.pairOf .amOff r.dev) (b.pairOf .amA r.dev) (b.pairOf .amB r.dev) 0
        let via := some (port, vf, o, be, v)
        (op = 1 → Does (.cas64 t via p init win off x y lock) s (· = z.1.mailboxDone r.dev z.2.1 z.2.2))
        ∧ (op = 2 → Does (.swap64 t via p init win off x lock) s (· = z.1.mailboxDone r.dev z.2.1 z.2.2))
        ∧ (op = 3 → Does (.add64 t via p init win off x lock) s (· = z.1.mailboxDone r.dev z.2.1 z.2.2))
        ∧ (op = 4 → Does (.add32 t via p init win off x lock) s (· = z.1.mailboxDone r.dev z.2.1 z.2.2))

/-- R507, R508: a free lock is acquired with the next token and its lease, a held one is busy; its holder renews or
releases it, another token is stale; a lease ends 32 ns after the tick of the frame that follows it, keeping the
token. -/
def Obligations.PoolLocksAreLeased : Prop :=
  ∀ (s : State) (t p init win tok n : Nat),
    let a := s.stamped t
    let l := a.lockNow win
    let answer := fun (st : Nat) (l' : Lock) (v : State) =>
      v.say (.ql p 0x0A [init, win, st, l'.token, l'.leaseEnd, l'.owner] [])
    let gives := fun (c : Instr) (l' : Lock) => Does c s fun u =>
      u.lock win = l' ∧ u.out.head? = some (.ql p 0x0A [init, win, stOK, l'.token, l'.leaseEnd, l'.owner] [])
      ∧ (∀ w, w ≠ win → u.lock w = a.lock w) ∧ u.mem = a.mem ∧ u.pool.scopes = a.pool.scopes ∧ u.regs = a.regs
    (∀ c ∈ [Instr.lacq t none p init win n, .lren t none p init win tok n, .lrel t none p init win tok],
      (a.window win = none → Does c s (· = answer stRANGE l a))
      ∧ ∀ b, a.window win = some b → remoteRight b init 19 = false → Does c s (· = answer stRIGHTS l a))
    ∧ (∀ b, a.window win = some b → remoteRight b init 19 = true →
      (0 < n → n ≤ 65535 →
        (l.held = false → gives (.lacq t none p init win n)
          { l with held := true, owner := init, token := (l.token + 1) % 2 ^ 48, leaseEnd := a.frames.frn + n - 1 })
        ∧ (l.held = true → Does (.lacq t none p init win n) s (· = answer stBUSY l a))
        ∧ (l.held = true → tok = l.token →
            gives (.lren t none p init win tok n) { l with leaseEnd := max l.leaseEnd (a.frames.frn + n - 1) })
        ∧ ((l.held = false ∨ tok ≠ l.token) → Does (.lren t none p init win tok n) s (· = answer stSTALE l a)))
      ∧ (l.held = true → tok = l.token → gives (.lrel t none p init win tok) { l with held := false })
      ∧ ((l.held = false ∨ tok ≠ l.token) → Does (.lrel t none p init win tok) s (· = answer stSTALE l a)))
    ∧ ((a.lock win).held = true →
        ((a.lock win).leaseEnd + 1 < a.frames.frn ∨ (a.frames.frn = (a.lock win).leaseEnd + 1 ∧ a.frames.tick + 32 ≤ t)) →
        Does (.lockLeaseExpiry t win) s fun u => u.lock win = { a.lock win with held := false }
          ∧ (∀ w, w ≠ win → u.lock w = a.lock w) ∧ u.pool.scopes = a.pool.scopes ∧ u.mem = a.mem ∧ u.regs = a.regs)

/-- R498, R499, R502, R503, R508: a staged write or a delta message is refused with the first status that applies and
its scope remembers it; one accepted is staged page by page, or joins the scope's deltas, and is counted; a message of
an older attempt is dropped. Its master token counts as seen (R499). -/
def Obligations.StagedWritesJoinTheirScope : Prop :=
  ∀ (s : State) (t p init win off frn asn att tok lock : Nat) (data : List Byte),
    let a := (s.stamped t).seeToken init tok
    let swr := Instr.swr t p init win off frn asn att tok lock data
    let sacc := Instr.sacc t p init win asn att tok lock data
    let tellW := fun (st : Nat) (v : State) => v.say (.ql p 0x06 [init, win, asn, frn, st] [])
    let tellA := fun (st : Nat) (v : State) => v.say (.ql p 0x06 [init, win, asn, st] [])
    (a.window win = none → Does swr s (· = tellW stRANGE a) ∧ Does sacc s (· = tellA stRANGE a))
    ∧ ∀ b, a.window win = some b →
      let own := match a.scope? win init asn with | some x => scopeOwner x.num | none => 0
      let closed : Bool := match a.scope? win init asn with | some x => x.attempt = att && x.state != .receiving | none => false
      let pages := pagesOf (windowPlace b) off data.length
      let conflict := pages.any fun g => (a.pageEntry g).stg && (a.pageEntry g).owner != own
      let first := fun (range conf : Bool) (right : Nat) =>
        if range then stRANGE
        else if !remoteRight b init right then stRIGHTS
        else if conf then stCONFLICT
        else if !a.lockOk win b lock then stFENCED
        else if (a.scope? win init asn).isNone && 1024 ≤ a.pool.scopes.length then stFULL
        else if closed then stCLOSED
        else if tok < a.topToken init then stSTALE
        else stOK
      let stW := first (data.isEmpty || expSize b < off + data.length) conflict 18
      let stA := first false false 19
      ((a.bitOf (qlStatReg p) 2 = false ∨ expKind b ≠ 0) → Does swr s (· = tellW stKIND a))
      ∧ ((a.bitOf (qlStatReg p) 2 = false ∨ expKind b ≠ 2) → Does sacc s (· = tellA stKIND a))
      ∧ (a.bitOf (qlStatReg p) 2 = true →
        ((∃ x, a.scope? win init asn = some x ∧ att < x.attempt) →
          (expKind b = 0 → Does swr s (· = a)) ∧ (expKind b = 2 → Does sacc s (· = a)))
        ∧ ((∀ x, a.scope? win init asn = some x → x.attempt ≤ att) →
          (expKind b = 0 → stW ≠ stOK → Does swr s (· = tellW stW (a.refuseScope win init asn stW)))
          ∧ (expKind b = 2 → stA ≠ stOK → Does sacc s (· = tellA stA (a.refuseScope win init asn stA)))
          ∧ ∀ v x, a.scopeFor win init asn att = (v, some x) →
            (expKind b = 0 → stW = stOK → ∀ w, v.stageAll x.num (windowPlace b) (data.length / 65536 + 2) off data = some w →
              Does swr s fun u => u = tellW stOK (w.putScope (x.took lock pages []))
                ∧ x.took lock pages [] ∈ u.pool.scopes ∧ (x.took lock pages []).count = x.count + 1)
            ∧ (expKind b = 2 → stA = stOK →
              let st := saccStatus (expSize b) (v.stageRoom win b) data
              (st = stOK → Does sacc s fun u => u = tellA stOK (v.putScope (x.took lock [] (deltasOf data)))
                ∧ x.took lock [] (deltasOf data) ∈ u.pool.scopes
                ∧ (x.took lock [] (deltasOf data)).deltas = x.deltas ++ deltasOf data)
              ∧ (st ≠ stOK → Does sacc s (· = tellA st ((v.putScope x).refuseScope win init asn st))))))

/-- R499, R501: PREP of an operation's scope votes YES when every message it lists arrived and none was refused, NO
otherwise; COMMIT applies and frees the scopes that voted YES and frees the aborted ones, and is answered as stale
where neither exists; ABORT frees scopes; a fence raises its sender's token and is answered; a scope held too long
without a decision is freed; a message with an older token changes nothing, and one on a port that runs QL2 is refused
(R493). -/
def Obligations.RemoteScopesVoteAndSettle : Prop :=
  ∀ (s : State) (t p init win frn sub tok asn n : Nat) (list : List (Nat × Nat)) (asns : List Nat),
    let a := s.stamped t
    let prep := Instr.prep t p init win frn sub tok [(asn, n)]
    let commit := Instr.commit t p init win frn sub tok asns
    let abort := Instr.abort t p init win frn sub tok asns
    let here := (win, init, frn, sub)
    let mine := a.pool.scopes.filter fun x => x.win = win && x.init = init
    let dead := mine.filter fun x => asns.contains x.asn && x.state != .committing
    let due := mine.filter fun x => x.frn = frn && x.sub = sub && x.state = .votedYes && !asns.contains x.asn
    (tok < a.topToken init → Does (.prep t p init win frn sub tok list) s (· = a)
      ∧ Does commit s (· = a) ∧ Does abort s (· = a))
    ∧ (a.topToken init ≤ tok → a.bitOf (qlStatReg p) 2 = false →
      Does (.prep t p init win frn sub tok list) s (· = a.say (.ql p 0x11 [init, win, frn, sub, 0, stKIND] []))
      ∧ Does commit s (· = a) ∧ Does abort s (· = a))
    ∧ (a.topToken init ≤ tok → a.bitOf (qlStatReg p) 2 = true →
      (∀ x b, a.scope? win init asn = some x → a.window win = some b → x.state = .receiving →
        (∀ k ∈ x.lockTok, a.lockOk win b k = true) → (expGuard b = true → (a.lockNow win).held = true) →
        (x.refused = 0 → x.count = n → Does prep s fun u =>
          u.scope? win init asn = some { x with state := .votedYes, frn := frn, sub := sub, since := a.frames.frn }
          ∧ here ∈ u.pool.yes ∧ u.out.head? = some (.ql p 0x11 [init, win, frn, sub, 1, stOK] []) ∧ u.mem = a.mem)
        ∧ (x.refused = 0 → x.count ≠ n → Does prep s fun u =>
          u.scope? win init asn = some { x with state := .votedNo, frn := frn, sub := sub, since := a.frames.frn }
          ∧ here ∉ u.pool.yes ∧ u.out.head? = some (.ql p 0x11 [init, win, frn, sub, 0, stOK] []) ∧ u.mem = a.mem)
        ∧ (x.refused ≠ 0 → Does prep s fun u =>
          u.scope? win init asn = some { x with state := .votedNo, frn := frn, sub := sub, since := a.frames.frn }
          ∧ here ∉ u.pool.yes ∧ u.out.head? = some (.ql p 0x11 [init, win, frn, sub, 0, x.refused] []) ∧ u.mem = a.mem))
      ∧ (due = [] → dead = [] → Does commit s fun u =>
          u.pool.scopes = a.pool.scopes ∧ u.mem = a.mem ∧ here ∉ u.pool.yes
          ∧ .ql p 0x14 [init, win, frn, sub, 1] [] ∈ u.out)
      ∧ (due ≠ [] ∨ dead ≠ [] → Does commit s fun u =>
          u.out.head? = some (.ql p 0x14 [init, win, frn, sub, 0] [])
          ∧ (∀ y ∈ u.pool.scopes, y ∈ a.pool.scopes ∧ y ∉ due ∧ y ∉ dead)
          ∧ (∀ y ∈ a.pool.scopes, (∀ z ∈ due ++ dead, y.num ≠ z.num) → y ∈ u.pool.scopes) ∧ here ∉ u.pool.yes)
      ∧ (Does abort s fun u => here ∉ u.pool.yes
          ∧ (∀ y ∈ u.pool.scopes, y ∈ a.pool.scopes ∧ y ∉ dead)
          ∧ ∀ y ∈ a.pool.scopes, (∀ z ∈ dead, y.num ≠ z.num) → y ∈ u.pool.scopes))
    ∧ (a.bitOf (qlStatReg p) 2 = false → Does (.qlFence t p init tok) s (· = a))
    ∧ (a.bitOf (qlStatReg p) 2 = true → Does (.qlFence t p init tok) s (fun u => u.topToken init = max tok (a.topToken init)
        ∧ (∀ i, i ≠ init → u.topToken i = a.topToken i) ∧ u.out = .ql p 0x15 [init, tok] [] :: a.out
        ∧ u.pool.scopes = a.pool.scopes ∧ u.regs = a.regs))
    ∧ (∀ x, a.scope? win init asn = some x → x.state = .votedYes → x.since + a.fieldOf { name := .plCtl } 0 16 ≤ a.frames.frn →
        Does (.poolHoldExpired t win init asn) s (· = (a.freeScope x).event { code := 0x21, kind := 10, index := win, detail := init, detail2 := asn }))
    ∧ (∀ x, a.scope? win init asn = some x → (x.state ≠ .votedYes ∨ a.frames.frn < x.since + a.fieldOf { name := .plCtl } 0 16) →
        Does (.poolHoldExpired t win init asn) s (· = a))

/-- R85, R86, R89, R496, R497, R501: answers to a remote transfer's messages are counted down; a refusal or a late
answer fails the transfer and counts its target as a NO; PREP goes out at its time with each operation's message
count; votes that come in time are noted with their operation; a settled decision is marked, and a stale or late one
raises REMOTE_LATE. -/
def Obligations.InitiatorCountsAnswersAndVotes : Prop :=
  ∀ (s : State) (t core eng id asn status sub epid rwin frn : Nat) (yes ok : Bool),
    let a := s.stamped t
    let k := a.core core
    let fails := fun (o : OpRec) (r : Region) (u : State) =>
      u.cores = (a.onCore core fun k => k.onXfer eng id fun x => { x with acks := 0, failed := true }).cores
      ∧ (a.op? o.ctx.asn = some o → ∃ o', u.op? o.ctx.asn = some o' ∧ a.targetOf o r ∈ o'.remoteNo ∧ o'.ctx = o.ctx ∧ o'.stage = o.stage)
    let hit := fun (x : RTarget) => decide (x.epid = epid ∧ x.rwin = rwin)
    (∀ x o r, eng < 6 → k.xfer? eng id = some x → x.kind = .remote → x.acks ≠ 0 → a.xferRegion core eng x = some (o, r) →
      (status = 0 → t ≤ x.at_ + a.ackNs r → Does (.ack t core eng id asn status) s
        (· = a.onCore core fun k => k.onXfer eng id fun y => { y with acks := y.acks - 1 }))
      ∧ ((status ≠ 0 ∨ x.at_ + a.ackNs r < t) → Does (.ack t core eng id asn status) s (fails o r))
      ∧ ((k.engine eng).asn = asn → x.at_ + a.ackNs r + 32 ≤ t → Does (.ackDeadline t core eng id asn) s (fails o r))
      ∧ (t < x.at_ + a.ackNs r + 32 → Does (.ackDeadline t core eng id asn) s (· = a)))
    ∧ (∀ o, 6 ≤ eng → a.op? asn = some o → Does (.ack t core eng id asn 0) s fun u =>
        u.op? asn = some { o with acks := o.acks - 1 } ∧ u.cores = a.cores ∧ u.regs = a.regs)
    ∧ ((a.frames.ticking = false ∨ (sub = 0 ∧ t < a.guardAt + 400)) → Does (.prepSend t sub) s (· = a))
    ∧ (∀ g, a.frames.ticking = true → (sub ≠ 0 ∨ a.guardAt + 400 ≤ t) → targetsOf (a.scopeAt sub) = [g] →
        a.bitOf (qlStatReg (a.qlNow g.port)) 2 = true → a.fieldOf (qlStatReg (a.qlNow g.port)) 0 2 = 2 →
        let list := (a.scopeAt sub).filterMap fun o => (o.sent.lookup (o.targets.findIdx (· = g))).map fun n => [o.ctx.asn, n]
        Does (.prepSend t sub) s (· = a.say (.ql (a.qlNow g.port) 0x10 ([a.initId, g.rwin, a.frames.frn, sub, a.cm.token] ++ list.flatten) [])))
    ∧ (let due := if sub = 0 then a.voteAt else a.subAt sub
      ((frn ≠ a.frames.frn ∨ due < t) → Does (.vote t epid rwin frn sub yes) s (· = a))
      ∧ (∀ o, frn = a.frames.frn → t ≤ due → a.scopeAt sub = [o] → a.op? o.ctx.asn = some o →
          Does (.vote t epid rwin frn sub yes) s fun u =>
            u.op? o.ctx.asn = some { o with votes := o.votes ++ (o.targets.zipIdx.filter fun x => hit x.1 && o.sent.any (·.1 = x.2)).map fun x => (x.2, yes) }
            ∧ u.cores = a.cores ∧ u.regs = a.regs ∧ u.mem = a.mem))
    ∧ (∀ d, a.dec? frn sub = some d → Does (.cack t epid rwin frn sub true) s fun u =>
        u.dec? frn sub = some { d with remote := d.remote.map fun x => if hit x.1 then (x.1, true) else x } ∧ u.out = a.out)
    ∧ (a.dec? frn sub = none → Does (.cack t epid rwin frn sub ok) s (· = if ok then a else a.remoteLate epid rwin frn))
    ∧ Does (.late t epid rwin frn) s (· = a.remoteLate epid rwin frn)
    ∧ ∀ w b, w < 256 → a.import w = some b → fld b 2 2 = epid → fld b 4 4 = rwin →
        (∀ w', w' < w → ∀ b', a.import w' = some b' → ¬ (fld b' 2 2 = epid ∧ fld b' 4 4 = rwin)) →
        a.remoteLate epid rwin frn = a.event { code := 0x20, kind := 10, index := w, detail := rwin, frn := frn }

/-- R101-R103, R108, R132, R134: a link that trains to an allowed mode comes up and shows it; a link that goes down
shows no rate and counts failed retrainings; a port down for more than 1 ms or after three failures is lost; one up
for a second has returned; DL_Down resets the port's configuration space; CXL.cache toggles on a CXL link only. -/
def Obligations.HostLinksComeAndGo : Prop :=
  ∀ (s : State) (t p rate width proto : Nat) (flit on : Bool), p < 2 →
    let a := s.arrive t
    let st := hlLstat p
    let up := Instr.linkUp t p rate width proto flit
    (linkMode rate width proto flit = true → (a.port p).up = false → (a.port p).perst = false → a.boot.perstFrom ≤ t →
      a.pwr.inReset = false → a.fdAlive p = true → p < a.ports.length → Does up s fun u =>
        (u.port p).up = true ∧ (u.port p).steady = some t ∧ (u.port p).fails = 0 ∧ (u.port p).downAt = none
        ∧ u.fieldOf st 0 3 = rate ∧ u.fieldOf st 3 2 = width ∧ u.bitOf st 5 = flit ∧ u.fieldOf st 6 2 = proto
        ∧ u.bitOf rFtFailed (20 + p) = false ∧ u.ops = a.ops ∧ u.cores = a.cores ∧ u.mem = a.mem)
    ∧ (linkMode rate width proto flit = false → Does up s (· = a))
    ∧ (p < a.ports.length → (a.port p).up = true → Does (.linkDown t p) s fun u =>
        (u.port p).up = false ∧ (u.port p).downAt = some a.now ∧ (u.port p).fails = 0 ∧ u.fieldOf st 0 3 = 0
        ∧ (∀ r, r ≠ st → u.reg r = a.reg r) ∧ u.ops = a.ops ∧ u.cores = a.cores)
    ∧ (p < a.ports.length → (a.port p).up = false → Does (.linkDown t p) s fun u =>
        u.port p = { a.port p with fails := (a.port p).fails + 1 } ∧ u.regs = a.regs ∧ u.ops = a.ops)
    ∧ (a.portDue p t = true → Does (.hostPortLost t p) s (· = a.declareOrWait 5 p 0))
    ∧ (a.portDue p t = false → Does (.hostPortLost t p) s (· = a))
    ∧ (∀ x, (a.port p).steady = some x → (a.port p).up = true → a.portLost p = false → x + 1000000000 ≤ t →
        p < a.ports.length → Does (.portReturned t p) s fun u => u.port p = { a.port p with returned := true } ∧ u.regs = a.regs)
    ∧ (p < a.ports.length → Does (.dlDown t p) s fun u => (u.port p).up = false ∧ (u.port p).vfEn = false
        ∧ (u.port p).numVfs = 0 ∧ u.bitOf st 8 = false ∧ u.bitOf st 9 = false ∧ u.ops = a.ops ∧ u.cores = a.cores
        ∧ (u.port p).funcs.length = (a.port p).funcs.length
        ∧ ∀ (f : Nat) (x : Func), (a.port p).funcs[f]? = some x → (u.port p).funcs[f]? = some { Func.reset with wedged := x.wedged, errs := x.errs })
    ∧ ((on = true → a.fieldOf st 6 2 ≠ 0) → Does (.cxlCacheToggle t p on) s fun u => u.bitOf st 8 = on
        ∧ (∀ r, r.name ≠ .hlLstat → u.reg r = a.reg r) ∧ u.ops = a.ops ∧ u.cores = a.cores ∧ u.mem = a.mem)
    ∧ (on = true → a.fieldOf st 6 2 = 0 → Does (.cxlCacheToggle t p on) s (· = a))

/-- R104, R105, R123, R125-R129, R134, R135, R137, R586: configuration requests before configuration space is ready
are answered with retry; then bus mastering, virtual functions, MSI-X and error logs act as written and held
interrupts go; a function-level reset request does nothing; ATS invalidations, requests in error, timeouts, IDE and
DOE act on their part. The completion timeout's re-issued line reads, the AER bits and the IDE codes are the model's
(log entries 45, 46). -/
def Obligations.FunctionsAreConfiguredAndReport : Prop :=
  ∀ (s : State) (t p f num v k i : Nat) (b d3 on en mk : Bool) (cl : Nat),
    let a := s.arrive t
    let x := a.func p f
    let st := hlLstat p
    let mask := fun w : Nat => ({ name := .msix, dev := 64 * p + f, n := 4 * w + 3 } : Reg)
    let sends := fun (u : State) (w : Nat) => .msix p f w ∈ u.out ∧ bit (u.func p f).pend w = false
    p < 2 → p < a.ports.length → f < (a.port p).funcs.length →
    ((a.port p).cfgReady = false →
      ∀ c ∈ [Instr.busMasterEnable t p f b d3, .vfEnable t p num on, .configurationRequest t p f .other,
        .configurationRequest t p f (.msix en mk), .configurationRequest t p f (.mem on), .configurationRequest t p f (.aer cl)],
        Does c s (· = a.say (.cfg p true)))
    ∧ ((a.port p).cfgReady = true → a.funcOn p f = true →
      (Does (.busMasterEnable t p f b d3) s fun u => (u.func p f).bme = b ∧ (u.func p f).d3 = d3 ∧ u.ops = a.ops ∧ u.cores = a.cores
        ∧ (x.msixEn = true → x.fmask = false → b = true → d3 = false → ∀ w, w < 32 → bit x.pend w = true →
            a.bitOf (mask w) 0 = false → sends u w))
      ∧ Does (.configurationRequest t p f .other) s (· = a.say (.cfg p false))
      ∧ (Does (.configurationRequest t p f (.msix en mk)) s fun u => (u.func p f).msixEn = en ∧ (u.func p f).fmask = mk
        ∧ u.out.head? = some (.cfg p false) ∧ u.regs = a.regs
        ∧ (en = true → mk = false → x.bme = true → x.d3 = false → ∀ w, w < 32 → bit x.pend w = true →
            a.bitOf (mask w) 0 = false → sends u w))
      ∧ (f = 0 → (on = false ∨ a.fieldOf st 6 2 = 2) → Does (.configurationRequest t p f (.mem on)) s fun u =>
          u.bitOf st 9 = on ∧ u.out.head? = some (.cfg p false) ∧ ∀ r, r ≠ st → u.reg r = a.reg r)
      ∧ (Does (.configurationRequest t p f (.aer cl)) s fun u =>
          u.out = .cfg p false :: .regValue p (BitVec.ofNat 32 x.aer) :: a.out ∧ u.regs = a.regs
          ∧ (u.func p f).errs = x.errs ∧ (u.func p f).pend = x.pend))
    ∧ ((a.port p).cfgReady = true → num ≤ 63 →
      ((a.port p).vfEn = false → Does (.vfEnable t p num on) s fun u => (u.port p).vfEn = on ∧ (u.port p).numVfs = num
        ∧ u.ops = a.ops ∧ u.cores = a.cores)
      ∧ ((a.port p).vfEn = true → Does (.vfEnable t p num false) s fun u => (u.port p).vfEn = false ∧ u.ops = a.ops)
      ∧ ((a.port p).vfEn = true → Does (.vfEnable t p num true) s fun u => (u.port p).vfEn = true
          ∧ (u.port p).numVfs = (a.port p).numVfs ∧ (u.port p).funcs = (a.port p).funcs ∧ u.ops = a.ops))
    ∧ Does (.initiateFlr t p f) s (· = a)
    ∧ (v < 32 → a.funcOn p f = true → Does (.msixUnmask t p f v) s fun u => u.bitOf (mask v) 0 = false
        ∧ (∀ r, r ≠ mask v → u.reg r = a.reg r) ∧ u.ops = a.ops
        ∧ (x.msixEn = true → x.fmask = false → x.bme = true → x.d3 = false → bit x.pend v = true → sends u v))
    ∧ (a.funcOn p f = true →
      (Does (.atsInvalidation t p f false) s fun u => u.port p = { a.port p with ats := (a.port p).ats ++ [(f, t)] })
      ∧ ((∃ y ∈ (a.port p).ats, y.1 = f) → Does (.atsInvalidation t p f true) s fun u =>
          u.port p = { a.port p with ats := (a.port p).ats.eraseP fun y => y.1 = f } ∧ u.out = .ats p f :: a.out)
      ∧ (x.errs < 2 → Does (.requestError t p f k) s fun u => u.func p f = { x with aer := x.aer ||| 2 ^ aerBit k, errs := x.errs + 1 }
          ∧ u.regs = a.regs ∧ u.ops = a.ops)
      ∧ (2 ≤ x.errs → Does (.requestError t p f k) s
          (· = ((a.logAer p f (aerBit k)).onFunc p f fun y => { y with errs := y.errs + 1 }).wedge (a.page p f) 1))
      ∧ ((∃ l ∈ (a.port p).lines, l.reading = true ∧ l.addr ∈ a.watchedLines p ∧ a.lineFunc p l.addr = f) →
          Does (.completionTimeout t p f) s fun u => u.regs = a.regs ∧ u.ops = a.ops ∧ (u.func p f).aer = x.aer ||| 2 ^ 14
            ∧ ∀ l ∈ (a.port p).lines, l.reading = true → l.addr ∈ a.watchedLines p → a.lineFunc p l.addr = f →
              ∃ g, .hostRead p g (lineAddr l.addr) 64 ∈ u.out))
    ∧ ((∃ y ∈ (a.port p).ats, y.1 = f ∧ y.2 + 100000 + 32 ≤ t) → Does (.atsInvalidationTimeout t p f) s
        (· = (a.onPort p fun h => { h with ats := h.ats.filter fun y => !(y.1 = f && y.2 + 100000 + 32 ≤ t) }).wedge (a.page p f) 2))
    ∧ (∀ e, (a.port p).ide[i]? = some e →
        (e.secure = true → Does (.ideIntegrityFailure t p i) s fun u =>
          (u.port p).ide[i]? = some { e with secure := false, insecure := true } ∧ u.regs = a.regs)
        ∧ (i < 3 → (a.port p).spdm.finished = true →
          Does (.ideKm t p i 0) s (fun u => u.out.head? = some (.spdm p 0x7E (leBytes 1 1 ++ leBytes 1 i)) ∧ u.ports = a.ports)
          ∧ Does (.ideKm t p i 2) s (fun u => (u.port p).ide[i]? = some { e with keyed := true })
          ∧ (e.keyed = true → Does (.ideKm t p i 4) s fun u => (u.port p).ide[i]? = some { e with secure := true, insecure := false })
          ∧ Does (.ideKm t p i 5) s (fun u => (u.port p).ide[i]? = some { keyed := false, secure := false, insecure := false })))
    ∧ (i < (if a.fieldOf st 6 2 = 0 then 4 else 5) → Does (.doeDiscovery t p i) s
        (· = a.say (.doe p i (leBytes 1 (if i + 1 < (if a.fieldOf st 6 2 = 0 then 4 else 5) then i + 1 else 0)))))
    ∧ (a.fieldOf st 6 2 ≠ 0 → Does (.cdatTableAccess t p i) s (· = a.say (.doe p 4 (Config.cdat i))))

/-- R119-R122, R124, R433, R436, R527: a host read answers with the committed bytes of its range, poisoned where a
granule is lost, refused outside the device or from a virtual function, held while a CXL page is in a decision's scope
and answered after it; a host write reaches every committed copy, or shows the lost access. -/
def Obligations.HostAccessReachesCommittedMemory : Prop :=
  ∀ (s : State) (t p addr len f id : Nat) (cxl : Bool) (data : List Byte) (raw : List (List Byte)),
    let a := s.arrive t
    let x := a.hostBase p cxl + addr
    let rs := raw.filterMap Region.parse
    let next := a.onPort p fun h => { h with nextId := (a.port p).nextId + 1 }
    let rd := Instr.hostHbmRead t p cxl addr len f raw
    let wr := Instr.hostHbmWrite t p cxl addr data raw
    let item : HeldRead := { id := (a.port p).nextId, addr := x, len := len, cxl := cxl }
    p < 2 → 0 < len → data ≠ [] →
    (cxl = true → a.hdmOn p = false → Does rd s (· = a) ∧ Does wr s (· = a))
    ∧ (cxl = false → f ≠ 0 → Does rd s (· = next.say (.completion p (a.port p).nextId cplUr [])))
    ∧ ((cxl = true → a.hdmOn p = true) → (cxl = false → f = 0) →
      (devT < x + len → Does rd s (· = (next.accessErr p (if cxl then 2 else 1) x).say (.completion p (a.port p).nextId (if cxl then cplPoison else cplUr) [])))
      ∧ (x + len ≤ devT →
        (cxl = true → next.rangeHeld x len = true → Does rd s
          (· = next.onPort p fun h => { h with heldRds := h.heldRds ++ [item] }))
        ∧ ((cxl = true → next.rangeHeld x len = false) →
          ((∀ i, i < len → (next.hostByte rs (x + i)).isSome = true) → Does rd s fun u =>
            u.out.head? = some (.completion p item.id cplOk ((List.range len).map fun i => (next.hostByte rs (x + i)).getD 0))
            ∧ u.mem = a.mem ∧ u.ops = a.ops ∧ u.regs = a.regs)
          ∧ ((∃ i, i < len ∧ next.hostByte rs (x + i) = none) → Does rd s
            (· = (next.accessErr p 3 x).say (.completion p item.id cplPoison []))))))
    ∧ ((cxl = true → a.hdmOn p = true) →
      (devT < x + data.length → Does wr s (· = a.accessErr p (if cxl then 2 else 1) x))
      ∧ (x + data.length ≤ devT →
        (∀ v, data.zipIdx.foldl (fun z b => z.bind fun y => y.hostPut rs (x + b.2) b.1) (some a) = some v → Does wr s (· = v))
        ∧ (∀ b, data = [b] → a.hostPut rs x b = none → Does wr s (· = a.accessErr p 4 x))))
    ∧ (∀ y, (a.port p).heldRds.find? (·.id = id) = some y →
        (a.rangeHeld y.addr y.len = true → Does (.heldReadAnswer t p id raw) s (· = a))
        ∧ (a.rangeHeld y.addr y.len = false → Does (.heldReadAnswer t p id raw) s
            (· = (a.onPort p fun h => { h with heldRds := h.heldRds.filter (·.id != id) }).hostRead p y rs)))

/-- R627-R629: a port answers SPDM requests in the order of the negotiation and refuses others as unexpected; it gives
version, capabilities, algorithms, the digest and chain of slot 0, signed challenges and measurements, and one session
with its key updates. The codes and the capability word are the model's (log entry 45). -/
def Obligations.SpdmAnswersInOrder : Prop :=
  ∀ (s : State) (t p algs slot off len i id : Nat) (nonce : List Byte),
    let a := s.arrive t
    let x := (a.port p).spdm
    let chain := Config.devChain p
    let part := (chain.drop off).take len
    let tells := fun (c : Instr) (code : Nat) (body : List Byte) (y : Spdm) => Does c s fun u =>
      u.out.head? = some (.spdm p code body) ∧ (u.port p).spdm = y ∧ u.regs = a.regs ∧ u.ops = a.ops ∧ u.cores = a.cores
    let error := fun (code : Nat) => a.spdmError p code
    let meas := fun (j : Nat) => leBytes 1 j ++ a.measure p j
    p < 2 → p < a.ports.length → (a.fd p).stoker = true →
    tells (.getVersion t p) 0x04 (leBytes 2 0x1200 ++ leBytes 2 0x1300) { x with version := true, caps := false, algs := false }
    ∧ (x.version = false → Does (.getCapabilities t p) s (· = error errUnexpected))
    ∧ (x.version = true → tells (.getCapabilities t p) 0x61 (leBytes 1 14 ++ leBytes 4 spdmCaps) { x with caps := true })
    ∧ (x.caps = false → Does (.negotiateAlgorithms t p algs) s (· = error errUnexpected))
    ∧ (x.caps = true → algs % 16 = 15 → tells (.negotiateAlgorithms t p algs) 0x63 (leBytes 1 15) { x with algs := true })
    ∧ (x.caps = true → algs % 16 ≠ 15 → Does (.negotiateAlgorithms t p algs) s (· = error errInvalid))
    ∧ (x.algs = false → ∀ c ∈ [Instr.getDigests t p, .getCertificate t p slot off len, .challenge t p slot nonce,
        .getMeasurements t p i nonce, .keyExchange t p id nonce], Does c s (· = error errUnexpected))
    ∧ (x.algs = true →
      tells (.getDigests t p) 0x01 (leBytes 1 1 ++ Config.sha384 chain) x
      ∧ tells (.getCertificate t p 0 off len) 0x02 (leBytes 2 part.length ++ leBytes 2 (chain.length - (off + part.length)) ++ part) x
      ∧ (slot ≠ 0 → Does (.getCertificate t p slot off len) s (· = error errInvalid)
          ∧ Does (.challenge t p slot nonce) s (· = error errInvalid))
      ∧ tells (.challenge t p 0 nonce) 0x03 (a.signed p (Config.sha384 chain) nonce) x
      ∧ (1 ≤ i → i ≤ 8 → tells (.getMeasurements t p i nonce) 0x60 (a.signed p (meas i) nonce) x)
      ∧ tells (.getMeasurements t p 0xFF nonce) 0x60 (a.signed p ([1, 2, 3, 4, 5, 6, 7, 8].flatMap meas) nonce) x
      ∧ ((i = 0 ∨ (8 < i ∧ i ≠ 0xFF)) → Does (.getMeasurements t p i nonce) s (· = error errInvalid))
      ∧ (x.session = none → tells (.keyExchange t p id nonce) 0x64
          (a.signed p (leBytes 2 id ++ leBytes 8 (Config.freeValue a.free).toNat) nonce)
          { x with session := some id, finished := false, updates := 0 })
      ∧ (x.session ≠ none → Does (.keyExchange t p id nonce) s (· = error errSessions)))
    ∧ (x.session = some id → x.finished = false → tells (.finish t p id) 0x65 [] { x with finished := true })
    ∧ ((x.session ≠ some id ∨ x.finished = true) → Does (.finish t p id) s (· = error errUnexpected))
    ∧ (x.session = some id → x.finished = true →
      tells (.heartbeat t p id) 0x68 [] x ∧ tells (.keyUpdate t p id) 0x69 [] { x with updates := x.updates + 1 }
      ∧ tells (.endSession t p id) 0x6C [] { x with session := none, finished := false, updates := 0 })
    ∧ ((x.session ≠ some id ∨ x.finished = false) → ∀ c ∈ [Instr.heartbeat t p id, .keyUpdate t p id, .endSession t p id],
        Does c s (· = error errUnexpected))

/-- R606-R612, R614, 19.7: a fabric die boots the slot that verifies, else the other one, else recovery boot; the
standby adopts the master's store where it verifies; a recovery image boots only if valid; the fuse SVN rises to the
running slot's and never falls; flash operations run on the slot that did not boot. -/
def Obligations.FabricDiesBootAndKeepFirmware : Prop :=
  ∀ (s : State) (t p fd slot op target : Nat) (dead : List Nat) (be : BitVec 4) (v : Word) (r : Reg),
    let a := s.arrive t
    let f := a.fd fd
    let rd := f.flashRd slot
    (fd < 2 → fd < a.boot.fds.length → fd < a.ports.length → a.pwr.inReset = false → f.reading = true → f.slot = slot →
      (slotOk rd f.fuseSvn = true → a.boot.resetAt ≠ none → Does (.slotVerified t fd slot dead) s fun u =>
        (u.fd fd).stoker = true ∧ (u.fd fd).store = slotBytes rd ∧ (u.fd fd).reading = false ∧ (u.port fd).cfgReady = true
        ∧ u.bitOf (rBootStat fd) 0 = decide (slot = 1) ∧ u.bitOf (rBootStat fd) 1 = f.second ∧ (u.fd fd).fuseSvn = f.fuseSvn
        ∧ u.ops = a.ops ∧ u.md = a.md)
      ∧ (slotOk rd f.fuseSvn = false → f.second = false → Does (.slotVerified t fd slot dead) s fun u =>
        u.fd fd = { f with slot := 1 - slot, second := true } ∧ u.regs = a.regs)
      ∧ (slotOk rd f.fuseSvn = false → f.second = true → Does (.slotVerified t fd slot dead) s fun u =>
        (u.fd fd).recovery = true ∧ (u.fd fd).stoker = false ∧ u.bitOf (rBootStat fd) 2 = true ∧ (u.port fd).cfgReady = true))
    ∧ (let m := a.chooseMaster.cm.master
      a.pwr.inReset = false → a.boot.ready = false → (a.fd m).stoker = true → a.fdAlive (1 - m) = true → (a.fd (1 - m)).stoker = true →
      (storeId (a.fd m) = storeId (a.fd (1 - m)) → Does (.imageCompare t) s (· = a))
      ∧ (storeId (a.fd m) ≠ storeId (a.fd (1 - m)) →
        (slotOk (a.fd m).storeRd (a.fd (1 - m)).fuseSvn = true → Does (.imageCompare t) s fun u =>
          u = a.adopt (1 - m) ∧ u.bitOf (rBootStat (1 - m)) 3 = true)
        ∧ (slotOk (a.fd m).storeRd (a.fd (1 - m)).fuseSvn = false → Does (.imageCompare t) s (· = a.failFdStart (1 - m)))))
    ∧ (a.wrFront p none offRcvCtl 15#4 = (a, some r) → r.name = .scRcvCtl → bit v.toNat 0 = true → r.dev < a.boot.fds.length →
      (slotOk (a.fd r.dev).rcvRd (a.fd r.dev).fuseSvn = true → Does (.recoveryGo t p v) s fun u =>
        (u.fd r.dev).stoker = true ∧ (u.fd r.dev).recovery = false ∧ (u.fd r.dev).store = slotBytes (a.fd r.dev).rcvRd)
      ∧ (slotOk (a.fd r.dev).rcvRd (a.fd r.dev).fuseSvn = false → Does (.recoveryGo t p v) s fun u =>
        u.bitOf r 2 = true ∧ u.boot = a.boot))
    ∧ (a.wrFront p none offSvnCommit be = (a, some r) → r.name = .scSvnCommit →
      let b := a.applyWrite p none offSvnCommit r v.toNat
      let svn := slotSvn (b.fd r.dev).storeRd
      r.dev < b.boot.fds.length →
      (bitf v.toNat 0 16 = 0x5C1A → (b.fd r.dev).stoker = true → (b.fd r.dev).fuseSvn < svn → Does (.svnCommit t p be v) s fun u =>
        (u.fd r.dev).fuseSvn = svn ∧ u.bitOf r 16 = true ∧ u.fieldOf (rBootStat r.dev) 8 7 = svn % 128)
      ∧ ((bitf v.toNat 0 16 ≠ 0x5C1A ∨ (b.fd r.dev).stoker = false ∨ svn ≤ (b.fd r.dev).fuseSvn) →
        Does (.svnCommit t p be v) s (· = b)))
    ∧ (∀ c ∈ [(Instr.flashErase t p be v, 1), (.flashProgram t p be v, 2), (.flashCheck t p be v, 3)],
      a.wrFront p none offFlashCtl be = (a, some r) → r.name = .scFlashCtl → bit v.toNat 3 = true →
      bitf (judge r.fields (a.readReg r) v.toNat).1 0 2 = c.2 →
      (a.bitOf r 4 = true → Does c.1 s (· = a.cfgErr none errBUSY offFlashCtl p))
      ∧ (a.bitOf r 4 = false →
        let b := a.applyWrite p none offFlashCtl r (putBits v.toNat 3 1 0)
        r.dev < b.boot.fds.length → Does c.1 s fun u => u.bitOf r 4 = true
          ∧ (u.fd r.dev).flashOp = some (c.2 + 4 * b.fieldOf r 2 1 + 8 * (1 - b.fieldOf (rBootStat (b.fieldOf r 2 1)) 0 1))))
    ∧ (op < 4 → target < 2 → slot < 2 → fd < a.boot.fds.length → f.flashOp = some (op + 4 * target + 8 * slot) →
      let page := f.flashBuf.readBytes 0 4096
      Does (.flashDone t fd) s fun u => u.bitOf (rFlashCtl fd) 4 = false ∧ u.bitOf (rFlashCtl fd) 5 = true ∧ (u.fd fd).flashOp = none
        ∧ (op = 1 → target < a.boot.fds.length → (u.fd target).flash = (a.fd target).flash.forget (flashBase slot) 0x800000 a.free)
        ∧ (op = 2 → target < a.boot.fds.length → (u.fd target).flash = (a.fd target).flash.writeBytes (flashBase slot + a.reg { name := .scFlashOff, dev := fd }) page)
        ∧ (op = 3 → u.bitOf (rFlashCtl fd) 6 = !(slotOk ((a.fd target).flashRd slot) (a.fd target).fuseSvn))
        ∧ u.ops = a.ops ∧ u.cores = a.cores)

/-- R516-R520, R528, R584, R593: a compute die that reports a fatal error or trips is declared failed with its stack;
the failure is counted once, its role is noted, and no other die and no operation changes. Without a master the
declaration waits. -/
def Obligations.FailedDiesAreDeclared : Prop :=
  ∀ (s : State) (t d : Nat), d < 9 →
    let fails := fun (a u : State) => u.dieDead d = true ∧ u.stackDead d = true
      ∧ u.flt.count = a.flt.count + (if a.flt.linkDies.contains d then 0 else 1) ∧ u.fab.changed = true
      ∧ (a.flt.banked = some d → u.flt.banked = none ∧ u.fieldOf rFtFailed 24 4 = 0xF)
      ∧ (a.flt.banked ≠ some d → u.flt.banked = a.flt.banked ∧ (d, a.now) ∈ u.flt.moveAt)
      ∧ (∀ e, e < 9 → e ≠ d → u.dieDead e = a.dieDead e ∧ u.stackDead e = a.stackDead e)
      ∧ u.ops = a.ops ∧ u.cores = a.cores ∧ u.pool = a.pool ∧ u.boot = a.boot
    ((s.stamped t).hasMaster = true → s.dieDead d = false →
      Does (.fatalErrorReport t d) s (fails (s.stamped t)))
    ∧ ((s.stamped t).hasMaster = false → (∀ w ∈ s.pwr.waits, ¬ (w.1 = 2 ∧ w.2.1 = d)) →
        Does (.fatalErrorReport t d) s fun u => u.pwr.waits = s.pwr.waits ++ [(2, d, 2)] ∧ u.regs = s.regs)
    ∧ ((s.arrive t).pwr.inReset = false → (s.arrive t).hasMaster = true → (s.arrive t).dieDead d = false →
        Does (.supplyTrip t 2 d) s (fails (s.arrive t)) ∧ Does (.thermalTrip t 2 d) s (fails (s.arrive t)))

/-- R249, R539, R541, R563, R584, R591, R593: trips of the meter, a stack or the master's own fabric die; a die that
gets hot; counted checksum reports; and an uncorrectable core store error in a line an operation owns. -/
def Obligations.OtherTripsAndReportsActOnTheirPart : Prop :=
  ∀ (s : State) (t i : Nat),
    let a := s.arrive t
    (s.md.on = true →
      Does (.supplyTrip t 0 i) s (fun u => u.md = s.md.cond t 6 true ∧ u.ops = s.ops ∧ u.regs = s.regs)
      ∧ Does (.thermalTrip t 0 i) s (fun u => u.md = s.md.cond t 0 true ∧ u.ops = s.ops ∧ u.regs = s.regs))
    ∧ (i < 9 → a.pwr.inReset = false → a.hasMaster = true → a.stackDead i = false →
        let lost := fun (u : State) => u.stackDead i = true ∧ u.flt.count = a.flt.count + 1 ∧ (u.die i).withhold = true
          ∧ u.cores = a.cores ∧ u.ops = a.ops
        a.frames.dies.length = 11 → Does (.supplyTrip t 3 i) s lost ∧ Does (.thermalTrip t 3 i) s lost)
    ∧ (a.pwr.inReset = false → a.hasMaster = true → i = a.cm.master →
        let waits := fun (u : State) => u = { a with pwr := { a.pwr with waits := a.pwr.waits ++ [(4, i, 4)] } }
        Does (.supplyTrip t 4 i) s waits ∧ Does (.thermalTrip t 4 i) s waits)
    ∧ (a.pwr.inReset = false →
        Does (.throttleThreshold t i true) s (fun u => i ∈ u.pwr.hotDies ∧ u.pwr.thermN = false ∧ u.frames.hot = true
          ∧ u.ops = a.ops ∧ u.regs = a.regs)
        ∧ Does (.throttleThreshold t i false) s fun u => i ∉ u.pwr.hotDies ∧ u.frames.hot = a.frames.hot)
    ∧ (i < 36 → let b := s.stamped t
        let frames := b.fieldOf { name := .ftCfg } 4 8
        let mine := (((i, b.frames.frn) :: b.flt.reports).filter fun r => b.frames.frn < r.2 + frames).filter (·.1 = i)
        let n := b.fieldOf { name := .ftCfg } 0 4
        (mine.length < n → Does (.checksumReport t i) s fun u => u.flt.shunned = b.flt.shunned ∧ u.regs = b.regs)
        ∧ (0 < n → n ≤ mine.length → b.hasMaster = true → b.dieDead (i / 4) = false →
            Does (.checksumReport t i) s fun u => i ∈ u.flt.shunned ∧ u.dieDead (i / 4) = true ∧ i / 4 ∈ u.flt.retired
              ∧ u.bitOf rFtFailed 23 = true ∧ ∀ h, h < 9 → u.stackDead h = b.stackDead h))
    ∧ (∀ addr asn, i < s.cores.length →
        ({ s.core i with ft := { (s.core i).ft with csUe := true } } : Core).lineOwner addr = some asn →
        Does (.coreStoreUe t i addr) s fun u => (u.core i).ft.csUe = true ∧ (∃ c, (asn, c) ∈ (u.core i).aborts)
          ∧ (u.core i).store = (s.core i).store ∧ ∀ j, j ≠ i → u.core j = s.core j)

/-- R582, R584: an input that is lost or returns while the other one holds shows in GX_PWR_STAT and THERM_ALERT_N and
changes no operation; a failed converter module shows in MODFAIL alone. The loss of the last input powers everything
off but the meter, the flash and the fuses (R587, R589). R595, R601: the loss of PKG_REFCLK0 moves every die to
PKG_REFCLK1 and its return moves them back; with PKG_REFCLK1 in use, its loss stops the package. A Quinulait clock's
loss takes down the ports of its fabric die that run. The test port answers only while STRAP_TEST was high at
sampling. -/
def Obligations.PowerInputsClocksAndTestPort : Prop :=
  (∀ (s : State) (t input : Nat), input < 2 →
     let a := s.arrive t
     a.pwr.vin.length = 2 → a.pwr.inReset = false →
     let shows := fun (ok : Bool) (u : State) => u.pwr.vin = a.pwr.vin.set input ok ∧ u.bitOf rPwrStat input = ok
       ∧ (ok = false → u.pwr.thermN = false) ∧ (∀ r, r ≠ rPwrStat → u.reg r = a.reg r) ∧ u.ops = a.ops ∧ u.cores = a.cores
       ∧ u.mem = a.mem ∧ u.frames = a.frames ∧ u.rings = a.rings ∧ u.md = a.md ∧ u.flt = a.flt
     let off := fun (u : State) => u.pwr.pwrOk = false ∧ u.pwr.inReset = true ∧ u.ops = Ops.reset ∧ u.mem = MemSys.reset
       ∧ u.regs = [] ∧ u.cm.token = 1 ∧ u.md = a.md ∧ (∀ fd, (u.fd fd).flash = (a.fd fd).flash)
       ∧ ∀ fd, (u.fd fd).fuseSvn = (a.fd fd).fuseSvn
     Does (.vinReconnect t input) s (shows true)
     ∧ (a.pwr.vin.getD (1 - input) false = true →
         Does (.vinLoss t input) s (shows false) ∧ Does (.vinOvervoltage t input) s (shows false))
     ∧ (a.pwr.vin.getD (1 - input) false = false →
         Does (.vinLoss t input) s off ∧ Does (.vinOvervoltage t input) s off)
     ∧ Does (.modfail t) s fun u => u.bitOf rPwrStat 2 = true ∧ (∀ r, r ≠ rPwrStat → u.reg r = a.reg r)
         ∧ u.ops = a.ops ∧ u.cores = a.cores ∧ u.mem = a.mem ∧ u.frames = a.frames)
  ∧ (∀ (s : State) (t fd : Nat),
     let a := s.arrive t
     (a.pwr.refclk1 = false → Does (.refclkLoss t) s fun u => u = { a with pwr := { a.pwr with refclk1 := true } })
     ∧ (a.pwr.refclk1 = true → Does (.refclkLoss t) s fun u => u = { a with pwr := { a.pwr with inReset := true } })
     ∧ (a.pwr.inReset = false → Does (.refclkReturn t) s fun u => u = { a with pwr := { a.pwr with refclk1 := false } })
     ∧ (fd < 2 → Does (.qlRefclkLoss t fd) s fun u =>
         (∀ p, 8 * fd ≤ p → p < 8 * fd + 8 → u.fieldOf (qlStatReg p) 0 2 ≠ 2)
         ∧ (∀ r, (∀ p, p < 16 → r ≠ qlStatReg p) → u.reg r = a.reg r) ∧ u.ops = a.ops ∧ u.pool = a.pool)
     ∧ (∀ e, a.pwr.straps.getD 2 false = e → Does (.testPortAccess t) s fun u => u = a.say (.test e)))

/-- R585-R589: PWR_OK, power-down and cold reset. Start-up samples the straps, starts both boot ROMs and takes the
fencing token back to 1; neither power-down nor cold reset touches the meter. -/
def Obligations.PowerSequencesStartAndStopThePackage : Prop :=
  ∀ (s : State) (t port : Nat) (msel recov test : Bool),
    let a := s.arrive t
    let started := fun (b u : State) => u.pwr.straps = [msel, recov, test] ∧ u.pwr.pwrOk = true ∧ u.pwr.inReset = false
      ∧ u.ops = Ops.reset ∧ u.mem = MemSys.reset ∧ u.cm.token = 1 ∧ u.md = b.md
      ∧ ∀ fd, fd < b.boot.fds.length → (u.fd fd).flash = (b.fd fd).flash ∧ (u.fd fd).reading = !recov
          ∧ (u.fd fd).recovery = recov ∧ (u.fd fd).fuseSvn = (b.fd fd).fuseSvn
    (s.pwr.pwrOk = false → s.pwr.pwrDn = false → s.pwr.vin.any (·) = true → s.boot.fds.length = 2 →
      Does (.pwrOk t msel recov test false) s (started s)
      ∧ Does (.pwrOk t msel recov test true) s fun u => u.pwr.pwrOk = true ∧ u.pwr.coldLow = true ∧ u.pwr.inReset = true
          ∧ u.md = s.md)
    ∧ (a.pwr.coldLow = true → a.boot.fds.length = 2 → Does (.coldResetRelease t msel recov test) s fun u =>
        started { a with pwr := { a.pwr with pwrOk := true } } u ∧ u.pwr.coldLow = false)
    ∧ (a.pwr.pwrOk = true → a.pwr.coldLow = false → Does (.coldRstN t) s fun u => u.pwr.coldLow = true
        ∧ u.pwr.inReset = true ∧ u.pwr.pwrOk = true ∧ u.ops = Ops.reset ∧ u.mem = MemSys.reset ∧ u.md = a.md
        ∧ ∀ fd, (u.fd fd).flash = (a.fd fd).flash)
    ∧ (a.pwr.pwrDn = false → Does (.pwrDnN t) s fun u => u.pwr.pwrDn = true ∧ u.pwr.pwrOk = false ∧ u.pwr.inReset = true
        ∧ u.mem = MemSys.reset ∧ u.md = a.md ∧ (a.pwr.pwrOk = true → u.out.head? = some (.pin "PWR_OK" false)))
    ∧ (Does (.pwrDnRelease t) s fun u => u.pwr.pwrDn = false ∧ u = { a with pwr := { a.pwr with pwrDn := false } })
    ∧ (port < a.ports.length → Does (.perstRelease t port) s fun u => u.port port = { a.port port with perst := false }
        ∧ (∀ q, q ≠ port → u.port q = a.port q) ∧ u.ops = a.ops ∧ u.regs = a.regs)

/-- R96, R136, R442, R589, R603, R616, R643: the three triggers of a full reset reset every die but the MD: cores,
votes, host links and registers as at reset but for those R643 keeps, the journal and what the retention domain holds
kept and the fencing token raised by one, or kept where the reset restarts one; with the package off a hot reset does
nothing. -/
def Obligations.FullResetsKeepWhatOutlivesThem : Prop :=
  ∀ (s : State) (t port : Nat) (be : BitVec 4) (v : Word),
    let a := s.arrive t
    let live := fun (a : State) => a.pwr.pwrOk = true ∧ a.pwr.pwrDn = false ∧ a.pwr.coldLow = false ∧ a.pwr.inReset = false
      ∧ (a.boot.ready = true ∨ a.boot.resetAt.isSome = true)
    let after := fun (a u : State) => u.cores = List.replicate 36 Core.reset ∧ u.boot.ready = false ∧ u.boot.done = false
      ∧ u.boot.resetAt = some a.now ∧ u.cm.token = (if a.boot.resetAt.isSome then a.cm.token else a.cm.token + 1)
      ∧ u.ops.list = a.ops.list ∧ u.ops.decs = a.ops.decs ∧ u.ops.votes = [] ∧ u.md = a.md ∧ u.now = a.now
      ∧ u.frames.frn = a.frames.frn ∧ u.frames.lastFrn = a.frames.lastFrn ∧ u.frames.ticking = false
      ∧ u.rings.sq = a.rings.sq.map Ring.afterReset ∧ u.rings.cq = []
      ∧ (∀ h, u.mem.hbm.dram.getD h [] = a.mem.hbm.dram.getD h [])
      ∧ (∀ r : Reg, r.name ∉ [.ftFailed, .ftQlfail, .plFmCtl, .gxPwrStat, .scBootStat] → u.reg r = r.reset.toNat)
      ∧ ∀ r : Reg, r.name ∈ ([.ftFailed, .ftQlfail, .plFmCtl, .scBootStat] : List RegName) → u.reg r = a.reg r
    (live a → Does (.hotReset t port) s (after a)
      ∧ Does (.perstN t port) s fun u => after a u ∧ (port < a.ports.length → (u.port port).perst = true)
        ∧ ∀ p, p ≠ port → (u.port p).perst = (a.port p).perst)
    ∧ (∀ b r, a.wrFront port none offGxCtl be = (b, some r) → r.name = .gxCtl → bitf v.toNat 0 16 = 0x0A5A → live b →
        Does (.fullReset t port be v) s (after b))
    ∧ (a.pwr.pwrOk = false → exec (.hotReset t port) s = .next a)

/-- R99, R100, R613, R616, R618, R622-R626: the stokers boot again after a full reset and READY is set; GO of
CM_RECOVER starts the pass of its mode, FRESH with an empty journal and no lock or remote scope, RECOVER unless a
decision log's header is bad; DONE ends the pass and every ring is watched. -/
def Obligations.JournalPassesFollowAReset : Prop :=
  ∀ (s : State) (t port : Nat) (be : BitVec 4) (v : Word) (dlogs : List DecLogRead) (rlogs : List RingLogRead)
    (posted : List CqRead) (tables : List PageTables),
    let a := s.arrive t
    (a.pwr.pwrOk = true → a.pwr.inReset = false → a.boot.ready = false →
      let c := ((a.reboot 0).reboot 1).chooseMaster
      let b := if c.hasMaster then c.settleWaits else c
      (∀ f, f < 2 → b.fdAlive f = false ∨ (b.fd f).reading = false) → (∃ f, f < 2 ∧ (b.fd f).stoker = true) →
      Does (.resetRebootReady t) s fun u => u.boot = { b.boot with ready := true } ∧ u.ops = b.ops ∧ u.mem = b.mem
        ∧ ∀ d, d < 2 → u.bitOf { name := .cmRecover, dev := d } 0 = true)
    ∧ (∀ b, a.goFront port be v.toNat false = (b, true) → Does (.recoverGoFresh t port be v) s fun u =>
        u.boot.pass = some false ∧ u.ops = Ops.reset ∧ u.pool.locks = [] ∧ u.pool.scopes = [] ∧ u.frames = b.frames
        ∧ u.cm = b.cm)
    ∧ (∀ b, a.goFront port be v.toNat true = (b, true) →
        ((∀ d ∈ dlogs, dlogHeaderOk d.header = true) → Does (.recoverGoRecover t port be v dlogs rlogs posted tables) s fun u =>
          u.boot.pass = some true ∧ u.frames = b.frames ∧ u.cm = b.cm ∧ u.now = b.now)
        ∧ ((∃ d ∈ dlogs, dlogHeaderOk d.header = false) → Does (.recoverGoRecover t port be v dlogs rlogs posted tables) s fun u =>
          u.boot = b.boot ∧ u.ops = b.ops ∧ ∀ f, f < 2 → u.bitOf (rBootStat f) 4 = true))
    ∧ (a.boot.pass.isSome = true → a.boot.done = false → Does (.journalPassDone t) s fun u =>
        u.boot = { a.boot with done := true, resetAt := none } ∧ u.bitOf { name := .cmRecover, dev := 0 } 3 = true
        ∧ u.bitOf { name := .cmRecover, dev := 1 } 3 = true ∧ u.rings = a.rings ∧ u.ops = a.ops ∧ u.mem = a.mem)

/-- R548, R549, R551, R557, R559: a sample adds each input's positive energy, registers whole microwatt-hours with the
fractions carried once the interval reaches the no-load limit, and shows a reading out of range; summaries are
checked, held and applied, apportioning the pending energy; a fence raises the token and drops older summaries. That
an interval registers from the sample on at which it reaches the limit is the model's choice (log entry 53). -/
def Obligations.EnergyIsSampledAndApportioned : Prop :=
  ∀ (s : State) (t link session token : Nat) (va ia vb ib : Int) (b : List Byte) (h : HeldSum), s.md.on = true →
    let m := s.md
    let l := m.legal
    let pA := m.samplePower 0 va ia
    let pB := m.samplePower 1 vb ib
    let A := m.fracA + (m.winA + pA.toNat)
    let B := m.fracB + (m.winB + pB.toNat)
    let R := m.fracR + (m.winR + ((-pA).toNat + (-pB).toNat))
    let U := Meter.unitsPerUwh
    let reached := m.winOpen || decide (Meter.noLoad ≤ m.winP + (pA + pB))
    let bad := Meter.outOfRange va ia || Meter.outOfRange vb ib
    (Does (.energySample t va ia vb ib) s fun u =>
        (reached = true → u.md.fracA = A % U ∧ u.md.fracB = B % U ∧ u.md.fracR = R % U
          ∧ u.md.legal = { l with eA := l.eA + A / U, eB := l.eB + B / U, eTot := l.eTot + (A / U + B / U), ePend := l.ePend + (A / U + B / U), eRev := l.eRev + R / U })
        ∧ (reached = false → u.md.fracA = m.fracA ∧ u.md.fracB = m.fracB ∧ u.md.fracR = m.fracR ∧ u.md.legal = l)
        ∧ u.md.winN = (if m.winN + 1 < 100000 then m.winN + 1 else 0) ∧ bit u.md.health 7 = bad
        ∧ u.regs = s.regs ∧ u.ops = s.ops ∧ u.cores = s.cores)
    ∧ (m.restart = false → fld b 0 1 = 0x31 →
      let f := fld b 8 8
      let tok := fld b 0x10 8
      let new : HeldSum := { frn := f, token := tok, fus := fld b 0x18 4, nops := fld b 0x1C 4, entries := Meter.sumEntries b, arrived := t }
      (Meter.sumOk b = false → Does (.summary t link b) s fun u => u.md = { m with invalid := m.invalid + 1 } ∧ u.regs = s.regs)
      ∧ (Meter.sumOk b = true → m.session = some (fld b 4 4) →
        ((tok < m.token ∨ f ≤ m.lastFrn) → Does (.summary t link b) s fun u => u.md = m ∧ u.regs = s.regs)
        ∧ (m.token ≤ tok → m.lastFrn < f → (∀ x ∈ m.held, x.frn ≠ f) → Does (.summary t link b) s fun u =>
            u.md = { m with token := tok, held := new :: m.held } ∧ u.regs = s.regs ∧ u.ops = s.ops))
      ∧ (Meter.sumOk b = true → m.session ≠ some (fld b 4 4) → 0 < f → (∀ x ∈ m.held, x.frn ≠ f) → Does (.summary t link b) s fun u =>
            u.md = { m with session := some (fld b 4 4), token := tok, lastFrn := 0, fresh := true, held := new :: m.held } ∧ u.regs = s.regs))
    ∧ (m.restart = false → m.held = [h] → h.arrived + 50000 ≤ t → m.lastFrn < h.frn →
      let M := Meter.sumUnits h.entries
      let gap := m.fresh || m.lastClose + 2 * (h.fus * 1000) + 5000000 < t
      Does (.summaryApply t) s fun u => u.md.held = [] ∧ u.md.lastFrn = h.frn ∧ u.md.lastClose = t ∧ u.md.fresh = false
        ∧ u.md.legal.ePend = 0 ∧ u.md.legal.eTot = l.eTot ∧ u.md.legal.mwuTot = l.mwuTot + M ∧ u.md.legal.frSeen = l.frSeen + 1
        ∧ (gap = false → M ≠ 0 → u.md.legal.eFn = Meter.addAll l.eFn (Meter.finalShares l.ePend M h.entries) ∧ u.md.legal.eIdle = l.eIdle
            ∧ u.md.legal.gaps = l.gaps)
        ∧ ((gap = true ∨ M = 0) → u.md.legal.eFn = l.eFn ∧ u.md.legal.eIdle = l.eIdle + l.ePend)
        ∧ (gap = true → u.md.legal.gaps = l.gaps + 1) ∧ u.regs = s.regs ∧ u.ops = s.ops)
    ∧ (m.restart = false → (∀ x ∈ m.held, t < x.arrived + 50000) → Does (.summaryApply t) s (· = s))
    ∧ (m.restart = false → m.session = some session → Does (.mdFence t session token) s fun u =>
        u.md = { m with token := max m.token token, held := m.held.filter fun x => !(x.token < max m.token token) } ∧ u.regs = s.regs)
    ∧ (m.restart = false → m.session ≠ some session → Does (.mdFence t session token) s (· = s))

/-- R558: a summary that names an account above 127, or accounts out of order, is invalid; served, it has no effect
but to be counted in a counter that is no legal register. -/
def Obligations.InvalidSummariesHaveNoEffect : Prop :=
  ∀ (s : State) (t link : Nat) (b : List Byte), s.md.on = true → s.md.restart = false → fld b 0 1 = 0x31 →
    ((∃ e ∈ Meter.sumEntries b, 127 < e.1)
      ∨ (∃ i x y, (Meter.sumEntries b)[i]? = some x ∧ (Meter.sumEntries b)[i + 1]? = some y ∧ y.1 ≤ x.1)) →
    exec (.summary t link b) s = .next { s with md := { s.md with invalid := s.md.invalid + 1 } }

/-- R545, R562, R563, R565, R567-R570, R573: a READ is answered with a signed, counted record; PARAM and CLEAR act and
are logged on an unsealed meter with room in its log, and are refused with their status otherwise; firmware arrives in
parts and a signed newer legal image restarts the partition; the I3C target takes and gives up its address and answers
its constants. The refusal order, the command record and the answers of the I3C target are the model's (log entries
54, 58, 59). -/
def Obligations.MeterCommandsAreServedAndLogged : Prop :=
  ∀ (s : State) (t path sel arg id v mask target len off ver ad st act : Nat) (nonce data hash sig : List Byte),
    s.md.on = true →
    let m := s.md
    let counted : Meter := { m with rseq := m.rseq + 1 }
    let body := fun (sl ar status : Nat) (non pay : List Byte) => counted.recordBody t sl ar status non pay
    let rec_ := fun (x : List Byte) => x ++ Config.ecdsaSign 2 (Config.sha384 x) s.free
    let p := m.payload (sel % 256) (arg % 65536)
    let answer := rec_ (body (sel % 256) (arg % 65536) p.1 nonce (if p.1 = 0 then p.2 else []))
    let done := fun (u : State) (n : Nat) => u.md.rseq = m.rseq + n ∧ u.md.legal = m.legal ∧ u.regs = s.regs ∧ u.ops = s.ops
    (m.restart = false →
      (path < 2 → nonce.length = 32 → Does (.read t path sel arg nonce) s fun u =>
        u.out.head? = some (.readout path answer) ∧ u.md = counted ∧ u.regs = s.regs)
      ∧ (m.addr ≠ none →
        (nonce.length = 32 → Does (.read t 2 sel arg nonce) s fun u => u.md = { counted with lastRec := answer } ∧ u.regs = s.regs)
        ∧ (m.sealedIn = true →
          (Does (.param t id v) s fun u => done u 1 ∧ u.md.log = m.log ∧ u.md.gain = m.gain ∧ u.md.offset = m.offset ∧ u.md.trade = m.trade
            ∧ (u.md.lastRec.getD 4 0).toNat = 4)
          ∧ (Does (.clear t mask) s fun u => done u 1 ∧ u.md.health = m.health ∧ u.md.log = m.log ∧ (u.md.lastRec.getD 4 0).toNat = 4)
          ∧ (target % 256 ≠ 1 → Does (.fwBegin t target len) s fun u => done u 1 ∧ u.md.fwTarget = m.fwTarget ∧ u.md.fwBuf = m.fwBuf))
        ∧ (m.sealedIn = false → m.log.length < 4000 →
          (paramOk 1 (v % 2 ^ 64) = true → Does (.param t 1 v) s fun u => done u 1 ∧ u.md.trade = decide (v % 2 ^ 64 = 1)
            ∧ u.md.log.length = m.log.length + 1 ∧ u.md.gain = m.gain ∧ u.md.offset = m.offset ∧ (u.md.lastRec.getD 4 0).toNat = 0)
          ∧ (paramOk (id % 256) (v % 2 ^ 64) = false → Does (.param t id v) s fun u => done u 1 ∧ u.md.log = m.log ∧ u.md.gain = m.gain
            ∧ u.md.offset = m.offset ∧ u.md.trade = m.trade ∧ (u.md.lastRec.getD 4 0).toNat = 2)
          ∧ (Does (.clear t mask) s fun u => done u 1 ∧ ∀ i, i < 6 →
              bit u.md.health i = (bit m.health i && !(bit (mask % 65536) i && !bit m.conds i)))
          ∧ (target % 256 = 0 → Does (.fwBegin t target len) s fun u => done u 1 ∧ u.md.fwTarget = some 0 ∧ u.md.fwLen = len % 2 ^ 32
              ∧ u.md.fwBuf = Mem.empty)
          ∧ (m.fwTarget = some 0 → m.imageSigned ver hash sig = true → m.fwVer < ver → Does (.fwEnd t ver hash sig) s fun u =>
              done u 1 ∧ u.md.restart = true ∧ u.md.fwVer = ver % 2 ^ 32 ∧ u.md.fwImage = m.fwBuf.readBytes 0 m.fwLen
              ∧ u.md.log.length = m.log.length + 1 ∧ u.md.fwTarget = none)
          ∧ (m.fwTarget = some 0 → (m.imageSigned ver hash sig = false ∨ ver ≤ m.fwVer) → Does (.fwEnd t ver hash sig) s fun u =>
              done u 1 ∧ u.md.restart = false ∧ u.md.fwVer = m.fwVer ∧ u.md.log = m.log ∧ (u.md.lastRec.getD 4 0).toNat = 6))
        ∧ (target % 256 = 1 → Does (.fwBegin t target len) s fun u => done u 1 ∧ u.md.fwTarget = some 1 ∧ u.md.fwLen = len % 2 ^ 32)
        ∧ (m.fwTarget = some 1 → data ≠ [] → data.length ≤ 1024 → off % 2 ^ 32 + data.length ≤ m.fwLen → Does (.fwData t off data) s fun u =>
            u.md = { m with fwBuf := m.fwBuf.writeBytes (off % 2 ^ 32) data } ∧ u.regs = s.regs)
        ∧ (m.fwTarget = none → Does (.fwEnd t ver hash sig) s fun u => done u 1 ∧ (u.md.lastRec.getD 4 0).toNat = 7)))
    ∧ (m.addr ≠ none →
      Does (.i3cPrivateRead t) s (· = s.say (.i3c m.lastRec)) ∧ Does (.getpid t) s (· = s.say (.i3c (i3cConst 0 6)))
      ∧ Does (.getbcr t) s (· = s.say (.i3c (i3cConst 1 1))) ∧ Does (.getdcr t) s (· = s.say (.i3c (i3cConst 2 1)))
      ∧ Does (.getmwl t) s (· = s.say (.i3c (i3cConst 3 2))) ∧ Does (.getmrl t) s (· = s.say (.i3c (i3cConst 4 2)))
      ∧ Does (.getstatus t) s (· = (s.say (.i3c (leBytes 2 (Config.freeValue s.free).toNat))).takeFree)
      ∧ Does (.entdaa t ad) s (· = s) ∧ Does (.setdasa t st ad) s (· = s))
    ∧ (m.addr = none → Does (.entdaa t ad) s (· = { s with md := { m with addr := some ad } })
      ∧ Does (.setdasa t 0x2C ad) s (· = { s with md := { m with addr := some ad } })
      ∧ ∀ c ∈ [Instr.i3cPrivateRead t, .getpid t, .getbcr t, .getdcr t, .getmwl t, .getmrl t, .param t id v, .clear t mask,
          .fwBegin t target len, .fwData t off data, .fwEnd t ver hash sig, .read t 2 sel arg nonce], Does c s (· = s))
    ∧ Does (.rstdaa t) s (· = { s with md := { m with addr := none } })
    ∧ Does (.enec t) s (· = { s with md := { m with ibi := true } })
    ∧ Does (.disec t) s (· = { s with md := { m with ibi := false } })
    ∧ Does (.rstact t act) s (· = { s with md := { m with rstAct := act % 256 } })

/-- R546, R552, R561, R563, R564, R566, R574, R576, R577: accepted seal changes are logged; clock, firmware, lid and
branch checks set their flags; snapshots and power-on keep and restore the legal registers; the readout output fills
MT_STATE and the response registers, and the mailbox and the status word time out. -/
def Obligations.MeterHealthPowerAndReadout : Prop :=
  ∀ (s : State) (t p fd ppm rtcNow : Nat) (closed good opened ver : Bool) (be : BitVec 4) (v : Word) (r : Reg) (b : List Byte),
    let m := s.md
    let a := s.arrive t
    let st : Reg := { name := .mtState, dev := fd }
    let ctl := rMbxCtl fd
    let flag := fun (u : State) (i : Nat) (on : Bool) => bit u.md.health i = on ∧ u.md.legal = m.legal ∧ u.regs = s.regs ∧ u.ops = s.ops
    (m.on = true →
      (m.sealedIn ≠ closed → m.log.length < 4095 → Does (.sealChange t closed) s fun u => u.md.sealedIn = closed
          ∧ u.md.log = m.log ++ [{ evcnt := m.log.length + 1, typ := if closed then 2 else 1, id := 0, rtc := m.rtcNow t, old := 0, new := 0 }]
          ∧ u.md.legal = m.legal ∧ u.regs = s.regs)
      ∧ (m.sealedIn = closed → Does (.sealChange t closed) s fun u => u.md = m ∧ u.regs = s.regs)
      ∧ (Does (.clockCheck t ppm) s fun u => flag u 1 (bit m.health 1 || decide (100 < ppm)))
      ∧ (m.restart = false → Does (.fwHashCheck t good) s fun u => flag u 3 (bit m.health 3 || !good) ∧ u.md.restart = false)
      ∧ (m.restart = true → m.queue = [] → Does (.fwHashCheck t good) s fun u => flag u 3 (bit m.health 3 || !good) ∧ u.md.restart = false)
      ∧ (Does (.lidLoopOpen t opened) s fun u => flag u 4 (bit m.health 4 || opened))
      ∧ (m.snaps.length = 2 → Does (.nvSnapshot t ver) s fun u => u.md.legal = m.legal ∧ u.md.snapSeq = m.snapSeq + 1 ∧ u.regs = s.regs
          ∧ ∃ x, u.md.snaps = m.snaps.set ((m.snapSeq + 1) % 2) x ∧ x.legal = m.legal ∧ x.valid = ver ∧ x.final = false ∧ x.seq = m.snapSeq + 1)
      ∧ (m.snaps.length = 2 → Does (.mdBranchFall t ver) s fun u => u.md.on = false ∧ u.md.legal = m.legal ∧ u.regs = s.regs
          ∧ ∃ x, u.md.snaps = m.snaps.set ((m.snapSeq + 1) % 2) x ∧ x.legal = m.legal ∧ x.valid = ver ∧ x.final = true)
      ∧ Does (.mdPowerOn t rtcNow) s (· = s)
      ∧ (a.md.on = true → a.fdServes fd = true → Does (.statusWord t fd) s fun u =>
          u.reg st = putBits (1 + 2 * a.md.stateBits + (if a.md.trade then 32 else 0) + a.md.health * 65536) 6 1 (if a.md.trade && !(a.md.sealedIn && a.md.healthy) then 1 else 0) % 2 ^ 32
          ∧ u.md = a.md ∧ u.ops = a.ops ∧ u.cores = a.cores))
    ∧ (m.on = false →
      (Does (.mdPowerOn t rtcNow) s fun u => u.md.on = true ∧ u.md.legal = m.newest.legal ∧ u.md.powerOns = m.powerOns + 1
          ∧ u.md.rseq = 0 ∧ u.md.session = none ∧ u.md.held = [] ∧ u.md.addr = none ∧ u.regs = s.regs
          ∧ (m.newest.final = true → u.md.log = m.log)
          ∧ (m.newest.final = false → m.log.length < 4096 → u.md.log.length = m.log.length + 1))
      ∧ ∀ c ∈ [Instr.sealChange t closed, .clockCheck t ppm, .fwHashCheck t good, .lidLoopOpen t opened, .nvSnapshot t ver,
          .mdBranchFall t ver], Does c s (· = s))
    ∧ (a.fdServes fd = true → (match (a.fd fd).statusAt with | some x => x + 40000 + 32 ≤ t | none => true) →
        Does (.statusWordTimeout t fd) s (· = a.setMt fd (putBits (a.reg st) 0 1 0)))
    ∧ (a.wrFront p none offMbxCtl be = (a, some r) → r.name = .scMbxCtl → bit v.toNat 24 = true →
      let w := a.applyWrite p none offMbxCtl r (putBits v.toNat 24 1 0)
      r.dev < w.boot.fds.length → Does (.mbxGo t p be v) s fun u => u.bitOf r 25 = true ∧ u.bitOf r 27 = false ∧ (u.fd r.dev).mbxAt = some t
        ∧ ∃ body, u.out.head? = some (.md r.dev body) ∧ body.length = 36 ∧ body.getD 0 0 = 0x33#8)
    ∧ (∀ x, a.bitOf ctl 25 = true → (a.fd fd).mbxAt = some x → x + 5000000 + 32 ≤ t → Does (.mbxTimeout t fd) s fun u =>
        u.bitOf ctl 25 = false ∧ u.bitOf ctl 26 = true ∧ u.bitOf ctl 27 = true ∧ u.ops = a.ops
        ∧ ∀ i, i < 64 → u.reg { name := .mtRsp, dev := fd, n := i } = 0)
    ∧ (a.fdServes fd = true → b.length = 256 → Does (.readoutRecord t fd b) s fun u => u.ops = a.ops ∧ u.md = a.md
        ∧ (∀ i, i < 64 → u.reg { name := .mtRsp, dev := fd, n := i } = fld b (4 * i) 4)
        ∧ (a.bitOf ctl 25 = true → u.bitOf ctl 25 = false ∧ u.bitOf ctl 26 = true ∧ u.bitOf ctl 27 = false)
        ∧ (a.bitOf ctl 25 = false → u.reg ctl = a.reg ctl))
end

