-- ==== Sys2Proof/Laws/State.lean ====
section
/-! SUPPORT. What each update of the state leaves and what it sets, field by field; reading back a register, a core and
a port after they were written. -/

namespace Sys2Proof.Machine

variable (s : State)

@[simp] theorem State.stamped_now (t : Stamp) : (s.stamped t).now = max s.now t := (rfl)
@[simp] theorem State.stamped_frames (t : Stamp) : (s.stamped t).frames = s.frames := (rfl)
@[simp] theorem State.stamped_cm (t : Stamp) : (s.stamped t).cm = s.cm := (rfl)
@[simp] theorem State.stamped_regs (t : Stamp) : (s.stamped t).regs = s.regs := (rfl)
@[simp] theorem State.stamped_shadow (t : Stamp) : (s.stamped t).shadow = s.shadow := (rfl)
@[simp] theorem State.stamped_armed (t : Stamp) : (s.stamped t).armed = s.armed := (rfl)
@[simp] theorem State.stamped_latches (t : Stamp) : (s.stamped t).latches = s.latches := (rfl)
@[simp] theorem State.stamped_ops (t : Stamp) : (s.stamped t).ops = s.ops := (rfl)
@[simp] theorem State.stamped_rings (t : Stamp) : (s.stamped t).rings = s.rings := (rfl)
@[simp] theorem State.stamped_ports (t : Stamp) : (s.stamped t).ports = s.ports := (rfl)
@[simp] theorem State.stamped_cores (t : Stamp) : (s.stamped t).cores = s.cores := (rfl)
@[simp] theorem State.stamped_mem (t : Stamp) : (s.stamped t).mem = s.mem := (rfl)
@[simp] theorem State.stamped_fab (t : Stamp) : (s.stamped t).fab = s.fab := (rfl)
@[simp] theorem State.stamped_pool (t : Stamp) : (s.stamped t).pool = s.pool := (rfl)
@[simp] theorem State.stamped_flt (t : Stamp) : (s.stamped t).flt = s.flt := (rfl)
@[simp] theorem State.stamped_md (t : Stamp) : (s.stamped t).md = s.md := (rfl)
@[simp] theorem State.stamped_pwr (t : Stamp) : (s.stamped t).pwr = s.pwr := (rfl)
@[simp] theorem State.stamped_boot (t : Stamp) : (s.stamped t).boot = s.boot := (rfl)
@[simp] theorem State.stamped_free (t : Stamp) : (s.stamped t).free = s.free := (rfl)
@[simp] theorem State.stamped_out (t : Stamp) : (s.stamped t).out = s.out := (rfl)
@[simp] theorem State.stamped_pending (t : Stamp) : (s.stamped t).pending = s.pending := (rfl)

@[simp] theorem State.onCore_now (c : Nat) (f : Core → Core) : (s.onCore c f).now = s.now := (rfl)
@[simp] theorem State.onCore_frames (c : Nat) (f : Core → Core) : (s.onCore c f).frames = s.frames := (rfl)
@[simp] theorem State.onCore_cm (c : Nat) (f : Core → Core) : (s.onCore c f).cm = s.cm := (rfl)
@[simp] theorem State.onCore_regs (c : Nat) (f : Core → Core) : (s.onCore c f).regs = s.regs := (rfl)
@[simp] theorem State.onCore_shadow (c : Nat) (f : Core → Core) : (s.onCore c f).shadow = s.shadow := (rfl)
@[simp] theorem State.onCore_armed (c : Nat) (f : Core → Core) : (s.onCore c f).armed = s.armed := (rfl)
@[simp] theorem State.onCore_latches (c : Nat) (f : Core → Core) : (s.onCore c f).latches = s.latches := (rfl)
@[simp] theorem State.onCore_ops (c : Nat) (f : Core → Core) : (s.onCore c f).ops = s.ops := (rfl)
@[simp] theorem State.onCore_rings (c : Nat) (f : Core → Core) : (s.onCore c f).rings = s.rings := (rfl)
@[simp] theorem State.onCore_ports (c : Nat) (f : Core → Core) : (s.onCore c f).ports = s.ports := (rfl)
@[simp] theorem State.onCore_cores (c : Nat) (f : Core → Core) : (s.onCore c f).cores = s.cores.modify c f := (rfl)
@[simp] theorem State.onCore_mem (c : Nat) (f : Core → Core) : (s.onCore c f).mem = s.mem := (rfl)
@[simp] theorem State.onCore_fab (c : Nat) (f : Core → Core) : (s.onCore c f).fab = s.fab := (rfl)
@[simp] theorem State.onCore_pool (c : Nat) (f : Core → Core) : (s.onCore c f).pool = s.pool := (rfl)
@[simp] theorem State.onCore_flt (c : Nat) (f : Core → Core) : (s.onCore c f).flt = s.flt := (rfl)
@[simp] theorem State.onCore_md (c : Nat) (f : Core → Core) : (s.onCore c f).md = s.md := (rfl)
@[simp] theorem State.onCore_pwr (c : Nat) (f : Core → Core) : (s.onCore c f).pwr = s.pwr := (rfl)
@[simp] theorem State.onCore_boot (c : Nat) (f : Core → Core) : (s.onCore c f).boot = s.boot := (rfl)
@[simp] theorem State.onCore_free (c : Nat) (f : Core → Core) : (s.onCore c f).free = s.free := (rfl)
@[simp] theorem State.onCore_out (c : Nat) (f : Core → Core) : (s.onCore c f).out = s.out := (rfl)
@[simp] theorem State.onCore_pending (c : Nat) (f : Core → Core) : (s.onCore c f).pending = s.pending := (rfl)

@[simp] theorem State.onPort_now (p : Nat) (f : HostPort → HostPort) : (s.onPort p f).now = s.now := (rfl)
@[simp] theorem State.onPort_frames (p : Nat) (f : HostPort → HostPort) : (s.onPort p f).frames = s.frames := (rfl)
@[simp] theorem State.onPort_cm (p : Nat) (f : HostPort → HostPort) : (s.onPort p f).cm = s.cm := (rfl)
@[simp] theorem State.onPort_regs (p : Nat) (f : HostPort → HostPort) : (s.onPort p f).regs = s.regs := (rfl)
@[simp] theorem State.onPort_shadow (p : Nat) (f : HostPort → HostPort) : (s.onPort p f).shadow = s.shadow := (rfl)
@[simp] theorem State.onPort_armed (p : Nat) (f : HostPort → HostPort) : (s.onPort p f).armed = s.armed := (rfl)
@[simp] theorem State.onPort_latches (p : Nat) (f : HostPort → HostPort) : (s.onPort p f).latches = s.latches := (rfl)
@[simp] theorem State.onPort_ops (p : Nat) (f : HostPort → HostPort) : (s.onPort p f).ops = s.ops := (rfl)
@[simp] theorem State.onPort_rings (p : Nat) (f : HostPort → HostPort) : (s.onPort p f).rings = s.rings := (rfl)
@[simp] theorem State.onPort_ports (p : Nat) (f : HostPort → HostPort) :
    (s.onPort p f).ports = s.ports.modify p f := (rfl)
@[simp] theorem State.onPort_cores (p : Nat) (f : HostPort → HostPort) : (s.onPort p f).cores = s.cores := (rfl)
@[simp] theorem State.onPort_mem (p : Nat) (f : HostPort → HostPort) : (s.onPort p f).mem = s.mem := (rfl)
@[simp] theorem State.onPort_fab (p : Nat) (f : HostPort → HostPort) : (s.onPort p f).fab = s.fab := (rfl)
@[simp] theorem State.onPort_pool (p : Nat) (f : HostPort → HostPort) : (s.onPort p f).pool = s.pool := (rfl)
@[simp] theorem State.onPort_flt (p : Nat) (f : HostPort → HostPort) : (s.onPort p f).flt = s.flt := (rfl)
@[simp] theorem State.onPort_md (p : Nat) (f : HostPort → HostPort) : (s.onPort p f).md = s.md := (rfl)
@[simp] theorem State.onPort_pwr (p : Nat) (f : HostPort → HostPort) : (s.onPort p f).pwr = s.pwr := (rfl)
@[simp] theorem State.onPort_boot (p : Nat) (f : HostPort → HostPort) : (s.onPort p f).boot = s.boot := (rfl)
@[simp] theorem State.onPort_free (p : Nat) (f : HostPort → HostPort) : (s.onPort p f).free = s.free := (rfl)
@[simp] theorem State.onPort_out (p : Nat) (f : HostPort → HostPort) : (s.onPort p f).out = s.out := (rfl)
@[simp] theorem State.onPort_pending (p : Nat) (f : HostPort → HostPort) : (s.onPort p f).pending = s.pending := (rfl)

@[simp] theorem State.say_now (m : Msg) : (s.say m).now = s.now := (rfl)
@[simp] theorem State.say_frames (m : Msg) : (s.say m).frames = s.frames := (rfl)
@[simp] theorem State.say_cm (m : Msg) : (s.say m).cm = s.cm := (rfl)
@[simp] theorem State.say_regs (m : Msg) : (s.say m).regs = s.regs := (rfl)
@[simp] theorem State.say_shadow (m : Msg) : (s.say m).shadow = s.shadow := (rfl)
@[simp] theorem State.say_armed (m : Msg) : (s.say m).armed = s.armed := (rfl)
@[simp] theorem State.say_latches (m : Msg) : (s.say m).latches = s.latches := (rfl)
@[simp] theorem State.say_ops (m : Msg) : (s.say m).ops = s.ops := (rfl)
@[simp] theorem State.say_rings (m : Msg) : (s.say m).rings = s.rings := (rfl)
@[simp] theorem State.say_ports (m : Msg) : (s.say m).ports = s.ports := (rfl)
@[simp] theorem State.say_cores (m : Msg) : (s.say m).cores = s.cores := (rfl)
@[simp] theorem State.say_mem (m : Msg) : (s.say m).mem = s.mem := (rfl)
@[simp] theorem State.say_fab (m : Msg) : (s.say m).fab = s.fab := (rfl)
@[simp] theorem State.say_pool (m : Msg) : (s.say m).pool = s.pool := (rfl)
@[simp] theorem State.say_flt (m : Msg) : (s.say m).flt = s.flt := (rfl)
@[simp] theorem State.say_md (m : Msg) : (s.say m).md = s.md := (rfl)
@[simp] theorem State.say_pwr (m : Msg) : (s.say m).pwr = s.pwr := (rfl)
@[simp] theorem State.say_boot (m : Msg) : (s.say m).boot = s.boot := (rfl)
@[simp] theorem State.say_free (m : Msg) : (s.say m).free = s.free := (rfl)
@[simp] theorem State.say_out (m : Msg) : (s.say m).out = m :: s.out := (rfl)
@[simp] theorem State.say_pending (m : Msg) : (s.say m).pending = s.pending := (rfl)

@[simp] theorem State.sayAll_now (ms : List Msg) : (s.sayAll ms).now = s.now := (rfl)
@[simp] theorem State.sayAll_frames (ms : List Msg) : (s.sayAll ms).frames = s.frames := (rfl)
@[simp] theorem State.sayAll_cm (ms : List Msg) : (s.sayAll ms).cm = s.cm := (rfl)
@[simp] theorem State.sayAll_regs (ms : List Msg) : (s.sayAll ms).regs = s.regs := (rfl)
@[simp] theorem State.sayAll_shadow (ms : List Msg) : (s.sayAll ms).shadow = s.shadow := (rfl)
@[simp] theorem State.sayAll_armed (ms : List Msg) : (s.sayAll ms).armed = s.armed := (rfl)
@[simp] theorem State.sayAll_latches (ms : List Msg) : (s.sayAll ms).latches = s.latches := (rfl)
@[simp] theorem State.sayAll_ops (ms : List Msg) : (s.sayAll ms).ops = s.ops := (rfl)
@[simp] theorem State.sayAll_rings (ms : List Msg) : (s.sayAll ms).rings = s.rings := (rfl)
@[simp] theorem State.sayAll_ports (ms : List Msg) : (s.sayAll ms).ports = s.ports := (rfl)
@[simp] theorem State.sayAll_cores (ms : List Msg) : (s.sayAll ms).cores = s.cores := (rfl)
@[simp] theorem State.sayAll_mem (ms : List Msg) : (s.sayAll ms).mem = s.mem := (rfl)
@[simp] theorem State.sayAll_fab (ms : List Msg) : (s.sayAll ms).fab = s.fab := (rfl)
@[simp] theorem State.sayAll_pool (ms : List Msg) : (s.sayAll ms).pool = s.pool := (rfl)
@[simp] theorem State.sayAll_flt (ms : List Msg) : (s.sayAll ms).flt = s.flt := (rfl)
@[simp] theorem State.sayAll_md (ms : List Msg) : (s.sayAll ms).md = s.md := (rfl)
@[simp] theorem State.sayAll_pwr (ms : List Msg) : (s.sayAll ms).pwr = s.pwr := (rfl)
@[simp] theorem State.sayAll_boot (ms : List Msg) : (s.sayAll ms).boot = s.boot := (rfl)
@[simp] theorem State.sayAll_free (ms : List Msg) : (s.sayAll ms).free = s.free := (rfl)
@[simp] theorem State.sayAll_out (ms : List Msg) : (s.sayAll ms).out = ms.reverse ++ s.out := (rfl)
@[simp] theorem State.sayAll_pending (ms : List Msg) : (s.sayAll ms).pending = s.pending := (rfl)

@[simp] theorem State.takeFree_now : s.takeFree.now = s.now := (rfl)
@[simp] theorem State.takeFree_frames : s.takeFree.frames = s.frames := (rfl)
@[simp] theorem State.takeFree_cm : s.takeFree.cm = s.cm := (rfl)
@[simp] theorem State.takeFree_regs : s.takeFree.regs = s.regs := (rfl)
@[simp] theorem State.takeFree_shadow : s.takeFree.shadow = s.shadow := (rfl)
@[simp] theorem State.takeFree_armed : s.takeFree.armed = s.armed := (rfl)
@[simp] theorem State.takeFree_latches : s.takeFree.latches = s.latches := (rfl)
@[simp] theorem State.takeFree_ops : s.takeFree.ops = s.ops := (rfl)
@[simp] theorem State.takeFree_rings : s.takeFree.rings = s.rings := (rfl)
@[simp] theorem State.takeFree_ports : s.takeFree.ports = s.ports := (rfl)
@[simp] theorem State.takeFree_cores : s.takeFree.cores = s.cores := (rfl)
@[simp] theorem State.takeFree_mem : s.takeFree.mem = s.mem := (rfl)
@[simp] theorem State.takeFree_fab : s.takeFree.fab = s.fab := (rfl)
@[simp] theorem State.takeFree_pool : s.takeFree.pool = s.pool := (rfl)
@[simp] theorem State.takeFree_flt : s.takeFree.flt = s.flt := (rfl)
@[simp] theorem State.takeFree_md : s.takeFree.md = s.md := (rfl)
@[simp] theorem State.takeFree_pwr : s.takeFree.pwr = s.pwr := (rfl)
@[simp] theorem State.takeFree_boot : s.takeFree.boot = s.boot := (rfl)
@[simp] theorem State.takeFree_free : s.takeFree.free = s.free + 1 := (rfl)
@[simp] theorem State.takeFree_out : s.takeFree.out = s.out := (rfl)
@[simp] theorem State.takeFree_pending : s.takeFree.pending = s.pending := (rfl)

@[simp] theorem State.setReg_now (r : Reg) (v : Nat) : (s.setReg r v).now = s.now := (rfl)
@[simp] theorem State.setReg_frames (r : Reg) (v : Nat) : (s.setReg r v).frames = s.frames := (rfl)
@[simp] theorem State.setReg_cm (r : Reg) (v : Nat) : (s.setReg r v).cm = s.cm := (rfl)
@[simp] theorem State.setReg_regs (r : Reg) (v : Nat) : (s.setReg r v).regs = s.regs.set r (BitVec.ofNat 32 v) := (rfl)
@[simp] theorem State.setReg_shadow (r : Reg) (v : Nat) : (s.setReg r v).shadow = s.shadow := (rfl)
@[simp] theorem State.setReg_armed (r : Reg) (v : Nat) : (s.setReg r v).armed = s.armed := (rfl)
@[simp] theorem State.setReg_latches (r : Reg) (v : Nat) : (s.setReg r v).latches = s.latches := (rfl)
@[simp] theorem State.setReg_ops (r : Reg) (v : Nat) : (s.setReg r v).ops = s.ops := (rfl)
@[simp] theorem State.setReg_rings (r : Reg) (v : Nat) : (s.setReg r v).rings = s.rings := (rfl)
@[simp] theorem State.setReg_ports (r : Reg) (v : Nat) : (s.setReg r v).ports = s.ports := (rfl)
@[simp] theorem State.setReg_cores (r : Reg) (v : Nat) : (s.setReg r v).cores = s.cores := (rfl)
@[simp] theorem State.setReg_mem (r : Reg) (v : Nat) : (s.setReg r v).mem = s.mem := (rfl)
@[simp] theorem State.setReg_fab (r : Reg) (v : Nat) : (s.setReg r v).fab = s.fab := (rfl)
@[simp] theorem State.setReg_pool (r : Reg) (v : Nat) : (s.setReg r v).pool = s.pool := (rfl)
@[simp] theorem State.setReg_flt (r : Reg) (v : Nat) : (s.setReg r v).flt = s.flt := (rfl)
@[simp] theorem State.setReg_md (r : Reg) (v : Nat) : (s.setReg r v).md = s.md := (rfl)
@[simp] theorem State.setReg_pwr (r : Reg) (v : Nat) : (s.setReg r v).pwr = s.pwr := (rfl)
@[simp] theorem State.setReg_boot (r : Reg) (v : Nat) : (s.setReg r v).boot = s.boot := (rfl)
@[simp] theorem State.setReg_free (r : Reg) (v : Nat) : (s.setReg r v).free = s.free := (rfl)
@[simp] theorem State.setReg_out (r : Reg) (v : Nat) : (s.setReg r v).out = s.out := (rfl)
@[simp] theorem State.setReg_pending (r : Reg) (v : Nat) : (s.setReg r v).pending = s.pending := (rfl)

@[simp] theorem State.setField_now (r : Reg) (lo len x : Nat) : (s.setField r lo len x).now = s.now := (rfl)
@[simp] theorem State.setField_frames (r : Reg) (lo len x : Nat) : (s.setField r lo len x).frames = s.frames := (rfl)
@[simp] theorem State.setField_cm (r : Reg) (lo len x : Nat) : (s.setField r lo len x).cm = s.cm := (rfl)
@[simp] theorem State.setField_regs (r : Reg) (lo len x : Nat) :
    (s.setField r lo len x).regs = s.regs.set r (BitVec.ofNat 32 (putBits (s.reg r) lo len x)) := (rfl)
@[simp] theorem State.setField_shadow (r : Reg) (lo len x : Nat) : (s.setField r lo len x).shadow = s.shadow := (rfl)
@[simp] theorem State.setField_armed (r : Reg) (lo len x : Nat) : (s.setField r lo len x).armed = s.armed := (rfl)
@[simp] theorem State.setField_latches (r : Reg) (lo len x : Nat) : (s.setField r lo len x).latches = s.latches := (rfl)
@[simp] theorem State.setField_ops (r : Reg) (lo len x : Nat) : (s.setField r lo len x).ops = s.ops := (rfl)
@[simp] theorem State.setField_rings (r : Reg) (lo len x : Nat) : (s.setField r lo len x).rings = s.rings := (rfl)
@[simp] theorem State.setField_ports (r : Reg) (lo len x : Nat) : (s.setField r lo len x).ports = s.ports := (rfl)
@[simp] theorem State.setField_cores (r : Reg) (lo len x : Nat) : (s.setField r lo len x).cores = s.cores := (rfl)
@[simp] theorem State.setField_mem (r : Reg) (lo len x : Nat) : (s.setField r lo len x).mem = s.mem := (rfl)
@[simp] theorem State.setField_fab (r : Reg) (lo len x : Nat) : (s.setField r lo len x).fab = s.fab := (rfl)
@[simp] theorem State.setField_pool (r : Reg) (lo len x : Nat) : (s.setField r lo len x).pool = s.pool := (rfl)
@[simp] theorem State.setField_flt (r : Reg) (lo len x : Nat) : (s.setField r lo len x).flt = s.flt := (rfl)
@[simp] theorem State.setField_md (r : Reg) (lo len x : Nat) : (s.setField r lo len x).md = s.md := (rfl)
@[simp] theorem State.setField_pwr (r : Reg) (lo len x : Nat) : (s.setField r lo len x).pwr = s.pwr := (rfl)
@[simp] theorem State.setField_boot (r : Reg) (lo len x : Nat) : (s.setField r lo len x).boot = s.boot := (rfl)
@[simp] theorem State.setField_free (r : Reg) (lo len x : Nat) : (s.setField r lo len x).free = s.free := (rfl)
@[simp] theorem State.setField_out (r : Reg) (lo len x : Nat) : (s.setField r lo len x).out = s.out := (rfl)
@[simp] theorem State.setField_pending (r : Reg) (lo len x : Nat) : (s.setField r lo len x).pending = s.pending := (rfl)

@[simp] theorem State.setBit_now (r : Reg) (i : Nat) (b : Bool) : (s.setBit r i b).now = s.now := (rfl)
@[simp] theorem State.setBit_frames (r : Reg) (i : Nat) (b : Bool) : (s.setBit r i b).frames = s.frames := (rfl)
@[simp] theorem State.setBit_cm (r : Reg) (i : Nat) (b : Bool) : (s.setBit r i b).cm = s.cm := (rfl)
@[simp] theorem State.setBit_shadow (r : Reg) (i : Nat) (b : Bool) : (s.setBit r i b).shadow = s.shadow := (rfl)
@[simp] theorem State.setBit_armed (r : Reg) (i : Nat) (b : Bool) : (s.setBit r i b).armed = s.armed := (rfl)
@[simp] theorem State.setBit_latches (r : Reg) (i : Nat) (b : Bool) : (s.setBit r i b).latches = s.latches := (rfl)
@[simp] theorem State.setBit_ops (r : Reg) (i : Nat) (b : Bool) : (s.setBit r i b).ops = s.ops := (rfl)
@[simp] theorem State.setBit_rings (r : Reg) (i : Nat) (b : Bool) : (s.setBit r i b).rings = s.rings := (rfl)
@[simp] theorem State.setBit_ports (r : Reg) (i : Nat) (b : Bool) : (s.setBit r i b).ports = s.ports := (rfl)
@[simp] theorem State.setBit_cores (r : Reg) (i : Nat) (b : Bool) : (s.setBit r i b).cores = s.cores := (rfl)
@[simp] theorem State.setBit_mem (r : Reg) (i : Nat) (b : Bool) : (s.setBit r i b).mem = s.mem := (rfl)
@[simp] theorem State.setBit_fab (r : Reg) (i : Nat) (b : Bool) : (s.setBit r i b).fab = s.fab := (rfl)
@[simp] theorem State.setBit_pool (r : Reg) (i : Nat) (b : Bool) : (s.setBit r i b).pool = s.pool := (rfl)
@[simp] theorem State.setBit_flt (r : Reg) (i : Nat) (b : Bool) : (s.setBit r i b).flt = s.flt := (rfl)
@[simp] theorem State.setBit_md (r : Reg) (i : Nat) (b : Bool) : (s.setBit r i b).md = s.md := (rfl)
@[simp] theorem State.setBit_pwr (r : Reg) (i : Nat) (b : Bool) : (s.setBit r i b).pwr = s.pwr := (rfl)
@[simp] theorem State.setBit_boot (r : Reg) (i : Nat) (b : Bool) : (s.setBit r i b).boot = s.boot := (rfl)
@[simp] theorem State.setBit_free (r : Reg) (i : Nat) (b : Bool) : (s.setBit r i b).free = s.free := (rfl)
@[simp] theorem State.setBit_out (r : Reg) (i : Nat) (b : Bool) : (s.setBit r i b).out = s.out := (rfl)
@[simp] theorem State.setBit_pending (r : Reg) (i : Nat) (b : Bool) : (s.setBit r i b).pending = s.pending := (rfl)

@[simp] theorem State.bump_now (r : Reg) (lo len : Nat) : (s.bump r lo len).now = s.now := (rfl)
@[simp] theorem State.bump_frames (r : Reg) (lo len : Nat) : (s.bump r lo len).frames = s.frames := (rfl)
@[simp] theorem State.bump_cm (r : Reg) (lo len : Nat) : (s.bump r lo len).cm = s.cm := (rfl)
@[simp] theorem State.bump_shadow (r : Reg) (lo len : Nat) : (s.bump r lo len).shadow = s.shadow := (rfl)
@[simp] theorem State.bump_armed (r : Reg) (lo len : Nat) : (s.bump r lo len).armed = s.armed := (rfl)
@[simp] theorem State.bump_latches (r : Reg) (lo len : Nat) : (s.bump r lo len).latches = s.latches := (rfl)
@[simp] theorem State.bump_ops (r : Reg) (lo len : Nat) : (s.bump r lo len).ops = s.ops := (rfl)
@[simp] theorem State.bump_rings (r : Reg) (lo len : Nat) : (s.bump r lo len).rings = s.rings := (rfl)
@[simp] theorem State.bump_ports (r : Reg) (lo len : Nat) : (s.bump r lo len).ports = s.ports := (rfl)
@[simp] theorem State.bump_cores (r : Reg) (lo len : Nat) : (s.bump r lo len).cores = s.cores := (rfl)
@[simp] theorem State.bump_mem (r : Reg) (lo len : Nat) : (s.bump r lo len).mem = s.mem := (rfl)
@[simp] theorem State.bump_fab (r : Reg) (lo len : Nat) : (s.bump r lo len).fab = s.fab := (rfl)
@[simp] theorem State.bump_pool (r : Reg) (lo len : Nat) : (s.bump r lo len).pool = s.pool := (rfl)
@[simp] theorem State.bump_flt (r : Reg) (lo len : Nat) : (s.bump r lo len).flt = s.flt := (rfl)
@[simp] theorem State.bump_md (r : Reg) (lo len : Nat) : (s.bump r lo len).md = s.md := (rfl)
@[simp] theorem State.bump_pwr (r : Reg) (lo len : Nat) : (s.bump r lo len).pwr = s.pwr := (rfl)
@[simp] theorem State.bump_boot (r : Reg) (lo len : Nat) : (s.bump r lo len).boot = s.boot := (rfl)
@[simp] theorem State.bump_free (r : Reg) (lo len : Nat) : (s.bump r lo len).free = s.free := (rfl)
@[simp] theorem State.bump_out (r : Reg) (lo len : Nat) : (s.bump r lo len).out = s.out := (rfl)
@[simp] theorem State.bump_pending (r : Reg) (lo len : Nat) : (s.bump r lo len).pending = s.pending := (rfl)

@[simp] theorem State.setPair_now (nm : RegName) (dev n v : Nat) : (s.setPair nm dev n v).now = s.now := (rfl)
@[simp] theorem State.setPair_frames (nm : RegName) (dev n v : Nat) : (s.setPair nm dev n v).frames = s.frames := (rfl)
@[simp] theorem State.setPair_cm (nm : RegName) (dev n v : Nat) : (s.setPair nm dev n v).cm = s.cm := (rfl)
@[simp] theorem State.setPair_shadow (nm : RegName) (dev n v : Nat) : (s.setPair nm dev n v).shadow = s.shadow := (rfl)
@[simp] theorem State.setPair_armed (nm : RegName) (dev n v : Nat) : (s.setPair nm dev n v).armed = s.armed := (rfl)
@[simp] theorem State.setPair_latches (nm : RegName) (dev n v : Nat) :
    (s.setPair nm dev n v).latches = s.latches := (rfl)
@[simp] theorem State.setPair_ops (nm : RegName) (dev n v : Nat) : (s.setPair nm dev n v).ops = s.ops := (rfl)
@[simp] theorem State.setPair_rings (nm : RegName) (dev n v : Nat) : (s.setPair nm dev n v).rings = s.rings := (rfl)
@[simp] theorem State.setPair_ports (nm : RegName) (dev n v : Nat) : (s.setPair nm dev n v).ports = s.ports := (rfl)
@[simp] theorem State.setPair_cores (nm : RegName) (dev n v : Nat) : (s.setPair nm dev n v).cores = s.cores := (rfl)
@[simp] theorem State.setPair_mem (nm : RegName) (dev n v : Nat) : (s.setPair nm dev n v).mem = s.mem := (rfl)
@[simp] theorem State.setPair_fab (nm : RegName) (dev n v : Nat) : (s.setPair nm dev n v).fab = s.fab := (rfl)
@[simp] theorem State.setPair_pool (nm : RegName) (dev n v : Nat) : (s.setPair nm dev n v).pool = s.pool := (rfl)
@[simp] theorem State.setPair_flt (nm : RegName) (dev n v : Nat) : (s.setPair nm dev n v).flt = s.flt := (rfl)
@[simp] theorem State.setPair_md (nm : RegName) (dev n v : Nat) : (s.setPair nm dev n v).md = s.md := (rfl)
@[simp] theorem State.setPair_pwr (nm : RegName) (dev n v : Nat) : (s.setPair nm dev n v).pwr = s.pwr := (rfl)
@[simp] theorem State.setPair_boot (nm : RegName) (dev n v : Nat) : (s.setPair nm dev n v).boot = s.boot := (rfl)
@[simp] theorem State.setPair_free (nm : RegName) (dev n v : Nat) : (s.setPair nm dev n v).free = s.free := (rfl)
@[simp] theorem State.setPair_out (nm : RegName) (dev n v : Nat) : (s.setPair nm dev n v).out = s.out := (rfl)
@[simp] theorem State.setPair_pending (nm : RegName) (dev n v : Nat) :
    (s.setPair nm dev n v).pending = s.pending := (rfl)

@[simp] theorem State.putEv_now (r : EvRing) : (s.putEv r).now = s.now := (rfl)
@[simp] theorem State.putEv_frames (r : EvRing) : (s.putEv r).frames = s.frames := (rfl)
@[simp] theorem State.putEv_cm (r : EvRing) : (s.putEv r).cm = s.cm := (rfl)
@[simp] theorem State.putEv_regs (r : EvRing) : (s.putEv r).regs = s.regs := (rfl)
@[simp] theorem State.putEv_shadow (r : EvRing) : (s.putEv r).shadow = s.shadow := (rfl)
@[simp] theorem State.putEv_armed (r : EvRing) : (s.putEv r).armed = s.armed := (rfl)
@[simp] theorem State.putEv_latches (r : EvRing) : (s.putEv r).latches = s.latches := (rfl)
@[simp] theorem State.putEv_ops (r : EvRing) : (s.putEv r).ops = s.ops := (rfl)
@[simp] theorem State.putEv_ports (r : EvRing) : (s.putEv r).ports = s.ports := (rfl)
@[simp] theorem State.putEv_cores (r : EvRing) : (s.putEv r).cores = s.cores := (rfl)
@[simp] theorem State.putEv_mem (r : EvRing) : (s.putEv r).mem = s.mem := (rfl)
@[simp] theorem State.putEv_fab (r : EvRing) : (s.putEv r).fab = s.fab := (rfl)
@[simp] theorem State.putEv_pool (r : EvRing) : (s.putEv r).pool = s.pool := (rfl)
@[simp] theorem State.putEv_flt (r : EvRing) : (s.putEv r).flt = s.flt := (rfl)
@[simp] theorem State.putEv_md (r : EvRing) : (s.putEv r).md = s.md := (rfl)
@[simp] theorem State.putEv_pwr (r : EvRing) : (s.putEv r).pwr = s.pwr := (rfl)
@[simp] theorem State.putEv_boot (r : EvRing) : (s.putEv r).boot = s.boot := (rfl)
@[simp] theorem State.putEv_free (r : EvRing) : (s.putEv r).free = s.free := (rfl)
@[simp] theorem State.putEv_out (r : EvRing) : (s.putEv r).out = s.out := (rfl)
@[simp] theorem State.putEv_pending (r : EvRing) : (s.putEv r).pending = s.pending := (rfl)

/-! ### Registers -/

theorem RegFile.lookup_filter_ne (f : RegFile) (r q : Reg) (h : q ≠ r) :
    (f.filter fun p => p.1 ≠ r).lookup q = f.lookup q := by
  induction f with
  | nil => rfl
  | cons p f ih =>
    obtain ⟨x, v⟩ := p
    rw [List.filter_cons]
    by_cases hx : x = r
    · have hq : (q == r) = false := by simpa using h
      simpa [hx, List.lookup_cons, hq] using ih
    · simp only [hx, ne_eq, not_false_eq_true, decide_true, if_true, List.lookup_cons]
      split <;> simp_all

theorem RegFile.lookup_filter_self (f : RegFile) (r : Reg) : (f.filter fun p => p.1 ≠ r).lookup r = none := by
  rw [List.lookup_eq_none_iff]
  intro p hp
  simp only [List.mem_filter, ne_eq, decide_eq_true_eq] at hp
  simpa [beq_eq_false_iff_ne] using fun e => hp.2 e.symm

theorem RegFile.get_eq (f : RegFile) (r : Reg) : f.get r = (f.lookup r).getD r.reset := by
  unfold RegFile.get
  cases f.lookup r <;> rfl

theorem RegFile.get_set_same (f : RegFile) (r : Reg) (v : Word) : (f.set r v).get r = v := by
  rw [RegFile.get_eq, RegFile.set]
  split
  · rename_i h; rw [RegFile.lookup_filter_self, h]; rfl
  · simp

theorem RegFile.get_set_other (f : RegFile) (r q : Reg) (v : Word) (h : q ≠ r) : (f.set r v).get q = f.get q := by
  rw [RegFile.get_eq, RegFile.get_eq, RegFile.set]
  have hb : (q == r) = false := by simpa using h
  split
  · rw [RegFile.lookup_filter_ne f r q h]
  · rw [List.lookup_cons, hb, RegFile.lookup_filter_ne f r q h]

theorem State.reg_setReg_same (r : Reg) (v : Nat) : (s.setReg r v).reg r = v % 2 ^ 32 := by
  simp [State.reg, RegFile.get_set_same]

theorem State.reg_setReg_other (r q : Reg) (v : Nat) (h : q ≠ r) : (s.setReg r v).reg q = s.reg q := by
  simp [State.reg, RegFile.get_set_other _ _ _ _ h]

theorem State.reg_setField_other (r q : Reg) (lo len x : Nat) (h : q ≠ r) :
    (s.setField r lo len x).reg q = s.reg q := s.reg_setReg_other r q _ h

theorem State.reg_setBit_other (r q : Reg) (i : Nat) (b : Bool) (h : q ≠ r) :
    (s.setBit r i b).reg q = s.reg q := s.reg_setReg_other r q _ h

/-- Registers depend on the register file alone. -/
theorem State.reg_congr {s t : State} (h : s.regs = t.regs) (r : Reg) : s.reg r = t.reg r := by
  rw [State.reg, State.reg, h]

@[simp] theorem State.stamped_reg (t : Stamp) (r : Reg) : (s.stamped t).reg r = s.reg r := (rfl)
@[simp] theorem State.onCore_reg (c : Nat) (f : Core → Core) (r : Reg) : (s.onCore c f).reg r = s.reg r := (rfl)
@[simp] theorem State.onPort_reg (p : Nat) (f : HostPort → HostPort) (r : Reg) : (s.onPort p f).reg r = s.reg r := (rfl)
@[simp] theorem State.say_reg (m : Msg) (r : Reg) : (s.say m).reg r = s.reg r := (rfl)
@[simp] theorem State.takeFree_reg (r : Reg) : s.takeFree.reg r = s.reg r := (rfl)

/-! ### Cores and ports -/

theorem State.core_onCore_same {c : Nat} (f : Core → Core) (h : c < s.cores.length) :
    (s.onCore c f).core c = f (s.core c) := by
  simp [State.core, List.getD, h]

theorem State.core_onCore_other {c d : Nat} (f : Core → Core) (h : d ≠ c) : (s.onCore c f).core d = s.core d := by
  have : c ≠ d := fun e => h e.symm
  simp [State.core, List.getD, this]

theorem State.core_congr {s t : State} (h : s.cores = t.cores) (c : Nat) : s.core c = t.core c := by
  rw [State.core, State.core, h]

theorem listModify_congr {α : Type} (l : List α) (n : Nat) (f g : α → α) (h : ∀ x, l[n]? = some x → f x = g x) :
    l.modify n f = l.modify n g := by
  apply List.ext_getElem?
  intro i
  rw [List.getElem?_modify, List.getElem?_modify]
  split
  · rename_i hi
    subst hi
    cases hx : l[n]? with
    | none => rfl
    | some x => simp [h x hx]
  · rfl

/-- A change of a core depends only on what it does to the core that is there. -/
theorem State.onCore_congr {c : Nat} {f g : Core → Core} (h : f (s.core c) = g (s.core c)) :
    s.onCore c f = s.onCore c g := by
  have : s.cores.modify c f = s.cores.modify c g := by
    apply listModify_congr
    intro x hx
    have : s.core c = x := by simp [State.core, List.getD, hx]
    rw [← this]; exact h
  unfold State.onCore
  rw [this]

theorem State.port_onPort_same {p : Nat} (f : HostPort → HostPort) (h : p < s.ports.length) :
    (s.onPort p f).port p = f (s.port p) := by
  simp [State.port, List.getD, h]

theorem State.port_onPort_other {p q : Nat} (f : HostPort → HostPort) (h : q ≠ p) : (s.onPort p f).port q = s.port q := by
  have : p ≠ q := fun e => h e.symm
  simp [State.port, List.getD, this]

end Sys2Proof.Machine
end

