-- ==== Sys2Proof/Laws/Regs.lean ====
section
/-! SUPPORT. Laws of register fields: a field reads back what was stored in it, the others are unchanged. -/

namespace Sys2Proof.Machine

theorem bitf_putBits_same (v lo len x : Nat) : bitf (putBits v lo len x) lo len = x % 2 ^ len := by
  unfold putBits bitf
  have hL : 0 < 2 ^ lo := Nat.two_pow_pos lo
  have hN : 0 < 2 ^ len := Nat.two_pow_pos len
  generalize hA : 2 ^ lo = A at *
  generalize hB : 2 ^ len = B at *
  have e1 := Nat.div_add_mod v A
  have e2 := Nat.div_add_mod (v / A) B
  have hl := Nat.mod_lt v hL
  have hx := Nat.mod_lt x hN
  generalize v % A = l at *
  generalize x % B = y at *
  generalize v / A % B = m at *
  generalize v / A / B = h at *
  have e : v - m * A + y * A = A * (B * h + y) + l := by
    have : v = A * (B * h) + m * A + l := by rw [← e1, ← e2]; ring
    rw [this]
    have : A * (B * h) + m * A + l - m * A = A * (B * h) + l := by omega
    rw [this]; ring
  rw [e, Nat.mul_add_div hL, Nat.div_eq_of_lt hl, Nat.add_zero, Nat.mul_add_mod, Nat.mod_eq_of_lt hx]

theorem bitf_putBits_other (v lo len x a n : Nat) (hd : a + n ≤ lo ∨ lo + len ≤ a) :
    bitf (putBits v lo len x) a n = bitf v a n := by
  unfold putBits bitf
  have hL : 0 < 2 ^ lo := Nat.two_pow_pos lo
  have hN : 0 < 2 ^ len := Nat.two_pow_pos len
  have e1 := Nat.div_add_mod v (2 ^ lo)
  have e2 := Nat.div_add_mod (v / 2 ^ lo) (2 ^ len)
  have hl := Nat.mod_lt v hL
  have hx := Nat.mod_lt x hN
  have hm := Nat.mod_lt (v / 2 ^ lo) hN
  generalize v % 2 ^ lo = l at *
  generalize x % 2 ^ len = y at *
  generalize v / 2 ^ lo % 2 ^ len = m at *
  generalize v / 2 ^ lo / 2 ^ len = h at *
  have ev : v = 2 ^ lo * (2 ^ len * h) + m * 2 ^ lo + l := by rw [← e1, ← e2]; ring
  have e : v - m * 2 ^ lo + y * 2 ^ lo = 2 ^ lo * (2 ^ len * h) + y * 2 ^ lo + l := by
    have : v - m * 2 ^ lo = 2 ^ lo * (2 ^ len * h) + l := by omega
    rw [this]; ring
  rw [e]
  have lowhigh : ∀ z : Nat, z < 2 ^ len → (2 ^ lo * (2 ^ len * h) + z * 2 ^ lo + l) / 2 ^ a % 2 ^ n
      = (if a + n ≤ lo then l / 2 ^ a % 2 ^ n else h / 2 ^ (a - (lo + len)) % 2 ^ n) := by
    intro z hz
    split
    · rename_i hd
      obtain ⟨k, rfl⟩ : ∃ k, lo = a + n + k := ⟨lo - (a + n), by omega⟩
      have : 2 ^ (a + n + k) * (2 ^ len * h) + z * 2 ^ (a + n + k) + l
          = 2 ^ a * (2 ^ n * (2 ^ k * (2 ^ len * h + z))) + l := by rw [pow_add, pow_add]; ring
      rw [this, Nat.mul_add_div (Nat.two_pow_pos a), Nat.mul_add_mod]
    · rename_i hnd
      have hge : lo + len ≤ a := by omega
      obtain ⟨k, rfl⟩ : ∃ k, a = lo + len + k := ⟨a - (lo + len), by omega⟩
      have : 2 ^ lo * (2 ^ len * h) + z * 2 ^ lo + l = 2 ^ (lo + len) * h + (2 ^ lo * z + l) := by
        rw [pow_add]; ring
      have hs : 2 ^ lo * z + l < 2 ^ (lo + len) := by
        rw [pow_add]
        calc 2 ^ lo * z + l < 2 ^ lo * z + 2 ^ lo := by omega
          _ = 2 ^ lo * (z + 1) := by ring
          _ ≤ 2 ^ lo * 2 ^ len := Nat.mul_le_mul_left _ hz
      rw [this, pow_add _ (lo + len), ← Nat.div_div_eq_div_mul, Nat.mul_add_div (Nat.two_pow_pos _),
        Nat.div_eq_of_lt hs, Nat.add_zero, Nat.add_sub_cancel_left]
  rw [lowhigh y hx]
  have := lowhigh m hm
  rw [← ev] at this
  exact this.symm

theorem bitf_mod (v lo len w : Nat) (h : lo + len ≤ w) : bitf (v % 2 ^ w) lo len = bitf v lo len := by
  obtain ⟨k, rfl⟩ : ∃ k, w = lo + (len + k) := ⟨w - (lo + len), by omega⟩
  unfold bitf
  rw [pow_add 2 lo, Nat.mod_mul_right_div_self, pow_add 2 len, Nat.mod_mul_right_mod]

theorem bit_eq_bitf (v i : Nat) : bit v i = decide (bitf v i 1 = 1) := by unfold bit bitf; rfl

variable (s : State)

theorem State.fieldOf_setField_same (r : Reg) (lo len x : Nat) (h : lo + len ≤ 32) :
    (s.setField r lo len x).fieldOf r lo len = x % 2 ^ len := by
  rw [State.fieldOf, State.setField, State.reg_setReg_same, bitf_mod _ _ _ _ h, bitf_putBits_same]

theorem State.fieldOf_setField_other (r : Reg) (lo len x a n : Nat) (h : a + n ≤ 32)
    (hd : a + n ≤ lo ∨ lo + len ≤ a) : (s.setField r lo len x).fieldOf r a n = s.fieldOf r a n := by
  rw [State.fieldOf, State.setField, State.reg_setReg_same, bitf_mod _ _ _ _ h, bitf_putBits_other _ _ _ _ _ _ hd]
  rfl

theorem State.fieldOf_setField_reg (r q : Reg) (lo len x a n : Nat) (h : q ≠ r) :
    (s.setField r lo len x).fieldOf q a n = s.fieldOf q a n := by
  rw [State.fieldOf, State.reg_setField_other _ _ _ _ _ _ h]; rfl

theorem State.bitOf_setBit_same (r : Reg) (i : Nat) (b : Bool) (h : i < 32) : (s.setBit r i b).bitOf r i = b := by
  have := s.fieldOf_setField_same r i 1 (if b then 1 else 0) (by omega)
  rw [State.bitOf, bit_eq_bitf]
  rw [State.fieldOf] at this
  rw [State.setBit, this]
  cases b <;> rfl

theorem State.bitOf_setBit_other (r : Reg) (i j : Nat) (b : Bool) (h : j < 32) (hd : j ≠ i) :
    (s.setBit r i b).bitOf r j = s.bitOf r j := by
  have := s.fieldOf_setField_other r i 1 (if b then 1 else 0) j 1 (by omega) (by omega)
  rw [State.bitOf, State.bitOf, bit_eq_bitf, bit_eq_bitf]
  rw [State.fieldOf, State.fieldOf] at this
  rw [State.setBit, this]

theorem State.bitOf_setBit_reg (r q : Reg) (i j : Nat) (b : Bool) (h : q ≠ r) :
    (s.setBit r i b).bitOf q j = s.bitOf q j := by
  rw [State.bitOf, State.reg_setBit_other _ _ _ _ _ h]; rfl

end Sys2Proof.Machine
end

