-- ==== Sys2Proof/Laws/Events.lean ====
section
/-! SUPPORT. What raising an event or an interrupt can change: event rings, their counters, pending bits and what left the
package. -/

namespace Sys2Proof.Machine

/-- Two states that agree on everything an event cannot change. -/
structure SameBut (s t : State) : Prop where
  now : t.now = s.now
  frames : t.frames = s.frames
  cm : t.cm = s.cm
  regs : ∀ r, r.name ≠ .evqTail → r.name ≠ .evqStat → t.reg r = s.reg r
  shadow : t.shadow = s.shadow
  armed : t.armed = s.armed
  latches : t.latches = s.latches
  ops : t.ops = s.ops
  sq : t.rings.sq = s.rings.sq
  cq : t.rings.cq = s.rings.cq
  cores : t.cores = s.cores
  mem : t.mem = s.mem
  fab : t.fab = s.fab
  pool : t.pool = s.pool
  flt : t.flt = s.flt
  md : t.md = s.md
  pwr : t.pwr = s.pwr
  boot : t.boot = s.boot
  free : t.free = s.free
  pending : t.pending = s.pending

theorem SameBut.refl (s : State) : SameBut s s := by
  constructor <;> intros <;> rfl

theorem SameBut.trans {s t u : State} (h : SameBut s t) (g : SameBut t u) : SameBut s u := by
  constructor
  · rw [g.now, h.now]
  · rw [g.frames, h.frames]
  · rw [g.cm, h.cm]
  · intro r h1 h2; rw [g.regs r h1 h2, h.regs r h1 h2]
  · rw [g.shadow, h.shadow]
  · rw [g.armed, h.armed]
  · rw [g.latches, h.latches]
  · rw [g.ops, h.ops]
  · rw [g.sq, h.sq]
  · rw [g.cq, h.cq]
  · rw [g.cores, h.cores]
  · rw [g.mem, h.mem]
  · rw [g.fab, h.fab]
  · rw [g.pool, h.pool]
  · rw [g.flt, h.flt]
  · rw [g.md, h.md]
  · rw [g.pwr, h.pwr]
  · rw [g.boot, h.boot]
  · rw [g.free, h.free]
  · rw [g.pending, h.pending]

theorem SameBut.say (s : State) (m : Msg) : SameBut s (s.say m) := by
  constructor <;> intros <;> rfl

theorem SameBut.sayAll (s : State) (ms : List Msg) : SameBut s (s.sayAll ms) := by
  constructor <;> intros <;> rfl

theorem SameBut.onFunc (s : State) (p f : Nat) (g : Func → Func) : SameBut s (s.onFunc p f g) := by
  constructor <;> intros <;> rfl

theorem SameBut.putEv (s : State) (r : EvRing) : SameBut s (s.putEv r) := by
  constructor <;> intros <;> rfl

theorem SameBut.setReg (s : State) (r : Reg) (v : Nat) (h : r.name = .evqTail ∨ r.name = .evqStat) :
    SameBut s (s.setReg r v) := by
  constructor <;> first | rfl | skip
  intro q h1 h2
  exact s.reg_setReg_other r q v fun e => by rw [e] at h1 h2; exact h.elim h1 h2

theorem State.msix_same (s : State) (p f v : Nat) : SameBut s (s.msix p f v) := by
  unfold State.msix
  dsimp only
  split
  · exact SameBut.refl s
  · split
    · exact SameBut.onFunc s p f _
    · exact SameBut.say s _

theorem State.eventTo_same (s : State) (e : Event) (pg : Nat) : SameBut s (s.eventTo e pg) := by
  unfold State.eventTo
  dsimp only
  split
  · exact (SameBut.setReg s _ _ (.inr rfl)).trans (SameBut.putEv _ _)
  · exact (((SameBut.say s _).trans (SameBut.setReg _ _ _ (.inl rfl))).trans (SameBut.putEv _ _)).trans
      (State.msix_same _ _ _ _)

theorem State.events_same (s : State) (e : Event) (l : List Nat) :
    SameBut s (l.foldl (fun acc pg => acc.eventTo e pg) s) := by
  induction l generalizing s with
  | nil => exact SameBut.refl s
  | cons p l ih => exact (State.eventTo_same s e p).trans (ih _)

/-- An event changes event rings, their counters, pending interrupts and what left the package, and nothing else. -/
theorem State.event_same (s : State) (e : Event) : SameBut s (s.event e) := State.events_same s _ _

theorem State.funcEvent_same (s : State) (pg : Nat) (e : Event) : SameBut s (s.funcEvent pg e) :=
  State.eventTo_same s _ pg

theorem SameBut.bitOf {s t : State} (h : SameBut s t) (r : Reg) (i : Nat) (h1 : r.name ≠ .evqTail := by first | decide | simp)
    (h2 : r.name ≠ .evqStat := by first | decide | simp) : t.bitOf r i = s.bitOf r i := by
  rw [State.bitOf, State.bitOf, h.regs r h1 h2]

theorem SameBut.fieldOf {s t : State} (h : SameBut s t) (r : Reg) (lo n : Nat) (h1 : r.name ≠ .evqTail := by first | decide | simp)
    (h2 : r.name ≠ .evqStat := by first | decide | simp) : t.fieldOf r lo n = s.fieldOf r lo n := by
  rw [State.fieldOf, State.fieldOf, h.regs r h1 h2]

end Sys2Proof.Machine
end

