-- ==== Sys2Proof/Laws/KeepsOps.lean ====
section
/-! SUPPORT. No shared operation over registers, memory or tensors changes the meter or the queue. -/

namespace Sys2Proof.Machine

theorem foldl_md {α : Type} {f : State → α → State} {l : List α} {s : State} {m : _} (h : ∀ t a, (f t a).md = t.md) (h0 : s.md = m) : (l.foldl f s).md = m := by
  induction l generalizing s with
  | nil => exact h0
  | cons a l ih => exact ih ((h s a).trans h0)
theorem foldl_md_fst {α β : Type} {f : State × β → α → State × β} {l : List α} {s : State × β} {m : _} (h : ∀ t a, (f t a).1.md = t.1.md) (h0 : s.1.md = m) : (l.foldl f s).1.md = m := by
  induction l generalizing s with
  | nil => exact h0
  | cons a l ih => exact ih ((h s a).trans h0)
theorem getD_md {o : Option State} {s : State} {m : _} (h : ∀ t, o = some t → t.md = m) (h0 : s.md = m) : (o.getD s).md = m := by
  cases o with
  | none => exact h0
  | some t => exact h t rfl
@[simp] theorem foldl_md' {α : Type} {f : State → α → State} {l : List α} {s : State} (h : ∀ t a, (f t a).md = t.md) : (l.foldl f s).md = s.md := foldl_md h rfl
@[simp] theorem ite_md (c : Prop) [Decidable c] (a b : State) : (if c then a else b).md = if c then a.md else b.md := by split <;> rfl
theorem foldl_pending {α : Type} {f : State → α → State} {l : List α} {s : State} {m : _} (h : ∀ t a, (f t a).pending = t.pending) (h0 : s.pending = m) : (l.foldl f s).pending = m := by
  induction l generalizing s with
  | nil => exact h0
  | cons a l ih => exact ih ((h s a).trans h0)
theorem foldl_pending_fst {α β : Type} {f : State × β → α → State × β} {l : List α} {s : State × β} {m : _} (h : ∀ t a, (f t a).1.pending = t.1.pending) (h0 : s.1.pending = m) : (l.foldl f s).1.pending = m := by
  induction l generalizing s with
  | nil => exact h0
  | cons a l ih => exact ih ((h s a).trans h0)
theorem getD_pending {o : Option State} {s : State} {m : _} (h : ∀ t, o = some t → t.pending = m) (h0 : s.pending = m) : (o.getD s).pending = m := by
  cases o with
  | none => exact h0
  | some t => exact h t rfl
@[simp] theorem foldl_pending' {α : Type} {f : State → α → State} {l : List α} {s : State} (h : ∀ t a, (f t a).pending = t.pending) : (l.foldl f s).pending = s.pending := foldl_pending h rfl
@[simp] theorem ite_pending (c : Prop) [Decidable c] (a b : State) : (if c then a else b).pending = if c then a.pending else b.pending := by split <;> rfl
@[simp] theorem State.onFunc_md (s : State) (p : Nat) (f : Nat) (g : Func → Func) : (State.onFunc s p f g).md = s.md := by simp [State.onFunc]
@[simp] theorem State.onFunc_pending (s : State) (p : Nat) (f : Nat) (g : Func → Func) : (State.onFunc s p f g).pending = s.pending := by simp [State.onFunc]
@[simp] theorem State.cfgErrAt_md (s : State) (err : Reg) (info : Reg) (cause : Nat) (off : Nat) (port : Nat) (tick : Bool) : (State.cfgErrAt s err info cause off port tick).md = s.md := by
  unfold State.cfgErrAt
  refine (State.setBit_md ..).trans ?_
  split
  · exact State.setReg_md ..
  · rfl
@[simp] theorem State.cfgErrAt_pending (s : State) (err : Reg) (info : Reg) (cause : Nat) (off : Nat) (port : Nat) (tick : Bool) : (State.cfgErrAt s err info cause off port tick).pending = s.pending := by
  unfold State.cfgErrAt
  refine (State.setBit_pending ..).trans ?_
  split
  · exact State.setReg_pending ..
  · rfl
@[simp] theorem State.cfgErr_md (s : State) (pg : Option Nat) (cause : Nat) (off : Nat) (port : Nat) : (State.cfgErr s pg cause off port).md = s.md := by
  unfold State.cfgErr
  repeat' (first | rfl | assumption | (apply foldl_md) | (apply foldl_md_fst) | (apply getD_md) | (intro _) | split | simp)
@[simp] theorem State.cfgErr_pending (s : State) (pg : Option Nat) (cause : Nat) (off : Nat) (port : Nat) : (State.cfgErr s pg cause off port).pending = s.pending := by
  unfold State.cfgErr
  repeat' (first | rfl | assumption | (apply foldl_pending) | (apply foldl_pending_fst) | (apply getD_pending) | (intro _) | split | simp)
@[simp] theorem State.cfgErrTick_md (s : State) (cause : Nat) (b : Blk) : (State.cfgErrTick s cause b).md = s.md := by simp [State.cfgErrTick]
@[simp] theorem State.cfgErrTick_pending (s : State) (cause : Nat) (b : Blk) : (State.cfgErrTick s cause b).pending = s.pending := by simp [State.cfgErrTick]
@[simp] theorem State.msix_md (s : State) (port : Nat) (func : Nat) (vec : Nat) : (State.msix s port func vec).md = s.md := by simp [State.msix]
@[simp] theorem State.msix_pending (s : State) (port : Nat) (func : Nat) (vec : Nat) : (State.msix s port func vec).pending = s.pending := by simp [State.msix]
@[simp] theorem State.eventTo_md (s : State) (e : Event) (pg : Nat) : (State.eventTo s e pg).md = s.md := by simp [State.eventTo]
@[simp] theorem State.eventTo_pending (s : State) (e : Event) (pg : Nat) : (State.eventTo s e pg).pending = s.pending := by simp [State.eventTo]
@[simp] theorem State.event_md (s : State) (e : Event) : (State.event s e).md = s.md := by simp [State.event]
@[simp] theorem State.event_pending (s : State) (e : Event) : (State.event s e).pending = s.pending := by simp [State.event]
@[simp] theorem State.funcEvent_md (s : State) (pg : Nat) (e : Event) : (State.funcEvent s pg e).md = s.md := by simp [State.funcEvent]
@[simp] theorem State.funcEvent_pending (s : State) (pg : Nat) (e : Event) : (State.funcEvent s pg e).pending = s.pending := by simp [State.funcEvent]
@[simp] theorem State.devWrite_md (s : State) (a : Nat) (bs : List Byte) : (State.devWrite s a bs).md = s.md := by simp [State.devWrite]
@[simp] theorem State.devWrite_pending (s : State) (a : Nat) (bs : List Byte) : (State.devWrite s a bs).pending = s.pending := by simp [State.devWrite]
@[simp] theorem State.makeUndef_md (s : State) (a : Nat) (n : Nat) : (State.makeUndef s a n).md = s.md := by simp [State.makeUndef]
@[simp] theorem State.makeUndef_pending (s : State) (a : Nat) (n : Nat) : (State.makeUndef s a n).pending = s.pending := by simp [State.makeUndef]
theorem State.writeRange_md_eq {s : State} {mirrored : Bool} {a : Nat} {bs : List Byte} {t} (h : (State.writeRange s mirrored a bs) = some t) : t.md = s.md := by
  unfold State.writeRange at h
  dsimp only at h
  repeat' split at h
  all_goals first | (cases h; done) | (cases h; repeat' (first | rfl | assumption | (apply foldl_md) | (apply foldl_md_fst) | (apply getD_md) | (intro _) | split | simp))
theorem State.writeRange_pending_eq {s : State} {mirrored : Bool} {a : Nat} {bs : List Byte} {t} (h : (State.writeRange s mirrored a bs) = some t) : t.pending = s.pending := by
  unfold State.writeRange at h
  dsimp only at h
  repeat' split at h
  all_goals first | (cases h; done) | (cases h; repeat' (first | rfl | assumption | (apply foldl_pending) | (apply foldl_pending_fst) | (apply getD_pending) | (intro _) | split | simp))
@[simp] theorem State.sysWrite_md (s : State) (off : Nat) (n : Nat) (v : Nat) : (State.sysWrite s off n v).md = s.md := by
  unfold State.sysWrite
  repeat' (first | rfl | assumption | (apply foldl_md) | (apply foldl_md_fst) | (apply getD_md) | (intro _) | split | (refine (State.writeRange_md_eq (by assumption)).trans ?_) | simp)
@[simp] theorem State.sysWrite_pending (s : State) (off : Nat) (n : Nat) (v : Nat) : (State.sysWrite s off n v).pending = s.pending := by
  unfold State.sysWrite
  repeat' (first | rfl | assumption | (apply foldl_pending) | (apply foldl_pending_fst) | (apply getD_pending) | (intro _) | split | (refine (State.writeRange_pending_eq (by assumption)).trans ?_) | simp)
@[simp] theorem State.setPageEntry_md (s : State) (i : Nat) (e : PageEntry) : (State.setPageEntry s i e).md = s.md := by simp [State.setPageEntry]
@[simp] theorem State.setPageEntry_pending (s : State) (i : Nat) (e : PageEntry) : (State.setPageEntry s i e).pending = s.pending := by simp [State.setPageEntry]
@[simp] theorem State.setFlag_md (s : State) (pg : Nat) (i : Nat) (f : Flag) : (State.setFlag s pg i f).md = s.md := by simp [State.setFlag]
@[simp] theorem State.setFlag_pending (s : State) (pg : Nat) (i : Nat) (f : Flag) : (State.setFlag s pg i f).pending = s.pending := by simp [State.setFlag]
@[simp] theorem State.onOp_md (s : State) (asn : Nat) (f : OpRec → OpRec) : (State.onOp s asn f).md = s.md := by simp [State.onOp]
@[simp] theorem State.onOp_pending (s : State) (asn : Nat) (f : OpRec → OpRec) : (State.onOp s asn f).pending = s.pending := by simp [State.onOp]
theorem State.forkPage_md_eq {s : State} {owner : Nat} {p : Place} {page : Nat} {whole : Bool} {t} (h : (State.forkPage s owner p page whole) = some t) : t.md = s.md := by
  unfold State.forkPage at h
  simp only [Option.map_eq_some_iff] at h
  obtain ⟨u, hu, rfl⟩ := h
  rw [State.setPageEntry_md]
  split at hu
  · cases hu; rfl
  · split at hu
    · cases hu
    · exact State.writeRange_md_eq hu
theorem State.forkPage_pending_eq {s : State} {owner : Nat} {p : Place} {page : Nat} {whole : Bool} {t} (h : (State.forkPage s owner p page whole) = some t) : t.pending = s.pending := by
  unfold State.forkPage at h
  simp only [Option.map_eq_some_iff] at h
  obtain ⟨u, hu, rfl⟩ := h
  rw [State.setPageEntry_pending]
  split at hu
  · cases hu; rfl
  · split at hu
    · cases hu
    · exact State.writeRange_pending_eq hu
@[simp] theorem noteStage_md (asn : Nat) (page : Nat) (home : Nat) (s : State) : (noteStage asn page home s).md = s.md := by simp [noteStage]
@[simp] theorem noteStage_pending (asn : Nat) (page : Nat) (home : Nat) (s : State) : (noteStage asn page home s).pending = s.pending := by simp [noteStage]
theorem State.opWritePage_md_eq {s : State} {o : OpRec} {p : Place} {off : Nat} {bs : List Byte} {t} (h : (State.opWritePage s o p off bs) = .ok t) : t.md = s.md := by
  unfold State.opWritePage at h
  dsimp only at h
  split at h
  · split at h
    · rename_i u hu; cases h; exact State.writeRange_md_eq hu
    · cases h
  · split at h
    · cases h
    · split at h
      · cases h
      · rename_i u hu
        have hu' : u.md = s.md := by
          split at hu
          · cases hu; rfl
          · exact State.forkPage_md_eq hu
        split at h
        · rename_i v hv
          cases h
          simp only [Option.map_eq_some_iff] at hv
          obtain ⟨w, hw, rfl⟩ := hv
          rw [noteStage_md, State.writeRange_md_eq hw, hu']
        · cases h
theorem State.opWritePage_pending_eq {s : State} {o : OpRec} {p : Place} {off : Nat} {bs : List Byte} {t} (h : (State.opWritePage s o p off bs) = .ok t) : t.pending = s.pending := by
  unfold State.opWritePage at h
  dsimp only at h
  split at h
  · split at h
    · rename_i u hu; cases h; exact State.writeRange_pending_eq hu
    · cases h
  · split at h
    · cases h
    · split at h
      · cases h
      · rename_i u hu
        have hu' : u.pending = s.pending := by
          split at hu
          · cases hu; rfl
          · exact State.forkPage_pending_eq hu
        split at h
        · rename_i v hv
          cases h
          simp only [Option.map_eq_some_iff] at hv
          obtain ⟨w, hw, rfl⟩ := hv
          rw [noteStage_pending, State.writeRange_pending_eq hw, hu']
        · cases h
theorem State.opWriteFrom_md_eq {s : State} {o : OpRec} {p : Place} {x0 : Nat} {x1 : Nat} {x2 : List Byte} {t} (h : (State.opWriteFrom s o p x0 x1 x2) = .ok t) : t.md = s.md := by
  induction x0 generalizing s x1 x2 with
  | zero => simp [State.opWriteFrom] at h; rw [h]
  | succ k ih =>
    rw [State.opWriteFrom] at h
    split at h
    · cases h; rfl
    · dsimp only at h
      split at h
      · rename_i u hu; rw [ih h, State.opWritePage_md_eq hu]
      · cases h
      · cases h
theorem State.opWriteFrom_pending_eq {s : State} {o : OpRec} {p : Place} {x0 : Nat} {x1 : Nat} {x2 : List Byte} {t} (h : (State.opWriteFrom s o p x0 x1 x2) = .ok t) : t.pending = s.pending := by
  induction x0 generalizing s x1 x2 with
  | zero => simp [State.opWriteFrom] at h; rw [h]
  | succ k ih =>
    rw [State.opWriteFrom] at h
    split at h
    · cases h; rfl
    · dsimp only at h
      split at h
      · rename_i u hu; rw [ih h, State.opWritePage_pending_eq hu]
      · cases h
      · cases h
@[simp] theorem State.applyDelta_md (s : State) (b : List Byte) (d : Delta) : (State.applyDelta s b d).md = s.md := by
  unfold State.applyDelta
  repeat' (first | rfl | assumption | (apply foldl_md) | (apply foldl_md_fst) | (apply getD_md) | (intro _) | split | (refine (State.writeRange_md_eq (by assumption)).trans ?_) | simp)
@[simp] theorem State.applyDelta_pending (s : State) (b : List Byte) (d : Delta) : (State.applyDelta s b d).pending = s.pending := by
  unfold State.applyDelta
  repeat' (first | rfl | assumption | (apply foldl_pending) | (apply foldl_pending_fst) | (apply getD_pending) | (intro _) | split | (refine (State.writeRange_pending_eq (by assumption)).trans ?_) | simp)
@[simp] theorem State.applyDeltas_md (s : State) (win : Nat) (ds : List Delta) : (State.applyDeltas s win ds).md = s.md := by
  unfold State.applyDeltas
  repeat' (first | rfl | assumption | (apply foldl_md) | (apply foldl_md_fst) | (apply getD_md) | (intro _) | split | (refine (State.writeRange_md_eq (by assumption)).trans ?_) | simp)
@[simp] theorem State.applyDeltas_pending (s : State) (win : Nat) (ds : List Delta) : (State.applyDeltas s win ds).pending = s.pending := by
  unfold State.applyDeltas
  repeat' (first | rfl | assumption | (apply foldl_pending) | (apply foldl_pending_fst) | (apply getD_pending) | (intro _) | split | (refine (State.writeRange_pending_eq (by assumption)).trans ?_) | simp)
@[simp] theorem State.accumLine_md (s : State) (asn : Nat) (r : Region) (b : List Byte) (line : List Byte) : (State.accumLine s asn r b line).md = s.md := by simp [State.accumLine]
@[simp] theorem State.accumLine_pending (s : State) (asn : Nat) (r : Region) (b : List Byte) (line : List Byte) : (State.accumLine s asn r b line).pending = s.pending := by simp [State.accumLine]
theorem State.opWrite_md_eq {s : State} {o : OpRec} {r : Region} {off : Nat} {bs : List Byte} {t} (h : (State.opWrite s o r off bs) = .ok t) : t.md = s.md := by
  unfold State.opWrite at h
  split at h
  · cases h; simp
  · split at h
    · cases h
    · split at h
      · split at h
        · rename_i u hu; cases h; rw [State.onOp_md, State.opWriteFrom_md_eq hu]
        · rename_i hx; exact (hx _ h).elim
      · exact State.opWriteFrom_md_eq h
theorem State.opWrite_pending_eq {s : State} {o : OpRec} {r : Region} {off : Nat} {bs : List Byte} {t} (h : (State.opWrite s o r off bs) = .ok t) : t.pending = s.pending := by
  unfold State.opWrite at h
  split at h
  · cases h; simp
  · split at h
    · cases h
    · split at h
      · split at h
        · rename_i u hu; cases h; rw [State.onOp_pending, State.opWriteFrom_pending_eq hu]
        · rename_i hx; exact (hx _ h).elim
      · exact State.opWriteFrom_pending_eq h
@[simp] theorem State.settlePages_md (s : State) (owner : Nat) (commit : Bool) (pages : List Nat) : (State.settlePages s owner commit pages).md = s.md := by simp [State.settlePages]
@[simp] theorem State.settlePages_pending (s : State) (owner : Nat) (commit : Bool) (pages : List Nat) : (State.settlePages s owner commit pages).pending = s.pending := by simp [State.settlePages]
@[simp] theorem State.putAppend_md (s : State) (r : AppendRegion) : (State.putAppend s r).md = s.md := by simp [State.putAppend]
@[simp] theorem State.putAppend_pending (s : State) (r : AppendRegion) : (State.putAppend s r).pending = s.pending := by simp [State.putAppend]
@[simp] theorem State.appendPut_md (s : State) (r : AppendRegion) (mirrored : Bool) (count : Nat) (bs : List Byte) : (State.appendPut s r mirrored count bs).md = s.md := by
  unfold State.appendPut
  repeat' (first | rfl | assumption | (apply foldl_md) | (apply foldl_md_fst) | (apply getD_md) | (intro _) | split | (refine (State.writeRange_md_eq (by assumption)).trans ?_) | simp)
@[simp] theorem State.appendPut_pending (s : State) (r : AppendRegion) (mirrored : Bool) (count : Nat) (bs : List Byte) : (State.appendPut s r mirrored count bs).pending = s.pending := by
  unfold State.appendPut
  repeat' (first | rfl | assumption | (apply foldl_pending) | (apply foldl_pending_fst) | (apply getD_pending) | (intro _) | split | (refine (State.writeRange_pending_eq (by assumption)).trans ?_) | simp)
@[simp] theorem State.advanceTail_md (s : State) (mirrored : Bool) (r : AppendRegion) (x0 : List ASlot) : (State.advanceTail s mirrored r x0).1.md = s.md := by
  induction x0 generalizing s r with
  | nil => rfl
  | cons x xs ih =>
    rw [State.advanceTail]
    split
    · rfl
    · dsimp only; rw [ih]; simp
theorem State.advanceTail_md_eq {s : State} {mirrored : Bool} {r : AppendRegion} {x0 : List ASlot} {res_} (h : (State.advanceTail s mirrored r x0) = res_) : res_.1.md = s.md := by subst h; exact State.advanceTail_md s mirrored r x0
theorem State.advanceTail_md_eq2 {s : State} {mirrored : Bool} {r : AppendRegion} {x0 : List ASlot} {t_ x_} (h : (State.advanceTail s mirrored r x0) = (t_, x_)) : t_.md = s.md := State.advanceTail_md_eq h
@[simp] theorem State.advanceTail_pending (s : State) (mirrored : Bool) (r : AppendRegion) (x0 : List ASlot) : (State.advanceTail s mirrored r x0).1.pending = s.pending := by
  induction x0 generalizing s r with
  | nil => rfl
  | cons x xs ih =>
    rw [State.advanceTail]
    split
    · rfl
    · dsimp only; rw [ih]; simp
theorem State.advanceTail_pending_eq {s : State} {mirrored : Bool} {r : AppendRegion} {x0 : List ASlot} {res_} (h : (State.advanceTail s mirrored r x0) = res_) : res_.1.pending = s.pending := by subst h; exact State.advanceTail_pending s mirrored r x0
theorem State.advanceTail_pending_eq2 {s : State} {mirrored : Bool} {r : AppendRegion} {x0 : List ASlot} {t_ x_} (h : (State.advanceTail s mirrored r x0) = (t_, x_)) : t_.pending = s.pending := State.advanceTail_pending_eq h
@[simp] theorem State.settleSlot_md (s : State) (base : Nat) (size : Nat) (asn : Nat) (how : Nat) (hi : Nat) (mirrored : Bool) : (State.settleSlot s base size asn how hi mirrored).md = s.md := by
  unfold State.settleSlot
  repeat' (first | rfl | assumption | (apply foldl_md) | (apply foldl_md_fst) | (apply getD_md) | (intro _) | split | (refine (State.advanceTail_md_eq (by assumption)).trans ?_) | simp)
@[simp] theorem State.settleSlot_pending (s : State) (base : Nat) (size : Nat) (asn : Nat) (how : Nat) (hi : Nat) (mirrored : Bool) : (State.settleSlot s base size asn how hi mirrored).pending = s.pending := by
  unfold State.settleSlot
  repeat' (first | rfl | assumption | (apply foldl_pending) | (apply foldl_pending_fst) | (apply getD_pending) | (intro _) | split | (refine (State.advanceTail_pending_eq (by assumption)).trans ?_) | simp)
@[simp] theorem State.onSlice_md (s : State) (h : Nat) (f : L2Slice → L2Slice) : (State.onSlice s h f).md = s.md := by simp [State.onSlice]
@[simp] theorem State.onSlice_pending (s : State) (h : Nat) (f : L2Slice → L2Slice) : (State.onSlice s h f).pending = s.pending := by simp [State.onSlice]
@[simp] theorem State.sectorOut_md (s : State) (h : Nat) (l : L2Line) (sec : Nat) : (State.sectorOut s h l sec).md = s.md := by simp [State.sectorOut]
@[simp] theorem State.sectorOut_pending (s : State) (h : Nat) (l : L2Line) (sec : Nat) : (State.sectorOut s h l sec).pending = s.pending := by simp [State.sectorOut]
@[simp] theorem State.cleanLine_md (s : State) (h : Nat) (l : L2Line) : (State.cleanLine s h l).md = s.md := by simp [State.cleanLine]
@[simp] theorem State.cleanLine_pending (s : State) (h : Nat) (l : L2Line) : (State.cleanLine s h l).pending = s.pending := by simp [State.cleanLine]
@[simp] theorem State.dropLine_md (s : State) (h : Nat) (ln : Nat) : (State.dropLine s h ln).md = s.md := by simp [State.dropLine]
@[simp] theorem State.dropLine_pending (s : State) (h : Nat) (ln : Nat) : (State.dropLine s h ln).pending = s.pending := by simp [State.dropLine]
@[simp] theorem State.evict_md (s : State) (h : Nat) (ln : Nat) (way : Nat) : (State.evict s h ln way).md = s.md := by
  unfold State.evict
  repeat' (first | rfl | assumption | (apply foldl_md) | (apply foldl_md_fst) | (apply getD_md) | (intro _) | split | simp)
@[simp] theorem State.evict_pending (s : State) (h : Nat) (ln : Nat) (way : Nat) : (State.evict s h ln way).pending = s.pending := by
  unfold State.evict
  repeat' (first | rfl | assumption | (apply foldl_pending) | (apply foldl_pending_fst) | (apply getD_pending) | (intro _) | split | simp)
@[simp] theorem State.thruOut_md (s : State) (h : Nat) (r : L2Req) : (State.thruOut s h r).md = s.md := by
  unfold State.thruOut
  repeat' (first | rfl | assumption | (apply foldl_md) | (apply foldl_md_fst) | (apply getD_md) | (intro _) | split | simp)
@[simp] theorem State.thruOut_pending (s : State) (h : Nat) (r : L2Req) : (State.thruOut s h r).pending = s.pending := by
  unfold State.thruOut
  repeat' (first | rfl | assumption | (apply foldl_pending) | (apply foldl_pending_fst) | (apply getD_pending) | (intro _) | split | simp)
@[simp] theorem State.answer_md (s : State) (h : Nat) (r : L2Req) (data : List Byte) : (State.answer s h r data).md = s.md := by
  unfold State.answer
  repeat' (first | rfl | assumption | (apply foldl_md) | (apply foldl_md_fst) | (apply getD_md) | (intro _) | split | simp)
@[simp] theorem State.answer_pending (s : State) (h : Nat) (r : L2Req) (data : List Byte) : (State.answer s h r data).pending = s.pending := by
  unfold State.answer
  repeat' (first | rfl | assumption | (apply foldl_pending) | (apply foldl_pending_fst) | (apply getD_pending) | (intro _) | split | simp)
theorem State.l2Serve_md_eq {s : State} {h : Nat} {r : L2Req} {t} (h : (State.l2Serve s h r) = some t) : t.md = s.md := by
  unfold State.l2Serve at h
  dsimp only at h
  repeat' split at h
  all_goals first | (cases h; done) | (cases h; repeat' (first | rfl | assumption | (apply foldl_md) | (apply foldl_md_fst) | (apply getD_md) | (intro _) | split | simp))
theorem State.l2Serve_pending_eq {s : State} {h : Nat} {r : L2Req} {t} (h : (State.l2Serve s h r) = some t) : t.pending = s.pending := by
  unfold State.l2Serve at h
  dsimp only at h
  repeat' split at h
  all_goals first | (cases h; done) | (cases h; repeat' (first | rfl | assumption | (apply foldl_pending) | (apply foldl_pending_fst) | (apply getD_pending) | (intro _) | split | simp))
@[simp] theorem State.l2Request_md (s : State) (h : Nat) (r : L2Req) : (State.l2Request s h r).md = s.md := by
  unfold State.l2Request
  repeat' (first | rfl | assumption | (apply foldl_md) | (apply foldl_md_fst) | (apply getD_md) | (intro _) | split | (refine (State.l2Serve_md_eq (by assumption)).trans ?_) | simp)
@[simp] theorem State.l2Request_pending (s : State) (h : Nat) (r : L2Req) : (State.l2Request s h r).pending = s.pending := by
  unfold State.l2Request
  repeat' (first | rfl | assumption | (apply foldl_pending) | (apply foldl_pending_fst) | (apply getD_pending) | (intro _) | split | (refine (State.l2Serve_pending_eq (by assumption)).trans ?_) | simp)
@[simp] theorem State.l2Retry_md (s : State) (h : Nat) : (State.l2Retry s h).md = s.md := by simp [State.l2Retry]
@[simp] theorem State.l2Retry_pending (s : State) (h : Nat) : (State.l2Retry s h).pending = s.pending := by simp [State.l2Retry]
theorem serveMerged_md (h : Nat) (drop : Bool) (a : State × L2Line) (r : L2Req) : (serveMerged h drop a r).1.md = a.1.md := by
  unfold serveMerged
  split
  · simp
  · dsimp only; split <;> simp
theorem serveMerged_pending (h : Nat) (drop : Bool) (a : State × L2Line) (r : L2Req) : (serveMerged h drop a r).1.pending = a.1.pending := by
  unfold serveMerged
  split
  · simp
  · dsimp only; split <;> simp
@[simp] theorem State.l2Fill_md (s : State) (h : Nat) (ln : Nat) (data : List Byte) : (State.l2Fill s h ln data).md = s.md := by
  unfold State.l2Fill
  split
  · rfl
  · dsimp only
    rw [State.l2Retry_md]
    have fold : ∀ (l : List L2Req) (drop : Bool) (a : State × L2Line),
        (l.foldl (serveMerged h drop) a).1.md = a.1.md := by
      intro l drop a
      exact foldl_md_fst (fun t r => serveMerged_md h drop t r) rfl
    split <;> simp [fold]
@[simp] theorem State.l2Fill_pending (s : State) (h : Nat) (ln : Nat) (data : List Byte) : (State.l2Fill s h ln data).pending = s.pending := by
  unfold State.l2Fill
  split
  · rfl
  · dsimp only
    rw [State.l2Retry_pending]
    have fold : ∀ (l : List L2Req) (drop : Bool) (a : State × L2Line),
        (l.foldl (serveMerged h drop) a).1.pending = a.1.pending := by
      intro l drop a
      exact foldl_pending_fst (fun t r => serveMerged_pending h drop t r) rfl
    split <;> simp [fold]
@[simp] theorem State.cleanSlice_md (s : State) (h : Nat) : (State.cleanSlice s h).md = s.md := by simp [State.cleanSlice]
@[simp] theorem State.cleanSlice_pending (s : State) (h : Nat) : (State.cleanSlice s h).pending = s.pending := by simp [State.cleanSlice]
@[simp] theorem State.idleClean_md (s : State) (h : Nat) : (State.idleClean s h).md = s.md := by
  unfold State.idleClean
  repeat' (first | rfl | assumption | (apply foldl_md) | (apply foldl_md_fst) | (apply getD_md) | (intro _) | split | simp)
@[simp] theorem State.idleClean_pending (s : State) (h : Nat) : (State.idleClean s h).pending = s.pending := by
  unfold State.idleClean
  repeat' (first | rfl | assumption | (apply foldl_pending) | (apply foldl_pending_fst) | (apply getD_pending) | (intro _) | split | simp)
@[simp] theorem State.l2Poison_md (s : State) (h : Nat) (ln : Nat) : (State.l2Poison s h ln).md = s.md := by
  unfold State.l2Poison
  repeat' (first | rfl | assumption | (apply foldl_md) | (apply foldl_md_fst) | (apply getD_md) | (intro _) | split | simp)
@[simp] theorem State.l2Poison_pending (s : State) (h : Nat) (ln : Nat) : (State.l2Poison s h ln).pending = s.pending := by
  unfold State.l2Poison
  repeat' (first | rfl | assumption | (apply foldl_pending) | (apply foldl_pending_fst) | (apply getD_pending) | (intro _) | split | simp)
@[simp] theorem State.putRing_md (s : State) (r : Ring) : (State.putRing s r).md = s.md := by simp [State.putRing]
@[simp] theorem State.putRing_pending (s : State) (r : Ring) : (State.putRing s r).pending = s.pending := by simp [State.putRing]
@[simp] theorem State.putCring_md (s : State) (r : CRing) : (State.putCring s r).md = s.md := by simp [State.putCring]
@[simp] theorem State.putCring_pending (s : State) (r : CRing) : (State.putCring s r).pending = s.pending := by simp [State.putCring]
@[simp] theorem State.wrFront_md (s : State) (port : Nat) (vf : Option Nat) (off : Nat) (be : BitVec 4) : (State.wrFront s port vf off be).1.md = s.md := by
  unfold State.wrFront
  repeat' (first | rfl | assumption | (apply foldl_md) | (apply foldl_md_fst) | (apply getD_md) | (intro _) | split | simp)
theorem State.wrFront_md_eq {s : State} {port : Nat} {vf : Option Nat} {off : Nat} {be : BitVec 4} {res_} (h : (State.wrFront s port vf off be) = res_) : res_.1.md = s.md := by subst h; exact State.wrFront_md s port vf off be
theorem State.wrFront_md_eq2 {s : State} {port : Nat} {vf : Option Nat} {off : Nat} {be : BitVec 4} {t_ x_} (h : (State.wrFront s port vf off be) = (t_, x_)) : t_.md = s.md := State.wrFront_md_eq h
@[simp] theorem State.wrFront_pending (s : State) (port : Nat) (vf : Option Nat) (off : Nat) (be : BitVec 4) : (State.wrFront s port vf off be).1.pending = s.pending := by
  unfold State.wrFront
  repeat' (first | rfl | assumption | (apply foldl_pending) | (apply foldl_pending_fst) | (apply getD_pending) | (intro _) | split | simp)
theorem State.wrFront_pending_eq {s : State} {port : Nat} {vf : Option Nat} {off : Nat} {be : BitVec 4} {res_} (h : (State.wrFront s port vf off be) = res_) : res_.1.pending = s.pending := by subst h; exact State.wrFront_pending s port vf off be
theorem State.wrFront_pending_eq2 {s : State} {port : Nat} {vf : Option Nat} {off : Nat} {be : BitVec 4} {t_ x_} (h : (State.wrFront s port vf off be) = (t_, x_)) : t_.pending = s.pending := State.wrFront_pending_eq h
@[simp] theorem State.store_md (s : State) (r : Reg) (v : Nat) : (State.store s r v).md = s.md := by
  unfold State.store
  repeat' (first | rfl | assumption | (apply foldl_md) | (apply foldl_md_fst) | (apply getD_md) | (intro _) | split | simp)
@[simp] theorem State.store_pending (s : State) (r : Reg) (v : Nat) : (State.store s r v).pending = s.pending := by
  unfold State.store
  repeat' (first | rfl | assumption | (apply foldl_pending) | (apply foldl_pending_fst) | (apply getD_pending) | (intro _) | split | simp)
@[simp] theorem State.releaseInfo_md (s : State) (r : Reg) : (State.releaseInfo s r).md = s.md := by
  unfold State.releaseInfo
  repeat' (first | rfl | assumption | (apply foldl_md) | (apply foldl_md_fst) | (apply getD_md) | (intro _) | split | simp)
@[simp] theorem State.releaseInfo_pending (s : State) (r : Reg) : (State.releaseInfo s r).pending = s.pending := by
  unfold State.releaseInfo
  repeat' (first | rfl | assumption | (apply foldl_pending) | (apply foldl_pending_fst) | (apply getD_pending) | (intro _) | split | simp)
@[simp] theorem State.applyWrite_md (s : State) (port : Nat) (vf : Option Nat) (off : Nat) (r : Reg) (v : Nat) : (State.applyWrite s port vf off r v).md = s.md := by simp [State.applyWrite]
@[simp] theorem State.applyWrite_pending (s : State) (port : Nat) (vf : Option Nat) (off : Nat) (r : Reg) (v : Nat) : (State.applyWrite s port vf off r v).pending = s.pending := by simp [State.applyWrite]
@[simp] theorem State.writeReg_md (s : State) (port : Nat) (vf : Option Nat) (off : Nat) (be : BitVec 4) (v : Nat) : (State.writeReg s port vf off be v).md = s.md := by
  unfold State.writeReg
  repeat' (first | rfl | assumption | (apply foldl_md) | (apply foldl_md_fst) | (apply getD_md) | (intro _) | split | (refine (State.wrFront_md_eq (by assumption)).trans ?_) | simp)
@[simp] theorem State.writeReg_pending (s : State) (port : Nat) (vf : Option Nat) (off : Nat) (be : BitVec 4) (v : Nat) : (State.writeReg s port vf off be v).pending = s.pending := by
  unfold State.writeReg
  repeat' (first | rfl | assumption | (apply foldl_pending) | (apply foldl_pending_fst) | (apply getD_pending) | (intro _) | split | (refine (State.wrFront_pending_eq (by assumption)).trans ?_) | simp)
@[simp] theorem State.writeWs_md (s : State) (port : Nat) (off : Nat) (be : BitVec 4) (v : Nat) : (State.writeWs s port off be v).md = s.md := by
  unfold State.writeWs
  repeat' (first | rfl | assumption | (apply foldl_md) | (apply foldl_md_fst) | (apply getD_md) | (intro _) | split | (refine (State.wrFront_md_eq (by assumption)).trans ?_) | simp)
@[simp] theorem State.writeWs_pending (s : State) (port : Nat) (off : Nat) (be : BitVec 4) (v : Nat) : (State.writeWs s port off be v).pending = s.pending := by
  unfold State.writeWs
  repeat' (first | rfl | assumption | (apply foldl_pending) | (apply foldl_pending_fst) | (apply getD_pending) | (intro _) | split | (refine (State.wrFront_pending_eq (by assumption)).trans ?_) | simp)
@[simp] theorem State.arm_md (s : State) (t : Nat) (port : Nat) (off : Nat) (be : BitVec 4) (v : Nat) : (State.arm s t port off be v).md = s.md := by
  unfold State.arm
  repeat' (first | rfl | assumption | (apply foldl_md) | (apply foldl_md_fst) | (apply getD_md) | (intro _) | split | (refine (State.wrFront_md_eq (by assumption)).trans ?_) | simp)
@[simp] theorem State.arm_pending (s : State) (t : Nat) (port : Nat) (off : Nat) (be : BitVec 4) (v : Nat) : (State.arm s t port off be v).pending = s.pending := by
  unfold State.arm
  repeat' (first | rfl | assumption | (apply foldl_pending) | (apply foldl_pending_fst) | (apply getD_pending) | (intro _) | split | (refine (State.wrFront_pending_eq (by assumption)).trans ?_) | simp)
@[simp] theorem State.clearRc_md (s : State) (r : Reg) : (State.clearRc s r).md = s.md := by
  unfold State.clearRc
  repeat' (first | rfl | assumption | (apply foldl_md) | (apply foldl_md_fst) | (apply getD_md) | (intro _) | split | simp)
@[simp] theorem State.clearRc_pending (s : State) (r : Reg) : (State.clearRc s r).pending = s.pending := by
  unfold State.clearRc
  repeat' (first | rfl | assumption | (apply foldl_pending) | (apply foldl_pending_fst) | (apply getD_pending) | (intro _) | split | simp)
@[simp] theorem State.readLatch_md (s : State) (port : Nat) (vf : Option Nat) (off : Nat) : (State.readLatch s port vf off).md = s.md := by
  unfold State.readLatch
  repeat' (first | rfl | assumption | (apply foldl_md) | (apply foldl_md_fst) | (apply getD_md) | (intro _) | split | simp)
@[simp] theorem State.readLatch_pending (s : State) (port : Nat) (vf : Option Nat) (off : Nat) : (State.readLatch s port vf off).pending = s.pending := by
  unfold State.readLatch
  repeat' (first | rfl | assumption | (apply foldl_pending) | (apply foldl_pending_fst) | (apply getD_pending) | (intro _) | split | simp)
@[simp] theorem State.activate_md (s : State) (refused : List Reg) (b : Blk) : (State.activate s refused b).md = s.md := by simp [State.activate]
@[simp] theorem State.activate_pending (s : State) (refused : List Reg) (b : Blk) : (State.activate s refused b).pending = s.pending := by simp [State.activate]
@[simp] theorem State.activatePool_md (s : State) : (State.activatePool s).md = s.md := by simp [State.activatePool]
@[simp] theorem State.activatePool_pending (s : State) : (State.activatePool s).pending = s.pending := by simp [State.activatePool]
@[simp] theorem State.activateSets_md (s : State) (sources : List (List Byte)) : (State.activateSets s sources).md = s.md := by simp [State.activateSets]
@[simp] theorem State.activateSets_pending (s : State) (sources : List (List Byte)) : (State.activateSets s sources).pending = s.pending := by simp [State.activateSets]
@[simp] theorem State.activateAt_md (s : State) (t : Stamp) (sources : List (List Byte)) : (State.activateAt s t sources).md = s.md := by simp [State.activateAt]
@[simp] theorem State.activateAt_pending (s : State) (t : Stamp) (sources : List (List Byte)) : (State.activateAt s t sources).pending = s.pending := by simp [State.activateAt]

end Sys2Proof.Machine
end

