-- ==== Sys2Proof/Laws/KeepsWork.lean ====
section
/-! SUPPORT. No operation of cores, streams, rings, tiles or built-in work changes the meter or the queue. -/

namespace Sys2Proof.Machine

@[simp] theorem State.remoteLine_md (s : State) (o : OpRec) (r : Region) (lock : Nat) (off : Nat) (line : List Byte) : (State.remoteLine s o r lock off line).md = s.md := by
  unfold State.remoteLine
  repeat' (first | rfl | assumption | (apply foldl_md) | (apply foldl_md_fst) | (apply getD_md) | (intro _) | split | simp)
@[simp] theorem State.remoteLine_pending (s : State) (o : OpRec) (r : Region) (lock : Nat) (off : Nat) (line : List Byte) : (State.remoteLine s o r lock off line).pending = s.pending := by
  unfold State.remoteLine
  repeat' (first | rfl | assumption | (apply foldl_pending) | (apply foldl_pending_fst) | (apply getD_pending) | (intro _) | split | simp)
@[simp] theorem State.remoteWrite_md (s : State) (o : OpRec) (r : Region) (lock : Nat) (off : Nat) (bs : List Byte) : (State.remoteWrite s o r lock off bs).1.md = s.md := by simp [State.remoteWrite]
theorem State.remoteWrite_md_eq {s : State} {o : OpRec} {r : Region} {lock : Nat} {off : Nat} {bs : List Byte} {res_} (h : (State.remoteWrite s o r lock off bs) = res_) : res_.1.md = s.md := by subst h; exact State.remoteWrite_md s o r lock off bs
theorem State.remoteWrite_md_eq2 {s : State} {o : OpRec} {r : Region} {lock : Nat} {off : Nat} {bs : List Byte} {t_ x_} (h : (State.remoteWrite s o r lock off bs) = (t_, x_)) : t_.md = s.md := State.remoteWrite_md_eq h
@[simp] theorem State.remoteWrite_pending (s : State) (o : OpRec) (r : Region) (lock : Nat) (off : Nat) (bs : List Byte) : (State.remoteWrite s o r lock off bs).1.pending = s.pending := by simp [State.remoteWrite]
theorem State.remoteWrite_pending_eq {s : State} {o : OpRec} {r : Region} {lock : Nat} {off : Nat} {bs : List Byte} {res_} (h : (State.remoteWrite s o r lock off bs) = res_) : res_.1.pending = s.pending := by subst h; exact State.remoteWrite_pending s o r lock off bs
theorem State.remoteWrite_pending_eq2 {s : State} {o : OpRec} {r : Region} {lock : Nat} {off : Nat} {bs : List Byte} {t_ x_} (h : (State.remoteWrite s o r lock off bs) = (t_, x_)) : t_.pending = s.pending := State.remoteWrite_pending_eq h
@[simp] theorem State.remoteRead_md (s : State) (r : Region) (ps : List Piece) : (State.remoteRead s r ps).md = s.md := by simp [State.remoteRead]
@[simp] theorem State.remoteRead_pending (s : State) (r : Region) (ps : List Piece) : (State.remoteRead s r ps).pending = s.pending := by simp [State.remoteRead]
@[simp] theorem State.chargeOn_md (s : State) (core : Nat) (b : Bucket) (idle : Nat) (lines : Nat) : (State.chargeOn s core b idle lines).md = s.md := by simp [State.chargeOn]
@[simp] theorem State.chargeOn_pending (s : State) (core : Nat) (b : Bucket) (idle : Nat) (lines : Nat) : (State.chargeOn s core b idle lines).pending = s.pending := by simp [State.chargeOn]
@[simp] theorem State.issueOn_md (s : State) (core : Nat) (eng : Nat) (x : Xfer) : (State.issueOn s core eng x).md = s.md := by simp [State.issueOn]
@[simp] theorem State.issueOn_pending (s : State) (core : Nat) (eng : Nat) (x : Xfer) : (State.issueOn s core eng x).pending = s.pending := by simp [State.issueOn]
@[simp] theorem State.runXfer_md (s : State) (core : Nat) (eng : Nat) (idle : Nat) (o : OpRec) (ctx : OpCtx) (x : XferReq) : (State.runXfer s core eng idle o ctx x).md = s.md := by
  unfold State.runXfer
  dsimp only
  repeat' (first | rfl | split | (simp; done) | (rename_i h; simp [State.opWrite_md_eq h]; done))
@[simp] theorem State.runXfer_pending (s : State) (core : Nat) (eng : Nat) (idle : Nat) (o : OpRec) (ctx : OpCtx) (x : XferReq) : (State.runXfer s core eng idle o ctx x).pending = s.pending := by
  unfold State.runXfer
  dsimp only
  repeat' (first | rfl | split | (simp; done) | (rename_i h; simp [State.opWrite_pending_eq h]; done))
@[simp] theorem State.transfer_md (s : State) (core : Nat) (eng : Nat) (idle : Nat) (op : Nat) (c : BitVec 4) (a : BitVec 4) (b : BitVec 4) (slot : BitVec 3) (imm : BitVec 11) : (State.transfer s core eng idle op c a b slot imm).md = s.md := by
  unfold State.transfer
  repeat' (first | rfl | assumption | (apply foldl_md) | (apply foldl_md_fst) | (apply getD_md) | (intro _) | split | simp)
@[simp] theorem State.transfer_pending (s : State) (core : Nat) (eng : Nat) (idle : Nat) (op : Nat) (c : BitVec 4) (a : BitVec 4) (b : BitVec 4) (slot : BitVec 3) (imm : BitVec 11) : (State.transfer s core eng idle op c a b slot imm).pending = s.pending := by
  unfold State.transfer
  repeat' (first | rfl | assumption | (apply foldl_pending) | (apply foldl_pending_fst) | (apply getD_pending) | (intro _) | split | simp)
@[simp] theorem State.remoteData_md (s : State) (core : Nat) (eng : Nat) (id : Nat) (status : Nat) (data : List Byte) : (State.remoteData s core eng id status data).md = s.md := by
  unfold State.remoteData
  repeat' (first | rfl | assumption | (apply foldl_md) | (apply foldl_md_fst) | (apply getD_md) | (intro _) | split | simp)
@[simp] theorem State.remoteData_pending (s : State) (core : Nat) (eng : Nat) (id : Nat) (status : Nat) (data : List Byte) : (State.remoteData s core eng id status data).pending = s.pending := by
  unfold State.remoteData
  repeat' (first | rfl | assumption | (apply foldl_pending) | (apply foldl_pending_fst) | (apply getD_pending) | (intro _) | split | simp)
@[simp] theorem State.rstep_md (s : State) (core : Nat) (eng : Nat) (d : BitVec 4) (a : BitVec 4) (b : BitVec 4) (set : Nat) : (State.rstep s core eng d a b set).md = s.md := by
  unfold State.rstep
  repeat' (first | rfl | assumption | (apply foldl_md) | (apply foldl_md_fst) | (apply getD_md) | (intro _) | split | simp)
@[simp] theorem State.rstep_pending (s : State) (core : Nat) (eng : Nat) (d : BitVec 4) (a : BitVec 4) (b : BitVec 4) (set : Nat) : (State.rstep s core eng d a b set).pending = s.pending := by
  unfold State.rstep
  repeat' (first | rfl | assumption | (apply foldl_pending) | (apply foldl_pending_fst) | (apply getD_pending) | (intro _) | split | simp)
@[simp] theorem State.setReady_md (s : State) (set : Nat) : (State.setReady s set).md = s.md := by simp [State.setReady]
@[simp] theorem State.setReady_pending (s : State) (set : Nat) : (State.setReady s set).pending = s.pending := by simp [State.setReady]
@[simp] theorem State.putLine_md (s : State) (p : Nat) (l : DbLine) : (State.putLine s p l).md = s.md := by simp [State.putLine]
@[simp] theorem State.putLine_pending (s : State) (p : Nat) (l : DbLine) : (State.putLine s p l).pending = s.pending := by simp [State.putLine]
@[simp] theorem State.readLine_md (s : State) (p : Nat) (addr : Nat) : (State.readLine s p addr).md = s.md := by simp [State.readLine]
@[simp] theorem State.readLine_pending (s : State) (p : Nat) (addr : Nat) : (State.readLine s p addr).pending = s.pending := by simp [State.readLine]
@[simp] theorem State.readLines_md (s : State) (p : Nat) : (State.readLines s p).md = s.md := by simp [State.readLines]
@[simp] theorem State.readLines_pending (s : State) (p : Nat) : (State.readLines s p).pending = s.pending := by simp [State.readLines]
@[simp] theorem State.stretch_md (s : State) (p : Nat) : (State.stretch s p).md = s.md := by simp [State.stretch]
@[simp] theorem State.stretch_pending (s : State) (p : Nat) : (State.stretch s p).pending = s.pending := by simp [State.stretch]
@[simp] theorem State.mpCheck_md (s : State) : (State.mpCheck s).md = s.md := by simp [State.mpCheck]
@[simp] theorem State.mpCheck_pending (s : State) : (State.mpCheck s).pending = s.pending := by simp [State.mpCheck]
@[simp] theorem State.pruneLines_md (s : State) (p : Nat) : (State.pruneLines s p).md = s.md := by simp [State.pruneLines]
@[simp] theorem State.pruneLines_pending (s : State) (p : Nat) : (State.pruneLines s p).pending = s.pending := by simp [State.pruneLines]
@[simp] theorem State.wedge_md (s : State) (pg : Nat) (trigger : Nat) : (State.wedge s pg trigger).md = s.md := by simp [State.wedge]
@[simp] theorem State.wedge_pending (s : State) (pg : Nat) (trigger : Nat) : (State.wedge s pg trigger).pending = s.pending := by simp [State.wedge]
@[simp] theorem State.requestEnds_md (s : State) (p : Nat) (f : Nat) (good : Bool) : (State.requestEnds s p f good).md = s.md := by simp [State.requestEnds]
@[simp] theorem State.requestEnds_pending (s : State) (p : Nat) (f : Nat) (good : Bool) : (State.requestEnds s p f good).pending = s.pending := by simp [State.requestEnds]
@[simp] theorem State.deadlineMissed_md (s : State) (pg : Nat) (n : Nat) : (State.deadlineMissed s pg n).md = s.md := by simp [State.deadlineMissed]
@[simp] theorem State.deadlineMissed_pending (s : State) (pg : Nat) (n : Nat) : (State.deadlineMissed s pg n).pending = s.pending := by simp [State.deadlineMissed]
@[simp] theorem State.consumeLine_md (s : State) (pg : Nat) (n : Nat) : (State.consumeLine s pg n).md = s.md := by simp [State.consumeLine]
@[simp] theorem State.consumeLine_pending (s : State) (pg : Nat) (n : Nat) : (State.consumeLine s pg n).pending = s.pending := by simp [State.consumeLine]
@[simp] theorem State.lineIfDue_md (s : State) (pg : Nat) (n : Nat) : (State.lineIfDue s pg n).md = s.md := by simp [State.lineIfDue]
@[simp] theorem State.lineIfDue_pending (s : State) (pg : Nat) (n : Nat) : (State.lineIfDue s pg n).pending = s.pending := by simp [State.lineIfDue]
@[simp] theorem State.arrive_md (s : State) (t : Stamp) : (State.arrive s t).md = s.md := by simp [State.arrive]
@[simp] theorem State.arrive_pending (s : State) (t : Stamp) : (State.arrive s t).pending = s.pending := by simp [State.arrive]
@[simp] theorem State.advance_md (s : State) (pg : Nat) (n : Nat) (k : Nat) : (State.advance s pg n k).md = s.md := by simp [State.advance]
@[simp] theorem State.advance_pending (s : State) (pg : Nat) (n : Nat) (k : Nat) : (State.advance s pg n k).pending = s.pending := by simp [State.advance]
@[simp] theorem State.writeEntry_md (s : State) (o : OpRec) : (State.writeEntry s o).md = s.md := by simp [State.writeEntry]
@[simp] theorem State.writeEntry_pending (s : State) (o : OpRec) : (State.writeEntry s o).pending = s.pending := by simp [State.writeEntry]
@[simp] theorem State.writeAttempt_md (s : State) (o : OpRec) : (State.writeAttempt s o).md = s.md := by simp [State.writeAttempt]
@[simp] theorem State.writeAttempt_pending (s : State) (o : OpRec) : (State.writeAttempt s o).pending = s.pending := by simp [State.writeAttempt]
@[simp] theorem State.writeHeader_md (s : State) (pg : Nat) (n : Nat) : (State.writeHeader s pg n).md = s.md := by simp [State.writeHeader]
@[simp] theorem State.writeHeader_pending (s : State) (pg : Nat) (n : Nat) : (State.writeHeader s pg n).pending = s.pending := by simp [State.writeHeader]
@[simp] theorem State.putRecord_md (s : State) (pg : Nat) (cq : Nat) (r : Record) : (State.putRecord s pg cq r).md = s.md := by simp [State.putRecord]
@[simp] theorem State.putRecord_pending (s : State) (pg : Nat) (cq : Nat) (r : Record) : (State.putRecord s pg cq r).pending = s.pending := by simp [State.putRecord]
@[simp] theorem State.tailLine_md (s : State) (pg : Nat) (cq : Nat) (frn : Nat) : (State.tailLine s pg cq frn).md = s.md := by simp [State.tailLine]
@[simp] theorem State.tailLine_pending (s : State) (pg : Nat) (cq : Nat) (frn : Nat) : (State.tailLine s pg cq frn).pending = s.pending := by simp [State.tailLine]
@[simp] theorem State.announce_md (s : State) (pg : Nat) (cq : Nat) : (State.announce s pg cq).md = s.md := by simp [State.announce]
@[simp] theorem State.announce_pending (s : State) (pg : Nat) (cq : Nat) : (State.announce s pg cq).pending = s.pending := by simp [State.announce]
@[simp] theorem State.recordDurable_md (s : State) (pg : Nat) (cq : Nat) (atOnce : Bool) : (State.recordDurable s pg cq atOnce).md = s.md := by simp [State.recordDurable]
@[simp] theorem State.recordDurable_pending (s : State) (pg : Nat) (cq : Nat) (atOnce : Bool) : (State.recordDurable s pg cq atOnce).pending = s.pending := by simp [State.recordDurable]
theorem State.postNext_md_eq {s : State} {pg : Nat} {n : Nat} {t} (h : (State.postNext s pg n) = some t) : t.md = s.md := by
  unfold State.postNext at h
  dsimp only at h
  repeat' split at h
  all_goals first | (cases h; done) | (cases h; repeat' (first | rfl | assumption | (apply foldl_md) | (apply foldl_md_fst) | (apply getD_md) | (intro _) | split | simp))
theorem State.postNext_pending_eq {s : State} {pg : Nat} {n : Nat} {t} (h : (State.postNext s pg n) = some t) : t.pending = s.pending := by
  unfold State.postNext at h
  dsimp only at h
  repeat' split at h
  all_goals first | (cases h; done) | (cases h; repeat' (first | rfl | assumption | (apply foldl_pending) | (apply foldl_pending_fst) | (apply getD_pending) | (intro _) | split | simp))
@[simp] theorem State.requestFetch_md (s : State) (pg : Nat) (n : Nat) : (State.requestFetch s pg n).md = s.md := by simp [State.requestFetch]
@[simp] theorem State.requestFetch_pending (s : State) (pg : Nat) (n : Nat) : (State.requestFetch s pg n).pending = s.pending := by simp [State.requestFetch]
@[simp] theorem State.doorbell_md (s : State) (pg : Nat) (n : Nat) (word : Nat) : (State.doorbell s pg n word).md = s.md := by simp [State.doorbell]
@[simp] theorem State.doorbell_pending (s : State) (pg : Nat) (n : Nat) (word : Nat) : (State.doorbell s pg n word).pending = s.pending := by simp [State.doorbell]
@[simp] theorem State.onDie_md (s : State) (d : Nat) (f : DieSeq → DieSeq) : (State.onDie s d f).md = s.md := by simp [State.onDie]
@[simp] theorem State.onDie_pending (s : State) (d : Nat) (f : DieSeq → DieSeq) : (State.onDie s d f).pending = s.pending := by simp [State.onDie]
@[simp] theorem State.withhold_md (s : State) (d : Nat) : (State.withhold s d).md = s.md := by simp [State.withhold]
@[simp] theorem State.withhold_pending (s : State) (d : Nat) : (State.withhold s d).pending = s.pending := by simp [State.withhold]
@[simp] theorem State.countFailure_md (s : State) (kind : Nat) (index : Nat) : (State.countFailure s kind index).md = s.md := by simp [State.countFailure]
@[simp] theorem State.countFailure_pending (s : State) (kind : Nat) (index : Nat) : (State.countFailure s kind index).pending = s.pending := by simp [State.countFailure]
@[simp] theorem State.sendLate_md (s : State) (win : Nat) : (State.sendLate s win).md = s.md := by simp [State.sendLate]
@[simp] theorem State.sendLate_pending (s : State) (win : Nat) : (State.sendLate s win).pending = s.pending := by simp [State.sendLate]
@[simp] theorem State.windowsLost_md (s : State) (h : Nat) : (State.windowsLost s h).md = s.md := by
  unfold State.windowsLost
  refine foldl_md (fun t w => ?_) rfl
  split
  · dsimp only; repeat' (first | rfl | (simp; done) | split)
  · rfl
@[simp] theorem State.windowsLost_pending (s : State) (h : Nat) : (State.windowsLost s h).pending = s.pending := by
  unfold State.windowsLost
  refine foldl_pending (fun t w => ?_) rfl
  split
  · dsimp only; repeat' (first | rfl | (simp; done) | split)
  · rfl
@[simp] theorem State.declareStackAs_md (s : State) (h : Nat) (reason : Nat) (detail : Nat) : (State.declareStackAs s h reason detail).md = s.md := by simp [State.declareStackAs]
@[simp] theorem State.declareStackAs_pending (s : State) (h : Nat) (reason : Nat) (detail : Nat) : (State.declareStackAs s h reason detail).pending = s.pending := by simp [State.declareStackAs]
@[simp] theorem State.declareStack_md (s : State) (h : Nat) (reason : Nat) : (State.declareStack s h reason).md = s.md := by simp [State.declareStack]
@[simp] theorem State.declareStack_pending (s : State) (h : Nat) (reason : Nat) : (State.declareStack s h reason).pending = s.pending := by simp [State.declareStack]
@[simp] theorem State.tripStack_md (s : State) (h : Nat) : (State.tripStack s h).md = s.md := by simp [State.tripStack]
@[simp] theorem State.tripStack_pending (s : State) (h : Nat) : (State.tripStack s h).pending = s.pending := by simp [State.tripStack]
@[simp] theorem State.noteRole_md (s : State) (d : Nat) : (State.noteRole s d).md = s.md := by simp [State.noteRole]
@[simp] theorem State.noteRole_pending (s : State) (d : Nat) : (State.noteRole s d).pending = s.pending := by simp [State.noteRole]
@[simp] theorem State.declareDie_md (s : State) (d : Nat) (reason : Nat) : (State.declareDie s d reason).md = s.md := by simp [State.declareDie]
@[simp] theorem State.declareDie_pending (s : State) (d : Nat) (reason : Nat) : (State.declareDie s d reason).pending = s.pending := by simp [State.declareDie]
@[simp] theorem State.losePort_md (s : State) (p : Nat) (counted : Bool) : (State.losePort s p counted).md = s.md := by simp [State.losePort]
@[simp] theorem State.losePort_pending (s : State) (p : Nat) (counted : Bool) : (State.losePort s p counted).pending = s.pending := by simp [State.losePort]
@[simp] theorem State.loseQl_md (s : State) (p : Nat) (counted : Bool) : (State.loseQl s p counted).md = s.md := by simp [State.loseQl]
@[simp] theorem State.loseQl_pending (s : State) (p : Nat) (counted : Bool) : (State.loseQl s p counted).pending = s.pending := by simp [State.loseQl]
@[simp] theorem State.declareFd_md (s : State) (f : Nat) (reason : Nat) : (State.declareFd s f reason).md = s.md := by simp [State.declareFd]
@[simp] theorem State.declareFd_pending (s : State) (f : Nat) (reason : Nat) : (State.declareFd s f reason).pending = s.pending := by simp [State.declareFd]
@[simp] theorem State.declarePart_md (s : State) (kind : Nat) (index : Nat) (reason : Nat) : (State.declarePart s kind index reason).md = s.md := by
  unfold State.declarePart
  repeat' (first | rfl | assumption | (apply foldl_md) | (apply foldl_md_fst) | (apply getD_md) | (intro _) | split | simp)
@[simp] theorem State.declarePart_pending (s : State) (kind : Nat) (index : Nat) (reason : Nat) : (State.declarePart s kind index reason).pending = s.pending := by
  unfold State.declarePart
  repeat' (first | rfl | assumption | (apply foldl_pending) | (apply foldl_pending_fst) | (apply getD_pending) | (intro _) | split | simp)
@[simp] theorem State.declareOrWait_md (s : State) (kind : Nat) (index : Nat) (reason : Nat) : (State.declareOrWait s kind index reason).md = s.md := by simp [State.declareOrWait]
@[simp] theorem State.declareOrWait_pending (s : State) (kind : Nat) (index : Nat) (reason : Nat) : (State.declareOrWait s kind index reason).pending = s.pending := by simp [State.declareOrWait]
@[simp] theorem State.settleWaits_md (s : State) : (State.settleWaits s).md = s.md := by simp [State.settleWaits]
@[simp] theorem State.settleWaits_pending (s : State) : (State.settleWaits s).pending = s.pending := by simp [State.settleWaits]
@[simp] theorem State.issueTile_md (s : State) (core : Nat) (top : Nat) (id : Nat) (f : TileEntry → Core → Core) : (State.issueTile s core top id f).md = s.md := by
  unfold State.issueTile
  repeat' (first | rfl | assumption | (apply foldl_md) | (apply foldl_md_fst) | (apply getD_md) | (intro _) | split | simp)
@[simp] theorem State.issueTile_pending (s : State) (core : Nat) (top : Nat) (id : Nat) (f : TileEntry → Core → Core) : (State.issueTile s core top id f).pending = s.pending := by
  unfold State.issueTile
  repeat' (first | rfl | assumption | (apply foldl_pending) | (apply foldl_pending_fst) | (apply getD_pending) | (intro _) | split | simp)
theorem State.writePieces_md_eq {s : State} {o : OpRec} {r : Region} {x0 : List (Nat × List Byte)} {t} (h : (State.writePieces s o r x0) = .ok t) : t.md = s.md := by
  induction x0 generalizing s with
  | nil => rw [State.writePieces] at h; cases h; rfl
  | cons p ps ih =>
    rw [State.writePieces] at h
    split at h
    · rw [ih h]; simp
    · split at h
      · rename_i u hu; rw [ih h, State.opWrite_md_eq hu]
      · rename_i hx; exact (hx _ h).elim
theorem State.writePieces_pending_eq {s : State} {o : OpRec} {r : Region} {x0 : List (Nat × List Byte)} {t} (h : (State.writePieces s o r x0) = .ok t) : t.pending = s.pending := by
  induction x0 generalizing s with
  | nil => rw [State.writePieces] at h; cases h; rfl
  | cons p ps ih =>
    rw [State.writePieces] at h
    split at h
    · rw [ih h]; simp
    · split at h
      · rename_i u hu; rw [ih h, State.opWrite_pending_eq hu]
      · rename_i hx; exact (hx _ h).elim
theorem State.closeWrite_md_eq {s : State} {core : Nat} {q : TileEntry} {t} (h : (State.closeWrite s core q) = .ok t) : t.md = s.md := by
  unfold State.closeWrite at h
  dsimp only at h
  split at h
  · cases h; rfl
  · split at h
    · split at h
      · split at h
        · rename_i u hu; cases h; simp [State.writePieces_md_eq hu]
        · rename_i hx; exact (hx _ h).elim
      · cases h; rfl
    · cases h; rfl
theorem State.closeWrite_pending_eq {s : State} {core : Nat} {q : TileEntry} {t} (h : (State.closeWrite s core q) = .ok t) : t.pending = s.pending := by
  unfold State.closeWrite at h
  dsimp only at h
  split at h
  · cases h; rfl
  · split at h
    · split at h
      · split at h
        · rename_i u hu; cases h; simp [State.writePieces_pending_eq hu]
        · rename_i hx; exact (hx _ h).elim
      · cases h; rfl
    · cases h; rfl
theorem State.writeItems_md_eq {s : State} {o : OpRec} {ctx : OpCtx} {x0 : List (Nat × List (Nat × List Byte))} {t} (h : (State.writeItems s o ctx x0) = .ok t) : t.md = s.md := by
  induction x0 generalizing s with
  | nil => rw [State.writeItems] at h; cases h; rfl
  | cons p ps ih =>
    rw [State.writeItems] at h
    split at h
    · cases h
    · split at h
      · rename_i u hu; rw [ih h, State.writePieces_md_eq hu]
      · rename_i hx; exact (hx _ h).elim
theorem State.writeItems_pending_eq {s : State} {o : OpRec} {ctx : OpCtx} {x0 : List (Nat × List (Nat × List Byte))} {t} (h : (State.writeItems s o ctx x0) = .ok t) : t.pending = s.pending := by
  induction x0 generalizing s with
  | nil => rw [State.writeItems] at h; cases h; rfl
  | cons p ps ih =>
    rw [State.writeItems] at h
    split at h
    · cases h
    · split at h
      · rename_i u hu; rw [ih h, State.writePieces_pending_eq hu]
      · rename_i hx; exact (hx _ h).elim
@[simp] theorem State.itemsDone_md (s : State) (core : Nat) (asn : Nat) (items : List Item) (out : ItemOut) : (State.itemsDone s core asn items out).md = s.md := by simp [State.itemsDone]
@[simp] theorem State.itemsDone_pending (s : State) (core : Nat) (asn : Nat) (items : List Item) (out : ItemOut) : (State.itemsDone s core asn items out).pending = s.pending := by simp [State.itemsDone]
@[simp] theorem State.runItems_md (s : State) (op : Op) (asn : Nat) (core : Nat) (remote : List (List Byte)) (f : Job → Nat → Get ItemOut) : (State.runItems s op asn core remote f).md = s.md := by
  unfold State.runItems
  repeat' (first | rfl | assumption | (apply foldl_md) | (apply foldl_md_fst) | (apply getD_md) | (intro _) | split | (refine (State.writeItems_md_eq (by assumption)).trans ?_) | simp)
@[simp] theorem State.runItems_pending (s : State) (op : Op) (asn : Nat) (core : Nat) (remote : List (List Byte)) (f : Job → Nat → Get ItemOut) : (State.runItems s op asn core remote f).pending = s.pending := by
  unfold State.runItems
  repeat' (first | rfl | assumption | (apply foldl_pending) | (apply foldl_pending_fst) | (apply getD_pending) | (intro _) | split | (refine (State.writeItems_pending_eq (by assumption)).trans ?_) | simp)
@[simp] theorem State.moveRole_md (s : State) (cut : Stamp) (m : Nat × Stamp) : (State.moveRole s cut m).md = s.md := by
  unfold State.moveRole
  split
  · rfl
  · dsimp only; split
    · simp
    · rfl
@[simp] theorem State.moveRole_pending (s : State) (cut : Stamp) (m : Nat × Stamp) : (State.moveRole s cut m).pending = s.pending := by
  unfold State.moveRole
  split
  · rfl
  · dsimp only; split
    · simp
    · rfl
@[simp] theorem State.moveRoles_md (s : State) (cut : Stamp) : (State.moveRoles s cut).md = s.md := by simp [State.moveRoles]
@[simp] theorem State.moveRoles_pending (s : State) (cut : Stamp) : (State.moveRoles s cut).pending = s.pending := by simp [State.moveRoles]
theorem State.reserveFor_md_eq {s : State} {o : OpRec} {t} (h : (State.reserveFor s o) = some t) : t.md = s.md := by
  simp only [State.reserveFor] at h
  repeat' split at h
  all_goals first | (cases h; done) | (cases h; repeat' (first | rfl | assumption | (apply foldl_md) | (apply foldl_md_fst) | (apply getD_md) | (intro _) | split | simp)) | (simp at h)
theorem State.reserveFor_pending_eq {s : State} {o : OpRec} {t} (h : (State.reserveFor s o) = some t) : t.pending = s.pending := by
  simp only [State.reserveFor] at h
  repeat' split at h
  all_goals first | (cases h; done) | (cases h; repeat' (first | rfl | assumption | (apply foldl_pending) | (apply foldl_pending_fst) | (apply getD_pending) | (intro _) | split | simp)) | (simp at h)
theorem State.consider_md (a : State × PlaceRun) (x : OpRec × List ItemEst × Option Head) : (State.consider a x).1.md = a.1.md := by
  unfold State.consider
  dsimp only
  repeat' (first | rfl | split | (refine (State.reserveFor_md_eq (by assumption)).trans ?_) | simp)
theorem State.consider_pending (a : State × PlaceRun) (x : OpRec × List ItemEst × Option Head) : (State.consider a x).1.pending = a.1.pending := by
  unfold State.consider
  dsimp only
  repeat' (first | rfl | split | (refine (State.reserveFor_pending_eq (by assumption)).trans ?_) | simp)
@[simp] theorem State.runSplitter_md (s : State) (p : Plan) : (State.runSplitter s p).1.md = s.md := by
  unfold State.runSplitter
  exact foldl_md_fst (fun t o => State.consider_md _ _) rfl
theorem State.runSplitter_md_eq {s : State} {p : Plan} {res_} (h : (State.runSplitter s p) = res_) : res_.1.md = s.md := by subst h; exact State.runSplitter_md s p
theorem State.runSplitter_md_eq2 {s : State} {p : Plan} {t_ x_} (h : (State.runSplitter s p) = (t_, x_)) : t_.md = s.md := State.runSplitter_md_eq h
@[simp] theorem State.runSplitter_pending (s : State) (p : Plan) : (State.runSplitter s p).1.pending = s.pending := by
  unfold State.runSplitter
  exact foldl_pending_fst (fun t o => State.consider_pending _ _) rfl
theorem State.runSplitter_pending_eq {s : State} {p : Plan} {res_} (h : (State.runSplitter s p) = res_) : res_.1.pending = s.pending := by subst h; exact State.runSplitter_pending s p
theorem State.runSplitter_pending_eq2 {s : State} {p : Plan} {t_ x_} (h : (State.runSplitter s p) = (t_, x_)) : t_.pending = s.pending := State.runSplitter_pending_eq h
@[simp] theorem State.seqOn_md (s : State) (core : Nat) (f : Core → Core) : (State.seqOn s core f).md = s.md := by simp [State.seqOn]
@[simp] theorem State.seqOn_pending (s : State) (core : Nat) (f : Core → Core) : (State.seqOn s core f).pending = s.pending := by simp [State.seqOn]
@[simp] theorem State.aluOn_md (s : State) (core : Nat) (rd : BitVec 5) (ra : BitVec 5) (rb : BitVec 5) (f : Word → Word → Word) : (State.aluOn s core rd ra rb f).md = s.md := by simp [State.aluOn]
@[simp] theorem State.aluOn_pending (s : State) (core : Nat) (rd : BitVec 5) (ra : BitVec 5) (rb : BitVec 5) (f : Word → Word → Word) : (State.aluOn s core rd ra rb f).pending = s.pending := by simp [State.aluOn]
@[simp] theorem State.immOn_md (s : State) (core : Nat) (rd : BitVec 5) (ra : BitVec 5) (f : Word → Word) : (State.immOn s core rd ra f).md = s.md := by simp [State.immOn]
@[simp] theorem State.immOn_pending (s : State) (core : Nat) (rd : BitVec 5) (ra : BitVec 5) (f : Word → Word) : (State.immOn s core rd ra f).pending = s.pending := by simp [State.immOn]
@[simp] theorem State.brOn_md (s : State) (core : Nat) (ra : BitVec 5) (rb : BitVec 5) (off : BitVec 16) (p : Word → Word → Bool) : (State.brOn s core ra rb off p).md = s.md := by simp [State.brOn]
@[simp] theorem State.brOn_pending (s : State) (core : Nat) (ra : BitVec 5) (rb : BitVec 5) (off : BitVec 16) (p : Word → Word → Bool) : (State.brOn s core ra rb off p).pending = s.pending := by simp [State.brOn]

end Sys2Proof.Machine
end

