-- ==== Sys2Proof/Laws/KeepsFrames.lean ====
section
/-! SUPPORT. No operation of frames, votes, scopes or pool windows changes the meter or the queue. -/

namespace Sys2Proof.Machine

theorem State.writeRecord_md_eq {s : State} {d : Decision} {rings : List (Nat × Nat)} {p : Nat} {t x} (h : (State.writeRecord s d rings p) = some (t, x)) : t.md = s.md := by
  unfold State.writeRecord at h
  dsimp only at h
  repeat' split at h
  all_goals first | (cases h; done) | (cases h; repeat' (first | rfl | assumption | (apply foldl_md) | (apply foldl_md_fst) | (apply getD_md) | (intro _) | split | simp))
theorem State.writeRecord_pending_eq {s : State} {d : Decision} {rings : List (Nat × Nat)} {p : Nat} {t x} (h : (State.writeRecord s d rings p) = some (t, x)) : t.pending = s.pending := by
  unfold State.writeRecord at h
  dsimp only at h
  repeat' split at h
  all_goals first | (cases h; done) | (cases h; repeat' (first | rfl | assumption | (apply foldl_pending) | (apply foldl_pending_fst) | (apply getD_pending) | (intro _) | split | simp))
@[simp] theorem State.writeDecision_md (s : State) (d : Decision) (rings : List (Nat × Nat)) : (State.writeDecision s d rings).1.md = s.md := by
  unfold State.writeDecision
  repeat' (first | rfl | assumption | (apply foldl_md) | (apply foldl_md_fst) | (apply getD_md) | (intro _) | split | (refine (State.writeRecord_md_eq (by assumption)).trans ?_) | simp)
theorem State.writeDecision_md_eq {s : State} {d : Decision} {rings : List (Nat × Nat)} {res_} (h : (State.writeDecision s d rings) = res_) : res_.1.md = s.md := by subst h; exact State.writeDecision_md s d rings
theorem State.writeDecision_md_eq2 {s : State} {d : Decision} {rings : List (Nat × Nat)} {t_ x_} (h : (State.writeDecision s d rings) = (t_, x_)) : t_.md = s.md := State.writeDecision_md_eq h
@[simp] theorem State.writeDecision_pending (s : State) (d : Decision) (rings : List (Nat × Nat)) : (State.writeDecision s d rings).1.pending = s.pending := by
  unfold State.writeDecision
  repeat' (first | rfl | assumption | (apply foldl_pending) | (apply foldl_pending_fst) | (apply getD_pending) | (intro _) | split | (refine (State.writeRecord_pending_eq (by assumption)).trans ?_) | simp)
theorem State.writeDecision_pending_eq {s : State} {d : Decision} {rings : List (Nat × Nat)} {res_} (h : (State.writeDecision s d rings) = res_) : res_.1.pending = s.pending := by subst h; exact State.writeDecision_pending s d rings
theorem State.writeDecision_pending_eq2 {s : State} {d : Decision} {rings : List (Nat × Nat)} {t_ x_} (h : (State.writeDecision s d rings) = (t_, x_)) : t_.pending = s.pending := State.writeDecision_pending_eq h
@[simp] theorem State.toMeter_md (s : State) (bs : List Byte) : (State.toMeter s bs).md = s.md := by simp [State.toMeter]
@[simp] theorem State.toMeter_pending (s : State) (bs : List Byte) : (State.toMeter s bs).pending = s.pending := by simp [State.toMeter]
@[simp] theorem State.sendSummary_md (s : State) (frn : Nat) : (State.sendSummary s frn).md = s.md := by simp [State.sendSummary]
@[simp] theorem State.sendSummary_pending (s : State) (frn : Nat) : (State.sendSummary s frn).pending = s.pending := by simp [State.sendSummary]
@[simp] theorem State.putDec_md (s : State) (d : Decision) : (State.putDec s d).md = s.md := by simp [State.putDec]
@[simp] theorem State.putDec_pending (s : State) (d : Decision) : (State.putDec s d).pending = s.pending := by simp [State.putDec]
@[simp] theorem State.nowDurable_md (s : State) (d : Decision) : (State.nowDurable s d).md = s.md := by
  unfold State.nowDurable
  repeat' (first | rfl | assumption | (apply foldl_md) | (apply foldl_md_fst) | (apply getD_md) | (intro _) | split | simp)
@[simp] theorem State.nowDurable_pending (s : State) (d : Decision) : (State.nowDurable s d).pending = s.pending := by
  unfold State.nowDurable
  repeat' (first | rfl | assumption | (apply foldl_pending) | (apply foldl_pending_fst) | (apply getD_pending) | (intro _) | split | simp)
@[simp] theorem State.decide_md (s : State) (t : Nat) (frn : Nat) (sub : Nat) (deadline : Nat) : (State.decide s t frn sub deadline).md = s.md := by simp [State.decide]
@[simp] theorem State.decide_pending (s : State) (t : Nat) (frn : Nat) (sub : Nat) (deadline : Nat) : (State.decide s t frn sub deadline).pending = s.pending := by simp [State.decide]
@[simp] theorem State.dropWork_md (s : State) (asn : Nat) : (State.dropWork s asn).md = s.md := by simp [State.dropWork]
@[simp] theorem State.dropWork_pending (s : State) (asn : Nat) : (State.dropWork s asn).pending = s.pending := by simp [State.dropWork]
@[simp] theorem State.signal_md (s : State) (o : OpRec) : (State.signal s o).md = s.md := by simp [State.signal]
@[simp] theorem State.signal_pending (s : State) (o : OpRec) : (State.signal s o).pending = s.pending := by simp [State.signal]
@[simp] theorem State.settleAppend_md (s : State) (o : OpRec) (how : Nat) : (State.settleAppend s o how).md = s.md := by
  unfold State.settleAppend
  repeat' (first | rfl | assumption | (apply foldl_md) | (apply foldl_md_fst) | (apply getD_md) | (intro _) | split | simp)
@[simp] theorem State.settleAppend_pending (s : State) (o : OpRec) (how : Nat) : (State.settleAppend s o how).pending = s.pending := by
  unfold State.settleAppend
  repeat' (first | rfl | assumption | (apply foldl_pending) | (apply foldl_pending_fst) | (apply getD_pending) | (intro _) | split | simp)
@[simp] theorem State.localDeltas_md (s : State) (o : OpRec) : (State.localDeltas s o).md = s.md := by simp [State.localDeltas]
@[simp] theorem State.localDeltas_pending (s : State) (o : OpRec) : (State.localDeltas s o).pending = s.pending := by simp [State.localDeltas]
@[simp] theorem State.settle_md (s : State) (frn : Nat) (sub : Nat) (x : OpOutcome) : (State.settle s frn sub x).md = s.md := by
  unfold State.settle
  repeat' (first | rfl | assumption | (apply foldl_md) | (apply foldl_md_fst) | (apply getD_md) | (intro _) | split | simp)
@[simp] theorem State.settle_pending (s : State) (frn : Nat) (sub : Nat) (x : OpOutcome) : (State.settle s frn sub x).pending = s.pending := by
  unfold State.settle
  repeat' (first | rfl | assumption | (apply foldl_pending) | (apply foldl_pending_fst) | (apply getD_pending) | (intro _) | split | simp)
@[simp] theorem State.tellTarget_md (s : State) (d : Decision) (t : RTarget) : (State.tellTarget s d t).md = s.md := by simp [State.tellTarget]
@[simp] theorem State.tellTarget_pending (s : State) (d : Decision) (t : RTarget) : (State.tellTarget s d t).pending = s.pending := by simp [State.tellTarget]
@[simp] theorem State.applyDecision_md (s : State) (d : Decision) : (State.applyDecision s d).md = s.md := by
  unfold State.applyDecision
  repeat' (first | rfl | assumption | (apply foldl_md) | (apply foldl_md_fst) | (apply getD_md) | (intro _) | split | simp)
@[simp] theorem State.applyDecision_pending (s : State) (d : Decision) : (State.applyDecision s d).pending = s.pending := by
  unfold State.applyDecision
  repeat' (first | rfl | assumption | (apply foldl_pending) | (apply foldl_pending_fst) | (apply getD_pending) | (intro _) | split | simp)
@[simp] theorem State.pruneDecs_md (s : State) : (State.pruneDecs s).md = s.md := by simp [State.pruneDecs]
@[simp] theorem State.pruneDecs_pending (s : State) : (State.pruneDecs s).pending = s.pending := by simp [State.pruneDecs]
@[simp] theorem State.freeRefusal_md (s : State) : (State.freeRefusal s).1.md = s.md := by simp [State.freeRefusal]
theorem State.freeRefusal_md_eq {s : State} {res_} (h : (State.freeRefusal s) = res_) : res_.1.md = s.md := by subst h; exact State.freeRefusal_md s
theorem State.freeRefusal_md_eq2 {s : State} {t_ x_} (h : (State.freeRefusal s) = (t_, x_)) : t_.md = s.md := State.freeRefusal_md_eq h
@[simp] theorem State.freeRefusal_pending (s : State) : (State.freeRefusal s).1.pending = s.pending := by simp [State.freeRefusal]
theorem State.freeRefusal_pending_eq {s : State} {res_} (h : (State.freeRefusal s) = res_) : res_.1.pending = s.pending := by subst h; exact State.freeRefusal_pending s
theorem State.freeRefusal_pending_eq2 {s : State} {t_ x_} (h : (State.freeRefusal s) = (t_, x_)) : t_.pending = s.pending := State.freeRefusal_pending_eq h
@[simp] theorem State.putLock_md (s : State) (l : Lock) : (State.putLock s l).md = s.md := by simp [State.putLock]
@[simp] theorem State.putLock_pending (s : State) (l : Lock) : (State.putLock s l).pending = s.pending := by simp [State.putLock]
@[simp] theorem State.seeToken_md (s : State) (init : Nat) (token : Nat) : (State.seeToken s init token).md = s.md := by simp [State.seeToken]
@[simp] theorem State.seeToken_pending (s : State) (init : Nat) (token : Nat) : (State.seeToken s init token).pending = s.pending := by simp [State.seeToken]
@[simp] theorem State.putScope_md (s : State) (x : Scope) : (State.putScope s x).md = s.md := by simp [State.putScope]
@[simp] theorem State.putScope_pending (s : State) (x : Scope) : (State.putScope s x).pending = s.pending := by simp [State.putScope]
@[simp] theorem State.discard_md (s : State) (x : Scope) : (State.discard s x).md = s.md := by simp [State.discard]
@[simp] theorem State.discard_pending (s : State) (x : Scope) : (State.discard s x).pending = s.pending := by simp [State.discard]
@[simp] theorem State.freeScope_md (s : State) (x : Scope) : (State.freeScope s x).md = s.md := by simp [State.freeScope]
@[simp] theorem State.freeScope_pending (s : State) (x : Scope) : (State.freeScope s x).pending = s.pending := by simp [State.freeScope]
@[simp] theorem State.scopeFor_md (s : State) (win : Nat) (init : Nat) (asn : Nat) (attempt : Nat) : (State.scopeFor s win init asn attempt).1.md = s.md := by
  unfold State.scopeFor
  repeat' (first | rfl | assumption | (apply foldl_md) | (apply foldl_md_fst) | (apply getD_md) | (intro _) | split | simp)
theorem State.scopeFor_md_eq {s : State} {win : Nat} {init : Nat} {asn : Nat} {attempt : Nat} {res_} (h : (State.scopeFor s win init asn attempt) = res_) : res_.1.md = s.md := by subst h; exact State.scopeFor_md s win init asn attempt
theorem State.scopeFor_md_eq2 {s : State} {win : Nat} {init : Nat} {asn : Nat} {attempt : Nat} {t_ x_} (h : (State.scopeFor s win init asn attempt) = (t_, x_)) : t_.md = s.md := State.scopeFor_md_eq h
@[simp] theorem State.scopeFor_pending (s : State) (win : Nat) (init : Nat) (asn : Nat) (attempt : Nat) : (State.scopeFor s win init asn attempt).1.pending = s.pending := by
  unfold State.scopeFor
  repeat' (first | rfl | assumption | (apply foldl_pending) | (apply foldl_pending_fst) | (apply getD_pending) | (intro _) | split | simp)
theorem State.scopeFor_pending_eq {s : State} {win : Nat} {init : Nat} {asn : Nat} {attempt : Nat} {res_} (h : (State.scopeFor s win init asn attempt) = res_) : res_.1.pending = s.pending := by subst h; exact State.scopeFor_pending s win init asn attempt
theorem State.scopeFor_pending_eq2 {s : State} {win : Nat} {init : Nat} {asn : Nat} {attempt : Nat} {t_ x_} (h : (State.scopeFor s win init asn attempt) = (t_, x_)) : t_.pending = s.pending := State.scopeFor_pending_eq h
@[simp] theorem State.refuseScope_md (s : State) (win : Nat) (init : Nat) (asn : Nat) (status : Nat) : (State.refuseScope s win init asn status).md = s.md := by
  unfold State.refuseScope
  repeat' (first | rfl | assumption | (apply foldl_md) | (apply foldl_md_fst) | (apply getD_md) | (intro _) | split | simp)
@[simp] theorem State.refuseScope_pending (s : State) (win : Nat) (init : Nat) (asn : Nat) (status : Nat) : (State.refuseScope s win init asn status).pending = s.pending := by
  unfold State.refuseScope
  repeat' (first | rfl | assumption | (apply foldl_pending) | (apply foldl_pending_fst) | (apply getD_pending) | (intro _) | split | simp)
theorem State.stagePart_md_eq {s : State} {num : Nat} {p : Place} {off : Nat} {bs : List Byte} {t} (h : (State.stagePart s num p off bs) = some t) : t.md = s.md := by
  unfold State.stagePart at h
  dsimp only at h
  simp only [Option.bind_eq_some_iff] at h
  obtain ⟨u, hu, hw⟩ := h
  rw [State.writeRange_md_eq hw]
  split at hu
  · cases hu; rfl
  · exact State.forkPage_md_eq hu
theorem State.stagePart_pending_eq {s : State} {num : Nat} {p : Place} {off : Nat} {bs : List Byte} {t} (h : (State.stagePart s num p off bs) = some t) : t.pending = s.pending := by
  unfold State.stagePart at h
  dsimp only at h
  simp only [Option.bind_eq_some_iff] at h
  obtain ⟨u, hu, hw⟩ := h
  rw [State.writeRange_pending_eq hw]
  split at hu
  · cases hu; rfl
  · exact State.forkPage_pending_eq hu
theorem State.stageAll_md_eq {s : State} {num : Nat} {p : Place} {x0 : Nat} {x1 : Nat} {x2 : List Byte} {t} (h : (State.stageAll s num p x0 x1 x2) = some t) : t.md = s.md := by
  induction x0 generalizing s x1 x2 with
  | zero => rw [State.stageAll] at h; cases h; rfl
  | succ k ih =>
    rw [State.stageAll] at h
    split at h
    · cases h; rfl
    · simp only [Option.bind_eq_some_iff] at h
      obtain ⟨u, hu, hw⟩ := h
      rw [ih hw, State.stagePart_md_eq hu]
theorem State.stageAll_pending_eq {s : State} {num : Nat} {p : Place} {x0 : Nat} {x1 : Nat} {x2 : List Byte} {t} (h : (State.stageAll s num p x0 x1 x2) = some t) : t.pending = s.pending := by
  induction x0 generalizing s x1 x2 with
  | zero => rw [State.stageAll] at h; cases h; rfl
  | succ k ih =>
    rw [State.stageAll] at h
    split at h
    · cases h; rfl
    · simp only [Option.bind_eq_some_iff] at h
      obtain ⟨u, hu, hw⟩ := h
      rw [ih hw, State.stagePart_pending_eq hu]
@[simp] theorem State.prepOne_md (s : State) (win : Nat) (init : Nat) (frn : Nat) (sub : Nat) (x : Nat × Nat) : (State.prepOne s win init frn sub x).1.md = s.md := by
  unfold State.prepOne
  repeat' (first | rfl | assumption | (apply foldl_md) | (apply foldl_md_fst) | (apply getD_md) | (intro _) | split | simp)
theorem State.prepOne_md_eq {s : State} {win : Nat} {init : Nat} {frn : Nat} {sub : Nat} {x : Nat × Nat} {res_} (h : (State.prepOne s win init frn sub x) = res_) : res_.1.md = s.md := by subst h; exact State.prepOne_md s win init frn sub x
theorem State.prepOne_md_eq2 {s : State} {win : Nat} {init : Nat} {frn : Nat} {sub : Nat} {x : Nat × Nat} {t_ x_} (h : (State.prepOne s win init frn sub x) = (t_, x_)) : t_.md = s.md := State.prepOne_md_eq h
@[simp] theorem State.prepOne_pending (s : State) (win : Nat) (init : Nat) (frn : Nat) (sub : Nat) (x : Nat × Nat) : (State.prepOne s win init frn sub x).1.pending = s.pending := by
  unfold State.prepOne
  repeat' (first | rfl | assumption | (apply foldl_pending) | (apply foldl_pending_fst) | (apply getD_pending) | (intro _) | split | simp)
theorem State.prepOne_pending_eq {s : State} {win : Nat} {init : Nat} {frn : Nat} {sub : Nat} {x : Nat × Nat} {res_} (h : (State.prepOne s win init frn sub x) = res_) : res_.1.pending = s.pending := by subst h; exact State.prepOne_pending s win init frn sub x
theorem State.prepOne_pending_eq2 {s : State} {win : Nat} {init : Nat} {frn : Nat} {sub : Nat} {x : Nat × Nat} {t_ x_} (h : (State.prepOne s win init frn sub x) = (t_, x_)) : t_.pending = s.pending := State.prepOne_pending_eq h
@[simp] theorem State.beginCommit_md (s : State) (x : Scope) : (State.beginCommit s x).md = s.md := by simp [State.beginCommit]
@[simp] theorem State.beginCommit_pending (s : State) (x : Scope) : (State.beginCommit s x).pending = s.pending := by simp [State.beginCommit]
@[simp] theorem State.finishCommit_md (s : State) (x : Scope) (port : Nat) : (State.finishCommit s x port).md = s.md := by simp [State.finishCommit]
@[simp] theorem State.finishCommit_pending (s : State) (x : Scope) (port : Nat) : (State.finishCommit s x port).pending = s.pending := by simp [State.finishCommit]
@[simp] theorem State.targetNo_md (s : State) (asn : Nat) (tgt : Nat) : (State.targetNo s asn tgt).md = s.md := by simp [State.targetNo]
@[simp] theorem State.targetNo_pending (s : State) (asn : Nat) (tgt : Nat) : (State.targetNo s asn tgt).pending = s.pending := by simp [State.targetNo]
@[simp] theorem State.remoteLate_md (s : State) (epid : Nat) (rwin : Nat) (frn : Nat) : (State.remoteLate s epid rwin frn).md = s.md := by simp [State.remoteLate]
@[simp] theorem State.remoteLate_pending (s : State) (epid : Nat) (rwin : Nat) (frn : Nat) : (State.remoteLate s epid rwin frn).pending = s.pending := by simp [State.remoteLate]
@[simp] theorem State.failXfer_md (s : State) (core : Nat) (eng : Nat) (id : Nat) (o : OpRec) (r : Region) : (State.failXfer s core eng id o r).md = s.md := by simp [State.failXfer]
@[simp] theorem State.failXfer_pending (s : State) (core : Nat) (eng : Nat) (id : Nat) (o : OpRec) (r : Region) : (State.failXfer s core eng id o r).pending = s.pending := by simp [State.failXfer]
@[simp] theorem State.atomicOp_md (s : State) (who : Asker) (op : Nat) (win : Nat) (off : Nat) (a : Nat) (b : Nat) (lock : Nat) : (State.atomicOp s who op win off a b lock).1.md = s.md := by
  unfold State.atomicOp
  split
  · rfl
  · rfl
  · dsimp only
    repeat' (first | rfl | split | (simp; done) | (refine getD_md (fun t h => State.writeRange_md_eq h) rfl))
theorem State.atomicOp_md_eq {s : State} {who : Asker} {op : Nat} {win : Nat} {off : Nat} {a : Nat} {b : Nat} {lock : Nat} {res_} (h : (State.atomicOp s who op win off a b lock) = res_) : res_.1.md = s.md := by subst h; exact State.atomicOp_md s who op win off a b lock
theorem State.atomicOp_md_eq2 {s : State} {who : Asker} {op : Nat} {win : Nat} {off : Nat} {a : Nat} {b : Nat} {lock : Nat} {t_ x_} (h : (State.atomicOp s who op win off a b lock) = (t_, x_)) : t_.md = s.md := State.atomicOp_md_eq h
@[simp] theorem State.atomicOp_pending (s : State) (who : Asker) (op : Nat) (win : Nat) (off : Nat) (a : Nat) (b : Nat) (lock : Nat) : (State.atomicOp s who op win off a b lock).1.pending = s.pending := by
  unfold State.atomicOp
  split
  · rfl
  · rfl
  · dsimp only
    repeat' (first | rfl | split | (simp; done) | (refine getD_pending (fun t h => State.writeRange_pending_eq h) rfl))
theorem State.atomicOp_pending_eq {s : State} {who : Asker} {op : Nat} {win : Nat} {off : Nat} {a : Nat} {b : Nat} {lock : Nat} {res_} (h : (State.atomicOp s who op win off a b lock) = res_) : res_.1.pending = s.pending := by subst h; exact State.atomicOp_pending s who op win off a b lock
theorem State.atomicOp_pending_eq2 {s : State} {who : Asker} {op : Nat} {win : Nat} {off : Nat} {a : Nat} {b : Nat} {lock : Nat} {t_ x_} (h : (State.atomicOp s who op win off a b lock) = (t_, x_)) : t_.pending = s.pending := State.atomicOp_pending_eq h
@[simp] theorem State.lockOp_md (s : State) (who : Asker) (op : Nat) (win : Nat) (token : Nat) (n : Nat) : (State.lockOp s who op win token n).1.md = s.md := by
  unfold State.lockOp
  repeat' (first | rfl | assumption | (apply foldl_md) | (apply foldl_md_fst) | (apply getD_md) | (intro _) | split | (refine (State.freeRefusal_md_eq (by assumption)).trans ?_) | simp)
theorem State.lockOp_md_eq {s : State} {who : Asker} {op : Nat} {win : Nat} {token : Nat} {n : Nat} {res_} (h : (State.lockOp s who op win token n) = res_) : res_.1.md = s.md := by subst h; exact State.lockOp_md s who op win token n
theorem State.lockOp_md_eq2 {s : State} {who : Asker} {op : Nat} {win : Nat} {token : Nat} {n : Nat} {t_ x_} (h : (State.lockOp s who op win token n) = (t_, x_)) : t_.md = s.md := State.lockOp_md_eq h
@[simp] theorem State.lockOp_pending (s : State) (who : Asker) (op : Nat) (win : Nat) (token : Nat) (n : Nat) : (State.lockOp s who op win token n).1.pending = s.pending := by
  unfold State.lockOp
  repeat' (first | rfl | assumption | (apply foldl_pending) | (apply foldl_pending_fst) | (apply getD_pending) | (intro _) | split | (refine (State.freeRefusal_pending_eq (by assumption)).trans ?_) | simp)
theorem State.lockOp_pending_eq {s : State} {who : Asker} {op : Nat} {win : Nat} {token : Nat} {n : Nat} {res_} (h : (State.lockOp s who op win token n) = res_) : res_.1.pending = s.pending := by subst h; exact State.lockOp_pending s who op win token n
theorem State.lockOp_pending_eq2 {s : State} {who : Asker} {op : Nat} {win : Nat} {token : Nat} {n : Nat} {t_ x_} (h : (State.lockOp s who op win token n) = (t_, x_)) : t_.pending = s.pending := State.lockOp_pending_eq h
@[simp] theorem State.mailboxDone_md (s : State) (pg : Nat) (status : Nat) (res : Nat) : (State.mailboxDone s pg status res).md = s.md := by simp [State.mailboxDone]
@[simp] theorem State.mailboxDone_pending (s : State) (pg : Nat) (status : Nat) (res : Nat) : (State.mailboxDone s pg status res).pending = s.pending := by simp [State.mailboxDone]
@[simp] theorem State.mailboxGo_md (s : State) (op : Nat) (via : Nat × Option Nat × Nat × BitVec 4 × Word) : (State.mailboxGo s op via).1.md = s.md := by
  unfold State.mailboxGo
  dsimp only
  have w := State.wrFront_md s via.1 via.2.1 via.2.2.1 via.2.2.2.1
  split
  · rename_i h; rw [h] at w; exact w
  · rename_i h; rw [h] at w
    split
    · exact w
    · simpa using w
theorem State.mailboxGo_md_eq {s : State} {op : Nat} {via : Nat × Option Nat × Nat × BitVec 4 × Word} {res_} (h : (State.mailboxGo s op via) = res_) : res_.1.md = s.md := by subst h; exact State.mailboxGo_md s op via
theorem State.mailboxGo_md_eq2 {s : State} {op : Nat} {via : Nat × Option Nat × Nat × BitVec 4 × Word} {t_ x_} (h : (State.mailboxGo s op via) = (t_, x_)) : t_.md = s.md := State.mailboxGo_md_eq h
@[simp] theorem State.mailboxGo_pending (s : State) (op : Nat) (via : Nat × Option Nat × Nat × BitVec 4 × Word) : (State.mailboxGo s op via).1.pending = s.pending := by
  unfold State.mailboxGo
  dsimp only
  have w := State.wrFront_pending s via.1 via.2.1 via.2.2.1 via.2.2.2.1
  split
  · rename_i h; rw [h] at w; exact w
  · rename_i h; rw [h] at w
    split
    · exact w
    · simpa using w
theorem State.mailboxGo_pending_eq {s : State} {op : Nat} {via : Nat × Option Nat × Nat × BitVec 4 × Word} {res_} (h : (State.mailboxGo s op via) = res_) : res_.1.pending = s.pending := by subst h; exact State.mailboxGo_pending s op via
theorem State.mailboxGo_pending_eq2 {s : State} {op : Nat} {via : Nat × Option Nat × Nat × BitVec 4 × Word} {t_ x_} (h : (State.mailboxGo s op via) = (t_, x_)) : t_.pending = s.pending := State.mailboxGo_pending_eq h
@[simp] theorem State.atomicCmd_md (s : State) (op : Nat) (via : Option (Nat × Option Nat × Nat × BitVec 4 × Word)) (port : Nat) (init : Nat) (win : Nat) (off : Nat) (a : Nat) (b : Nat) (lock : Nat) : (State.atomicCmd s op via port init win off a b lock).md = s.md := by
  unfold State.atomicCmd
  repeat' (first | rfl | assumption | (apply foldl_md) | (apply foldl_md_fst) | (apply getD_md) | (intro _) | split | (refine (State.mailboxGo_md_eq (by assumption)).trans ?_) | (refine (State.atomicOp_md_eq (by assumption)).trans ?_) | simp)
@[simp] theorem State.atomicCmd_pending (s : State) (op : Nat) (via : Option (Nat × Option Nat × Nat × BitVec 4 × Word)) (port : Nat) (init : Nat) (win : Nat) (off : Nat) (a : Nat) (b : Nat) (lock : Nat) : (State.atomicCmd s op via port init win off a b lock).pending = s.pending := by
  unfold State.atomicCmd
  repeat' (first | rfl | assumption | (apply foldl_pending) | (apply foldl_pending_fst) | (apply getD_pending) | (intro _) | split | (refine (State.mailboxGo_pending_eq (by assumption)).trans ?_) | (refine (State.atomicOp_pending_eq (by assumption)).trans ?_) | simp)
@[simp] theorem State.lockCmd_md (s : State) (op : Nat) (via : Option (Nat × Option Nat × Nat × BitVec 4 × Word)) (port : Nat) (init : Nat) (win : Nat) (token : Nat) (n : Nat) : (State.lockCmd s op via port init win token n).md = s.md := by
  unfold State.lockCmd
  repeat' (first | rfl | assumption | (apply foldl_md) | (apply foldl_md_fst) | (apply getD_md) | (intro _) | split | (refine (State.mailboxGo_md_eq (by assumption)).trans ?_) | (refine (State.lockOp_md_eq (by assumption)).trans ?_) | simp)
@[simp] theorem State.lockCmd_pending (s : State) (op : Nat) (via : Option (Nat × Option Nat × Nat × BitVec 4 × Word)) (port : Nat) (init : Nat) (win : Nat) (token : Nat) (n : Nat) : (State.lockCmd s op via port init win token n).pending = s.pending := by
  unfold State.lockCmd
  repeat' (first | rfl | assumption | (apply foldl_pending) | (apply foldl_pending_fst) | (apply getD_pending) | (intro _) | split | (refine (State.mailboxGo_pending_eq (by assumption)).trans ?_) | (refine (State.lockOp_pending_eq (by assumption)).trans ?_) | simp)
@[simp] theorem State.rewatch_md (old : State) (new : State) (p : Nat) : (State.rewatch old new p).md = new.md := by simp [State.rewatch]
@[simp] theorem State.rewatch_pending (old : State) (new : State) (p : Nat) : (State.rewatch old new p).pending = new.pending := by simp [State.rewatch]
@[simp] theorem State.busy_md (s : State) (r : Reg) (port : Nat) (vf : Option Nat) (off : Nat) : (State.busy s r port vf off).md = s.md := by simp [State.busy]
@[simp] theorem State.busy_pending (s : State) (r : Reg) (port : Nat) (vf : Option Nat) (off : Nat) : (State.busy s r port vf off).pending = s.pending := by simp [State.busy]
@[simp] theorem State.startRing_md (s : State) (pg : Nat) (n : Nat) : (State.startRing s pg n).md = s.md := by simp [State.startRing]
@[simp] theorem State.startRing_pending (s : State) (pg : Nat) (n : Nat) : (State.startRing s pg n).pending = s.pending := by simp [State.startRing]
@[simp] theorem State.stopRing_md (s : State) (pg : Nat) (n : Nat) : (State.stopRing s pg n).md = s.md := by simp [State.stopRing]
@[simp] theorem State.stopRing_pending (s : State) (pg : Nat) (n : Nat) : (State.stopRing s pg n).pending = s.pending := by simp [State.stopRing]
@[simp] theorem State.downLink_md (s : State) (p : Nat) : (State.downLink s p).md = s.md := by simp [State.downLink]
@[simp] theorem State.downLink_pending (s : State) (p : Nat) : (State.downLink s p).pending = s.pending := by simp [State.downLink]
@[simp] theorem State.sendHeld_md (s : State) (p : Nat) (f : Nat) : (State.sendHeld s p f).md = s.md := by simp [State.sendHeld]
@[simp] theorem State.sendHeld_pending (s : State) (p : Nat) (f : Nat) : (State.sendHeld s p f).pending = s.pending := by simp [State.sendHeld]
@[simp] theorem State.endVfs_md (s : State) (p : Nat) : (State.endVfs s p).md = s.md := by simp [State.endVfs]
@[simp] theorem State.endVfs_pending (s : State) (p : Nat) : (State.endVfs s p).pending = s.pending := by simp [State.endVfs]
theorem State.hostPut_md_eq {s : State} {regions : List Region} {a : Nat} {b : Byte} {t} (h : (State.hostPut s regions a b) = some t) : t.md = s.md := State.writeRange_md_eq h
theorem State.hostPut_pending_eq {s : State} {regions : List Region} {a : Nat} {b : Byte} {t} (h : (State.hostPut s regions a b) = some t) : t.pending = s.pending := State.writeRange_pending_eq h
@[simp] theorem State.accessErr_md (s : State) (p : Nat) (detail : Nat) (addr : Nat) : (State.accessErr s p detail addr).md = s.md := by simp [State.accessErr]
@[simp] theorem State.accessErr_pending (s : State) (p : Nat) (detail : Nat) (addr : Nat) : (State.accessErr s p detail addr).pending = s.pending := by simp [State.accessErr]
@[simp] theorem State.track_md (s : State) (p : Nat) (line : Nat) : (State.track s p line).md = s.md := by simp [State.track]
@[simp] theorem State.track_pending (s : State) (p : Nat) (line : Nat) : (State.track s p line).pending = s.pending := by simp [State.track]
@[simp] theorem State.hostRead_md (s : State) (p : Nat) (x : HeldRead) (regions : List Region) : (State.hostRead s p x regions).md = s.md := by simp [State.hostRead]
@[simp] theorem State.hostRead_pending (s : State) (p : Nat) (x : HeldRead) (regions : List Region) : (State.hostRead s p x regions).pending = s.pending := by simp [State.hostRead]
@[simp] theorem State.startSeg_md (s : State) (c : Nat) (asn : Nat) : (State.startSeg s c asn).md = s.md := by
  unfold State.startSeg
  repeat' (first | rfl | assumption | (apply foldl_md) | (apply foldl_md_fst) | (apply getD_md) | (intro _) | split | simp)
@[simp] theorem State.startSeg_pending (s : State) (c : Nat) (asn : Nat) : (State.startSeg s c asn).pending = s.pending := by
  unfold State.startSeg
  repeat' (first | rfl | assumption | (apply foldl_pending) | (apply foldl_pending_fst) | (apply getD_pending) | (intro _) | split | simp)
@[simp] theorem State.startSegs_md (s : State) (c : Nat) : (State.startSegs s c).md = s.md := by simp [State.startSegs]
@[simp] theorem State.startSegs_pending (s : State) (c : Nat) : (State.startSegs s c).pending = s.pending := by simp [State.startSegs]
@[simp] theorem State.addSeg_md (s : State) (c : Nat) (o : OpRec) (items : List Item) : (State.addSeg s c o items).md = s.md := by simp [State.addSeg]
@[simp] theorem State.addSeg_pending (s : State) (c : Nat) (o : OpRec) (items : List Item) : (State.addSeg s c o items).pending = s.pending := by simp [State.addSeg]
@[simp] theorem State.putPlaced_md (s : State) (x : Nat × Placed) : (State.putPlaced s x).md = s.md := by
  unfold State.putPlaced
  repeat' (first | rfl | assumption | (apply foldl_md) | (apply foldl_md_fst) | (apply getD_md) | (intro _) | split | simp)
@[simp] theorem State.putPlaced_pending (s : State) (x : Nat × Placed) : (State.putPlaced s x).pending = s.pending := by
  unfold State.putPlaced
  repeat' (first | rfl | assumption | (apply foldl_pending) | (apply foldl_pending_fst) | (apply getD_pending) | (intro _) | split | simp)
@[simp] theorem State.dispatchOn_md (s : State) (o : OpRec) (c : Nat) : (State.dispatchOn s o c).md = s.md := by simp [State.dispatchOn]
@[simp] theorem State.dispatchOn_pending (s : State) (o : OpRec) (c : Nat) : (State.dispatchOn s o c).pending = s.pending := by simp [State.dispatchOn]
@[simp] theorem State.moveItem_md (s : State) (victim : Nat) (thief : Nat) (x : Seg × Item) : (State.moveItem s victim thief x).md = s.md := by
  unfold State.moveItem
  repeat' (first | rfl | assumption | (apply foldl_md) | (apply foldl_md_fst) | (apply getD_md) | (intro _) | split | simp)
@[simp] theorem State.moveItem_pending (s : State) (victim : Nat) (thief : Nat) (x : Seg × Item) : (State.moveItem s victim thief x).pending = s.pending := by
  unfold State.moveItem
  repeat' (first | rfl | assumption | (apply foldl_pending) | (apply foldl_pending_fst) | (apply getD_pending) | (intro _) | split | simp)
@[simp] theorem State.placeShards_md (s : State) (changed : List Nat) : (State.placeShards s changed).md = s.md := by
  unfold State.placeShards
  dsimp only
  exact foldl_md (fun t n => by simp) rfl
@[simp] theorem State.placeShards_pending (s : State) (changed : List Nat) : (State.placeShards s changed).pending = s.pending := by
  unfold State.placeShards
  dsimp only
  exact foldl_pending (fun t n => by simp) rfl
@[simp] theorem State.snoopShared_md (s : State) (port : Nat) (addr : Nat) : (State.snoopShared s port addr).md = s.md := by
  unfold State.snoopShared
  repeat' (first | rfl | assumption | (apply foldl_md) | (apply foldl_md_fst) | (apply getD_md) | (intro _) | split | simp)
@[simp] theorem State.snoopShared_pending (s : State) (port : Nat) (addr : Nat) : (State.snoopShared s port addr).pending = s.pending := by
  unfold State.snoopShared
  repeat' (first | rfl | assumption | (apply foldl_pending) | (apply foldl_pending_fst) | (apply getD_pending) | (intro _) | split | simp)
@[simp] theorem State.rejectNext_md (s : State) (c : Cand) (status : Nat) (info : Nat) : (State.rejectNext s c status info).md = s.md := by simp [State.rejectNext]
@[simp] theorem State.rejectNext_pending (s : State) (c : Cand) (status : Nat) (info : Nat) : (State.rejectNext s c status info).pending = s.pending := by simp [State.rejectNext]
@[simp] theorem State.noteScratch_md (s : State) (o : OpRec) : (State.noteScratch s o).md = s.md := by simp [State.noteScratch]
@[simp] theorem State.noteScratch_pending (s : State) (o : OpRec) : (State.noteScratch s o).pending = s.pending := by simp [State.noteScratch]
@[simp] theorem State.journal_md (s : State) (c : Cand) (t : Stamp) : (State.journal s c t).md = s.md := by simp [State.journal]
@[simp] theorem State.journal_pending (s : State) (c : Cand) (t : Stamp) : (State.journal s c t).pending = s.pending := by simp [State.journal]
@[simp] theorem State.expireWait_md (s : State) (o : OpRec) : (State.expireWait s o).md = s.md := by
  unfold State.expireWait
  repeat' (first | rfl | assumption | (apply foldl_md) | (apply foldl_md_fst) | (apply getD_md) | (intro _) | split | simp)
@[simp] theorem State.expireWait_pending (s : State) (o : OpRec) : (State.expireWait s o).pending = s.pending := by
  unfold State.expireWait
  repeat' (first | rfl | assumption | (apply foldl_pending) | (apply foldl_pending_fst) | (apply getD_pending) | (intro _) | split | simp)
@[simp] theorem State.backInvalidate_md (s : State) (o : OpRec) : (State.backInvalidate s o).md = s.md := by simp [State.backInvalidate]
@[simp] theorem State.backInvalidate_pending (s : State) (o : OpRec) : (State.backInvalidate s o).pending = s.pending := by simp [State.backInvalidate]
@[simp] theorem State.noteUrgent_md (s : State) : (State.noteUrgent s).md = s.md := by simp [State.noteUrgent]
@[simp] theorem State.noteUrgent_pending (s : State) : (State.noteUrgent s).pending = s.pending := by simp [State.noteUrgent]
@[simp] theorem State.urgentGuard_md (s : State) (o : OpRec) : (State.urgentGuard s o).md = s.md := by simp [State.urgentGuard]
@[simp] theorem State.urgentGuard_pending (s : State) (o : OpRec) : (State.urgentGuard s o).pending = s.pending := by simp [State.urgentGuard]
@[simp] theorem State.putVote_md (s : State) (v : Vote) : (State.putVote s v).md = s.md := by simp [State.putVote]
@[simp] theorem State.putVote_pending (s : State) (v : Vote) : (State.putVote s v).pending = s.pending := by simp [State.putVote]
@[simp] theorem State.voteUrgent_md (s : State) (cores : List Nat) : (State.voteUrgent s cores).md = s.md := by simp [State.voteUrgent]
@[simp] theorem State.voteUrgent_pending (s : State) (cores : List Nat) : (State.voteUrgent s cores).pending = s.pending := by simp [State.voteUrgent]
@[simp] theorem State.acceptTick_md (s : State) (d : Nat) (frn : Nat) (token : Nat) : (State.acceptTick s d frn token).md = s.md := by simp [State.acceptTick]
@[simp] theorem State.acceptTick_pending (s : State) (d : Nat) (frn : Nat) (token : Nat) : (State.acceptTick s d frn token).pending = s.pending := by simp [State.acceptTick]
@[simp] theorem State.moveRing_md (s : State) (x : Nat × Nat) : (State.moveRing s x).md = s.md := by simp [State.moveRing]
@[simp] theorem State.moveRing_pending (s : State) (x : Nat × Nat) : (State.moveRing s x).pending = s.pending := by simp [State.moveRing]
@[simp] theorem State.excludePorts_md (s : State) : (State.excludePorts s).md = s.md := by simp [State.excludePorts]
@[simp] theorem State.excludePorts_pending (s : State) : (State.excludePorts s).pending = s.pending := by simp [State.excludePorts]
@[simp] theorem State.qlSwitch_md (s : State) : (State.qlSwitch s).md = s.md := by simp [State.qlSwitch]
@[simp] theorem State.qlSwitch_pending (s : State) : (State.qlSwitch s).pending = s.pending := by simp [State.qlSwitch]
@[simp] theorem State.unmask_md (s : State) : (State.unmask s).md = s.md := by simp [State.unmask]
@[simp] theorem State.unmask_pending (s : State) : (State.unmask s).pending = s.pending := by simp [State.unmask]
@[simp] theorem State.thermPin_md (s : State) : (State.thermPin s).md = s.md := by simp [State.thermPin]
@[simp] theorem State.thermPin_pending (s : State) : (State.thermPin s).pending = s.pending := by simp [State.thermPin]
@[simp] theorem State.throttleAt_md (s : State) (power : Nat) (hottest : Nat) : (State.throttleAt s power hottest).md = s.md := by simp [State.throttleAt]
@[simp] theorem State.throttleAt_pending (s : State) (power : Nat) (hottest : Nat) : (State.throttleAt s power hottest).pending = s.pending := by simp [State.throttleAt]
@[simp] theorem State.noteFirst_md (s : State) (cutoff : Stamp) : (State.noteFirst s cutoff).md = s.md := by simp [State.noteFirst]
@[simp] theorem State.noteFirst_pending (s : State) (cutoff : Stamp) : (State.noteFirst s cutoff).pending = s.pending := by simp [State.noteFirst]
@[simp] theorem State.applyPending_md (s : State) : (State.applyPending s).md = s.md := by simp [State.applyPending]
@[simp] theorem State.applyPending_pending (s : State) : (State.applyPending s).pending = s.pending := by simp [State.applyPending]
@[simp] theorem State.beginFrame_md (s : State) (T : Nat) (frn : Nat) : (State.beginFrame s T frn).md = s.md := by simp [State.beginFrame]
@[simp] theorem State.beginFrame_pending (s : State) (T : Nat) (frn : Nat) : (State.beginFrame s T frn).pending = s.pending := by simp [State.beginFrame]
@[simp] theorem State.fenceMeter_md (s : State) : (State.fenceMeter s).md = s.md := by simp [State.fenceMeter]
@[simp] theorem State.fenceMeter_pending (s : State) : (State.fenceMeter s).pending = s.pending := by simp [State.fenceMeter]
@[simp] theorem State.sendFences_md (s : State) : (State.sendFences s).md = s.md := by simp [State.sendFences]
@[simp] theorem State.sendFences_pending (s : State) : (State.sendFences s).pending = s.pending := by simp [State.sendFences]
@[simp] theorem State.abortPoint_md (s : State) (frn : Nat) (sub : Nat) (scope : List OpRec) (cause : Nat) (fence : Bool) : (State.abortPoint s frn sub scope cause fence).md = s.md := by simp [State.abortPoint]
@[simp] theorem State.abortPoint_pending (s : State) (frn : Nat) (sub : Nat) (scope : List OpRec) (cause : Nat) (fence : Bool) : (State.abortPoint s frn sub scope cause fence).pending = s.pending := by simp [State.abortPoint]
@[simp] theorem State.finishTakeover_md (s : State) : (State.finishTakeover s).md = s.md := by simp [State.finishTakeover]
@[simp] theorem State.finishTakeover_pending (s : State) : (State.finishTakeover s).pending = s.pending := by simp [State.finishTakeover]
@[simp] theorem State.fenceDone_md (s : State) (who : Nat) : (State.fenceDone s who).md = s.md := by simp [State.fenceDone]
@[simp] theorem State.fenceDone_pending (s : State) (who : Nat) : (State.fenceDone s who).pending = s.pending := by simp [State.fenceDone]
@[simp] theorem State.timeBits_md (s : State) (locked : Bool) (holdover : Bool) : (State.timeBits s locked holdover).md = s.md := by simp [State.timeBits]
@[simp] theorem State.timeBits_pending (s : State) (locked : Bool) (holdover : Bool) : (State.timeBits s locked holdover).pending = s.pending := by simp [State.timeBits]
@[simp] theorem State.timeOffset_md (s : State) (x : Int) : (State.timeOffset s x).md = s.md := by simp [State.timeOffset]
@[simp] theorem State.timeOffset_pending (s : State) (x : Int) : (State.timeOffset s x).pending = s.pending := by simp [State.timeOffset]
@[simp] theorem State.lockTime_md (s : State) : (State.lockTime s).md = s.md := by simp [State.lockTime]
@[simp] theorem State.lockTime_pending (s : State) : (State.lockTime s).pending = s.pending := by simp [State.lockTime]
@[simp] theorem State.loseTime_md (s : State) : (State.loseTime s).md = s.md := by simp [State.loseTime]
@[simp] theorem State.loseTime_pending (s : State) : (State.loseTime s).pending = s.pending := by simp [State.loseTime]
@[simp] theorem State.measured_md (s : State) (x : Int) : (State.measured s x).md = s.md := by simp [State.measured]
@[simp] theorem State.measured_pending (s : State) (x : Int) : (State.measured s x).pending = s.pending := by simp [State.measured]

end Sys2Proof.Machine
end

