-- ==== Sys2Proof/Laws/KeepsPackage.lean ====
section
/-! SUPPORT. No operation of boot, fabric, memory, faults, power, host links or resets changes the meter or the queue. -/

namespace Sys2Proof.Machine

@[simp] theorem State.onFd_md (s : State) (fd : Nat) (f : FdBoot → FdBoot) : (State.onFd s fd f).md = s.md := by simp [State.onFd]
@[simp] theorem State.onFd_pending (s : State) (fd : Nat) (f : FdBoot → FdBoot) : (State.onFd s fd f).pending = s.pending := by simp [State.onFd]
@[simp] theorem State.recoveryBoot_md (s : State) (fd : Nat) : (State.recoveryBoot s fd).md = s.md := by simp [State.recoveryBoot]
@[simp] theorem State.recoveryBoot_pending (s : State) (fd : Nat) : (State.recoveryBoot s fd).pending = s.pending := by simp [State.recoveryBoot]
@[simp] theorem State.bootFd_md (s : State) (fd : Nat) : (State.bootFd s fd).md = s.md := by simp [State.bootFd]
@[simp] theorem State.bootFd_pending (s : State) (fd : Nat) : (State.bootFd s fd).pending = s.pending := by simp [State.bootFd]
@[simp] theorem State.startStoker_md (s : State) (fd : Nat) : (State.startStoker s fd).md = s.md := by simp [State.startStoker]
@[simp] theorem State.startStoker_pending (s : State) (fd : Nat) : (State.startStoker s fd).pending = s.pending := by simp [State.startStoker]
@[simp] theorem State.fillStore_md (s : State) (fd : Nat) (rd : SlotRd) : (State.fillStore s fd rd).md = s.md := by simp [State.fillStore]
@[simp] theorem State.fillStore_pending (s : State) (fd : Nat) (rd : SlotRd) : (State.fillStore s fd rd).pending = s.pending := by simp [State.fillStore]
@[simp] theorem State.chooseMaster_md (s : State) : (State.chooseMaster s).md = s.md := by simp [State.chooseMaster]
@[simp] theorem State.chooseMaster_pending (s : State) : (State.chooseMaster s).pending = s.pending := by simp [State.chooseMaster]
@[simp] theorem State.failFdStart_md (s : State) (f : Nat) : (State.failFdStart s f).md = s.md := by simp [State.failFdStart]
@[simp] theorem State.failFdStart_pending (s : State) (f : Nat) : (State.failFdStart s f).pending = s.pending := by simp [State.failFdStart]
@[simp] theorem State.failPart_md (s : State) (i : Nat) : (State.failPart s i).md = s.md := by simp [State.failPart]
@[simp] theorem State.failPart_pending (s : State) (i : Nat) : (State.failPart s i).pending = s.pending := by simp [State.failPart]
@[simp] theorem State.recoverBits_md (s : State) (i : Nat) (b : Bool) : (State.recoverBits s i b).md = s.md := by simp [State.recoverBits]
@[simp] theorem State.recoverBits_pending (s : State) (i : Nat) (b : Bool) : (State.recoverBits s i b).pending = s.pending := by simp [State.recoverBits]
@[simp] theorem State.newSession_md (s : State) : (State.newSession s).md = s.md := by simp [State.newSession]
@[simp] theorem State.newSession_pending (s : State) : (State.newSession s).pending = s.pending := by simp [State.newSession]
@[simp] theorem State.showInputs_md (s : State) : (State.showInputs s).md = s.md := by simp [State.showInputs]
@[simp] theorem State.showInputs_pending (s : State) : (State.showInputs s).pending = s.pending := by simp [State.showInputs]
@[simp] theorem State.fresh_md (s : State) : (State.fresh s).md = s.md := by simp [State.fresh]
@[simp] theorem State.fresh_pending (s : State) : (State.fresh s).pending = s.pending := by simp [State.fresh]
@[simp] theorem State.bootPackage_md (s : State) (msel : Bool) (recov : Bool) (test : Bool) : (State.bootPackage s msel recov test).md = s.md := by simp [State.bootPackage]
@[simp] theorem State.bootPackage_pending (s : State) (msel : Bool) (recov : Bool) (test : Bool) : (State.bootPackage s msel recov test).pending = s.pending := by simp [State.bootPackage]
@[simp] theorem State.nextSlot_md (s : State) (fd : Nat) : (State.nextSlot s fd).md = s.md := by simp [State.nextSlot]
@[simp] theorem State.nextSlot_pending (s : State) (fd : Nat) : (State.nextSlot s fd).pending = s.pending := by simp [State.nextSlot]
@[simp] theorem State.noteSlot_md (s : State) (fd : Nat) : (State.noteSlot s fd).md = s.md := by simp [State.noteSlot]
@[simp] theorem State.noteSlot_pending (s : State) (fd : Nat) : (State.noteSlot s fd).pending = s.pending := by simp [State.noteSlot]
@[simp] theorem State.adopt_md (s : State) (fd : Nat) : (State.adopt s fd).md = s.md := by simp [State.adopt]
@[simp] theorem State.adopt_pending (s : State) (fd : Nat) : (State.adopt s fd).pending = s.pending := by simp [State.adopt]
@[simp] theorem State.flashGo_md (s : State) (port : Nat) (be : BitVec 4) (v : Nat) (op : Nat) : (State.flashGo s port be v op).md = s.md := by
  unfold State.flashGo
  have w := State.wrFront_md s port none offFlashCtl be
  split
  · rename_i h; rw [h] at w; exact w
  · rename_i h; rw [h] at w
    split
    · exact w
    · split
      · simpa using w
      · simpa using w
@[simp] theorem State.flashGo_pending (s : State) (port : Nat) (be : BitVec 4) (v : Nat) (op : Nat) : (State.flashGo s port be v op).pending = s.pending := by
  unfold State.flashGo
  have w := State.wrFront_pending s port none offFlashCtl be
  split
  · rename_i h; rw [h] at w; exact w
  · rename_i h; rw [h] at w
    split
    · exact w
    · split
      · simpa using w
      · simpa using w
@[simp] theorem State.flashAct_md (s : State) (fd : Nat) (op : Nat) (target : Nat) (slot : Nat) : (State.flashAct s fd op target slot).md = s.md := by
  unfold State.flashAct
  repeat' (first | rfl | assumption | (apply foldl_md) | (apply foldl_md_fst) | (apply getD_md) | (intro _) | split | simp)
@[simp] theorem State.flashAct_pending (s : State) (fd : Nat) (op : Nat) (target : Nat) (slot : Nat) : (State.flashAct s fd op target slot).pending = s.pending := by
  unfold State.flashAct
  repeat' (first | rfl | assumption | (apply foldl_pending) | (apply foldl_pending_fst) | (apply getD_pending) | (intro _) | split | simp)
@[simp] theorem State.countLink_md (s : State) (l : Nat × Nat) : (State.countLink s l).md = s.md := by simp [State.countLink]
@[simp] theorem State.countLink_pending (s : State) (l : Nat × Nat) : (State.countLink s l).pending = s.pending := by simp [State.countLink]
@[simp] theorem State.failLinks_md (s : State) (ls : List (Nat × Nat)) : (State.failLinks s ls).md = s.md := by simp [State.failLinks]
@[simp] theorem State.failLinks_pending (s : State) (ls : List (Nat × Nat)) : (State.failLinks s ls).pending = s.pending := by simp [State.failLinks]
@[simp] theorem State.keep_md (s : State) (src : Nat) (slice : Nat) (id : Nat) : (State.keep s src slice id).md = s.md := by simp [State.keep]
@[simp] theorem State.keep_pending (s : State) (src : Nat) (slice : Nat) (id : Nat) : (State.keep s src slice id).pending = s.pending := by simp [State.keep]
@[simp] theorem State.present_md (s : State) (h : Nat) (r : L2Req) : (State.present s h r).md = s.md := by simp [State.present]
@[simp] theorem State.present_pending (s : State) (h : Nat) (r : L2Req) : (State.present s h r).pending = s.pending := by simp [State.present]
@[simp] theorem State.memErr_md (s : State) (h : Nat) (lo : Nat) (n : Nat) : (State.memErr s h lo n).md = s.md := by simp [State.memErr]
@[simp] theorem State.memErr_pending (s : State) (h : Nat) (lo : Nat) (n : Nat) : (State.memErr s h lo n).pending = s.pending := by simp [State.memErr]
@[simp] theorem State.voteHeld_md (s : State) (h : Nat) : (State.voteHeld s h).md = s.md := by simp [State.voteHeld]
@[simp] theorem State.voteHeld_pending (s : State) (h : Nat) : (State.voteHeld s h).pending = s.pending := by simp [State.voteHeld]
@[simp] theorem State.dropSector_md (s : State) (h : Nat) (ln : Nat) (sec : Nat) : (State.dropSector s h ln sec).md = s.md := by simp [State.dropSector]
@[simp] theorem State.dropSector_pending (s : State) (h : Nat) (ln : Nat) (sec : Nat) : (State.dropSector s h ln sec).pending = s.pending := by simp [State.dropSector]
@[simp] theorem State.l2Error_md (s : State) (h : Nat) (x : Nat) (err : Nat) : (State.l2Error s h x err).md = s.md := by
  unfold State.l2Error
  dsimp only
  repeat' (first | (simp; done) | split)
@[simp] theorem State.l2Error_pending (s : State) (h : Nat) (x : Nat) (err : Nat) : (State.l2Error s h x err).pending = s.pending := by
  unfold State.l2Error
  dsimp only
  repeat' (first | (simp; done) | split)
theorem State.writeAddr_md_eq {s : State} {src : Nat} {addr : Nat} {asn : Nat} {size : Option Nat} {mirrored : Bool} {t x} (h : (State.writeAddr s src addr asn size mirrored) = some (t, x)) : t.md = s.md := by
  unfold State.writeAddr at h
  split at h
  · cases h; rfl
  · dsimp only at h
    split at h
    · cases h; rfl
    · split at h
      · cases h
      · simp only [Option.map_eq_some_iff] at h
        obtain ⟨u, hu, he⟩ := h
        cases he
        rw [noteStage_md]
        split at hu
        · cases hu; rfl
        · exact State.forkPage_md_eq hu
theorem State.writeAddr_pending_eq {s : State} {src : Nat} {addr : Nat} {asn : Nat} {size : Option Nat} {mirrored : Bool} {t x} (h : (State.writeAddr s src addr asn size mirrored) = some (t, x)) : t.pending = s.pending := by
  unfold State.writeAddr at h
  split at h
  · cases h; rfl
  · dsimp only at h
    split at h
    · cases h; rfl
    · split at h
      · cases h
      · simp only [Option.map_eq_some_iff] at h
        obtain ⟨u, hu, he⟩ := h
        cases he
        rw [noteStage_pending]
        split at hu
        · cases hu; rfl
        · exact State.forkPage_pending_eq hu
@[simp] theorem State.maintSlice_md (s : State) (inv : Bool) (lo : Nat) (hi : Nat) (h : Nat) : (State.maintSlice s inv lo hi h).1.md = s.md := by simp [State.maintSlice]
theorem State.maintSlice_md_eq {s : State} {inv : Bool} {lo : Nat} {hi : Nat} {h : Nat} {res_} (h : (State.maintSlice s inv lo hi h) = res_) : res_.1.md = s.md := by subst h; exact State.maintSlice_md s inv lo hi h
theorem State.maintSlice_md_eq2 {s : State} {inv : Bool} {lo : Nat} {hi : Nat} {h : Nat} {t_ x_} (h : (State.maintSlice s inv lo hi h) = (t_, x_)) : t_.md = s.md := State.maintSlice_md_eq h
@[simp] theorem State.maintSlice_pending (s : State) (inv : Bool) (lo : Nat) (hi : Nat) (h : Nat) : (State.maintSlice s inv lo hi h).1.pending = s.pending := by simp [State.maintSlice]
theorem State.maintSlice_pending_eq {s : State} {inv : Bool} {lo : Nat} {hi : Nat} {h : Nat} {res_} (h : (State.maintSlice s inv lo hi h) = res_) : res_.1.pending = s.pending := by subst h; exact State.maintSlice_pending s inv lo hi h
theorem State.maintSlice_pending_eq2 {s : State} {inv : Bool} {lo : Nat} {hi : Nat} {h : Nat} {t_ x_} (h : (State.maintSlice s inv lo hi h) = (t_, x_)) : t_.pending = s.pending := State.maintSlice_pending_eq h
@[simp] theorem State.maintGo_md (s : State) (port : Nat) (be : BitVec 4) (v : Nat) (op : Nat) : (State.maintGo s port be v op).md = s.md := by
  unfold State.maintGo
  have w := State.wrFront_md s port none offMaintCtl be
  split
  · rename_i h; rw [h] at w; exact w
  · rename_i u r h
    rw [h] at w
    dsimp only
    split
    · exact w
    · split
      · simpa using w
      · simp only [State.setBit_md]
        exact foldl_md_fst (fun t h => by simp) (by simpa using w)
@[simp] theorem State.maintGo_pending (s : State) (port : Nat) (be : BitVec 4) (v : Nat) (op : Nat) : (State.maintGo s port be v op).pending = s.pending := by
  unfold State.maintGo
  have w := State.wrFront_pending s port none offMaintCtl be
  split
  · rename_i h; rw [h] at w; exact w
  · rename_i u r h
    rw [h] at w
    dsimp only
    split
    · exact w
    · split
      · simpa using w
      · simp only [State.setBit_pending]
        exact foldl_pending_fst (fun t h => by simp) (by simpa using w)
@[simp] theorem State.onQl_md (s : State) (p : Nat) (f : QlPort → QlPort) : (State.onQl s p f).md = s.md := by simp [State.onQl]
@[simp] theorem State.onQl_pending (s : State) (p : Nat) (f : QlPort → QlPort) : (State.onQl s p f).pending = s.pending := by simp [State.onQl]
@[simp] theorem State.setError_md (s : State) (core : Nat) (addr : Nat) (set : Nat) : (State.setError s core addr set).md = s.md := by simp [State.setError]
@[simp] theorem State.setError_pending (s : State) (core : Nat) (addr : Nat) (set : Nat) : (State.setError s core addr set).pending = s.pending := by simp [State.setError]
@[simp] theorem State.logAer_md (s : State) (p : Nat) (f : Nat) (i : Nat) : (State.logAer s p f i).md = s.md := by simp [State.logAer]
@[simp] theorem State.logAer_pending (s : State) (p : Nat) (f : Nat) (i : Nat) : (State.logAer s p f i).pending = s.pending := by simp [State.logAer]
@[simp] theorem State.onIde_md (s : State) (p : Nat) (i : Nat) (f : Ide → Ide) : (State.onIde s p i f).md = s.md := by simp [State.onIde]
@[simp] theorem State.onIde_pending (s : State) (p : Nat) (i : Nat) (f : Ide → Ide) : (State.onIde s p i f).pending = s.pending := by simp [State.onIde]
@[simp] theorem State.powerOff_md (s : State) (down : Bool) : (State.powerOff s down).md = s.md := by simp [State.powerOff]
@[simp] theorem State.powerOff_pending (s : State) (down : Bool) : (State.powerOff s down).pending = s.pending := by simp [State.powerOff]
@[simp] theorem State.setVin_md (s : State) (input : Nat) (ok : Bool) : (State.setVin s input ok).md = s.md := by simp [State.setVin]
@[simp] theorem State.setVin_pending (s : State) (input : Nat) (ok : Bool) : (State.setVin s input ok).pending = s.pending := by simp [State.setVin]
@[simp] theorem State.dropVin_md (s : State) (input : Nat) : (State.dropVin s input).md = s.md := by simp [State.dropVin]
@[simp] theorem State.dropVin_pending (s : State) (input : Nat) : (State.dropVin s input).pending = s.pending := by simp [State.dropVin]
@[simp] theorem State.tripPart_md (s : State) (kind : Nat) (index : Nat) : (State.tripPart s kind index).md = s.md := by simp [State.tripPart]
@[simp] theorem State.tripPart_pending (s : State) (kind : Nat) (index : Nat) : (State.tripPart s kind index).pending = s.pending := by simp [State.tripPart]
@[simp] theorem State.downQl_md (s : State) (p : Nat) : (State.downQl s p).md = s.md := by simp [State.downQl]
@[simp] theorem State.downQl_pending (s : State) (p : Nat) : (State.downQl s p).pending = s.pending := by simp [State.downQl]
@[simp] theorem State.memAfterReset_md (s : State) : (State.memAfterReset s).md = s.md := by simp [State.memAfterReset]
@[simp] theorem State.memAfterReset_pending (s : State) : (State.memAfterReset s).pending = s.pending := by simp [State.memAfterReset]
@[simp] theorem State.resetDies_md (s : State) (token : Nat) : (State.resetDies s token).md = s.md := by simp [State.resetDies]
@[simp] theorem State.resetDies_pending (s : State) (token : Nat) : (State.resetDies s token).pending = s.pending := by simp [State.resetDies]
@[simp] theorem State.restartBoot_md (s : State) : (State.restartBoot s).md = s.md := by simp [State.restartBoot]
@[simp] theorem State.restartBoot_pending (s : State) : (State.restartBoot s).pending = s.pending := by simp [State.restartBoot]
@[simp] theorem State.fullReset_md (s : State) : (State.fullReset s).md = s.md := by simp [State.fullReset]
@[simp] theorem State.fullReset_pending (s : State) : (State.fullReset s).pending = s.pending := by simp [State.fullReset]
@[simp] theorem State.applyDieCfg_md (s : State) : (State.applyDieCfg s).md = s.md := by simp [State.applyDieCfg]
@[simp] theorem State.applyDieCfg_pending (s : State) : (State.applyDieCfg s).pending = s.pending := by simp [State.applyDieCfg]
@[simp] theorem State.dieCfgGo_md (s : State) (recover : Bool) (port : Nat) : (State.dieCfgGo s recover port).md = s.md := by simp [State.dieCfgGo]
@[simp] theorem State.dieCfgGo_pending (s : State) (recover : Bool) (port : Nat) : (State.dieCfgGo s recover port).pending = s.pending := by simp [State.dieCfgGo]
@[simp] theorem State.goFront_md (s : State) (port : Nat) (be : BitVec 4) (v : Nat) (recover : Bool) : (State.goFront s port be v recover).1.md = s.md := by
  unfold State.goFront
  have w := State.wrFront_md s port none offRecover be
  split
  · rename_i h; rw [h] at w; exact w
  · rename_i h; rw [h] at w
    split
    · exact w
    · dsimp only
      split
      · simpa using w
      · split <;> simpa using w
theorem State.goFront_md_eq {s : State} {port : Nat} {be : BitVec 4} {v : Nat} {recover : Bool} {res_} (h : (State.goFront s port be v recover) = res_) : res_.1.md = s.md := by subst h; exact State.goFront_md s port be v recover
theorem State.goFront_md_eq2 {s : State} {port : Nat} {be : BitVec 4} {v : Nat} {recover : Bool} {t_ x_} (h : (State.goFront s port be v recover) = (t_, x_)) : t_.md = s.md := State.goFront_md_eq h
@[simp] theorem State.goFront_pending (s : State) (port : Nat) (be : BitVec 4) (v : Nat) (recover : Bool) : (State.goFront s port be v recover).1.pending = s.pending := by
  unfold State.goFront
  have w := State.wrFront_pending s port none offRecover be
  split
  · rename_i h; rw [h] at w; exact w
  · rename_i h; rw [h] at w
    split
    · exact w
    · dsimp only
      split
      · simpa using w
      · split <;> simpa using w
theorem State.goFront_pending_eq {s : State} {port : Nat} {be : BitVec 4} {v : Nat} {recover : Bool} {res_} (h : (State.goFront s port be v recover) = res_) : res_.1.pending = s.pending := by subst h; exact State.goFront_pending s port be v recover
theorem State.goFront_pending_eq2 {s : State} {port : Nat} {be : BitVec 4} {v : Nat} {recover : Bool} {t_ x_} (h : (State.goFront s port be v recover) = (t_, x_)) : t_.pending = s.pending := State.goFront_pending_eq h
@[simp] theorem State.logBad_md (s : State) : (State.logBad s).md = s.md := by simp [State.logBad]
@[simp] theorem State.logBad_pending (s : State) : (State.logBad s).pending = s.pending := by simp [State.logBad]
@[simp] theorem State.fenceAndResend_md (s : State) : (State.fenceAndResend s).md = s.md := by simp [State.fenceAndResend]
@[simp] theorem State.fenceAndResend_pending (s : State) : (State.fenceAndResend s).pending = s.pending := by simp [State.fenceAndResend]
@[simp] theorem State.settleScopes_md (s : State) : (State.settleScopes s).md = s.md := by simp [State.settleScopes]
@[simp] theorem State.settleScopes_pending (s : State) : (State.settleScopes s).pending = s.pending := by simp [State.settleScopes]
@[simp] theorem State.clearRange_md (s : State) (a : Nat) (n : Nat) : (State.clearRange s a n).md = s.md := by simp [State.clearRange]
@[simp] theorem State.clearRange_pending (s : State) (a : Nat) (n : Nat) : (State.clearRange s a n).pending = s.pending := by simp [State.clearRange]
@[simp] theorem State.clearSystem_md (s : State) : (State.clearSystem s).md = s.md := by simp [State.clearSystem]
@[simp] theorem State.clearSystem_pending (s : State) : (State.clearSystem s).pending = s.pending := by simp [State.clearSystem]
@[simp] theorem State.freshPass_md (s : State) : (State.freshPass s).md = s.md := by simp [State.freshPass]
@[simp] theorem State.freshPass_pending (s : State) : (State.freshPass s).pending = s.pending := by simp [State.freshPass]
@[simp] theorem State.takeEntry_md (s : State) (tables : List PageTables) (pg : Nat) (n : Nat) (i : Nat) (lap : Nat) (b : List Byte) : (State.takeEntry s tables pg n i lap b).1.md = s.md := by
  unfold State.takeEntry
  repeat' (first | rfl | assumption | (apply foldl_md) | (apply foldl_md_fst) | (apply getD_md) | (intro _) | split | simp)
theorem State.takeEntry_md_eq {s : State} {tables : List PageTables} {pg : Nat} {n : Nat} {i : Nat} {lap : Nat} {b : List Byte} {res_} (h : (State.takeEntry s tables pg n i lap b) = res_) : res_.1.md = s.md := by subst h; exact State.takeEntry_md s tables pg n i lap b
theorem State.takeEntry_md_eq2 {s : State} {tables : List PageTables} {pg : Nat} {n : Nat} {i : Nat} {lap : Nat} {b : List Byte} {t_ x_} (h : (State.takeEntry s tables pg n i lap b) = (t_, x_)) : t_.md = s.md := State.takeEntry_md_eq h
@[simp] theorem State.takeEntry_pending (s : State) (tables : List PageTables) (pg : Nat) (n : Nat) (i : Nat) (lap : Nat) (b : List Byte) : (State.takeEntry s tables pg n i lap b).1.pending = s.pending := by
  unfold State.takeEntry
  repeat' (first | rfl | assumption | (apply foldl_pending) | (apply foldl_pending_fst) | (apply getD_pending) | (intro _) | split | simp)
theorem State.takeEntry_pending_eq {s : State} {tables : List PageTables} {pg : Nat} {n : Nat} {i : Nat} {lap : Nat} {b : List Byte} {res_} (h : (State.takeEntry s tables pg n i lap b) = res_) : res_.1.pending = s.pending := by subst h; exact State.takeEntry_pending s tables pg n i lap b
theorem State.takeEntry_pending_eq2 {s : State} {tables : List PageTables} {pg : Nat} {n : Nat} {i : Nat} {lap : Nat} {b : List Byte} {t_ x_} (h : (State.takeEntry s tables pg n i lap b) = (t_, x_)) : t_.pending = s.pending := State.takeEntry_pending_eq h
@[simp] theorem State.readRing_md (s : State) (tables : List PageTables) (x : RingLogRead) : (State.readRing s tables x).md = s.md := by
  unfold State.readRing
  repeat' (first | rfl | assumption | (apply foldl_md) | (apply foldl_md_fst) | (apply getD_md) | (intro _) | split | (refine (State.takeEntry_md_eq (by assumption)).trans ?_) | simp)
@[simp] theorem State.readRing_pending (s : State) (tables : List PageTables) (x : RingLogRead) : (State.readRing s tables x).pending = s.pending := by
  unfold State.readRing
  repeat' (first | rfl | assumption | (apply foldl_pending) | (apply foldl_pending_fst) | (apply getD_pending) | (intro _) | split | (refine (State.takeEntry_pending_eq (by assumption)).trans ?_) | simp)
@[simp] theorem State.applyRead_md (s : State) (d : ReadDec) : (State.applyRead s d).md = s.md := by
  unfold State.applyRead
  repeat' (first | rfl | assumption | (apply foldl_md) | (apply foldl_md_fst) | (apply getD_md) | (intro _) | split | simp)
@[simp] theorem State.applyRead_pending (s : State) (d : ReadDec) : (State.applyRead s d).pending = s.pending := by
  unfold State.applyRead
  repeat' (first | rfl | assumption | (apply foldl_pending) | (apply foldl_pending_fst) | (apply getD_pending) | (intro _) | split | simp)
@[simp] theorem State.resetPoint_md (s : State) (frn : Nat) (sub : Nat) (scope : List OpRec) : (State.resetPoint s frn sub scope).md = s.md := by
  unfold State.resetPoint
  repeat' (first | rfl | assumption | (apply foldl_md) | (apply foldl_md_fst) | (apply getD_md) | (intro _) | split | (refine (State.writeDecision_md_eq (by assumption)).trans ?_) | (refine (State.writeRecord_md_eq (by assumption)).trans ?_) | simp)
@[simp] theorem State.resetPoint_pending (s : State) (frn : Nat) (sub : Nat) (scope : List OpRec) : (State.resetPoint s frn sub scope).pending = s.pending := by
  unfold State.resetPoint
  repeat' (first | rfl | assumption | (apply foldl_pending) | (apply foldl_pending_fst) | (apply getD_pending) | (intro _) | split | (refine (State.writeDecision_pending_eq (by assumption)).trans ?_) | (refine (State.writeRecord_pending_eq (by assumption)).trans ?_) | simp)
@[simp] theorem State.abortUndecided_md (s : State) : (State.abortUndecided s).md = s.md := by simp [State.abortUndecided]
@[simp] theorem State.abortUndecided_pending (s : State) : (State.abortUndecided s).pending = s.pending := by simp [State.abortUndecided]
@[simp] theorem State.keepPosted_md (s : State) (pg : Nat) (cq : Nat) (x0 : List (List Byte)) : (State.keepPosted s pg cq x0).md = s.md := by
  induction x0 generalizing s with
  | nil => rw [State.keepPosted]
  | cons b bs ih =>
    rw [State.keepPosted]
    dsimp only
    split
    · rfl
    · split
      · rfl
      · rw [ih]; simp
@[simp] theorem State.keepPosted_pending (s : State) (pg : Nat) (cq : Nat) (x0 : List (List Byte)) : (State.keepPosted s pg cq x0).pending = s.pending := by
  induction x0 generalizing s with
  | nil => rw [State.keepPosted]
  | cons b bs ih =>
    rw [State.keepPosted]
    dsimp only
    split
    · rfl
    · split
      · rfl
      · rw [ih]; simp
@[simp] theorem State.readCq_md (s : State) (x : CqRead) : (State.readCq s x).md = s.md := by simp [State.readCq]
@[simp] theorem State.readCq_pending (s : State) (x : CqRead) : (State.readCq s x).pending = s.pending := by simp [State.readCq]
@[simp] theorem State.reboot_md (s : State) (fd : Nat) : (State.reboot s fd).md = s.md := by simp [State.reboot]
@[simp] theorem State.reboot_pending (s : State) (fd : Nat) : (State.reboot s fd).pending = s.pending := by simp [State.reboot]
@[simp] theorem State.readIdent_md (s : State) : (State.readIdent s).md = s.md := by simp [State.readIdent]
@[simp] theorem State.readIdent_pending (s : State) : (State.readIdent s).pending = s.pending := by simp [State.readIdent]
@[simp] theorem State.onSpdm_md (s : State) (p : Nat) (f : Spdm → Spdm) : (State.onSpdm s p f).md = s.md := by simp [State.onSpdm]
@[simp] theorem State.onSpdm_pending (s : State) (p : Nat) (f : Spdm → Spdm) : (State.onSpdm s p f).pending = s.pending := by simp [State.onSpdm]
@[simp] theorem State.spdmError_md (s : State) (p : Nat) (code : Nat) : (State.spdmError s p code).md = s.md := by simp [State.spdmError]
@[simp] theorem State.spdmError_pending (s : State) (p : Nat) (code : Nat) : (State.spdmError s p code).pending = s.pending := by simp [State.spdmError]

end Sys2Proof.Machine
end

