-- ==== Sys2Proof/Laws/KeepsCommands.lean ====
section
/-! SUPPORT. Commands other than those of the meter change neither the meter nor the queue. -/

namespace Sys2Proof.Machine

theorem execRegisterWrite_md (t port : Nat) (vf : Option Nat) (off : Nat) (be : BitVec 4) (v : Word) (s : State) {t_ : State} (h : execRegisterWrite t port vf off be v s = .next t_) : t_.md = s.md := by
  unfold execRegisterWrite at h
  injection h with h; subst h; simp
theorem execRegisterWrite_pending (t port : Nat) (vf : Option Nat) (off : Nat) (be : BitVec 4) (v : Word) (s : State) {t_ : State} (h : execRegisterWrite t port vf off be v s = .next t_) : t_.pending = s.pending := by
  unfold execRegisterWrite at h
  injection h with h; subst h; simp
theorem execWsFieldWrite_md (t port off : Nat) (be : BitVec 4) (v : Word) (s : State) {t_ : State} (h : execWsFieldWrite t port off be v s = .next t_) : t_.md = s.md := by
  unfold execWsFieldWrite at h
  injection h with h; subst h; simp
theorem execWsFieldWrite_pending (t port off : Nat) (be : BitVec 4) (v : Word) (s : State) {t_ : State} (h : execWsFieldWrite t port off be v s = .next t_) : t_.pending = s.pending := by
  unfold execWsFieldWrite at h
  injection h with h; subst h; simp
theorem execCommitArm_md (t port off : Nat) (be : BitVec 4) (v : Word) (s : State) {t_ : State} (h : execCommitArm t port off be v s = .next t_) : t_.md = s.md := by
  unfold execCommitArm at h
  injection h with h; subst h; simp
theorem execCommitArm_pending (t port off : Nat) (be : BitVec 4) (v : Word) (s : State) {t_ : State} (h : execCommitArm t port off be v s = .next t_) : t_.pending = s.pending := by
  unfold execCommitArm at h
  injection h with h; subst h; simp
theorem execLoReadLatch_md (t port : Nat) (vf : Option Nat) (off : Nat) (s : State) {t_ : State} (h : execLoReadLatch t port vf off s = .next t_) : t_.md = s.md := by
  unfold execLoReadLatch at h
  injection h with h; subst h; simp
theorem execLoReadLatch_pending (t port : Nat) (vf : Option Nat) (off : Nat) (s : State) {t_ : State} (h : execLoReadLatch t port vf off s = .next t_) : t_.pending = s.pending := by
  unfold execLoReadLatch at h
  injection h with h; subst h; simp
theorem execRcRead_md (t port : Nat) (vf : Option Nat) (off : Nat) (s : State) {t_ : State} (h : execRcRead t port vf off s = .next t_) : t_.md = s.md := by
  unfold execRcRead at h
  try dsimp only at h
  injection h with h; subst h
  repeat' (first | rfl | assumption | (apply foldl_md) | (apply foldl_md_fst) | (apply getD_md) | (intro _) | split | simp)
theorem execRcRead_pending (t port : Nat) (vf : Option Nat) (off : Nat) (s : State) {t_ : State} (h : execRcRead t port vf off s = .next t_) : t_.pending = s.pending := by
  unfold execRcRead at h
  try dsimp only at h
  injection h with h; subst h
  repeat' (first | rfl | assumption | (apply foldl_pending) | (apply foldl_pending_fst) | (apply getD_pending) | (intro _) | split | simp)
theorem execRingEnable_md (t port : Nat) (vf : Option Nat) (off : Nat) (be : BitVec 4) (v : Word) (s : State) {t_ : State} (h : execRingEnable t port vf off be v s = .next t_) : t_.md = s.md := by
  unfold execRingEnable at h
  try dsimp only at h
  injection h with h; subst h
  repeat' (first | rfl | assumption | (apply foldl_md) | (apply foldl_md_fst) | (apply getD_md) | (intro _) | split | (refine (State.wrFront_md_eq (by assumption)).trans ?_) | simp)
theorem execRingEnable_pending (t port : Nat) (vf : Option Nat) (off : Nat) (be : BitVec 4) (v : Word) (s : State) {t_ : State} (h : execRingEnable t port vf off be v s = .next t_) : t_.pending = s.pending := by
  unfold execRingEnable at h
  try dsimp only at h
  injection h with h; subst h
  repeat' (first | rfl | assumption | (apply foldl_pending) | (apply foldl_pending_fst) | (apply getD_pending) | (intro _) | split | (refine (State.wrFront_pending_eq (by assumption)).trans ?_) | simp)
theorem execCqEnable_md (t port : Nat) (vf : Option Nat) (off : Nat) (be : BitVec 4) (v : Word) (s : State) {t_ : State} (h : execCqEnable t port vf off be v s = .next t_) : t_.md = s.md := by
  unfold execCqEnable at h
  try dsimp only at h
  injection h with h; subst h
  repeat' (first | rfl | assumption | (apply foldl_md) | (apply foldl_md_fst) | (apply getD_md) | (intro _) | split | (refine (State.wrFront_md_eq (by assumption)).trans ?_) | simp)
theorem execCqEnable_pending (t port : Nat) (vf : Option Nat) (off : Nat) (be : BitVec 4) (v : Word) (s : State) {t_ : State} (h : execCqEnable t port vf off be v s = .next t_) : t_.pending = s.pending := by
  unfold execCqEnable at h
  try dsimp only at h
  injection h with h; subst h
  repeat' (first | rfl | assumption | (apply foldl_pending) | (apply foldl_pending_fst) | (apply getD_pending) | (intro _) | split | (refine (State.wrFront_pending_eq (by assumption)).trans ?_) | simp)
theorem execFlagCfgWrite_md (t port : Nat) (vf : Option Nat) (off : Nat) (be : BitVec 4) (v : Word) (s : State) {t_ : State} (h : execFlagCfgWrite t port vf off be v s = .next t_) : t_.md = s.md := by
  unfold execFlagCfgWrite at h
  try dsimp only at h
  injection h with h; subst h
  repeat' (first | rfl | assumption | (apply foldl_md) | (apply foldl_md_fst) | (apply getD_md) | (intro _) | split | (refine (State.writeRange_md_eq (by assumption)).trans ?_) | (refine (State.wrFront_md_eq (by assumption)).trans ?_) | simp)
theorem execFlagCfgWrite_pending (t port : Nat) (vf : Option Nat) (off : Nat) (be : BitVec 4) (v : Word) (s : State) {t_ : State} (h : execFlagCfgWrite t port vf off be v s = .next t_) : t_.pending = s.pending := by
  unfold execFlagCfgWrite at h
  try dsimp only at h
  injection h with h; subst h
  repeat' (first | rfl | assumption | (apply foldl_pending) | (apply foldl_pending_fst) | (apply getD_pending) | (intro _) | split | (refine (State.writeRange_pending_eq (by assumption)).trans ?_) | (refine (State.wrFront_pending_eq (by assumption)).trans ?_) | simp)
theorem execFlagValWrite_md (t port : Nat) (vf : Option Nat) (off : Nat) (be : BitVec 4) (v : Word) (s : State) {t_ : State} (h : execFlagValWrite t port vf off be v s = .next t_) : t_.md = s.md := by
  unfold execFlagValWrite at h
  try dsimp only at h
  injection h with h; subst h
  repeat' (first | rfl | assumption | (apply foldl_md) | (apply foldl_md_fst) | (apply getD_md) | (intro _) | split | (refine (State.writeRange_md_eq (by assumption)).trans ?_) | (refine (State.wrFront_md_eq (by assumption)).trans ?_) | simp)
theorem execFlagValWrite_pending (t port : Nat) (vf : Option Nat) (off : Nat) (be : BitVec 4) (v : Word) (s : State) {t_ : State} (h : execFlagValWrite t port vf off be v s = .next t_) : t_.pending = s.pending := by
  unfold execFlagValWrite at h
  try dsimp only at h
  injection h with h; subst h
  repeat' (first | rfl | assumption | (apply foldl_pending) | (apply foldl_pending_fst) | (apply getD_pending) | (intro _) | split | (refine (State.writeRange_pending_eq (by assumption)).trans ?_) | (refine (State.wrFront_pending_eq (by assumption)).trans ?_) | simp)
theorem execCompletionRecordPosted_md (t page ring : Nat) (s : State) {t_ : State} (h : execCompletionRecordPosted t page ring s = .next t_) : t_.md = s.md := by
  unfold execCompletionRecordPosted at h
  try dsimp only at h
  injection h with h; subst h
  repeat' (first | rfl | assumption | (apply foldl_md) | (apply foldl_md_fst) | (apply getD_md) | (intro _) | split | (refine (State.postNext_md_eq (by assumption)).trans ?_) | simp)
theorem execCompletionRecordPosted_pending (t page ring : Nat) (s : State) {t_ : State} (h : execCompletionRecordPosted t page ring s = .next t_) : t_.pending = s.pending := by
  unfold execCompletionRecordPosted at h
  try dsimp only at h
  injection h with h; subst h
  repeat' (first | rfl | assumption | (apply foldl_pending) | (apply foldl_pending_fst) | (apply getD_pending) | (intro _) | split | (refine (State.postNext_pending_eq (by assumption)).trans ?_) | simp)
theorem execModerationTimer_md (t page cq : Nat) (s : State) {t_ : State} (h : execModerationTimer t page cq s = .next t_) : t_.md = s.md := by
  unfold execModerationTimer at h
  try dsimp only at h
  injection h with h; subst h
  repeat' (first | rfl | assumption | (apply foldl_md) | (apply foldl_md_fst) | (apply getD_md) | (intro _) | split | simp)
theorem execModerationTimer_pending (t page cq : Nat) (s : State) {t_ : State} (h : execModerationTimer t page cq s = .next t_) : t_.pending = s.pending := by
  unfold execModerationTimer at h
  try dsimp only at h
  injection h with h; subst h
  repeat' (first | rfl | assumption | (apply foldl_pending) | (apply foldl_pending_fst) | (apply getD_pending) | (intro _) | split | simp)
theorem execCqHeadRead_md (t page cq head : Nat) (s : State) {t_ : State} (h : execCqHeadRead t page cq head s = .next t_) : t_.md = s.md := by
  unfold execCqHeadRead at h
  injection h with h; subst h; simp
theorem execCqHeadRead_pending (t page cq head : Nat) (s : State) {t_ : State} (h : execCqHeadRead t page cq head s = .next t_) : t_.pending = s.pending := by
  unfold execCqHeadRead at h
  injection h with h; subst h; simp
theorem execSnpinv_md (t port addr : Nat) (s : State) {t_ : State} (h : execSnpinv t port addr s = .next t_) : t_.md = s.md := by
  unfold execSnpinv at h
  try dsimp only at h
  injection h with h; subst h
  repeat' (first | rfl | assumption | (apply foldl_md) | (apply foldl_md_fst) | (apply getD_md) | (intro _) | split | simp)
theorem execSnpinv_pending (t port addr : Nat) (s : State) {t_ : State} (h : execSnpinv t port addr s = .next t_) : t_.pending = s.pending := by
  unfold execSnpinv at h
  try dsimp only at h
  injection h with h; subst h
  repeat' (first | rfl | assumption | (apply foldl_pending) | (apply foldl_pending_fst) | (apply getD_pending) | (intro _) | split | simp)
theorem execSnpdata_md (t port addr : Nat) (s : State) {t_ : State} (h : execSnpdata t port addr s = .next t_) : t_.md = s.md := by
  unfold execSnpdata at h
  injection h with h; subst h; simp
theorem execSnpdata_pending (t port addr : Nat) (s : State) {t_ : State} (h : execSnpdata t port addr s = .next t_) : t_.pending = s.pending := by
  unfold execSnpdata at h
  injection h with h; subst h; simp
theorem execSnpcur_md (t port addr : Nat) (s : State) {t_ : State} (h : execSnpcur t port addr s = .next t_) : t_.md = s.md := by
  unfold execSnpcur at h
  injection h with h; subst h; simp
theorem execSnpcur_pending (t port addr : Nat) (s : State) {t_ : State} (h : execSnpcur t port addr s = .next t_) : t_.pending = s.pending := by
  unfold execSnpcur at h
  injection h with h; subst h; simp
theorem execPollInterval_md (t port addr : Nat) (s : State) {t_ : State} (h : execPollInterval t port addr s = .next t_) : t_.md = s.md := by
  unfold execPollInterval at h
  injection h with h; subst h; simp
theorem execPollInterval_pending (t port addr : Nat) (s : State) {t_ : State} (h : execPollInterval t port addr s = .next t_) : t_.pending = s.pending := by
  unfold execPollInterval at h
  injection h with h; subst h; simp
theorem execDoorbellLineReturn_md (t port addr : Nat) (data : Option (List Byte)) (s : State) {t_ : State} (h : execDoorbellLineReturn t port addr data s = .next t_) : t_.md = s.md := by
  unfold execDoorbellLineReturn at h
  try dsimp only at h
  injection h with h; subst h
  repeat' (first | rfl | assumption | (apply foldl_md) | (apply foldl_md_fst) | (apply getD_md) | (intro _) | split | simp)
theorem execDoorbellLineReturn_pending (t port addr : Nat) (data : Option (List Byte)) (s : State) {t_ : State} (h : execDoorbellLineReturn t port addr data s = .next t_) : t_.pending = s.pending := by
  unfold execDoorbellLineReturn at h
  try dsimp only at h
  injection h with h; subst h
  repeat' (first | rfl | assumption | (apply foldl_pending) | (apply foldl_pending_fst) | (apply getD_pending) | (intro _) | split | simp)
theorem execJournalEntryConfirmed_md (t asn : Nat) (s : State) {t_ : State} (h : execJournalEntryConfirmed t asn s = .next t_) : t_.md = s.md := by
  unfold execJournalEntryConfirmed at h
  try dsimp only at h
  injection h with h; subst h
  repeat' (first | rfl | assumption | (apply foldl_md) | (apply foldl_md_fst) | (apply getD_md) | (intro _) | split | simp)
theorem execJournalEntryConfirmed_pending (t asn : Nat) (s : State) {t_ : State} (h : execJournalEntryConfirmed t asn s = .next t_) : t_.pending = s.pending := by
  unfold execJournalEntryConfirmed at h
  try dsimp only at h
  injection h with h; subst h
  repeat' (first | rfl | assumption | (apply foldl_pending) | (apply foldl_pending_fst) | (apply getD_pending) | (intro _) | split | simp)
theorem execJournalDeadlineMissed_md (t asn : Nat) (s : State) {t_ : State} (h : execJournalDeadlineMissed t asn s = .next t_) : t_.md = s.md := by
  unfold execJournalDeadlineMissed at h
  try dsimp only at h
  injection h with h; subst h
  repeat' (first | rfl | assumption | (apply foldl_md) | (apply foldl_md_fst) | (apply getD_md) | (intro _) | split | simp)
theorem execJournalDeadlineMissed_pending (t asn : Nat) (s : State) {t_ : State} (h : execJournalDeadlineMissed t asn s = .next t_) : t_.pending = s.pending := by
  unfold execJournalDeadlineMissed at h
  try dsimp only at h
  injection h with h; subst h
  repeat' (first | rfl | assumption | (apply foldl_pending) | (apply foldl_pending_fst) | (apply getD_pending) | (intro _) | split | simp)
theorem execRejectionConfirmed_md (t page ring : Nat) (s : State) {t_ : State} (h : execRejectionConfirmed t page ring s = .next t_) : t_.md = s.md := by
  unfold execRejectionConfirmed at h
  try dsimp only at h
  injection h with h; subst h
  repeat' (first | rfl | assumption | (apply foldl_md) | (apply foldl_md_fst) | (apply getD_md) | (intro _) | split | simp)
theorem execRejectionConfirmed_pending (t page ring : Nat) (s : State) {t_ : State} (h : execRejectionConfirmed t page ring s = .next t_) : t_.pending = s.pending := by
  unfold execRejectionConfirmed at h
  try dsimp only at h
  injection h with h; subst h
  repeat' (first | rfl | assumption | (apply foldl_pending) | (apply foldl_pending_fst) | (apply getD_pending) | (intro _) | split | simp)
theorem execRun_md (t port : Nat) (be : BitVec 4) (v : Word) (s : State) {t_ : State} (h : execRun t port be v s = .next t_) : t_.md = s.md := by
  unfold execRun at h
  try dsimp only at h
  injection h with h; subst h
  repeat' (first | rfl | assumption | (apply foldl_md) | (apply foldl_md_fst) | (apply getD_md) | (intro _) | split | (refine (State.wrFront_md_eq (by assumption)).trans ?_) | simp)
theorem execRun_pending (t port : Nat) (be : BitVec 4) (v : Word) (s : State) {t_ : State} (h : execRun t port be v s = .next t_) : t_.pending = s.pending := by
  unfold execRun at h
  try dsimp only at h
  injection h with h; subst h
  repeat' (first | rfl | assumption | (apply foldl_pending) | (apply foldl_pending_fst) | (apply getD_pending) | (intro _) | split | (refine (State.wrFront_pending_eq (by assumption)).trans ?_) | simp)
theorem execFrameTick_md (t power hottest : Nat) (sources : List (List Byte)) (consumes : List (Nat × Nat)) (s : State) {t_ : State} (h : execFrameTick t power hottest sources consumes s = .next t_) : t_.md = s.md := by
  unfold execFrameTick at h
  try dsimp only at h
  (repeat' split at h) <;> (injection h with h; subst h; repeat' (first | rfl | assumption | (apply foldl_md) | (apply foldl_md_fst) | (apply getD_md) | (intro _) | split | (refine (State.runSplitter_md_eq (by assumption)).trans ?_) | simp))
theorem execFrameTick_pending (t power hottest : Nat) (sources : List (List Byte)) (consumes : List (Nat × Nat)) (s : State) {t_ : State} (h : execFrameTick t power hottest sources consumes s = .next t_) : t_.pending = s.pending := by
  unfold execFrameTick at h
  try dsimp only at h
  (repeat' split at h) <;> (injection h with h; subst h; repeat' (first | rfl | assumption | (apply foldl_pending) | (apply foldl_pending_fst) | (apply getD_pending) | (intro _) | split | (refine (State.runSplitter_pending_eq (by assumption)).trans ?_) | simp))
theorem execTickMessage_md (t die frn token : Nat) (s : State) {t_ : State} (h : execTickMessage t die frn token s = .next t_) : t_.md = s.md := by
  have e : (dieCores die).foldl (fun acc c => acc.startSegs c) ((s.arrive t).acceptTick die frn token) = t_ :=
    Host.Outcome.next.inj h
  rw [← e]
  exact foldl_md (fun _ _ => State.startSegs_md _ _) (by simp)
theorem execTickMessage_pending (t die frn token : Nat) (s : State) {t_ : State} (h : execTickMessage t die frn token s = .next t_) : t_.pending = s.pending := by
  have e : (dieCores die).foldl (fun acc c => acc.startSegs c) ((s.arrive t).acceptTick die frn token) = t_ :=
    Host.Outcome.next.inj h
  rw [← e]
  exact foldl_pending (fun _ _ => State.startSegs_pending _ _) (by simp)
theorem execTickWatchdog_md (t die : Nat) (s : State) {t_ : State} (h : execTickWatchdog t die s = .next t_) : t_.md = s.md := by
  unfold execTickWatchdog at h
  injection h with h; subst h; simp
theorem execTickWatchdog_pending (t die : Nat) (s : State) {t_ : State} (h : execTickWatchdog t die s = .next t_) : t_.pending = s.pending := by
  unfold execTickWatchdog at h
  injection h with h; subst h; simp
theorem execSubTick_md (t k : Nat) (s : State) {t_ : State} (h : execSubTick t k s = .next t_) : t_.md = s.md := by
  unfold execSubTick at h
  try dsimp only at h
  (repeat' split at h) <;> (injection h with h; subst h; repeat' (first | rfl | assumption | (apply foldl_md) | (apply foldl_md_fst) | (apply getD_md) | (intro _) | split | simp))
theorem execSubTick_pending (t k : Nat) (s : State) {t_ : State} (h : execSubTick t k s = .next t_) : t_.pending = s.pending := by
  unfold execSubTick at h
  try dsimp only at h
  (repeat' split at h) <;> (injection h with h; subst h; repeat' (first | rfl | assumption | (apply foldl_pending) | (apply foldl_pending_fst) | (apply getD_pending) | (intro _) | split | simp))
theorem execWaitWindowExpired_md (t asn : Nat) (s : State) {t_ : State} (h : execWaitWindowExpired t asn s = .next t_) : t_.md = s.md := by
  unfold execWaitWindowExpired at h
  try dsimp only at h
  injection h with h; subst h
  repeat' (first | rfl | assumption | (apply foldl_md) | (apply foldl_md_fst) | (apply getD_md) | (intro _) | split | simp)
theorem execWaitWindowExpired_pending (t asn : Nat) (s : State) {t_ : State} (h : execWaitWindowExpired t asn s = .next t_) : t_.pending = s.pending := by
  unfold execWaitWindowExpired at h
  try dsimp only at h
  injection h with h; subst h
  repeat' (first | rfl | assumption | (apply foldl_pending) | (apply foldl_pending_fst) | (apply getD_pending) | (intro _) | split | simp)
theorem execLease_md (t frn token : Nat) (s : State) {t_ : State} (h : execLease t frn token s = .next t_) : t_.md = s.md := by
  unfold execLease at h
  injection h with h; subst h; simp
theorem execLease_pending (t frn token : Nat) (s : State) {t_ : State} (h : execLease t frn token s = .next t_) : t_.pending = s.pending := by
  unfold execLease at h
  injection h with h; subst h; simp
theorem execDecisionDurable_md (t frn sub : Nat) (s : State) {t_ : State} (h : execDecisionDurable t frn sub s = .next t_) : t_.md = s.md := by
  unfold execDecisionDurable at h
  try dsimp only at h
  injection h with h; subst h
  repeat' (first | rfl | assumption | (apply foldl_md) | (apply foldl_md_fst) | (apply getD_md) | (intro _) | split | simp)
theorem execDecisionDurable_pending (t frn sub : Nat) (s : State) {t_ : State} (h : execDecisionDurable t frn sub s = .next t_) : t_.pending = s.pending := by
  unfold execDecisionDurable at h
  try dsimp only at h
  injection h with h; subst h
  repeat' (first | rfl | assumption | (apply foldl_pending) | (apply foldl_pending_fst) | (apply getD_pending) | (intro _) | split | simp)
theorem execDieCommitApply_md (t die frn sub : Nat) (s : State) {t_ : State} (h : execDieCommitApply t die frn sub s = .next t_) : t_.md = s.md := by
  unfold execDieCommitApply at h
  try dsimp only at h
  injection h with h; subst h
  repeat' (first | rfl | assumption | (apply foldl_md) | (apply foldl_md_fst) | (apply getD_md) | (intro _) | split | simp)
theorem execDieCommitApply_pending (t die frn sub : Nat) (s : State) {t_ : State} (h : execDieCommitApply t die frn sub s = .next t_) : t_.pending = s.pending := by
  unfold execDieCommitApply at h
  try dsimp only at h
  injection h with h; subst h
  repeat' (first | rfl | assumption | (apply foldl_pending) | (apply foldl_pending_fst) | (apply getD_pending) | (intro _) | split | simp)
theorem execLeaseRenewalMissed_md (t : Nat) (s : State) {t_ : State} (h : execLeaseRenewalMissed t s = .next t_) : t_.md = s.md := by
  unfold execLeaseRenewalMissed at h
  injection h with h; subst h; simp
theorem execLeaseRenewalMissed_pending (t : Nat) (s : State) {t_ : State} (h : execLeaseRenewalMissed t s = .next t_) : t_.pending = s.pending := by
  unfold execLeaseRenewalMissed at h
  injection h with h; subst h; simp
theorem execTakeover_md (t : Nat) (durable : List (Nat × Nat)) (s : State) {t_ : State} (h : execTakeover t durable s = .next t_) : t_.md = s.md := by
  unfold execTakeover at h
  try dsimp only at h
  (repeat' split at h) <;> (injection h with h; subst h; repeat' (first | rfl | assumption | (apply foldl_md) | (apply foldl_md_fst) | (apply getD_md) | (intro _) | split | simp))
theorem execTakeover_pending (t : Nat) (durable : List (Nat × Nat)) (s : State) {t_ : State} (h : execTakeover t durable s = .next t_) : t_.pending = s.pending := by
  unfold execTakeover at h
  try dsimp only at h
  (repeat' split at h) <;> (injection h with h; subst h; repeat' (first | rfl | assumption | (apply foldl_pending) | (apply foldl_pending_fst) | (apply getD_pending) | (intro _) | split | simp))
theorem execFenceTokenMessage_md (t who token : Nat) (s : State) {t_ : State} (h : execFenceTokenMessage t who token s = .next t_) : t_.md = s.md := by
  unfold execFenceTokenMessage at h
  injection h with h; subst h; simp
theorem execFenceTokenMessage_pending (t who token : Nat) (s : State) {t_ : State} (h : execFenceTokenMessage t who token s = .next t_) : t_.pending = s.pending := by
  unfold execFenceTokenMessage at h
  injection h with h; subst h; simp
theorem execFenceAckTimeout_md (t who : Nat) (s : State) {t_ : State} (h : execFenceAckTimeout t who s = .next t_) : t_.md = s.md := by
  unfold execFenceAckTimeout at h
  try dsimp only at h
  injection h with h; subst h
  repeat' (first | rfl | assumption | (apply foldl_md) | (apply foldl_md_fst) | (apply getD_md) | (intro _) | split | simp)
theorem execFenceAckTimeout_pending (t who : Nat) (s : State) {t_ : State} (h : execFenceAckTimeout t who s = .next t_) : t_.pending = s.pending := by
  unfold execFenceAckTimeout at h
  try dsimp only at h
  injection h with h; subst h
  repeat' (first | rfl | assumption | (apply foldl_pending) | (apply foldl_pending_fst) | (apply getD_pending) | (intro _) | split | simp)
theorem execPpsEdge_md (t : Nat) (s : State) {t_ : State} (h : execPpsEdge t s = .next t_) : t_.md = s.md := by
  unfold execPpsEdge at h
  try dsimp only at h
  (repeat' split at h) <;> (injection h with h; subst h; repeat' (first | rfl | assumption | (apply foldl_md) | (apply foldl_md_fst) | (apply getD_md) | (intro _) | split | simp))
theorem execPpsEdge_pending (t : Nat) (s : State) {t_ : State} (h : execPpsEdge t s = .next t_) : t_.pending = s.pending := by
  unfold execPpsEdge at h
  try dsimp only at h
  (repeat' split at h) <;> (injection h with h; subst h; repeat' (first | rfl | assumption | (apply foldl_pending) | (apply foldl_pending_fst) | (apply getD_pending) | (intro _) | split | simp))
theorem execPpsTimeout_md (t : Nat) (s : State) {t_ : State} (h : execPpsTimeout t s = .next t_) : t_.md = s.md := by
  unfold execPpsTimeout at h
  try dsimp only at h
  injection h with h; subst h
  repeat' (first | rfl | assumption | (apply foldl_md) | (apply foldl_md_fst) | (apply getD_md) | (intro _) | split | simp)
theorem execPpsTimeout_pending (t : Nat) (s : State) {t_ : State} (h : execPpsTimeout t s = .next t_) : t_.pending = s.pending := by
  unfold execPpsTimeout at h
  try dsimp only at h
  injection h with h; subst h
  repeat' (first | rfl | assumption | (apply foldl_pending) | (apply foldl_pending_fst) | (apply getD_pending) | (intro _) | split | simp)
theorem execPtpMessage_md (t qlPort domain : Nat) (offset : Int) (s : State) {t_ : State} (h : execPtpMessage t qlPort domain offset s = .next t_) : t_.md = s.md := by
  unfold execPtpMessage at h
  try dsimp only at h
  (repeat' split at h) <;> (injection h with h; subst h; repeat' (first | rfl | assumption | (apply foldl_md) | (apply foldl_md_fst) | (apply getD_md) | (intro _) | split | simp))
theorem execPtpMessage_pending (t qlPort domain : Nat) (offset : Int) (s : State) {t_ : State} (h : execPtpMessage t qlPort domain offset s = .next t_) : t_.pending = s.pending := by
  unfold execPtpMessage at h
  try dsimp only at h
  (repeat' split at h) <;> (injection h with h; subst h; repeat' (first | rfl | assumption | (apply foldl_pending) | (apply foldl_pending_fst) | (apply getD_pending) | (intro _) | split | simp))
theorem execTimeHoldover_md (t : Nat) (s : State) {t_ : State} (h : execTimeHoldover t s = .next t_) : t_.md = s.md := by
  unfold execTimeHoldover at h
  injection h with h; subst h; simp
theorem execTimeHoldover_pending (t : Nat) (s : State) {t_ : State} (h : execTimeHoldover t s = .next t_) : t_.pending = s.pending := by
  unfold execTimeHoldover at h
  injection h with h; subst h; simp
theorem execTimeLocked_md (t : Nat) (s : State) {t_ : State} (h : execTimeLocked t s = .next t_) : t_.md = s.md := by
  unfold execTimeLocked at h
  injection h with h; subst h; simp
theorem execTimeLocked_pending (t : Nat) (s : State) {t_ : State} (h : execTimeLocked t s = .next t_) : t_.pending = s.pending := by
  unfold execTimeLocked at h
  injection h with h; subst h; simp
theorem execUrgentDispatch_md (t asn consume : Nat) (s : State) {t_ : State} (h : execUrgentDispatch t asn consume s = .next t_) : t_.md = s.md := by
  unfold execUrgentDispatch at h
  try dsimp only at h
  injection h with h; subst h
  repeat' (first | rfl | assumption | (apply foldl_md) | (apply foldl_md_fst) | (apply getD_md) | (intro _) | split | (refine (State.reserveFor_md_eq (by assumption)).trans ?_) | simp)
theorem execUrgentDispatch_pending (t asn consume : Nat) (s : State) {t_ : State} (h : execUrgentDispatch t asn consume s = .next t_) : t_.pending = s.pending := by
  unfold execUrgentDispatch at h
  try dsimp only at h
  injection h with h; subst h
  repeat' (first | rfl | assumption | (apply foldl_pending) | (apply foldl_pending_fst) | (apply getD_pending) | (intro _) | split | (refine (State.reserveFor_pending_eq (by assumption)).trans ?_) | simp)
theorem execUrgentEndResume_md (t core : Nat) (s : State) {t_ : State} (h : execUrgentEndResume t core s = .next t_) : t_.md = s.md := by
  unfold execUrgentEndResume at h
  injection h with h; subst h; simp
theorem execUrgentEndResume_pending (t core : Nat) (s : State) {t_ : State} (h : execUrgentEndResume t core s = .next t_) : t_.pending = s.pending := by
  unfold execUrgentEndResume at h
  injection h with h; subst h; simp
theorem execItemStart_md (t core : Nat) (s : State) {t_ : State} (h : execItemStart t core s = .next t_) : t_.md = s.md := by
  unfold execItemStart at h
  injection h with h; subst h; simp
theorem execItemStart_pending (t core : Nat) (s : State) {t_ : State} (h : execItemStart t core s = .next t_) : t_.pending = s.pending := by
  unfold execItemStart at h
  injection h with h; subst h; simp
theorem execSteal_md (t core : Nat) (s : State) {t_ : State} (h : execSteal t core s = .next t_) : t_.md = s.md := by
  unfold execSteal at h
  try dsimp only at h
  (repeat' split at h) <;> (injection h with h; subst h; repeat' (first | rfl | assumption | (apply foldl_md) | (apply foldl_md_fst) | (apply getD_md) | (intro _) | split | simp))
theorem execSteal_pending (t core : Nat) (s : State) {t_ : State} (h : execSteal t core s = .next t_) : t_.pending = s.pending := by
  unfold execSteal at h
  try dsimp only at h
  (repeat' split at h) <;> (injection h with h; subst h; repeat' (first | rfl | assumption | (apply foldl_pending) | (apply foldl_pending_fst) | (apply getD_pending) | (intro _) | split | simp))
theorem execMark_md (t asn : Nat) (s : State) {t_ : State} (h : execMark t asn s = .next t_) : t_.md = s.md := by
  unfold execMark at h
  try dsimp only at h
  injection h with h; subst h
  repeat' (first | rfl | assumption | (apply foldl_md) | (apply foldl_md_fst) | (apply getD_md) | (intro _) | split | simp)
theorem execMark_pending (t asn : Nat) (s : State) {t_ : State} (h : execMark t asn s = .next t_) : t_.pending = s.pending := by
  unfold execMark at h
  try dsimp only at h
  injection h with h; subst h
  repeat' (first | rfl | assumption | (apply foldl_pending) | (apply foldl_pending_fst) | (apply getD_pending) | (intro _) | split | simp)
theorem execProgram_md (t asn core : Nat) (s : State) {t_ : State} (h : execProgram t asn core s = .next t_) : t_.md = s.md := by
  unfold execProgram at h
  try dsimp only at h
  injection h with h; subst h
  repeat' (first | rfl | assumption | (apply foldl_md) | (apply foldl_md_fst) | (apply getD_md) | (intro _) | split | simp)
theorem execProgram_pending (t asn core : Nat) (s : State) {t_ : State} (h : execProgram t asn core s = .next t_) : t_.pending = s.pending := by
  unfold execProgram at h
  try dsimp only at h
  injection h with h; subst h
  repeat' (first | rfl | assumption | (apply foldl_pending) | (apply foldl_pending_fst) | (apply getD_pending) | (intro _) | split | simp)
theorem execStandbyLeaseAckMissed_md (t : Nat) (s : State) {t_ : State} (h : execStandbyLeaseAckMissed t s = .next t_) : t_.md = s.md := by
  unfold execStandbyLeaseAckMissed at h
  injection h with h; subst h; simp
theorem execStandbyLeaseAckMissed_pending (t : Nat) (s : State) {t_ : State} (h : execStandbyLeaseAckMissed t s = .next t_) : t_.pending = s.pending := by
  unfold execStandbyLeaseAckMissed at h
  injection h with h; subst h; simp
theorem execFenceAcknowledgement_md (t who : Nat) (s : State) {t_ : State} (h : execFenceAcknowledgement t who s = .next t_) : t_.md = s.md := by
  unfold execFenceAcknowledgement at h
  injection h with h; subst h; simp
theorem execFenceAcknowledgement_pending (t who : Nat) (s : State) {t_ : State} (h : execFenceAcknowledgement t who s = .next t_) : t_.pending = s.pending := by
  unfold execFenceAcknowledgement at h
  injection h with h; subst h; simp
theorem execPerstN_md (t port : Nat) (s : State) {t_ : State} (h : execPerstN t port s = .next t_) : t_.md = s.md := by
  unfold execPerstN at h
  injection h with h; subst h; simp
theorem execPerstN_pending (t port : Nat) (s : State) {t_ : State} (h : execPerstN t port s = .next t_) : t_.pending = s.pending := by
  unfold execPerstN at h
  injection h with h; subst h; simp
theorem execHotReset_md (t _port : Nat) (s : State) {t_ : State} (h : execHotReset t _port s = .next t_) : t_.md = s.md := by
  unfold execHotReset at h
  injection h with h; subst h; simp
theorem execHotReset_pending (t _port : Nat) (s : State) {t_ : State} (h : execHotReset t _port s = .next t_) : t_.pending = s.pending := by
  unfold execHotReset at h
  injection h with h; subst h; simp
theorem execFullReset_md (t port : Nat) (be : BitVec 4) (v : Word) (s : State) {t_ : State} (h : execFullReset t port be v s = .next t_) : t_.md = s.md := by
  unfold execFullReset at h
  try dsimp only at h
  injection h with h; subst h
  repeat' (first | rfl | assumption | (apply foldl_md) | (apply foldl_md_fst) | (apply getD_md) | (intro _) | split | (refine (State.wrFront_md_eq (by assumption)).trans ?_) | simp)
theorem execFullReset_pending (t port : Nat) (be : BitVec 4) (v : Word) (s : State) {t_ : State} (h : execFullReset t port be v s = .next t_) : t_.pending = s.pending := by
  unfold execFullReset at h
  try dsimp only at h
  injection h with h; subst h
  repeat' (first | rfl | assumption | (apply foldl_pending) | (apply foldl_pending_fst) | (apply getD_pending) | (intro _) | split | (refine (State.wrFront_pending_eq (by assumption)).trans ?_) | simp)
theorem execResetRebootReady_md (t : Nat) (s : State) {t_ : State} (h : execResetRebootReady t s = .next t_) : t_.md = s.md := by
  unfold execResetRebootReady at h
  injection h with h; subst h; simp
theorem execResetRebootReady_pending (t : Nat) (s : State) {t_ : State} (h : execResetRebootReady t s = .next t_) : t_.pending = s.pending := by
  unfold execResetRebootReady at h
  injection h with h; subst h; simp
theorem execRecoverGoFresh_md (t port : Nat) (be : BitVec 4) (v : Word) (s : State) {t_ : State} (h : execRecoverGoFresh t port be v s = .next t_) : t_.md = s.md := by
  unfold execRecoverGoFresh at h
  try dsimp only at h
  injection h with h; subst h
  repeat' (first | rfl | assumption | (apply foldl_md) | (apply foldl_md_fst) | (apply getD_md) | (intro _) | split | (refine (State.goFront_md_eq (by assumption)).trans ?_) | simp)
theorem execRecoverGoFresh_pending (t port : Nat) (be : BitVec 4) (v : Word) (s : State) {t_ : State} (h : execRecoverGoFresh t port be v s = .next t_) : t_.pending = s.pending := by
  unfold execRecoverGoFresh at h
  try dsimp only at h
  injection h with h; subst h
  repeat' (first | rfl | assumption | (apply foldl_pending) | (apply foldl_pending_fst) | (apply getD_pending) | (intro _) | split | (refine (State.goFront_pending_eq (by assumption)).trans ?_) | simp)
theorem execJournalPassDone_md (t : Nat) (s : State) {t_ : State} (h : execJournalPassDone t s = .next t_) : t_.md = s.md := by
  unfold execJournalPassDone at h
  injection h with h; subst h; simp
theorem execJournalPassDone_pending (t : Nat) (s : State) {t_ : State} (h : execJournalPassDone t s = .next t_) : t_.pending = s.pending := by
  unfold execJournalPassDone at h
  injection h with h; subst h; simp
theorem execSpmm_md (t asn core : Nat) (remote : List (List Byte)) (s : State) {t_ : State} (h : execSpmm t asn core remote s = .next t_) : t_.md = s.md := by
  unfold execSpmm at h
  injection h with h; subst h; simp
theorem execSpmm_pending (t asn core : Nat) (remote : List (List Byte)) (s : State) {t_ : State} (h : execSpmm t asn core remote s = .next t_) : t_.pending = s.pending := by
  unfold execSpmm at h
  injection h with h; subst h; simp
theorem execSpgemm_md (t asn core : Nat) (remote : List (List Byte)) (s : State) {t_ : State} (h : execSpgemm t asn core remote s = .next t_) : t_.md = s.md := by
  unfold execSpgemm at h
  injection h with h; subst h; simp
theorem execSpgemm_pending (t asn core : Nat) (remote : List (List Byte)) (s : State) {t_ : State} (h : execSpgemm t asn core remote s = .next t_) : t_.pending = s.pending := by
  unfold execSpgemm at h
  injection h with h; subst h; simp
theorem execSddmm_md (t asn core : Nat) (remote : List (List Byte)) (s : State) {t_ : State} (h : execSddmm t asn core remote s = .next t_) : t_.md = s.md := by
  unfold execSddmm at h
  injection h with h; subst h; simp
theorem execSddmm_pending (t asn core : Nat) (remote : List (List Byte)) (s : State) {t_ : State} (h : execSddmm t asn core remote s = .next t_) : t_.pending = s.pending := by
  unfold execSddmm at h
  injection h with h; subst h; simp
theorem execGemm_md (t asn core : Nat) (remote : List (List Byte)) (s : State) {t_ : State} (h : execGemm t asn core remote s = .next t_) : t_.md = s.md := by
  unfold execGemm at h
  injection h with h; subst h; simp
theorem execGemm_pending (t asn core : Nat) (remote : List (List Byte)) (s : State) {t_ : State} (h : execGemm t asn core remote s = .next t_) : t_.pending = s.pending := by
  unfold execGemm at h
  injection h with h; subst h; simp
theorem execSpattn_md (t asn core : Nat) (remote : List (List Byte)) (s : State) {t_ : State} (h : execSpattn t asn core remote s = .next t_) : t_.md = s.md := by
  unfold execSpattn at h
  injection h with h; subst h; simp
theorem execSpattn_pending (t asn core : Nat) (remote : List (List Byte)) (s : State) {t_ : State} (h : execSpattn t asn core remote s = .next t_) : t_.pending = s.pending := by
  unfold execSpattn at h
  injection h with h; subst h; simp
theorem execAggr_md (t asn core : Nat) (remote : List (List Byte)) (s : State) {t_ : State} (h : execAggr t asn core remote s = .next t_) : t_.md = s.md := by
  unfold execAggr at h
  injection h with h; subst h; simp
theorem execAggr_pending (t asn core : Nat) (remote : List (List Byte)) (s : State) {t_ : State} (h : execAggr t asn core remote s = .next t_) : t_.pending = s.pending := by
  unfold execAggr at h
  injection h with h; subst h; simp
theorem execMoeRoute_md (t asn core : Nat) (remote : List (List Byte)) (s : State) {t_ : State} (h : execMoeRoute t asn core remote s = .next t_) : t_.md = s.md := by
  unfold execMoeRoute at h
  injection h with h; subst h; simp
theorem execMoeRoute_pending (t asn core : Nat) (remote : List (List Byte)) (s : State) {t_ : State} (h : execMoeRoute t asn core remote s = .next t_) : t_.pending = s.pending := by
  unfold execMoeRoute at h
  injection h with h; subst h; simp
theorem execEmbReduce_md (t asn core : Nat) (remote : List (List Byte)) (s : State) {t_ : State} (h : execEmbReduce t asn core remote s = .next t_) : t_.md = s.md := by
  unfold execEmbReduce at h
  injection h with h; subst h; simp
theorem execEmbReduce_pending (t asn core : Nat) (remote : List (List Byte)) (s : State) {t_ : State} (h : execEmbReduce t asn core remote s = .next t_) : t_.pending = s.pending := by
  unfold execEmbReduce at h
  injection h with h; subst h; simp
theorem execCopy_md (t asn core : Nat) (remote : List (List Byte)) (s : State) {t_ : State} (h : execCopy t asn core remote s = .next t_) : t_.md = s.md := by
  unfold execCopy at h
  injection h with h; subst h; simp
theorem execCopy_pending (t asn core : Nat) (remote : List (List Byte)) (s : State) {t_ : State} (h : execCopy t asn core remote s = .next t_) : t_.pending = s.pending := by
  unfold execCopy at h
  injection h with h; subst h; simp
theorem execConvert_md (t asn core : Nat) (remote : List (List Byte)) (s : State) {t_ : State} (h : execConvert t asn core remote s = .next t_) : t_.md = s.md := by
  unfold execConvert at h
  injection h with h; subst h; simp
theorem execConvert_pending (t asn core : Nat) (remote : List (List Byte)) (s : State) {t_ : State} (h : execConvert t asn core remote s = .next t_) : t_.pending = s.pending := by
  unfold execConvert at h
  injection h with h; subst h; simp
theorem execAdd_md (core : Nat) (rd ra rb : BitVec 5) (s : State) {t_ : State} (h : execAdd core rd ra rb s = .next t_) : t_.md = s.md := by
  unfold execAdd at h
  injection h with h; subst h; simp
theorem execAdd_pending (core : Nat) (rd ra rb : BitVec 5) (s : State) {t_ : State} (h : execAdd core rd ra rb s = .next t_) : t_.pending = s.pending := by
  unfold execAdd at h
  injection h with h; subst h; simp
theorem execSub_md (core : Nat) (rd ra rb : BitVec 5) (s : State) {t_ : State} (h : execSub core rd ra rb s = .next t_) : t_.md = s.md := by
  unfold execSub at h
  injection h with h; subst h; simp
theorem execSub_pending (core : Nat) (rd ra rb : BitVec 5) (s : State) {t_ : State} (h : execSub core rd ra rb s = .next t_) : t_.pending = s.pending := by
  unfold execSub at h
  injection h with h; subst h; simp
theorem execAnd_md (core : Nat) (rd ra rb : BitVec 5) (s : State) {t_ : State} (h : execAnd core rd ra rb s = .next t_) : t_.md = s.md := by
  unfold execAnd at h
  injection h with h; subst h; simp
theorem execAnd_pending (core : Nat) (rd ra rb : BitVec 5) (s : State) {t_ : State} (h : execAnd core rd ra rb s = .next t_) : t_.pending = s.pending := by
  unfold execAnd at h
  injection h with h; subst h; simp
theorem execOr_md (core : Nat) (rd ra rb : BitVec 5) (s : State) {t_ : State} (h : execOr core rd ra rb s = .next t_) : t_.md = s.md := by
  unfold execOr at h
  injection h with h; subst h; simp
theorem execOr_pending (core : Nat) (rd ra rb : BitVec 5) (s : State) {t_ : State} (h : execOr core rd ra rb s = .next t_) : t_.pending = s.pending := by
  unfold execOr at h
  injection h with h; subst h; simp
theorem execXor_md (core : Nat) (rd ra rb : BitVec 5) (s : State) {t_ : State} (h : execXor core rd ra rb s = .next t_) : t_.md = s.md := by
  unfold execXor at h
  injection h with h; subst h; simp
theorem execXor_pending (core : Nat) (rd ra rb : BitVec 5) (s : State) {t_ : State} (h : execXor core rd ra rb s = .next t_) : t_.pending = s.pending := by
  unfold execXor at h
  injection h with h; subst h; simp
theorem execShl_md (core : Nat) (rd ra rb : BitVec 5) (s : State) {t_ : State} (h : execShl core rd ra rb s = .next t_) : t_.md = s.md := by
  unfold execShl at h
  injection h with h; subst h; simp
theorem execShl_pending (core : Nat) (rd ra rb : BitVec 5) (s : State) {t_ : State} (h : execShl core rd ra rb s = .next t_) : t_.pending = s.pending := by
  unfold execShl at h
  injection h with h; subst h; simp
theorem execShr_md (core : Nat) (rd ra rb : BitVec 5) (s : State) {t_ : State} (h : execShr core rd ra rb s = .next t_) : t_.md = s.md := by
  unfold execShr at h
  injection h with h; subst h; simp
theorem execShr_pending (core : Nat) (rd ra rb : BitVec 5) (s : State) {t_ : State} (h : execShr core rd ra rb s = .next t_) : t_.pending = s.pending := by
  unfold execShr at h
  injection h with h; subst h; simp
theorem execSar_md (core : Nat) (rd ra rb : BitVec 5) (s : State) {t_ : State} (h : execSar core rd ra rb s = .next t_) : t_.md = s.md := by
  unfold execSar at h
  injection h with h; subst h; simp
theorem execSar_pending (core : Nat) (rd ra rb : BitVec 5) (s : State) {t_ : State} (h : execSar core rd ra rb s = .next t_) : t_.pending = s.pending := by
  unfold execSar at h
  injection h with h; subst h; simp
theorem execClt_md (core : Nat) (rd ra rb : BitVec 5) (s : State) {t_ : State} (h : execClt core rd ra rb s = .next t_) : t_.md = s.md := by
  unfold execClt at h
  injection h with h; subst h; simp
theorem execClt_pending (core : Nat) (rd ra rb : BitVec 5) (s : State) {t_ : State} (h : execClt core rd ra rb s = .next t_) : t_.pending = s.pending := by
  unfold execClt at h
  injection h with h; subst h; simp
theorem execCltu_md (core : Nat) (rd ra rb : BitVec 5) (s : State) {t_ : State} (h : execCltu core rd ra rb s = .next t_) : t_.md = s.md := by
  unfold execCltu at h
  injection h with h; subst h; simp
theorem execCltu_pending (core : Nat) (rd ra rb : BitVec 5) (s : State) {t_ : State} (h : execCltu core rd ra rb s = .next t_) : t_.pending = s.pending := by
  unfold execCltu at h
  injection h with h; subst h; simp
theorem execMul_md (core : Nat) (rd ra rb : BitVec 5) (s : State) {t_ : State} (h : execMul core rd ra rb s = .next t_) : t_.md = s.md := by
  unfold execMul at h
  injection h with h; subst h; simp
theorem execMul_pending (core : Nat) (rd ra rb : BitVec 5) (s : State) {t_ : State} (h : execMul core rd ra rb s = .next t_) : t_.pending = s.pending := by
  unfold execMul at h
  injection h with h; subst h; simp
theorem execMulHi_md (core : Nat) (rd ra rb : BitVec 5) (s : State) {t_ : State} (h : execMulHi core rd ra rb s = .next t_) : t_.md = s.md := by
  unfold execMulHi at h
  injection h with h; subst h; simp
theorem execMulHi_pending (core : Nat) (rd ra rb : BitVec 5) (s : State) {t_ : State} (h : execMulHi core rd ra rb s = .next t_) : t_.pending = s.pending := by
  unfold execMulHi at h
  injection h with h; subst h; simp
theorem execMulHiu_md (core : Nat) (rd ra rb : BitVec 5) (s : State) {t_ : State} (h : execMulHiu core rd ra rb s = .next t_) : t_.md = s.md := by
  unfold execMulHiu at h
  injection h with h; subst h; simp
theorem execMulHiu_pending (core : Nat) (rd ra rb : BitVec 5) (s : State) {t_ : State} (h : execMulHiu core rd ra rb s = .next t_) : t_.pending = s.pending := by
  unfold execMulHiu at h
  injection h with h; subst h; simp
theorem execQuo_md (core : Nat) (rd ra rb : BitVec 5) (s : State) {t_ : State} (h : execQuo core rd ra rb s = .next t_) : t_.md = s.md := by
  unfold execQuo at h
  injection h with h; subst h; simp
theorem execQuo_pending (core : Nat) (rd ra rb : BitVec 5) (s : State) {t_ : State} (h : execQuo core rd ra rb s = .next t_) : t_.pending = s.pending := by
  unfold execQuo at h
  injection h with h; subst h; simp
theorem execQuou_md (core : Nat) (rd ra rb : BitVec 5) (s : State) {t_ : State} (h : execQuou core rd ra rb s = .next t_) : t_.md = s.md := by
  unfold execQuou at h
  injection h with h; subst h; simp
theorem execQuou_pending (core : Nat) (rd ra rb : BitVec 5) (s : State) {t_ : State} (h : execQuou core rd ra rb s = .next t_) : t_.pending = s.pending := by
  unfold execQuou at h
  injection h with h; subst h; simp
theorem execMod_md (core : Nat) (rd ra rb : BitVec 5) (s : State) {t_ : State} (h : execMod core rd ra rb s = .next t_) : t_.md = s.md := by
  unfold execMod at h
  injection h with h; subst h; simp
theorem execMod_pending (core : Nat) (rd ra rb : BitVec 5) (s : State) {t_ : State} (h : execMod core rd ra rb s = .next t_) : t_.pending = s.pending := by
  unfold execMod at h
  injection h with h; subst h; simp
theorem execModu_md (core : Nat) (rd ra rb : BitVec 5) (s : State) {t_ : State} (h : execModu core rd ra rb s = .next t_) : t_.md = s.md := by
  unfold execModu at h
  injection h with h; subst h; simp
theorem execModu_pending (core : Nat) (rd ra rb : BitVec 5) (s : State) {t_ : State} (h : execModu core rd ra rb s = .next t_) : t_.pending = s.pending := by
  unfold execModu at h
  injection h with h; subst h; simp
theorem execMin_md (core : Nat) (rd ra rb : BitVec 5) (s : State) {t_ : State} (h : execMin core rd ra rb s = .next t_) : t_.md = s.md := by
  unfold execMin at h
  injection h with h; subst h; simp
theorem execMin_pending (core : Nat) (rd ra rb : BitVec 5) (s : State) {t_ : State} (h : execMin core rd ra rb s = .next t_) : t_.pending = s.pending := by
  unfold execMin at h
  injection h with h; subst h; simp
theorem execMax_md (core : Nat) (rd ra rb : BitVec 5) (s : State) {t_ : State} (h : execMax core rd ra rb s = .next t_) : t_.md = s.md := by
  unfold execMax at h
  injection h with h; subst h; simp
theorem execMax_pending (core : Nat) (rd ra rb : BitVec 5) (s : State) {t_ : State} (h : execMax core rd ra rb s = .next t_) : t_.pending = s.pending := by
  unfold execMax at h
  injection h with h; subst h; simp
theorem execMinu_md (core : Nat) (rd ra rb : BitVec 5) (s : State) {t_ : State} (h : execMinu core rd ra rb s = .next t_) : t_.md = s.md := by
  unfold execMinu at h
  injection h with h; subst h; simp
theorem execMinu_pending (core : Nat) (rd ra rb : BitVec 5) (s : State) {t_ : State} (h : execMinu core rd ra rb s = .next t_) : t_.pending = s.pending := by
  unfold execMinu at h
  injection h with h; subst h; simp
theorem execMaxu_md (core : Nat) (rd ra rb : BitVec 5) (s : State) {t_ : State} (h : execMaxu core rd ra rb s = .next t_) : t_.md = s.md := by
  unfold execMaxu at h
  injection h with h; subst h; simp
theorem execMaxu_pending (core : Nat) (rd ra rb : BitVec 5) (s : State) {t_ : State} (h : execMaxu core rd ra rb s = .next t_) : t_.pending = s.pending := by
  unfold execMaxu at h
  injection h with h; subst h; simp
theorem execFadd_md (core : Nat) (rd ra rb : BitVec 5) (s : State) {t_ : State} (h : execFadd core rd ra rb s = .next t_) : t_.md = s.md := by
  unfold execFadd at h
  injection h with h; subst h; simp
theorem execFadd_pending (core : Nat) (rd ra rb : BitVec 5) (s : State) {t_ : State} (h : execFadd core rd ra rb s = .next t_) : t_.pending = s.pending := by
  unfold execFadd at h
  injection h with h; subst h; simp
theorem execFsub_md (core : Nat) (rd ra rb : BitVec 5) (s : State) {t_ : State} (h : execFsub core rd ra rb s = .next t_) : t_.md = s.md := by
  unfold execFsub at h
  injection h with h; subst h; simp
theorem execFsub_pending (core : Nat) (rd ra rb : BitVec 5) (s : State) {t_ : State} (h : execFsub core rd ra rb s = .next t_) : t_.pending = s.pending := by
  unfold execFsub at h
  injection h with h; subst h; simp
theorem execFmul_md (core : Nat) (rd ra rb : BitVec 5) (s : State) {t_ : State} (h : execFmul core rd ra rb s = .next t_) : t_.md = s.md := by
  unfold execFmul at h
  injection h with h; subst h; simp
theorem execFmul_pending (core : Nat) (rd ra rb : BitVec 5) (s : State) {t_ : State} (h : execFmul core rd ra rb s = .next t_) : t_.pending = s.pending := by
  unfold execFmul at h
  injection h with h; subst h; simp
theorem execFmin_md (core : Nat) (rd ra rb : BitVec 5) (s : State) {t_ : State} (h : execFmin core rd ra rb s = .next t_) : t_.md = s.md := by
  unfold execFmin at h
  injection h with h; subst h; simp
theorem execFmin_pending (core : Nat) (rd ra rb : BitVec 5) (s : State) {t_ : State} (h : execFmin core rd ra rb s = .next t_) : t_.pending = s.pending := by
  unfold execFmin at h
  injection h with h; subst h; simp
theorem execFmax_md (core : Nat) (rd ra rb : BitVec 5) (s : State) {t_ : State} (h : execFmax core rd ra rb s = .next t_) : t_.md = s.md := by
  unfold execFmax at h
  injection h with h; subst h; simp
theorem execFmax_pending (core : Nat) (rd ra rb : BitVec 5) (s : State) {t_ : State} (h : execFmax core rd ra rb s = .next t_) : t_.pending = s.pending := by
  unfold execFmax at h
  injection h with h; subst h; simp
theorem execFclt_md (core : Nat) (rd ra rb : BitVec 5) (s : State) {t_ : State} (h : execFclt core rd ra rb s = .next t_) : t_.md = s.md := by
  unfold execFclt at h
  injection h with h; subst h; simp
theorem execFclt_pending (core : Nat) (rd ra rb : BitVec 5) (s : State) {t_ : State} (h : execFclt core rd ra rb s = .next t_) : t_.pending = s.pending := by
  unfold execFclt at h
  injection h with h; subst h; simp
theorem execFceq_md (core : Nat) (rd ra rb : BitVec 5) (s : State) {t_ : State} (h : execFceq core rd ra rb s = .next t_) : t_.md = s.md := by
  unfold execFceq at h
  injection h with h; subst h; simp
theorem execFceq_pending (core : Nat) (rd ra rb : BitVec 5) (s : State) {t_ : State} (h : execFceq core rd ra rb s = .next t_) : t_.pending = s.pending := by
  unfold execFceq at h
  injection h with h; subst h; simp
theorem execAddK_md (core : Nat) (rd ra : BitVec 5) (imm : BitVec 16) (s : State) {t_ : State} (h : execAddK core rd ra imm s = .next t_) : t_.md = s.md := by
  unfold execAddK at h
  injection h with h; subst h; simp
theorem execAddK_pending (core : Nat) (rd ra : BitVec 5) (imm : BitVec 16) (s : State) {t_ : State} (h : execAddK core rd ra imm s = .next t_) : t_.pending = s.pending := by
  unfold execAddK at h
  injection h with h; subst h; simp
theorem execAndK_md (core : Nat) (rd ra : BitVec 5) (imm : BitVec 16) (s : State) {t_ : State} (h : execAndK core rd ra imm s = .next t_) : t_.md = s.md := by
  unfold execAndK at h
  injection h with h; subst h; simp
theorem execAndK_pending (core : Nat) (rd ra : BitVec 5) (imm : BitVec 16) (s : State) {t_ : State} (h : execAndK core rd ra imm s = .next t_) : t_.pending = s.pending := by
  unfold execAndK at h
  injection h with h; subst h; simp
theorem execOrK_md (core : Nat) (rd ra : BitVec 5) (imm : BitVec 16) (s : State) {t_ : State} (h : execOrK core rd ra imm s = .next t_) : t_.md = s.md := by
  unfold execOrK at h
  injection h with h; subst h; simp
theorem execOrK_pending (core : Nat) (rd ra : BitVec 5) (imm : BitVec 16) (s : State) {t_ : State} (h : execOrK core rd ra imm s = .next t_) : t_.pending = s.pending := by
  unfold execOrK at h
  injection h with h; subst h; simp
theorem execXorK_md (core : Nat) (rd ra : BitVec 5) (imm : BitVec 16) (s : State) {t_ : State} (h : execXorK core rd ra imm s = .next t_) : t_.md = s.md := by
  unfold execXorK at h
  injection h with h; subst h; simp
theorem execXorK_pending (core : Nat) (rd ra : BitVec 5) (imm : BitVec 16) (s : State) {t_ : State} (h : execXorK core rd ra imm s = .next t_) : t_.pending = s.pending := by
  unfold execXorK at h
  injection h with h; subst h; simp
theorem execCltK_md (core : Nat) (rd ra : BitVec 5) (imm : BitVec 16) (s : State) {t_ : State} (h : execCltK core rd ra imm s = .next t_) : t_.md = s.md := by
  unfold execCltK at h
  injection h with h; subst h; simp
theorem execCltK_pending (core : Nat) (rd ra : BitVec 5) (imm : BitVec 16) (s : State) {t_ : State} (h : execCltK core rd ra imm s = .next t_) : t_.pending = s.pending := by
  unfold execCltK at h
  injection h with h; subst h; simp
theorem execCltuK_md (core : Nat) (rd ra : BitVec 5) (imm : BitVec 16) (s : State) {t_ : State} (h : execCltuK core rd ra imm s = .next t_) : t_.md = s.md := by
  unfold execCltuK at h
  injection h with h; subst h; simp
theorem execCltuK_pending (core : Nat) (rd ra : BitVec 5) (imm : BitVec 16) (s : State) {t_ : State} (h : execCltuK core rd ra imm s = .next t_) : t_.pending = s.pending := by
  unfold execCltuK at h
  injection h with h; subst h; simp
theorem execHiK_md (core : Nat) (rd ra : BitVec 5) (imm : BitVec 16) (s : State) {t_ : State} (h : execHiK core rd ra imm s = .next t_) : t_.md = s.md := by
  unfold execHiK at h
  injection h with h; subst h; simp
theorem execHiK_pending (core : Nat) (rd ra : BitVec 5) (imm : BitVec 16) (s : State) {t_ : State} (h : execHiK core rd ra imm s = .next t_) : t_.pending = s.pending := by
  unfold execHiK at h
  injection h with h; subst h; simp
theorem execShlK_md (core : Nat) (rd ra k : BitVec 5) (s : State) {t_ : State} (h : execShlK core rd ra k s = .next t_) : t_.md = s.md := by
  unfold execShlK at h
  injection h with h; subst h; simp
theorem execShlK_pending (core : Nat) (rd ra k : BitVec 5) (s : State) {t_ : State} (h : execShlK core rd ra k s = .next t_) : t_.pending = s.pending := by
  unfold execShlK at h
  injection h with h; subst h; simp
theorem execShrK_md (core : Nat) (rd ra k : BitVec 5) (s : State) {t_ : State} (h : execShrK core rd ra k s = .next t_) : t_.md = s.md := by
  unfold execShrK at h
  injection h with h; subst h; simp
theorem execShrK_pending (core : Nat) (rd ra k : BitVec 5) (s : State) {t_ : State} (h : execShrK core rd ra k s = .next t_) : t_.pending = s.pending := by
  unfold execShrK at h
  injection h with h; subst h; simp
theorem execSarK_md (core : Nat) (rd ra k : BitVec 5) (s : State) {t_ : State} (h : execSarK core rd ra k s = .next t_) : t_.md = s.md := by
  unfold execSarK at h
  injection h with h; subst h; simp
theorem execSarK_pending (core : Nat) (rd ra k : BitVec 5) (s : State) {t_ : State} (h : execSarK core rd ra k s = .next t_) : t_.pending = s.pending := by
  unfold execSarK at h
  injection h with h; subst h; simp
theorem execPcrel_md (core : Nat) (rd : BitVec 5) (imm : BitVec 16) (s : State) {t_ : State} (h : execPcrel core rd imm s = .next t_) : t_.md = s.md := by
  unfold execPcrel at h
  injection h with h; subst h; simp
theorem execPcrel_pending (core : Nat) (rd : BitVec 5) (imm : BitVec 16) (s : State) {t_ : State} (h : execPcrel core rd imm s = .next t_) : t_.pending = s.pending := by
  unfold execPcrel at h
  injection h with h; subst h; simp
theorem execLdW_md (core : Nat) (rd ra : BitVec 5) (imm : BitVec 16) (s : State) {t_ : State} (h : execLdW core rd ra imm s = .next t_) : t_.md = s.md := by
  unfold execLdW at h
  injection h with h; subst h; simp
theorem execLdW_pending (core : Nat) (rd ra : BitVec 5) (imm : BitVec 16) (s : State) {t_ : State} (h : execLdW core rd ra imm s = .next t_) : t_.pending = s.pending := by
  unfold execLdW at h
  injection h with h; subst h; simp
theorem execLdHs_md (core : Nat) (rd ra : BitVec 5) (imm : BitVec 16) (s : State) {t_ : State} (h : execLdHs core rd ra imm s = .next t_) : t_.md = s.md := by
  unfold execLdHs at h
  injection h with h; subst h; simp
theorem execLdHs_pending (core : Nat) (rd ra : BitVec 5) (imm : BitVec 16) (s : State) {t_ : State} (h : execLdHs core rd ra imm s = .next t_) : t_.pending = s.pending := by
  unfold execLdHs at h
  injection h with h; subst h; simp
theorem execLdHu_md (core : Nat) (rd ra : BitVec 5) (imm : BitVec 16) (s : State) {t_ : State} (h : execLdHu core rd ra imm s = .next t_) : t_.md = s.md := by
  unfold execLdHu at h
  injection h with h; subst h; simp
theorem execLdHu_pending (core : Nat) (rd ra : BitVec 5) (imm : BitVec 16) (s : State) {t_ : State} (h : execLdHu core rd ra imm s = .next t_) : t_.pending = s.pending := by
  unfold execLdHu at h
  injection h with h; subst h; simp
theorem execLdBs_md (core : Nat) (rd ra : BitVec 5) (imm : BitVec 16) (s : State) {t_ : State} (h : execLdBs core rd ra imm s = .next t_) : t_.md = s.md := by
  unfold execLdBs at h
  injection h with h; subst h; simp
theorem execLdBs_pending (core : Nat) (rd ra : BitVec 5) (imm : BitVec 16) (s : State) {t_ : State} (h : execLdBs core rd ra imm s = .next t_) : t_.pending = s.pending := by
  unfold execLdBs at h
  injection h with h; subst h; simp
theorem execLdBu_md (core : Nat) (rd ra : BitVec 5) (imm : BitVec 16) (s : State) {t_ : State} (h : execLdBu core rd ra imm s = .next t_) : t_.md = s.md := by
  unfold execLdBu at h
  injection h with h; subst h; simp
theorem execLdBu_pending (core : Nat) (rd ra : BitVec 5) (imm : BitVec 16) (s : State) {t_ : State} (h : execLdBu core rd ra imm s = .next t_) : t_.pending = s.pending := by
  unfold execLdBu at h
  injection h with h; subst h; simp
theorem execStW_md (core : Nat) (rd ra : BitVec 5) (imm : BitVec 16) (s : State) {t_ : State} (h : execStW core rd ra imm s = .next t_) : t_.md = s.md := by
  unfold execStW at h
  injection h with h; subst h; simp
theorem execStW_pending (core : Nat) (rd ra : BitVec 5) (imm : BitVec 16) (s : State) {t_ : State} (h : execStW core rd ra imm s = .next t_) : t_.pending = s.pending := by
  unfold execStW at h
  injection h with h; subst h; simp
theorem execStH_md (core : Nat) (rd ra : BitVec 5) (imm : BitVec 16) (s : State) {t_ : State} (h : execStH core rd ra imm s = .next t_) : t_.md = s.md := by
  unfold execStH at h
  injection h with h; subst h; simp
theorem execStH_pending (core : Nat) (rd ra : BitVec 5) (imm : BitVec 16) (s : State) {t_ : State} (h : execStH core rd ra imm s = .next t_) : t_.pending = s.pending := by
  unfold execStH at h
  injection h with h; subst h; simp
theorem execStB_md (core : Nat) (rd ra : BitVec 5) (imm : BitVec 16) (s : State) {t_ : State} (h : execStB core rd ra imm s = .next t_) : t_.md = s.md := by
  unfold execStB at h
  injection h with h; subst h; simp
theorem execStB_pending (core : Nat) (rd ra : BitVec 5) (imm : BitVec 16) (s : State) {t_ : State} (h : execStB core rd ra imm s = .next t_) : t_.pending = s.pending := by
  unfold execStB at h
  injection h with h; subst h; simp
theorem execBrEq_md (core : Nat) (ra rb : BitVec 5) (off : BitVec 16) (s : State) {t_ : State} (h : execBrEq core ra rb off s = .next t_) : t_.md = s.md := by
  unfold execBrEq at h
  injection h with h; subst h; simp
theorem execBrEq_pending (core : Nat) (ra rb : BitVec 5) (off : BitVec 16) (s : State) {t_ : State} (h : execBrEq core ra rb off s = .next t_) : t_.pending = s.pending := by
  unfold execBrEq at h
  injection h with h; subst h; simp
theorem execBrNe_md (core : Nat) (ra rb : BitVec 5) (off : BitVec 16) (s : State) {t_ : State} (h : execBrNe core ra rb off s = .next t_) : t_.md = s.md := by
  unfold execBrNe at h
  injection h with h; subst h; simp
theorem execBrNe_pending (core : Nat) (ra rb : BitVec 5) (off : BitVec 16) (s : State) {t_ : State} (h : execBrNe core ra rb off s = .next t_) : t_.pending = s.pending := by
  unfold execBrNe at h
  injection h with h; subst h; simp
theorem execBrLt_md (core : Nat) (ra rb : BitVec 5) (off : BitVec 16) (s : State) {t_ : State} (h : execBrLt core ra rb off s = .next t_) : t_.md = s.md := by
  unfold execBrLt at h
  injection h with h; subst h; simp
theorem execBrLt_pending (core : Nat) (ra rb : BitVec 5) (off : BitVec 16) (s : State) {t_ : State} (h : execBrLt core ra rb off s = .next t_) : t_.pending = s.pending := by
  unfold execBrLt at h
  injection h with h; subst h; simp
theorem execBrGe_md (core : Nat) (ra rb : BitVec 5) (off : BitVec 16) (s : State) {t_ : State} (h : execBrGe core ra rb off s = .next t_) : t_.md = s.md := by
  unfold execBrGe at h
  injection h with h; subst h; simp
theorem execBrGe_pending (core : Nat) (ra rb : BitVec 5) (off : BitVec 16) (s : State) {t_ : State} (h : execBrGe core ra rb off s = .next t_) : t_.pending = s.pending := by
  unfold execBrGe at h
  injection h with h; subst h; simp
theorem execBrLtu_md (core : Nat) (ra rb : BitVec 5) (off : BitVec 16) (s : State) {t_ : State} (h : execBrLtu core ra rb off s = .next t_) : t_.md = s.md := by
  unfold execBrLtu at h
  injection h with h; subst h; simp
theorem execBrLtu_pending (core : Nat) (ra rb : BitVec 5) (off : BitVec 16) (s : State) {t_ : State} (h : execBrLtu core ra rb off s = .next t_) : t_.pending = s.pending := by
  unfold execBrLtu at h
  injection h with h; subst h; simp
theorem execBrGeu_md (core : Nat) (ra rb : BitVec 5) (off : BitVec 16) (s : State) {t_ : State} (h : execBrGeu core ra rb off s = .next t_) : t_.md = s.md := by
  unfold execBrGeu at h
  injection h with h; subst h; simp
theorem execBrGeu_pending (core : Nat) (ra rb : BitVec 5) (off : BitVec 16) (s : State) {t_ : State} (h : execBrGeu core ra rb off s = .next t_) : t_.pending = s.pending := by
  unfold execBrGeu at h
  injection h with h; subst h; simp
theorem execBra_md (core : Nat) (off : BitVec 26) (s : State) {t_ : State} (h : execBra core off s = .next t_) : t_.md = s.md := by
  unfold execBra at h
  injection h with h; subst h; simp
theorem execBra_pending (core : Nat) (off : BitVec 26) (s : State) {t_ : State} (h : execBra core off s = .next t_) : t_.pending = s.pending := by
  unfold execBra at h
  injection h with h; subst h; simp
theorem execCall_md (core : Nat) (off : BitVec 26) (s : State) {t_ : State} (h : execCall core off s = .next t_) : t_.md = s.md := by
  unfold execCall at h
  injection h with h; subst h; simp
theorem execCall_pending (core : Nat) (off : BitVec 26) (s : State) {t_ : State} (h : execCall core off s = .next t_) : t_.pending = s.pending := by
  unfold execCall at h
  injection h with h; subst h; simp
theorem execCallr_md (core : Nat) (rd ra : BitVec 5) (imm : BitVec 16) (s : State) {t_ : State} (h : execCallr core rd ra imm s = .next t_) : t_.md = s.md := by
  unfold execCallr at h
  injection h with h; subst h; simp
theorem execCallr_pending (core : Nat) (rd ra : BitVec 5) (imm : BitVec 16) (s : State) {t_ : State} (h : execCallr core rd ra imm s = .next t_) : t_.pending = s.pending := by
  unfold execCallr at h
  injection h with h; subst h; simp
theorem execSget_md (core : Nat) (rd rb : BitVec 5) (s : State) {t_ : State} (h : execSget core rd rb s = .next t_) : t_.md = s.md := by
  unfold execSget at h
  injection h with h; subst h; simp
theorem execSget_pending (core : Nat) (rd rb : BitVec 5) (s : State) {t_ : State} (h : execSget core rd rb s = .next t_) : t_.pending = s.pending := by
  unfold execSget at h
  injection h with h; subst h; simp
theorem execSput_md (core : Nat) (ra rb : BitVec 5) (s : State) {t_ : State} (h : execSput core ra rb s = .next t_) : t_.md = s.md := by
  unfold execSput at h
  injection h with h; subst h; simp
theorem execSput_pending (core : Nat) (ra rb : BitVec 5) (s : State) {t_ : State} (h : execSput core ra rb s = .next t_) : t_.pending = s.pending := by
  unfold execSput at h
  injection h with h; subst h; simp
theorem execHret_md (core : Nat) (s : State) {t_ : State} (h : execHret core s = .next t_) : t_.md = s.md := by
  unfold execHret at h
  injection h with h; subst h; simp
theorem execHret_pending (core : Nat) (s : State) {t_ : State} (h : execHret core s = .next t_) : t_.pending = s.pending := by
  unfold execHret at h
  injection h with h; subst h; simp
theorem execTrap_md (core : Nat) (code : BitVec 5) (s : State) {t_ : State} (h : execTrap core code s = .next t_) : t_.md = s.md := by
  unfold execTrap at h
  injection h with h; subst h; simp
theorem execTrap_pending (core : Nat) (code : BitVec 5) (s : State) {t_ : State} (h : execTrap core code s = .next t_) : t_.pending = s.pending := by
  unfold execTrap at h
  injection h with h; subst h; simp
theorem execDone_md (core : Nat) (code : BitVec 5) (s : State) {t_ : State} (h : execDone core code s = .next t_) : t_.md = s.md := by
  unfold execDone at h
  injection h with h; subst h; simp
theorem execDone_pending (core : Nat) (code : BitVec 5) (s : State) {t_ : State} (h : execDone core code s = .next t_) : t_.pending = s.pending := by
  unfold execDone at h
  injection h with h; subst h; simp
theorem execFence_md (core : Nat) (s : State) {t_ : State} (h : execFence core s = .next t_) : t_.md = s.md := by
  unfold execFence at h
  injection h with h; subst h; simp
theorem execFence_pending (core : Nat) (s : State) {t_ : State} (h : execFence core s = .next t_) : t_.pending = s.pending := by
  unfold execFence at h
  injection h with h; subst h; simp
theorem execQt_md (core : Nat) (ra rb rc : BitVec 5) (s : State) {t_ : State} (h : execQt core ra rb rc s = .next t_) : t_.md = s.md := by
  unfold execQt at h
  injection h with h; subst h; simp
theorem execQt_pending (core : Nat) (ra rb rc : BitVec 5) (s : State) {t_ : State} (h : execQt core ra rb rc s = .next t_) : t_.pending = s.pending := by
  unfold execQt at h
  injection h with h; subst h; simp
theorem execSest_md (core : Nat) (ra : BitVec 5) (eng : BitVec 3) (s : State) {t_ : State} (h : execSest core ra eng s = .next t_) : t_.md = s.md := by
  unfold execSest at h
  injection h with h; subst h; simp
theorem execSest_pending (core : Nat) (ra : BitVec 5) (eng : BitVec 3) (s : State) {t_ : State} (h : execSest core ra eng s = .next t_) : t_.pending = s.pending := by
  unfold execSest at h
  injection h with h; subst h; simp
theorem execTget_md (core : Nat) (eng : BitVec 3) (ctr : BitVec 2) (s : State) {t_ : State} (h : execTget core eng ctr s = .next t_) : t_.md = s.md := by
  unfold execTget at h
  injection h with h; subst h; simp
theorem execTget_pending (core : Nat) (eng : BitVec 3) (ctr : BitVec 2) (s : State) {t_ : State} (h : execTget core eng ctr s = .next t_) : t_.pending = s.pending := by
  unfold execTget at h
  injection h with h; subst h; simp
theorem execTput_md (core : Nat) (eng : BitVec 3) (ctr : BitVec 2) (s : State) {t_ : State} (h : execTput core eng ctr s = .next t_) : t_.md = s.md := by
  unfold execTput at h
  injection h with h; subst h; simp
theorem execTput_pending (core : Nat) (eng : BitVec 3) (ctr : BitVec 2) (s : State) {t_ : State} (h : execTput core eng ctr s = .next t_) : t_.pending = s.pending := by
  unfold execTput at h
  injection h with h; subst h; simp
theorem execCvt_md (core : Nat) (rd ra rb : BitVec 5) (site dst : BitVec 4) (src : Bool) (s : State) {t_ : State} (h : execCvt core rd ra rb site dst src s = .next t_) : t_.md = s.md := by
  unfold execCvt at h
  injection h with h; subst h; simp
theorem execCvt_pending (core : Nat) (rd ra rb : BitVec 5) (site dst : BitVec 4) (src : Bool) (s : State) {t_ : State} (h : execCvt core rd ra rb site dst src s = .next t_) : t_.pending = s.pending := by
  unfold execCvt at h
  injection h with h; subst h; simp
theorem execDec_md (core : Nat) (rd ra : BitVec 5) (src : BitVec 4) (s : State) {t_ : State} (h : execDec core rd ra src s = .next t_) : t_.md = s.md := by
  unfold execDec at h
  injection h with h; subst h; simp
theorem execDec_pending (core : Nat) (rd ra : BitVec 5) (src : BitVec 4) (s : State) {t_ : State} (h : execDec core rd ra src s = .next t_) : t_.pending = s.pending := by
  unfold execDec at h
  injection h with h; subst h; simp
theorem execIllegalInstruction_md (core : Nat) (word : Word) (s : State) {t_ : State} (h : execIllegalInstruction core word s = .next t_) : t_.md = s.md := by
  unfold execIllegalInstruction at h
  injection h with h; subst h; simp
theorem execIllegalInstruction_pending (core : Nat) (word : Word) (s : State) {t_ : State} (h : execIllegalInstruction core word s = .next t_) : t_.pending = s.pending := by
  unfold execIllegalInstruction at h
  injection h with h; subst h; simp
theorem execStreamProgramStart_md (core eng : Nat) (s : State) {t_ : State} (h : execStreamProgramStart core eng s = .next t_) : t_.md = s.md := by
  unfold execStreamProgramStart at h
  injection h with h; subst h; simp
theorem execStreamProgramStart_pending (core eng : Nat) (s : State) {t_ : State} (h : execStreamProgramStart core eng s = .next t_) : t_.pending = s.pending := by
  unfold execStreamProgramStart at h
  injection h with h; subst h; simp
theorem execSeEnd_md (core eng : Nat) (s : State) {t_ : State} (h : execSeEnd core eng s = .next t_) : t_.md = s.md := by
  unfold execSeEnd at h
  injection h with h; subst h; simp
theorem execSeEnd_pending (core eng : Nat) (s : State) {t_ : State} (h : execSeEnd core eng s = .next t_) : t_.pending = s.pending := by
  unfold execSeEnd at h
  injection h with h; subst h; simp
theorem execSeSetw_md (core eng : Nat) (d : BitVec 4) (pos : BitVec 2) (imm : BitVec 16) (s : State) {t_ : State} (h : execSeSetw core eng d pos imm s = .next t_) : t_.md = s.md := by
  unfold execSeSetw at h
  injection h with h; subst h; simp
theorem execSeSetw_pending (core eng : Nat) (d : BitVec 4) (pos : BitVec 2) (imm : BitVec 16) (s : State) {t_ : State} (h : execSeSetw core eng d pos imm s = .next t_) : t_.pending = s.pending := by
  unfold execSeSetw at h
  injection h with h; subst h; simp
theorem execSeAddi_md (core eng : Nat) (d a : BitVec 4) (imm : BitVec 14) (s : State) {t_ : State} (h : execSeAddi core eng d a imm s = .next t_) : t_.md = s.md := by
  unfold execSeAddi at h
  injection h with h; subst h; simp
theorem execSeAddi_pending (core eng : Nat) (d a : BitVec 4) (imm : BitVec 14) (s : State) {t_ : State} (h : execSeAddi core eng d a imm s = .next t_) : t_.pending = s.pending := by
  unfold execSeAddi at h
  injection h with h; subst h; simp
theorem execSeAdd_md (core eng : Nat) (d a b : BitVec 4) (s : State) {t_ : State} (h : execSeAdd core eng d a b s = .next t_) : t_.md = s.md := by
  unfold execSeAdd at h
  injection h with h; subst h; simp
theorem execSeAdd_pending (core eng : Nat) (d a b : BitVec 4) (s : State) {t_ : State} (h : execSeAdd core eng d a b s = .next t_) : t_.pending = s.pending := by
  unfold execSeAdd at h
  injection h with h; subst h; simp
theorem execSeSub_md (core eng : Nat) (d a b : BitVec 4) (s : State) {t_ : State} (h : execSeSub core eng d a b s = .next t_) : t_.md = s.md := by
  unfold execSeSub at h
  injection h with h; subst h; simp
theorem execSeSub_pending (core eng : Nat) (d a b : BitVec 4) (s : State) {t_ : State} (h : execSeSub core eng d a b s = .next t_) : t_.pending = s.pending := by
  unfold execSeSub at h
  injection h with h; subst h; simp
theorem execSeMuli_md (core eng : Nat) (d a : BitVec 4) (imm : BitVec 14) (s : State) {t_ : State} (h : execSeMuli core eng d a imm s = .next t_) : t_.md = s.md := by
  unfold execSeMuli at h
  injection h with h; subst h; simp
theorem execSeMuli_pending (core eng : Nat) (d a : BitVec 4) (imm : BitVec 14) (s : State) {t_ : State} (h : execSeMuli core eng d a imm s = .next t_) : t_.pending = s.pending := by
  unfold execSeMuli at h
  injection h with h; subst h; simp
theorem execSeShli_md (core eng : Nat) (d a : BitVec 4) (imm : BitVec 6) (s : State) {t_ : State} (h : execSeShli core eng d a imm s = .next t_) : t_.md = s.md := by
  unfold execSeShli at h
  injection h with h; subst h; simp
theorem execSeShli_pending (core eng : Nat) (d a : BitVec 4) (imm : BitVec 6) (s : State) {t_ : State} (h : execSeShli core eng d a imm s = .next t_) : t_.pending = s.pending := by
  unfold execSeShli at h
  injection h with h; subst h; simp
theorem execSeLdw_md (core eng : Nat) (d a : BitVec 4) (imm : BitVec 14) (s : State) {t_ : State} (h : execSeLdw core eng d a imm s = .next t_) : t_.md = s.md := by
  unfold execSeLdw at h
  injection h with h; subst h; simp
theorem execSeLdw_pending (core eng : Nat) (d a : BitVec 4) (imm : BitVec 14) (s : State) {t_ : State} (h : execSeLdw core eng d a imm s = .next t_) : t_.pending = s.pending := by
  unfold execSeLdw at h
  injection h with h; subst h; simp
theorem execSeLdh_md (core eng : Nat) (d a : BitVec 4) (imm : BitVec 14) (s : State) {t_ : State} (h : execSeLdh core eng d a imm s = .next t_) : t_.md = s.md := by
  unfold execSeLdh at h
  injection h with h; subst h; simp
theorem execSeLdh_pending (core eng : Nat) (d a : BitVec 4) (imm : BitVec 14) (s : State) {t_ : State} (h : execSeLdh core eng d a imm s = .next t_) : t_.pending = s.pending := by
  unfold execSeLdh at h
  injection h with h; subst h; simp
theorem execSeLoop_md (core eng : Nat) (lvl : BitVec 2) (reg : Bool) (a : BitVec 4) (imm : BitVec 18) (s : State) {t_ : State} (h : execSeLoop core eng lvl reg a imm s = .next t_) : t_.md = s.md := by
  unfold execSeLoop at h
  injection h with h; subst h; simp
theorem execSeLoop_pending (core eng : Nat) (lvl : BitVec 2) (reg : Bool) (a : BitVec 4) (imm : BitVec 18) (s : State) {t_ : State} (h : execSeLoop core eng lvl reg a imm s = .next t_) : t_.pending = s.pending := by
  unfold execSeLoop at h
  injection h with h; subst h; simp
theorem execSeNext_md (core eng : Nat) (lvl : BitVec 2) (s : State) {t_ : State} (h : execSeNext core eng lvl s = .next t_) : t_.md = s.md := by
  unfold execSeNext at h
  injection h with h; subst h; simp
theorem execSeNext_pending (core eng : Nat) (lvl : BitVec 2) (s : State) {t_ : State} (h : execSeNext core eng lvl s = .next t_) : t_.pending = s.pending := by
  unfold execSeNext at h
  injection h with h; subst h; simp
theorem execSeRdl_md (core eng idle : Nat) (d a b : BitVec 4) (slot : BitVec 3) (imm : BitVec 11) (s : State) {t_ : State} (h : execSeRdl core eng idle d a b slot imm s = .next t_) : t_.md = s.md := by
  unfold execSeRdl at h
  injection h with h; subst h; simp
theorem execSeRdl_pending (core eng idle : Nat) (d a b : BitVec 4) (slot : BitVec 3) (imm : BitVec 11) (s : State) {t_ : State} (h : execSeRdl core eng idle d a b slot imm s = .next t_) : t_.pending = s.pending := by
  unfold execSeRdl at h
  injection h with h; subst h; simp
theorem execSeWrl_md (core eng idle : Nat) (d a b : BitVec 4) (slot : BitVec 3) (imm : BitVec 11) (s : State) {t_ : State} (h : execSeWrl core eng idle d a b slot imm s = .next t_) : t_.md = s.md := by
  unfold execSeWrl at h
  injection h with h; subst h; simp
theorem execSeWrl_pending (core eng idle : Nat) (d a b : BitVec 4) (slot : BitVec 3) (imm : BitVec 11) (s : State) {t_ : State} (h : execSeWrl core eng idle d a b slot imm s = .next t_) : t_.pending = s.pending := by
  unfold execSeWrl at h
  injection h with h; subst h; simp
theorem execSeRda_md (core eng idle : Nat) (d a b : BitVec 4) (slot : BitVec 3) (imm : BitVec 11) (s : State) {t_ : State} (h : execSeRda core eng idle d a b slot imm s = .next t_) : t_.md = s.md := by
  unfold execSeRda at h
  injection h with h; subst h; simp
theorem execSeRda_pending (core eng idle : Nat) (d a b : BitVec 4) (slot : BitVec 3) (imm : BitVec 11) (s : State) {t_ : State} (h : execSeRda core eng idle d a b slot imm s = .next t_) : t_.pending = s.pending := by
  unfold execSeRda at h
  injection h with h; subst h; simp
theorem execSeRdw_md (core eng idle : Nat) (d a b : BitVec 4) (slot : BitVec 3) (imm : BitVec 11) (s : State) {t_ : State} (h : execSeRdw core eng idle d a b slot imm s = .next t_) : t_.md = s.md := by
  unfold execSeRdw at h
  injection h with h; subst h; simp
theorem execSeRdw_pending (core eng idle : Nat) (d a b : BitVec 4) (slot : BitVec 3) (imm : BitVec 11) (s : State) {t_ : State} (h : execSeRdw core eng idle d a b slot imm s = .next t_) : t_.pending = s.pending := by
  unfold execSeRdw at h
  injection h with h; subst h; simp
theorem execSeRdb_md (core eng idle : Nat) (d a b : BitVec 4) (slot : BitVec 3) (imm : BitVec 11) (s : State) {t_ : State} (h : execSeRdb core eng idle d a b slot imm s = .next t_) : t_.md = s.md := by
  unfold execSeRdb at h
  injection h with h; subst h; simp
theorem execSeRdb_pending (core eng idle : Nat) (d a b : BitVec 4) (slot : BitVec 3) (imm : BitVec 11) (s : State) {t_ : State} (h : execSeRdb core eng idle d a b slot imm s = .next t_) : t_.pending = s.pending := by
  unfold execSeRdb at h
  injection h with h; subst h; simp
theorem execSeGet_md (core eng : Nat) (d : BitVec 4) (s : State) {t_ : State} (h : execSeGet core eng d s = .next t_) : t_.md = s.md := by
  unfold execSeGet at h
  injection h with h; subst h; simp
theorem execSeGet_pending (core eng : Nat) (d : BitVec 4) (s : State) {t_ : State} (h : execSeGet core eng d s = .next t_) : t_.pending = s.pending := by
  unfold execSeGet at h
  injection h with h; subst h; simp
theorem execSePut_md (core eng : Nat) (d : BitVec 4) (s : State) {t_ : State} (h : execSePut core eng d s = .next t_) : t_.md = s.md := by
  unfold execSePut at h
  injection h with h; subst h; simp
theorem execSePut_pending (core eng : Nat) (d : BitVec 4) (s : State) {t_ : State} (h : execSePut core eng d s = .next t_) : t_.pending = s.pending := by
  unfold execSePut at h
  injection h with h; subst h; simp
theorem execSeFence_md (core eng : Nat) (s : State) {t_ : State} (h : execSeFence core eng s = .next t_) : t_.md = s.md := by
  unfold execSeFence at h
  injection h with h; subst h; simp
theorem execSeFence_pending (core eng : Nat) (s : State) {t_ : State} (h : execSeFence core eng s = .next t_) : t_.pending = s.pending := by
  unfold execSeFence at h
  injection h with h; subst h; simp
theorem execSeRstep_md (core eng : Nat) (d a b : BitVec 4) (set : BitVec 2) (s : State) {t_ : State} (h : execSeRstep core eng d a b set s = .next t_) : t_.md = s.md := by
  unfold execSeRstep at h
  injection h with h; subst h; simp
theorem execSeRstep_pending (core eng : Nat) (d a b : BitVec 4) (set : BitVec 2) (s : State) {t_ : State} (h : execSeRstep core eng d a b set s = .next t_) : t_.pending = s.pending := by
  unfold execSeRstep at h
  injection h with h; subst h; simp
theorem execTransferRetire_md (core eng xfer : Nat) (s : State) {t_ : State} (h : execTransferRetire core eng xfer s = .next t_) : t_.md = s.md := by
  unfold execTransferRetire at h
  injection h with h; subst h; simp
theorem execTransferRetire_pending (core eng xfer : Nat) (s : State) {t_ : State} (h : execTransferRetire core eng xfer s = .next t_) : t_.pending = s.pending := by
  unfold execTransferRetire at h
  injection h with h; subst h; simp
theorem execResidentShardFilled_md (core set : Nat) (s : State) {t_ : State} (h : execResidentShardFilled core set s = .next t_) : t_.md = s.md := by
  unfold execResidentShardFilled at h
  try dsimp only at h
  (repeat' split at h) <;> (injection h with h; subst h; repeat' (first | rfl | assumption | (apply foldl_md) | (apply foldl_md_fst) | (apply getD_md) | (intro _) | split | simp))
theorem execResidentShardFilled_pending (core set : Nat) (s : State) {t_ : State} (h : execResidentShardFilled core set s = .next t_) : t_.pending = s.pending := by
  unfold execResidentShardFilled at h
  try dsimp only at h
  (repeat' split at h) <;> (injection h with h; subst h; repeat' (first | rfl | assumption | (apply foldl_pending) | (apply foldl_pending_fst) | (apply getD_pending) | (intro _) | split | simp))
theorem execLdw_md (core id : Nat) (s : State) {t_ : State} (h : execLdw core id s = .next t_) : t_.md = s.md := by
  unfold execLdw at h
  injection h with h; subst h; simp
theorem execLdw_pending (core id : Nat) (s : State) {t_ : State} (h : execLdw core id s = .next t_) : t_.pending = s.pending := by
  unfold execLdw at h
  injection h with h; subst h; simp
theorem execStr_md (core id freezeDry freezeAcc mismatch : Nat) (s : State) {t_ : State} (h : execStr core id freezeDry freezeAcc mismatch s = .next t_) : t_.md = s.md := by
  unfold execStr at h
  injection h with h; subst h; simp
theorem execStr_pending (core id freezeDry freezeAcc mismatch : Nat) (s : State) {t_ : State} (h : execStr core id freezeDry freezeAcc mismatch s = .next t_) : t_.pending = s.pending := by
  unfold execStr at h
  injection h with h; subst h; simp
theorem execAcc_md (core id mismatch : Nat) (s : State) {t_ : State} (h : execAcc core id mismatch s = .next t_) : t_.md = s.md := by
  unfold execAcc at h
  injection h with h; subst h; simp
theorem execAcc_pending (core id mismatch : Nat) (s : State) {t_ : State} (h : execAcc core id mismatch s = .next t_) : t_.pending = s.pending := by
  unfold execAcc at h
  injection h with h; subst h; simp
theorem execMv_md (core id mismatch : Nat) (s : State) {t_ : State} (h : execMv core id mismatch s = .next t_) : t_.md = s.md := by
  unfold execMv at h
  injection h with h; subst h; simp
theorem execMv_pending (core id mismatch : Nat) (s : State) {t_ : State} (h : execMv core id mismatch s = .next t_) : t_.pending = s.pending := by
  unfold execMv at h
  injection h with h; subst h; simp
theorem execEw_md (core id : Nat) (s : State) {t_ : State} (h : execEw core id s = .next t_) : t_.md = s.md := by
  unfold execEw at h
  injection h with h; subst h; simp
theorem execEw_pending (core id : Nat) (s : State) {t_ : State} (h : execEw core id s = .next t_) : t_.pending = s.pending := by
  unfold execEw at h
  injection h with h; subst h; simp
theorem execClose_md (core id : Nat) (s : State) {t_ : State} (h : execClose core id s = .next t_) : t_.md = s.md := by
  unfold execClose at h
  try dsimp only at h
  injection h with h; subst h
  repeat' (first | rfl | assumption | (apply foldl_md) | (apply foldl_md_fst) | (apply getD_md) | (intro _) | split | (refine (State.closeWrite_md_eq (by assumption)).trans ?_) | simp)
theorem execClose_pending (core id : Nat) (s : State) {t_ : State} (h : execClose core id s = .next t_) : t_.pending = s.pending := by
  unfold execClose at h
  try dsimp only at h
  injection h with h; subst h
  repeat' (first | rfl | assumption | (apply foldl_pending) | (apply foldl_pending_fst) | (apply getD_pending) | (intro _) | split | (refine (State.closeWrite_pending_eq (by assumption)).trans ?_) | simp)
theorem execDrain_md (core id : Nat) (s : State) {t_ : State} (h : execDrain core id s = .next t_) : t_.md = s.md := by
  unfold execDrain at h
  try dsimp only at h
  injection h with h; subst h
  repeat' (first | rfl | assumption | (apply foldl_md) | (apply foldl_md_fst) | (apply getD_md) | (intro _) | split | simp)
theorem execDrain_pending (core id : Nat) (s : State) {t_ : State} (h : execDrain core id s = .next t_) : t_.pending = s.pending := by
  unfold execDrain at h
  try dsimp only at h
  injection h with h; subst h
  repeat' (first | rfl | assumption | (apply foldl_pending) | (apply foldl_pending_fst) | (apply getD_pending) | (intro _) | split | simp)
theorem execMerge_md (core id : Nat) (s : State) {t_ : State} (h : execMerge core id s = .next t_) : t_.md = s.md := by
  unfold execMerge at h
  injection h with h; subst h; simp
theorem execMerge_pending (core id : Nat) (s : State) {t_ : State} (h : execMerge core id s = .next t_) : t_.pending = s.pending := by
  unfold execMerge at h
  injection h with h; subst h; simp
theorem execGather_md (core id : Nat) (s : State) {t_ : State} (h : execGather core id s = .next t_) : t_.md = s.md := by
  unfold execGather at h
  injection h with h; subst h; simp
theorem execGather_pending (core id : Nat) (s : State) {t_ : State} (h : execGather core id s = .next t_) : t_.pending = s.pending := by
  unfold execGather at h
  injection h with h; subst h; simp
theorem execTileEntryRetire_md (core id : Nat) (s : State) {t_ : State} (h : execTileEntryRetire core id s = .next t_) : t_.md = s.md := by
  unfold execTileEntryRetire at h
  injection h with h; subst h; simp
theorem execTileEntryRetire_pending (core id : Nat) (s : State) {t_ : State} (h : execTileEntryRetire core id s = .next t_) : t_.pending = s.pending := by
  unfold execTileEntryRetire at h
  injection h with h; subst h; simp
theorem execCloseDrainEnd_md (core array tile : Nat) (s : State) {t_ : State} (h : execCloseDrainEnd core array tile s = .next t_) : t_.md = s.md := by
  unfold execCloseDrainEnd at h
  injection h with h; subst h; simp
theorem execCloseDrainEnd_pending (core array tile : Nat) (s : State) {t_ : State} (h : execCloseDrainEnd core array tile s = .next t_) : t_.pending = s.pending := by
  unfold execCloseDrainEnd at h
  injection h with h; subst h; simp
theorem execItemEnd_md (core asn item : Nat) (s : State) {t_ : State} (h : execItemEnd core asn item s = .next t_) : t_.md = s.md := by
  unfold execItemEnd at h
  injection h with h; subst h; simp
theorem execItemEnd_pending (core asn item : Nat) (s : State) {t_ : State} (h : execItemEnd core asn item s = .next t_) : t_.pending = s.pending := by
  unfold execItemEnd at h
  injection h with h; subst h; simp
theorem execL2Read_md (t src addr len cls err asn : Nat) (size : Option Nat) (mirrored : Bool) (s : State) {t_ : State} (h : execL2Read t src addr len cls err asn size mirrored s = .next t_) : t_.md = s.md := by
  unfold execL2Read at h
  try dsimp only at h
  injection h with h; subst h
  repeat' (first | rfl | assumption | (apply foldl_md) | (apply foldl_md_fst) | (apply getD_md) | (intro _) | split | simp)
theorem execL2Read_pending (t src addr len cls err asn : Nat) (size : Option Nat) (mirrored : Bool) (s : State) {t_ : State} (h : execL2Read t src addr len cls err asn size mirrored s = .next t_) : t_.pending = s.pending := by
  unfold execL2Read at h
  try dsimp only at h
  injection h with h; subst h
  repeat' (first | rfl | assumption | (apply foldl_pending) | (apply foldl_pending_fst) | (apply getD_pending) | (intro _) | split | simp)
theorem execL2Write_md (t src addr cls asn : Nat) (data : List Byte) (size : Option Nat) (mirrored : Bool) (s : State) {t_ : State} (h : execL2Write t src addr cls asn data size mirrored s = .next t_) : t_.md = s.md := by
  unfold execL2Write at h
  try dsimp only at h
  injection h with h; subst h
  repeat' (first | rfl | assumption | (apply foldl_md) | (apply foldl_md_fst) | (apply getD_md) | (intro _) | split | (refine (State.writeAddr_md_eq (by assumption)).trans ?_) | simp)
theorem execL2Write_pending (t src addr cls asn : Nat) (data : List Byte) (size : Option Nat) (mirrored : Bool) (s : State) {t_ : State} (h : execL2Write t src addr cls asn data size mirrored s = .next t_) : t_.pending = s.pending := by
  unfold execL2Write at h
  try dsimp only at h
  injection h with h; subst h
  repeat' (first | rfl | assumption | (apply foldl_pending) | (apply foldl_pending_fst) | (apply getD_pending) | (intro _) | split | (refine (State.writeAddr_pending_eq (by assumption)).trans ?_) | simp)
theorem execPatrolScrub_md (t stack corrected uncorrectable : Nat) (s : State) {t_ : State} (h : execPatrolScrub t stack corrected uncorrectable s = .next t_) : t_.md = s.md := by
  unfold execPatrolScrub at h
  injection h with h; subst h; simp
theorem execPatrolScrub_pending (t stack corrected uncorrectable : Nat) (s : State) {t_ : State} (h : execPatrolScrub t stack corrected uncorrectable s = .next t_) : t_.pending = s.pending := by
  unfold execPatrolScrub at h
  injection h with h; subst h; simp
theorem execRefresh_md (t stack bank temp : Nat) (s : State) {t_ : State} (h : execRefresh t stack bank temp s = .next t_) : t_.md = s.md := by
  unfold execRefresh at h
  injection h with h; subst h; simp
theorem execRefresh_pending (t stack bank temp : Nat) (s : State) {t_ : State} (h : execRefresh t stack bank temp s = .next t_) : t_.pending = s.pending := by
  unfold execRefresh at h
  injection h with h; subst h; simp
theorem execMaintClean_md (t port : Nat) (be : BitVec 4) (v : Word) (s : State) {t_ : State} (h : execMaintClean t port be v s = .next t_) : t_.md = s.md := by
  unfold execMaintClean at h
  injection h with h; subst h; simp
theorem execMaintClean_pending (t port : Nat) (be : BitVec 4) (v : Word) (s : State) {t_ : State} (h : execMaintClean t port be v s = .next t_) : t_.pending = s.pending := by
  unfold execMaintClean at h
  injection h with h; subst h; simp
theorem execMaintInv_md (t port : Nat) (be : BitVec 4) (v : Word) (s : State) {t_ : State} (h : execMaintInv t port be v s = .next t_) : t_.md = s.md := by
  unfold execMaintInv at h
  injection h with h; subst h; simp
theorem execMaintInv_pending (t port : Nat) (be : BitVec 4) (v : Word) (s : State) {t_ : State} (h : execMaintInv t port be v s = .next t_) : t_.pending = s.pending := by
  unfold execMaintInv at h
  injection h with h; subst h; simp
theorem execMaintDone_md (t fd : Nat) (s : State) {t_ : State} (h : execMaintDone t fd s = .next t_) : t_.md = s.md := by
  unfold execMaintDone at h
  try dsimp only at h
  injection h with h; subst h
  repeat' (first | rfl | assumption | (apply foldl_md) | (apply foldl_md_fst) | (apply getD_md) | (intro _) | split | simp)
theorem execMaintDone_pending (t fd : Nat) (s : State) {t_ : State} (h : execMaintDone t fd s = .next t_) : t_.pending = s.pending := by
  unfold execMaintDone at h
  try dsimp only at h
  injection h with h; subst h
  repeat' (first | rfl | assumption | (apply foldl_pending) | (apply foldl_pending_fst) | (apply getD_pending) | (intro _) | split | simp)
theorem execUcieLinkDown_md (t : Nat) (links : List (Nat × Nat)) (s : State) {t_ : State} (h : execUcieLinkDown t links s = .next t_) : t_.md = s.md := by
  unfold execUcieLinkDown at h
  injection h with h; subst h; simp
theorem execUcieLinkDown_pending (t : Nat) (links : List (Nat × Nat)) (s : State) {t_ : State} (h : execUcieLinkDown t links s = .next t_) : t_.pending = s.pending := by
  unfold execUcieLinkDown at h
  injection h with h; subst h; simp
theorem execLinkWatchdog_md (t : Nat) (links : List (Nat × Nat × Nat)) (s : State) {t_ : State} (h : execLinkWatchdog t links s = .next t_) : t_.md = s.md := by
  unfold execLinkWatchdog at h
  injection h with h; subst h; simp
theorem execLinkWatchdog_pending (t : Nat) (links : List (Nat × Nat × Nat)) (s : State) {t_ : State} (h : execLinkWatchdog t links s = .next t_) : t_.pending = s.pending := by
  unfold execLinkWatchdog at h
  injection h with h; subst h; simp
theorem execUcieModuleLost_md (t a b : Nat) (s : State) {t_ : State} (h : execUcieModuleLost t a b s = .next t_) : t_.md = s.md := by
  unfold execUcieModuleLost at h
  injection h with h; subst h; simp
theorem execUcieModuleLost_pending (t a b : Nat) (s : State) {t_ : State} (h : execUcieModuleLost t a b s = .next t_) : t_.pending = s.pending := by
  unfold execUcieModuleLost at h
  injection h with h; subst h; simp
theorem execRouteChange_md (t : Nat) (atomics sets : List Nat) (s : State) {t_ : State} (h : execRouteChange t atomics sets s = .next t_) : t_.md = s.md := by
  unfold execRouteChange at h
  injection h with h; subst h; simp
theorem execRouteChange_pending (t : Nat) (atomics sets : List Nat) (s : State) {t_ : State} (h : execRouteChange t atomics sets s = .next t_) : t_.pending = s.pending := by
  unfold execRouteChange at h
  injection h with h; subst h; simp
theorem execIsolation_md (t lo hi : Nat) (s : State) {t_ : State} (h : execIsolation t lo hi s = .next t_) : t_.md = s.md := by
  unfold execIsolation at h
  injection h with h; subst h; simp
theorem execIsolation_pending (t lo hi : Nat) (s : State) {t_ : State} (h : execIsolation t lo hi s = .next t_) : t_.pending = s.pending := by
  unfold execIsolation at h
  injection h with h; subst h; simp
theorem execAgeLimit_md (t slice id : Nat) (s : State) {t_ : State} (h : execAgeLimit t slice id s = .next t_) : t_.md = s.md := by
  unfold execAgeLimit at h
  injection h with h; subst h; simp
theorem execAgeLimit_pending (t slice id : Nat) (s : State) {t_ : State} (h : execAgeLimit t slice id s = .next t_) : t_.pending = s.pending := by
  unfold execAgeLimit at h
  injection h with h; subst h; simp
theorem execQlPortTrained_md (t port : Nat) (ql2 ql3 : Bool) (s : State) {t_ : State} (h : execQlPortTrained t port ql2 ql3 s = .next t_) : t_.md = s.md := by
  unfold execQlPortTrained at h
  injection h with h; subst h; simp
theorem execQlPortTrained_pending (t port : Nat) (ql2 ql3 : Bool) (s : State) {t_ : State} (h : execQlPortTrained t port ql2 ql3 s = .next t_) : t_.pending = s.pending := by
  unfold execQlPortTrained at h
  injection h with h; subst h; simp
theorem execQlPortDegraded_md (t port : Nat) (s : State) {t_ : State} (h : execQlPortDegraded t port s = .next t_) : t_.md = s.md := by
  unfold execQlPortDegraded at h
  injection h with h; subst h; simp
theorem execQlPortDegraded_pending (t port : Nat) (s : State) {t_ : State} (h : execQlPortDegraded t port s = .next t_) : t_.pending = s.pending := by
  unfold execQlPortDegraded at h
  injection h with h; subst h; simp
theorem execQlPortLost_md (t port : Nat) (s : State) {t_ : State} (h : execQlPortLost t port s = .next t_) : t_.md = s.md := by
  unfold execQlPortLost at h
  injection h with h; subst h; simp
theorem execQlPortLost_pending (t port : Nat) (s : State) {t_ : State} (h : execQlPortLost t port s = .next t_) : t_.pending = s.pending := by
  unfold execQlPortLost at h
  injection h with h; subst h; simp
theorem execRd_md (t port init win off len : Nat) (s : State) {t_ : State} (h : execRd t port init win off len s = .next t_) : t_.md = s.md := by
  unfold execRd at h
  try dsimp only at h
  injection h with h; subst h
  repeat' (first | rfl | assumption | (apply foldl_md) | (apply foldl_md_fst) | (apply getD_md) | (intro _) | split | (refine (State.freeRefusal_md_eq (by assumption)).trans ?_) | simp)
theorem execRd_pending (t port init win off len : Nat) (s : State) {t_ : State} (h : execRd t port init win off len s = .next t_) : t_.pending = s.pending := by
  unfold execRd at h
  try dsimp only at h
  injection h with h; subst h
  repeat' (first | rfl | assumption | (apply foldl_pending) | (apply foldl_pending_fst) | (apply getD_pending) | (intro _) | split | (refine (State.freeRefusal_pending_eq (by assumption)).trans ?_) | simp)
theorem execRdr_md (t core eng xfer status : Nat) (data : List Byte) (s : State) {t_ : State} (h : execRdr t core eng xfer status data s = .next t_) : t_.md = s.md := by
  unfold execRdr at h
  injection h with h; subst h; simp
theorem execRdr_pending (t core eng xfer status : Nat) (data : List Byte) (s : State) {t_ : State} (h : execRdr t core eng xfer status data s = .next t_) : t_.pending = s.pending := by
  unfold execRdr at h
  injection h with h; subst h; simp
theorem execWr_md (t port init win off lock : Nat) (data : List Byte) (s : State) {t_ : State} (h : execWr t port init win off lock data s = .next t_) : t_.md = s.md := by
  unfold execWr at h
  try dsimp only at h
  injection h with h; subst h
  repeat' (first | rfl | assumption | (apply foldl_md) | (apply foldl_md_fst) | (apply getD_md) | (intro _) | split | (refine (State.writeRange_md_eq (by assumption)).trans ?_) | (refine (State.freeRefusal_md_eq (by assumption)).trans ?_) | simp)
theorem execWr_pending (t port init win off lock : Nat) (data : List Byte) (s : State) {t_ : State} (h : execWr t port init win off lock data s = .next t_) : t_.pending = s.pending := by
  unfold execWr at h
  try dsimp only at h
  injection h with h; subst h
  repeat' (first | rfl | assumption | (apply foldl_pending) | (apply foldl_pending_fst) | (apply getD_pending) | (intro _) | split | (refine (State.writeRange_pending_eq (by assumption)).trans ?_) | (refine (State.freeRefusal_pending_eq (by assumption)).trans ?_) | simp)
theorem execSwr_md (t port init win off frn asn attempt token lock : Nat) (data : List Byte) (s : State) {t_ : State} (h : execSwr t port init win off frn asn attempt token lock data s = .next t_) : t_.md = s.md := by
  unfold execSwr at h
  try dsimp only at h
  injection h with h; subst h
  repeat' (first | rfl | assumption | (apply foldl_md) | (apply foldl_md_fst) | (apply getD_md) | (intro _) | split | (refine (State.freeRefusal_md_eq (by assumption)).trans ?_) | (refine (State.scopeFor_md_eq (by assumption)).trans ?_) | (refine (State.stageAll_md_eq (by assumption)).trans ?_) | simp)
theorem execSwr_pending (t port init win off frn asn attempt token lock : Nat) (data : List Byte) (s : State) {t_ : State} (h : execSwr t port init win off frn asn attempt token lock data s = .next t_) : t_.pending = s.pending := by
  unfold execSwr at h
  try dsimp only at h
  injection h with h; subst h
  repeat' (first | rfl | assumption | (apply foldl_pending) | (apply foldl_pending_fst) | (apply getD_pending) | (intro _) | split | (refine (State.freeRefusal_pending_eq (by assumption)).trans ?_) | (refine (State.scopeFor_pending_eq (by assumption)).trans ?_) | (refine (State.stageAll_pending_eq (by assumption)).trans ?_) | simp)
theorem execSacc_md (t port init win asn attempt token lock : Nat) (data : List Byte) (s : State) {t_ : State} (h : execSacc t port init win asn attempt token lock data s = .next t_) : t_.md = s.md := by
  unfold execSacc at h
  try dsimp only at h
  injection h with h; subst h
  repeat' (first | rfl | assumption | (apply foldl_md) | (apply foldl_md_fst) | (apply getD_md) | (intro _) | split | (refine (State.scopeFor_md_eq (by assumption)).trans ?_) | simp)
theorem execSacc_pending (t port init win asn attempt token lock : Nat) (data : List Byte) (s : State) {t_ : State} (h : execSacc t port init win asn attempt token lock data s = .next t_) : t_.pending = s.pending := by
  unfold execSacc at h
  try dsimp only at h
  injection h with h; subst h
  repeat' (first | rfl | assumption | (apply foldl_pending) | (apply foldl_pending_fst) | (apply getD_pending) | (intro _) | split | (refine (State.scopeFor_pending_eq (by assumption)).trans ?_) | simp)
theorem execAck_md (t core eng xfer asn status : Nat) (s : State) {t_ : State} (h : execAck t core eng xfer asn status s = .next t_) : t_.md = s.md := by
  unfold execAck at h
  try dsimp only at h
  injection h with h; subst h
  repeat' (first | rfl | assumption | (apply foldl_md) | (apply foldl_md_fst) | (apply getD_md) | (intro _) | split | simp)
theorem execAck_pending (t core eng xfer asn status : Nat) (s : State) {t_ : State} (h : execAck t core eng xfer asn status s = .next t_) : t_.pending = s.pending := by
  unfold execAck at h
  try dsimp only at h
  injection h with h; subst h
  repeat' (first | rfl | assumption | (apply foldl_pending) | (apply foldl_pending_fst) | (apply getD_pending) | (intro _) | split | simp)
theorem execAckDeadline_md (t core eng xfer asn : Nat) (s : State) {t_ : State} (h : execAckDeadline t core eng xfer asn s = .next t_) : t_.md = s.md := by
  unfold execAckDeadline at h
  try dsimp only at h
  injection h with h; subst h
  repeat' (first | rfl | assumption | (apply foldl_md) | (apply foldl_md_fst) | (apply getD_md) | (intro _) | split | simp)
theorem execAckDeadline_pending (t core eng xfer asn : Nat) (s : State) {t_ : State} (h : execAckDeadline t core eng xfer asn s = .next t_) : t_.pending = s.pending := by
  unfold execAckDeadline at h
  try dsimp only at h
  injection h with h; subst h
  repeat' (first | rfl | assumption | (apply foldl_pending) | (apply foldl_pending_fst) | (apply getD_pending) | (intro _) | split | simp)
theorem execPrepSend_md (t sub : Nat) (s : State) {t_ : State} (h : execPrepSend t sub s = .next t_) : t_.md = s.md := by
  unfold execPrepSend at h
  injection h with h; subst h; simp
theorem execPrepSend_pending (t sub : Nat) (s : State) {t_ : State} (h : execPrepSend t sub s = .next t_) : t_.pending = s.pending := by
  unfold execPrepSend at h
  injection h with h; subst h; simp
theorem execPrep_md (t port init win frn sub token : Nat) (list : List (Nat × Nat)) (s : State) {t_ : State} (h : execPrep t port init win frn sub token list s = .next t_) : t_.md = s.md := by
  unfold execPrep at h
  try dsimp only at h
  injection h with h; subst h
  repeat' (first | rfl | assumption | (apply foldl_md) | (apply foldl_md_fst) | (apply getD_md) | (intro _) | split | (refine (State.prepOne_md_eq (by assumption)).trans ?_) | simp)
theorem execPrep_pending (t port init win frn sub token : Nat) (list : List (Nat × Nat)) (s : State) {t_ : State} (h : execPrep t port init win frn sub token list s = .next t_) : t_.pending = s.pending := by
  unfold execPrep at h
  try dsimp only at h
  injection h with h; subst h
  repeat' (first | rfl | assumption | (apply foldl_pending) | (apply foldl_pending_fst) | (apply getD_pending) | (intro _) | split | (refine (State.prepOne_pending_eq (by assumption)).trans ?_) | simp)
theorem execVote_md (t epid rwin frn sub : Nat) (yes : Bool) (s : State) {t_ : State} (h : execVote t epid rwin frn sub yes s = .next t_) : t_.md = s.md := by
  unfold execVote at h
  injection h with h; subst h; simp
theorem execVote_pending (t epid rwin frn sub : Nat) (yes : Bool) (s : State) {t_ : State} (h : execVote t epid rwin frn sub yes s = .next t_) : t_.pending = s.pending := by
  unfold execVote at h
  injection h with h; subst h; simp
theorem execCommit_md (t port init win frn sub token : Nat) (aborted : List Nat) (s : State) {t_ : State} (h : execCommit t port init win frn sub token aborted s = .next t_) : t_.md = s.md := by
  unfold execCommit at h
  injection h with h; subst h; simp
theorem execCommit_pending (t port init win frn sub token : Nat) (aborted : List Nat) (s : State) {t_ : State} (h : execCommit t port init win frn sub token aborted s = .next t_) : t_.pending = s.pending := by
  unfold execCommit at h
  injection h with h; subst h; simp
theorem execAbort_md (t port init win frn sub token : Nat) (asns : List Nat) (s : State) {t_ : State} (h : execAbort t port init win frn sub token asns s = .next t_) : t_.md = s.md := by
  unfold execAbort at h
  injection h with h; subst h; simp
theorem execAbort_pending (t port init win frn sub token : Nat) (asns : List Nat) (s : State) {t_ : State} (h : execAbort t port init win frn sub token asns s = .next t_) : t_.pending = s.pending := by
  unfold execAbort at h
  injection h with h; subst h; simp
theorem execCack_md (t epid rwin frn sub : Nat) (appliedOk : Bool) (s : State) {t_ : State} (h : execCack t epid rwin frn sub appliedOk s = .next t_) : t_.md = s.md := by
  unfold execCack at h
  try dsimp only at h
  injection h with h; subst h
  repeat' (first | rfl | assumption | (apply foldl_md) | (apply foldl_md_fst) | (apply getD_md) | (intro _) | split | simp)
theorem execCack_pending (t epid rwin frn sub : Nat) (appliedOk : Bool) (s : State) {t_ : State} (h : execCack t epid rwin frn sub appliedOk s = .next t_) : t_.pending = s.pending := by
  unfold execCack at h
  try dsimp only at h
  injection h with h; subst h
  repeat' (first | rfl | assumption | (apply foldl_pending) | (apply foldl_pending_fst) | (apply getD_pending) | (intro _) | split | simp)
theorem execQlFence_md (t port init token : Nat) (s : State) {t_ : State} (h : execQlFence t port init token s = .next t_) : t_.md = s.md := by
  unfold execQlFence at h
  injection h with h; subst h; simp
theorem execQlFence_pending (t port init token : Nat) (s : State) {t_ : State} (h : execQlFence t port init token s = .next t_) : t_.pending = s.pending := by
  unfold execQlFence at h
  injection h with h; subst h; simp
theorem execLate_md (t epid rwin frn : Nat) (s : State) {t_ : State} (h : execLate t epid rwin frn s = .next t_) : t_.md = s.md := by
  unfold execLate at h
  injection h with h; subst h; simp
theorem execLate_pending (t epid rwin frn : Nat) (s : State) {t_ : State} (h : execLate t epid rwin frn s = .next t_) : t_.pending = s.pending := by
  unfold execLate at h
  injection h with h; subst h; simp
theorem execPoolHoldExpired_md (t win init asn : Nat) (s : State) {t_ : State} (h : execPoolHoldExpired t win init asn s = .next t_) : t_.md = s.md := by
  unfold execPoolHoldExpired at h
  try dsimp only at h
  injection h with h; subst h
  repeat' (first | rfl | assumption | (apply foldl_md) | (apply foldl_md_fst) | (apply getD_md) | (intro _) | split | simp)
theorem execPoolHoldExpired_pending (t win init asn : Nat) (s : State) {t_ : State} (h : execPoolHoldExpired t win init asn s = .next t_) : t_.pending = s.pending := by
  unfold execPoolHoldExpired at h
  try dsimp only at h
  injection h with h; subst h
  repeat' (first | rfl | assumption | (apply foldl_pending) | (apply foldl_pending_fst) | (apply getD_pending) | (intro _) | split | simp)
theorem execCas64_md (t : Nat) (via : Option (Nat × Option Nat × Nat × BitVec 4 × Word)) (port init win off a b lock : Nat)
    (s : State) {t_ : State} (h : execCas64 t via port init win off a b lock s = .next t_) : t_.md = s.md := by
  unfold execCas64 at h
  injection h with h; subst h; simp
theorem execCas64_pending (t : Nat) (via : Option (Nat × Option Nat × Nat × BitVec 4 × Word)) (port init win off a b lock : Nat)
    (s : State) {t_ : State} (h : execCas64 t via port init win off a b lock s = .next t_) : t_.pending = s.pending := by
  unfold execCas64 at h
  injection h with h; subst h; simp
theorem execSwap64_md (t : Nat) (via : Option (Nat × Option Nat × Nat × BitVec 4 × Word)) (port init win off a lock : Nat)
    (s : State) {t_ : State} (h : execSwap64 t via port init win off a lock s = .next t_) : t_.md = s.md := by
  unfold execSwap64 at h
  injection h with h; subst h; simp
theorem execSwap64_pending (t : Nat) (via : Option (Nat × Option Nat × Nat × BitVec 4 × Word)) (port init win off a lock : Nat)
    (s : State) {t_ : State} (h : execSwap64 t via port init win off a lock s = .next t_) : t_.pending = s.pending := by
  unfold execSwap64 at h
  injection h with h; subst h; simp
theorem execAdd64_md (t : Nat) (via : Option (Nat × Option Nat × Nat × BitVec 4 × Word)) (port init win off a lock : Nat)
    (s : State) {t_ : State} (h : execAdd64 t via port init win off a lock s = .next t_) : t_.md = s.md := by
  unfold execAdd64 at h
  injection h with h; subst h; simp
theorem execAdd64_pending (t : Nat) (via : Option (Nat × Option Nat × Nat × BitVec 4 × Word)) (port init win off a lock : Nat)
    (s : State) {t_ : State} (h : execAdd64 t via port init win off a lock s = .next t_) : t_.pending = s.pending := by
  unfold execAdd64 at h
  injection h with h; subst h; simp
theorem execAdd32_md (t : Nat) (via : Option (Nat × Option Nat × Nat × BitVec 4 × Word)) (port init win off a lock : Nat)
    (s : State) {t_ : State} (h : execAdd32 t via port init win off a lock s = .next t_) : t_.md = s.md := by
  unfold execAdd32 at h
  injection h with h; subst h; simp
theorem execAdd32_pending (t : Nat) (via : Option (Nat × Option Nat × Nat × BitVec 4 × Word)) (port init win off a lock : Nat)
    (s : State) {t_ : State} (h : execAdd32 t via port init win off a lock s = .next t_) : t_.pending = s.pending := by
  unfold execAdd32 at h
  injection h with h; subst h; simp
theorem execLren_md (t : Nat) (via : Option (Nat × Option Nat × Nat × BitVec 4 × Word)) (port init win token n : Nat)
    (s : State) {t_ : State} (h : execLren t via port init win token n s = .next t_) : t_.md = s.md := by
  unfold execLren at h
  injection h with h; subst h; simp
theorem execLren_pending (t : Nat) (via : Option (Nat × Option Nat × Nat × BitVec 4 × Word)) (port init win token n : Nat)
    (s : State) {t_ : State} (h : execLren t via port init win token n s = .next t_) : t_.pending = s.pending := by
  unfold execLren at h
  injection h with h; subst h; simp
theorem execLrel_md (t : Nat) (via : Option (Nat × Option Nat × Nat × BitVec 4 × Word)) (port init win token : Nat)
    (s : State) {t_ : State} (h : execLrel t via port init win token s = .next t_) : t_.md = s.md := by
  unfold execLrel at h
  injection h with h; subst h; simp
theorem execLrel_pending (t : Nat) (via : Option (Nat × Option Nat × Nat × BitVec 4 × Word)) (port init win token : Nat)
    (s : State) {t_ : State} (h : execLrel t via port init win token s = .next t_) : t_.pending = s.pending := by
  unfold execLrel at h
  injection h with h; subst h; simp
theorem execLockLeaseExpiry_md (t win : Nat) (s : State) {t_ : State} (h : execLockLeaseExpiry t win s = .next t_) : t_.md = s.md := by
  unfold execLockLeaseExpiry at h
  injection h with h; subst h; simp
theorem execLockLeaseExpiry_pending (t win : Nat) (s : State) {t_ : State} (h : execLockLeaseExpiry t win s = .next t_) : t_.pending = s.pending := by
  unfold execLockLeaseExpiry at h
  injection h with h; subst h; simp
theorem execFatalErrorReport_md (t die : Nat) (s : State) {t_ : State} (h : execFatalErrorReport t die s = .next t_) : t_.md = s.md := by
  unfold execFatalErrorReport at h
  injection h with h; subst h; simp
theorem execFatalErrorReport_pending (t die : Nat) (s : State) {t_ : State} (h : execFatalErrorReport t die s = .next t_) : t_.pending = s.pending := by
  unfold execFatalErrorReport at h
  injection h with h; subst h; simp
theorem execChecksumReport_md (t core : Nat) (s : State) {t_ : State} (h : execChecksumReport t core s = .next t_) : t_.md = s.md := by
  unfold execChecksumReport at h
  injection h with h; subst h; simp
theorem execChecksumReport_pending (t core : Nat) (s : State) {t_ : State} (h : execChecksumReport t core s = .next t_) : t_.pending = s.pending := by
  unfold execChecksumReport at h
  injection h with h; subst h; simp
theorem execCoreStoreUe_md (t core addr : Nat) (s : State) {t_ : State} (h : execCoreStoreUe t core addr s = .next t_) : t_.md = s.md := by
  unfold execCoreStoreUe at h
  try dsimp only at h
  injection h with h; subst h
  repeat' (first | rfl | assumption | (apply foldl_md) | (apply foldl_md_fst) | (apply getD_md) | (intro _) | split | simp)
theorem execCoreStoreUe_pending (t core addr : Nat) (s : State) {t_ : State} (h : execCoreStoreUe t core addr s = .next t_) : t_.pending = s.pending := by
  unfold execCoreStoreUe at h
  try dsimp only at h
  injection h with h; subst h
  repeat' (first | rfl | assumption | (apply foldl_pending) | (apply foldl_pending_fst) | (apply getD_pending) | (intro _) | split | simp)
theorem execLinkDown_md (t port : Nat) (s : State) {t_ : State} (h : execLinkDown t port s = .next t_) : t_.md = s.md := by
  unfold execLinkDown at h
  injection h with h; subst h; simp
theorem execLinkDown_pending (t port : Nat) (s : State) {t_ : State} (h : execLinkDown t port s = .next t_) : t_.pending = s.pending := by
  unfold execLinkDown at h
  injection h with h; subst h; simp
theorem execHostPortLost_md (t port : Nat) (s : State) {t_ : State} (h : execHostPortLost t port s = .next t_) : t_.md = s.md := by
  unfold execHostPortLost at h
  injection h with h; subst h; simp
theorem execHostPortLost_pending (t port : Nat) (s : State) {t_ : State} (h : execHostPortLost t port s = .next t_) : t_.pending = s.pending := by
  unfold execHostPortLost at h
  injection h with h; subst h; simp
theorem execPortReturned_md (t port : Nat) (s : State) {t_ : State} (h : execPortReturned t port s = .next t_) : t_.md = s.md := by
  unfold execPortReturned at h
  try dsimp only at h
  injection h with h; subst h
  repeat' (first | rfl | assumption | (apply foldl_md) | (apply foldl_md_fst) | (apply getD_md) | (intro _) | split | simp)
theorem execPortReturned_pending (t port : Nat) (s : State) {t_ : State} (h : execPortReturned t port s = .next t_) : t_.pending = s.pending := by
  unfold execPortReturned at h
  try dsimp only at h
  injection h with h; subst h
  repeat' (first | rfl | assumption | (apply foldl_pending) | (apply foldl_pending_fst) | (apply getD_pending) | (intro _) | split | simp)
theorem execLinkUp_md (t port rate width proto : Nat) (flit : Bool) (s : State) {t_ : State} (h : execLinkUp t port rate width proto flit s = .next t_) : t_.md = s.md := by
  unfold execLinkUp at h
  injection h with h; subst h; simp
theorem execLinkUp_pending (t port rate width proto : Nat) (flit : Bool) (s : State) {t_ : State} (h : execLinkUp t port rate width proto flit s = .next t_) : t_.pending = s.pending := by
  unfold execLinkUp at h
  injection h with h; subst h; simp
theorem execCxlCacheToggle_md (t port : Nat) (on : Bool) (s : State) {t_ : State} (h : execCxlCacheToggle t port on s = .next t_) : t_.md = s.md := by
  unfold execCxlCacheToggle at h
  injection h with h; subst h; simp
theorem execCxlCacheToggle_pending (t port : Nat) (on : Bool) (s : State) {t_ : State} (h : execCxlCacheToggle t port on s = .next t_) : t_.pending = s.pending := by
  unfold execCxlCacheToggle at h
  injection h with h; subst h; simp
theorem execInitiateFlr_md (t _port _func : Nat) (s : State) {t_ : State} (h : execInitiateFlr t _port _func s = .next t_) : t_.md = s.md := by
  unfold execInitiateFlr at h
  injection h with h; subst h; simp
theorem execInitiateFlr_pending (t _port _func : Nat) (s : State) {t_ : State} (h : execInitiateFlr t _port _func s = .next t_) : t_.pending = s.pending := by
  unfold execInitiateFlr at h
  injection h with h; subst h; simp
theorem execMsixUnmask_md (t port func vec : Nat) (s : State) {t_ : State} (h : execMsixUnmask t port func vec s = .next t_) : t_.md = s.md := by
  unfold execMsixUnmask at h
  injection h with h; subst h; simp
theorem execMsixUnmask_pending (t port func vec : Nat) (s : State) {t_ : State} (h : execMsixUnmask t port func vec s = .next t_) : t_.pending = s.pending := by
  unfold execMsixUnmask at h
  injection h with h; subst h; simp
theorem execHostHbmRead_md (t port : Nat) (cxl : Bool) (addr len func : Nat) (regions : List (List Byte)) (s : State) {t_ : State} (h : execHostHbmRead t port cxl addr len func regions s = .next t_) : t_.md = s.md := by
  unfold execHostHbmRead at h
  injection h with h; subst h; simp
theorem execHostHbmRead_pending (t port : Nat) (cxl : Bool) (addr len func : Nat) (regions : List (List Byte)) (s : State) {t_ : State} (h : execHostHbmRead t port cxl addr len func regions s = .next t_) : t_.pending = s.pending := by
  unfold execHostHbmRead at h
  injection h with h; subst h; simp
theorem execHeldReadAnswer_md (t port id : Nat) (regions : List (List Byte)) (s : State) {t_ : State} (h : execHeldReadAnswer t port id regions s = .next t_) : t_.md = s.md := by
  unfold execHeldReadAnswer at h
  try dsimp only at h
  injection h with h; subst h
  repeat' (first | rfl | assumption | (apply foldl_md) | (apply foldl_md_fst) | (apply getD_md) | (intro _) | split | simp)
theorem execHeldReadAnswer_pending (t port id : Nat) (regions : List (List Byte)) (s : State) {t_ : State} (h : execHeldReadAnswer t port id regions s = .next t_) : t_.pending = s.pending := by
  unfold execHeldReadAnswer at h
  try dsimp only at h
  injection h with h; subst h
  repeat' (first | rfl | assumption | (apply foldl_pending) | (apply foldl_pending_fst) | (apply getD_pending) | (intro _) | split | simp)
theorem execAtsInvalidation_md (t port func : Nat) (done : Bool) (s : State) {t_ : State} (h : execAtsInvalidation t port func done s = .next t_) : t_.md = s.md := by
  unfold execAtsInvalidation at h
  injection h with h; subst h; simp
theorem execAtsInvalidation_pending (t port func : Nat) (done : Bool) (s : State) {t_ : State} (h : execAtsInvalidation t port func done s = .next t_) : t_.pending = s.pending := by
  unfold execAtsInvalidation at h
  injection h with h; subst h; simp
theorem execAtsInvalidationTimeout_md (t port func : Nat) (s : State) {t_ : State} (h : execAtsInvalidationTimeout t port func s = .next t_) : t_.md = s.md := by
  unfold execAtsInvalidationTimeout at h
  injection h with h; subst h; simp
theorem execAtsInvalidationTimeout_pending (t port func : Nat) (s : State) {t_ : State} (h : execAtsInvalidationTimeout t port func s = .next t_) : t_.pending = s.pending := by
  unfold execAtsInvalidationTimeout at h
  injection h with h; subst h; simp
theorem execRequestError_md (t port func kind : Nat) (s : State) {t_ : State} (h : execRequestError t port func kind s = .next t_) : t_.md = s.md := by
  unfold execRequestError at h
  injection h with h; subst h; simp
theorem execRequestError_pending (t port func kind : Nat) (s : State) {t_ : State} (h : execRequestError t port func kind s = .next t_) : t_.pending = s.pending := by
  unfold execRequestError at h
  injection h with h; subst h; simp
theorem execIdeIntegrityFailure_md (t port stream : Nat) (s : State) {t_ : State} (h : execIdeIntegrityFailure t port stream s = .next t_) : t_.md = s.md := by
  unfold execIdeIntegrityFailure at h
  injection h with h; subst h; simp
theorem execIdeIntegrityFailure_pending (t port stream : Nat) (s : State) {t_ : State} (h : execIdeIntegrityFailure t port stream s = .next t_) : t_.pending = s.pending := by
  unfold execIdeIntegrityFailure at h
  injection h with h; subst h; simp
theorem execIdeKm_md (t port stream op : Nat) (s : State) {t_ : State} (h : execIdeKm t port stream op s = .next t_) : t_.md = s.md := by
  unfold execIdeKm at h
  try dsimp only at h
  injection h with h; subst h
  repeat' (first | rfl | assumption | (apply foldl_md) | (apply foldl_md_fst) | (apply getD_md) | (intro _) | split | simp)
theorem execIdeKm_pending (t port stream op : Nat) (s : State) {t_ : State} (h : execIdeKm t port stream op s = .next t_) : t_.pending = s.pending := by
  unfold execIdeKm at h
  try dsimp only at h
  injection h with h; subst h
  repeat' (first | rfl | assumption | (apply foldl_pending) | (apply foldl_pending_fst) | (apply getD_pending) | (intro _) | split | simp)
theorem execCompletionTimeout_md (t port func : Nat) (s : State) {t_ : State} (h : execCompletionTimeout t port func s = .next t_) : t_.md = s.md := by
  unfold execCompletionTimeout at h
  injection h with h; subst h; simp
theorem execCompletionTimeout_pending (t port func : Nat) (s : State) {t_ : State} (h : execCompletionTimeout t port func s = .next t_) : t_.pending = s.pending := by
  unfold execCompletionTimeout at h
  injection h with h; subst h; simp
theorem execDoeDiscovery_md (t port index : Nat) (s : State) {t_ : State} (h : execDoeDiscovery t port index s = .next t_) : t_.md = s.md := by
  unfold execDoeDiscovery at h
  injection h with h; subst h; simp
theorem execDoeDiscovery_pending (t port index : Nat) (s : State) {t_ : State} (h : execDoeDiscovery t port index s = .next t_) : t_.pending = s.pending := by
  unfold execDoeDiscovery at h
  injection h with h; subst h; simp
theorem execCdatTableAccess_md (t port entry : Nat) (s : State) {t_ : State} (h : execCdatTableAccess t port entry s = .next t_) : t_.md = s.md := by
  unfold execCdatTableAccess at h
  injection h with h; subst h; simp
theorem execCdatTableAccess_pending (t port entry : Nat) (s : State) {t_ : State} (h : execCdatTableAccess t port entry s = .next t_) : t_.pending = s.pending := by
  unfold execCdatTableAccess at h
  injection h with h; subst h; simp
theorem execVinLoss_md (t input : Nat) (s : State) {t_ : State} (h : execVinLoss t input s = .next t_) : t_.md = s.md := by
  unfold execVinLoss at h
  injection h with h; subst h; simp
theorem execVinLoss_pending (t input : Nat) (s : State) {t_ : State} (h : execVinLoss t input s = .next t_) : t_.pending = s.pending := by
  unfold execVinLoss at h
  injection h with h; subst h; simp
theorem execVinReconnect_md (t input : Nat) (s : State) {t_ : State} (h : execVinReconnect t input s = .next t_) : t_.md = s.md := by
  unfold execVinReconnect at h
  injection h with h; subst h; simp
theorem execVinReconnect_pending (t input : Nat) (s : State) {t_ : State} (h : execVinReconnect t input s = .next t_) : t_.pending = s.pending := by
  unfold execVinReconnect at h
  injection h with h; subst h; simp
theorem execVinOvervoltage_md (t input : Nat) (s : State) {t_ : State} (h : execVinOvervoltage t input s = .next t_) : t_.md = s.md := by
  unfold execVinOvervoltage at h
  injection h with h; subst h; simp
theorem execVinOvervoltage_pending (t input : Nat) (s : State) {t_ : State} (h : execVinOvervoltage t input s = .next t_) : t_.pending = s.pending := by
  unfold execVinOvervoltage at h
  injection h with h; subst h; simp
theorem execModfail_md (t : Nat) (s : State) {t_ : State} (h : execModfail t s = .next t_) : t_.md = s.md := by
  unfold execModfail at h
  injection h with h; subst h; simp
theorem execModfail_pending (t : Nat) (s : State) {t_ : State} (h : execModfail t s = .next t_) : t_.pending = s.pending := by
  unfold execModfail at h
  injection h with h; subst h; simp
theorem execPwrOk_md (_t : Nat) (msel recov test cold : Bool) (s : State) {t_ : State} (h : execPwrOk _t msel recov test cold s = .next t_) : t_.md = s.md := by
  unfold execPwrOk at h
  injection h with h; subst h; simp
theorem execPwrOk_pending (_t : Nat) (msel recov test cold : Bool) (s : State) {t_ : State} (h : execPwrOk _t msel recov test cold s = .next t_) : t_.pending = s.pending := by
  unfold execPwrOk at h
  injection h with h; subst h; simp
theorem execPerstRelease_md (t port : Nat) (s : State) {t_ : State} (h : execPerstRelease t port s = .next t_) : t_.md = s.md := by
  unfold execPerstRelease at h
  injection h with h; subst h; simp
theorem execPerstRelease_pending (t port : Nat) (s : State) {t_ : State} (h : execPerstRelease t port s = .next t_) : t_.pending = s.pending := by
  unfold execPerstRelease at h
  injection h with h; subst h; simp
theorem execPwrDnN_md (t : Nat) (s : State) {t_ : State} (h : execPwrDnN t s = .next t_) : t_.md = s.md := by
  unfold execPwrDnN at h
  injection h with h; subst h; simp
theorem execPwrDnN_pending (t : Nat) (s : State) {t_ : State} (h : execPwrDnN t s = .next t_) : t_.pending = s.pending := by
  unfold execPwrDnN at h
  injection h with h; subst h; simp
theorem execPwrDnRelease_md (t : Nat) (s : State) {t_ : State} (h : execPwrDnRelease t s = .next t_) : t_.md = s.md := by
  unfold execPwrDnRelease at h
  injection h with h; subst h; simp
theorem execPwrDnRelease_pending (t : Nat) (s : State) {t_ : State} (h : execPwrDnRelease t s = .next t_) : t_.pending = s.pending := by
  unfold execPwrDnRelease at h
  injection h with h; subst h; simp
theorem execColdRstN_md (t : Nat) (s : State) {t_ : State} (h : execColdRstN t s = .next t_) : t_.md = s.md := by
  unfold execColdRstN at h
  injection h with h; subst h; simp
theorem execColdRstN_pending (t : Nat) (s : State) {t_ : State} (h : execColdRstN t s = .next t_) : t_.pending = s.pending := by
  unfold execColdRstN at h
  injection h with h; subst h; simp
theorem execColdResetRelease_md (t : Nat) (msel recov test : Bool) (s : State) {t_ : State} (h : execColdResetRelease t msel recov test s = .next t_) : t_.md = s.md := by
  unfold execColdResetRelease at h
  injection h with h; subst h; simp
theorem execColdResetRelease_pending (t : Nat) (msel recov test : Bool) (s : State) {t_ : State} (h : execColdResetRelease t msel recov test s = .next t_) : t_.pending = s.pending := by
  unfold execColdResetRelease at h
  injection h with h; subst h; simp
theorem execRefclkLoss_md (t : Nat) (s : State) {t_ : State} (h : execRefclkLoss t s = .next t_) : t_.md = s.md := by
  unfold execRefclkLoss at h
  injection h with h; subst h; simp
theorem execRefclkLoss_pending (t : Nat) (s : State) {t_ : State} (h : execRefclkLoss t s = .next t_) : t_.pending = s.pending := by
  unfold execRefclkLoss at h
  injection h with h; subst h; simp
theorem execRefclkReturn_md (t : Nat) (s : State) {t_ : State} (h : execRefclkReturn t s = .next t_) : t_.md = s.md := by
  unfold execRefclkReturn at h
  injection h with h; subst h; simp
theorem execRefclkReturn_pending (t : Nat) (s : State) {t_ : State} (h : execRefclkReturn t s = .next t_) : t_.pending = s.pending := by
  unfold execRefclkReturn at h
  injection h with h; subst h; simp
theorem execQlRefclkLoss_md (t fd : Nat) (s : State) {t_ : State} (h : execQlRefclkLoss t fd s = .next t_) : t_.md = s.md := by
  unfold execQlRefclkLoss at h
  injection h with h; subst h; simp
theorem execQlRefclkLoss_pending (t fd : Nat) (s : State) {t_ : State} (h : execQlRefclkLoss t fd s = .next t_) : t_.pending = s.pending := by
  unfold execQlRefclkLoss at h
  injection h with h; subst h; simp
theorem execTestPortAccess_md (t : Nat) (s : State) {t_ : State} (h : execTestPortAccess t s = .next t_) : t_.md = s.md := by
  unfold execTestPortAccess at h
  injection h with h; subst h; simp
theorem execTestPortAccess_pending (t : Nat) (s : State) {t_ : State} (h : execTestPortAccess t s = .next t_) : t_.pending = s.pending := by
  unfold execTestPortAccess at h
  injection h with h; subst h; simp
theorem execThrottleThreshold_md (t die : Nat) (rising : Bool) (s : State) {t_ : State} (h : execThrottleThreshold t die rising s = .next t_) : t_.md = s.md := by
  unfold execThrottleThreshold at h
  injection h with h; subst h; simp
theorem execThrottleThreshold_pending (t die : Nat) (rising : Bool) (s : State) {t_ : State} (h : execThrottleThreshold t die rising s = .next t_) : t_.pending = s.pending := by
  unfold execThrottleThreshold at h
  injection h with h; subst h; simp
theorem execSlotVerified_md (t fd slot : Nat) (dead : List Nat) (s : State) {t_ : State} (h : execSlotVerified t fd slot dead s = .next t_) : t_.md = s.md := by
  unfold execSlotVerified at h
  injection h with h; subst h; simp
theorem execSlotVerified_pending (t fd slot : Nat) (dead : List Nat) (s : State) {t_ : State} (h : execSlotVerified t fd slot dead s = .next t_) : t_.pending = s.pending := by
  unfold execSlotVerified at h
  injection h with h; subst h; simp
theorem execImageCompare_md (t : Nat) (s : State) {t_ : State} (h : execImageCompare t s = .next t_) : t_.md = s.md := by
  unfold execImageCompare at h
  injection h with h; subst h; simp
theorem execImageCompare_pending (t : Nat) (s : State) {t_ : State} (h : execImageCompare t s = .next t_) : t_.pending = s.pending := by
  unfold execImageCompare at h
  injection h with h; subst h; simp
theorem execRecoveryGo_md (t port : Nat) (v : Word) (s : State) {t_ : State} (h : execRecoveryGo t port v s = .next t_) : t_.md = s.md := by
  unfold execRecoveryGo at h
  try dsimp only at h
  (repeat' split at h) <;> (injection h with h; subst h; repeat' (first | rfl | assumption | (apply foldl_md) | (apply foldl_md_fst) | (apply getD_md) | (intro _) | split | (refine (State.wrFront_md_eq (by assumption)).trans ?_) | simp))
theorem execRecoveryGo_pending (t port : Nat) (v : Word) (s : State) {t_ : State} (h : execRecoveryGo t port v s = .next t_) : t_.pending = s.pending := by
  unfold execRecoveryGo at h
  try dsimp only at h
  (repeat' split at h) <;> (injection h with h; subst h; repeat' (first | rfl | assumption | (apply foldl_pending) | (apply foldl_pending_fst) | (apply getD_pending) | (intro _) | split | (refine (State.wrFront_pending_eq (by assumption)).trans ?_) | simp))
theorem execSvnCommit_md (t port : Nat) (be : BitVec 4) (v : Word) (s : State) {t_ : State} (h : execSvnCommit t port be v s = .next t_) : t_.md = s.md := by
  unfold execSvnCommit at h
  try dsimp only at h
  injection h with h; subst h
  repeat' (first | rfl | assumption | (apply foldl_md) | (apply foldl_md_fst) | (apply getD_md) | (intro _) | split | (refine (State.wrFront_md_eq (by assumption)).trans ?_) | simp)
theorem execSvnCommit_pending (t port : Nat) (be : BitVec 4) (v : Word) (s : State) {t_ : State} (h : execSvnCommit t port be v s = .next t_) : t_.pending = s.pending := by
  unfold execSvnCommit at h
  try dsimp only at h
  injection h with h; subst h
  repeat' (first | rfl | assumption | (apply foldl_pending) | (apply foldl_pending_fst) | (apply getD_pending) | (intro _) | split | (refine (State.wrFront_pending_eq (by assumption)).trans ?_) | simp)
theorem execFlashErase_md (t port : Nat) (be : BitVec 4) (v : Word) (s : State) {t_ : State} (h : execFlashErase t port be v s = .next t_) : t_.md = s.md := by
  unfold execFlashErase at h
  injection h with h; subst h; simp
theorem execFlashErase_pending (t port : Nat) (be : BitVec 4) (v : Word) (s : State) {t_ : State} (h : execFlashErase t port be v s = .next t_) : t_.pending = s.pending := by
  unfold execFlashErase at h
  injection h with h; subst h; simp
theorem execFlashProgram_md (t port : Nat) (be : BitVec 4) (v : Word) (s : State) {t_ : State} (h : execFlashProgram t port be v s = .next t_) : t_.md = s.md := by
  unfold execFlashProgram at h
  injection h with h; subst h; simp
theorem execFlashProgram_pending (t port : Nat) (be : BitVec 4) (v : Word) (s : State) {t_ : State} (h : execFlashProgram t port be v s = .next t_) : t_.pending = s.pending := by
  unfold execFlashProgram at h
  injection h with h; subst h; simp
theorem execFlashCheck_md (t port : Nat) (be : BitVec 4) (v : Word) (s : State) {t_ : State} (h : execFlashCheck t port be v s = .next t_) : t_.md = s.md := by
  unfold execFlashCheck at h
  injection h with h; subst h; simp
theorem execFlashCheck_pending (t port : Nat) (be : BitVec 4) (v : Word) (s : State) {t_ : State} (h : execFlashCheck t port be v s = .next t_) : t_.pending = s.pending := by
  unfold execFlashCheck at h
  injection h with h; subst h; simp
theorem execFlashDone_md (t fd : Nat) (s : State) {t_ : State} (h : execFlashDone t fd s = .next t_) : t_.md = s.md := by
  unfold execFlashDone at h
  try dsimp only at h
  injection h with h; subst h
  repeat' (first | rfl | assumption | (apply foldl_md) | (apply foldl_md_fst) | (apply getD_md) | (intro _) | split | simp)
theorem execFlashDone_pending (t fd : Nat) (s : State) {t_ : State} (h : execFlashDone t fd s = .next t_) : t_.pending = s.pending := by
  unfold execFlashDone at h
  try dsimp only at h
  injection h with h; subst h
  repeat' (first | rfl | assumption | (apply foldl_pending) | (apply foldl_pending_fst) | (apply getD_pending) | (intro _) | split | simp)
theorem execRingDisable_md (t port : Nat) (vf : Option Nat) (off : Nat) (be : BitVec 4) (v : Word) (s : State) {t_ : State} (h : execRingDisable t port vf off be v s = .next t_) : t_.md = s.md := by
  unfold execRingDisable at h
  injection h with h; subst h
  have w := State.wrFront_md (s.arrive t) port vf off be
  split
  · rename_i hh; rw [hh] at w; simpa using w
  · rename_i hh; rw [hh] at w
    simp only [State.arrive_md] at w
    dsimp only
    split
    · exact w
    · split <;> simp [w]
theorem execCqDisable_md (t port : Nat) (vf : Option Nat) (off : Nat) (be : BitVec 4) (v : Word) (s : State) {t_ : State} (h : execCqDisable t port vf off be v s = .next t_) : t_.md = s.md := by
  unfold execCqDisable at h
  injection h with h; subst h
  have w := State.wrFront_md (s.arrive t) port vf off be
  split
  · rename_i hh; rw [hh] at w; simpa using w
  · rename_i hh; rw [hh] at w
    simp only [State.arrive_md] at w
    dsimp only
    split
    · exact w
    · split
      · simp [w]
      · split <;> simp [w]
theorem execGuardOpen_md (t : Nat) (s : State) {t_ : State} (h : execGuardOpen t s = .next t_) : t_.md = s.md := by
  unfold execGuardOpen at h
  dsimp only at h
  split at h
  · injection h with h; subst h; simp
  · injection h with h; subst h; simp
theorem execPrepareVote_md (t die sub : Nat) (s : State) {t_ : State} (h : execPrepareVote t die sub s = .next t_) : t_.md = s.md := by
  unfold execPrepareVote at h
  dsimp only at h
  split at h
  · injection h with h; subst h; simp
  · split at h
    · split at h
      · injection h with h; subst h; simp
      · injection h with h; subst h; simp
    · split at h
      · injection h with h; subst h; simp
      · injection h with h; subst h; simp
theorem execVoteEvaluate_md (t : Nat) (s : State) {t_ : State} (h : execVoteEvaluate t s = .next t_) : t_.md = s.md := by
  unfold execVoteEvaluate at h
  dsimp only at h
  split at h
  · injection h with h; subst h; simp
  · injection h with h; subst h
    refine (foldl_md (fun t a => ?_) rfl).trans ?_
    · simp
    · simp
theorem execL2FillReturn_md (t slice line err asn : Nat) (s : State) {t_ : State} (h : execL2FillReturn t slice line err asn s = .next t_) : t_.md = s.md := by
  unfold execL2FillReturn at h
  dsimp only at h
  injection h with h; subst h
  generalize ha : s.stamped t = a
  have e : a.md = s.md := by rw [← ha]; simp
  clear ha
  split
  · exact e
  · split
    · exact e
    · split
      · split <;> simp [e]
      · split
        · simp [e]
        · split
          · simp [e]
          · split
            · simp [e]
            · (repeat' split) <;> simp [e]
theorem State.rewatchRings_md (old new : State) : (State.rewatchRings old new).md = new.md := by
  unfold State.rewatchRings
  dsimp only
  refine (foldl_md (fun t a => ?_) ?_)
  · split <;> simp
  · simp
theorem execDlDown_md (t port : Nat) (s : State) {t_ : State} (h : execDlDown t port s = .next t_) : t_.md = s.md := by
  unfold execDlDown at h
  dsimp only at h
  injection h with h; subst h
  split
  · simp
  · refine (State.rewatchRings_md _ _).trans ((State.rewatch_md _ _ _).trans ?_)
    simp
theorem cfgGate_md (s : State) (p f : Nat) (k : State) (h : k.md = s.md) : (s.cfgGate p f k).md = s.md := by
  unfold State.cfgGate
  split
  · split
    · exact h
    · rfl
  · simp
theorem execBusMasterEnable_md (t port func : Nat) (bme d3 : Bool) (s : State) {t_ : State} (h : execBusMasterEnable t port func bme d3 s = .next t_) : t_.md = s.md := by
  unfold execBusMasterEnable at h
  dsimp only at h
  injection h with h; subst h
  refine (cfgGate_md _ _ _ _ ?_).trans (by simp)
  refine (State.rewatchRings_md _ _).trans ?_
  simp
theorem execVfEnable_md (t port num : Nat) (on : Bool) (s : State) {t_ : State} (h : execVfEnable t port num on s = .next t_) : t_.md = s.md := by
  unfold execVfEnable at h
  dsimp only at h
  injection h with h; subst h
  refine (cfgGate_md _ _ _ _ ?_).trans (by simp)
  split
  · rfl
  · refine (State.rewatchRings_md _ _).trans ?_
    (repeat' split) <;> simp
theorem execConfigurationRequest_md (t port func : Nat) (req : CfgReq) (s : State) {t_ : State} (h : execConfigurationRequest t port func req s = .next t_) : t_.md = s.md := by
  unfold execConfigurationRequest at h
  dsimp only at h
  injection h with h; subst h
  refine (cfgGate_md _ _ _ _ ?_).trans (by simp)
  (repeat' split) <;> simp
theorem execHostHbmWrite_md (t port : Nat) (cxl : Bool) (addr : Nat) (data : List Byte) (regions : List (List Byte)) (s : State) {t_ : State} (h : execHostHbmWrite t port cxl addr data regions s = .next t_) : t_.md = s.md := by
  unfold execHostHbmWrite at h
  dsimp only at h
  injection h with h; subst h
  split
  · simp
  · split
    · simp
    · split
      · rename_i s' hh
        refine (congrArg (fun x => x.1.md) hh).symm.trans ?_
        refine foldl_md_fst (fun x b => ?_) (by simp)
        split
        · exact State.hostPut_md_eq (by assumption)
        · rfl
      · rename_i s' lost hh
        refine (State.accessErr_md _ _ _ _).trans ?_
        refine (congrArg (fun x => x.1.md) hh).symm.trans ?_
        refine foldl_md_fst (fun x b => ?_) (by simp)
        split
        · exact State.hostPut_md_eq (by assumption)
        · rfl
theorem execLacq_md (t : Nat) (via : Option (Nat × Option Nat × Nat × BitVec 4 × Word)) (port init win n : Nat) (s : State) {t_ : State} (h : execLacq t via port init win n s = .next t_) : t_.md = s.md := by
  unfold execLacq at h
  injection h with h; subst h; simp
theorem execChainPartialReceived_md (core asn item array ltile terms flags : Nat) (rows : List (List SpillE)) (s : State) {t_ : State} (h : execChainPartialReceived core asn item array ltile terms flags rows s = .next t_) : t_.md = s.md := by
  unfold execChainPartialReceived at h
  injection h with h; subst h; simp
theorem execDescriptorFetched_md (t page ring : Nat) (desc : List Byte) (tensors regions : List (Nat × List Byte)) (s : State) {t_ : State} (h : execDescriptorFetched t page ring desc tensors regions s = .next t_) : t_.md = s.md := by
  unfold execDescriptorFetched at h
  dsimp only at h
  split at h
  · injection h with h; subst h; simp
  · injection h with h; subst h
    refine (State.putRing_md _ _).trans ?_
    split <;> simp
theorem execRecoverGoRecover_md (t port : Nat) (be : BitVec 4) (v : Word) (dlogs : List DecLogRead) (rlogs : List RingLogRead) (posted : List CqRead) (tables : List PageTables) (s : State) {t_ : State} (h : execRecoverGoRecover t port be v dlogs rlogs posted tables s = .next t_) : t_.md = s.md := by
  unfold execRecoverGoRecover at h
  injection h with h; subst h
  have w : ((s.arrive t).goFront port be v.toNat true).1.md = s.md := by simp
  split
  · rename_i hh; rw [hh] at w; exact w
  · rename_i hh; rw [hh] at w
    dsimp only at w ⊢
    split
    · simp [w]
    · refine (foldl_md (fun t a => by simp) rfl).trans ?_
      simp only [State.fenceAndResend_md, State.settleScopes_md, State.abortUndecided_md]
      refine (foldl_md (fun t a => by simp) rfl).trans ?_
      refine (foldl_md (fun t a => by simp) rfl).trans ?_
      exact w
theorem spdmReq_md (s : State) (t p : Nat) (ok : Spdm → Bool) (k : State → State) (h : ∀ u : State, (k u).md = u.md) : (s.spdmReq t p ok k).md = s.md := by
  unfold State.spdmReq
  dsimp only
  split
  · simp
  · split
    · simp [h]
    · simp
theorem execGetVersion_md (t port : Nat) (s : State) {t_ : State} (h : execGetVersion t port s = .next t_) : t_.md = s.md := by
  unfold execGetVersion at h
  injection h with h; subst h
  refine spdmReq_md _ _ _ _ _ (fun u => ?_)
  try dsimp only
  (repeat' split) <;> simp
theorem execGetCapabilities_md (t port : Nat) (s : State) {t_ : State} (h : execGetCapabilities t port s = .next t_) : t_.md = s.md := by
  unfold execGetCapabilities at h
  injection h with h; subst h
  refine spdmReq_md _ _ _ _ _ (fun u => ?_)
  try dsimp only
  (repeat' split) <;> simp
theorem execNegotiateAlgorithms_md (t port algs : Nat) (s : State) {t_ : State} (h : execNegotiateAlgorithms t port algs s = .next t_) : t_.md = s.md := by
  unfold execNegotiateAlgorithms at h
  injection h with h; subst h
  refine spdmReq_md _ _ _ _ _ (fun u => ?_)
  try dsimp only
  (repeat' split) <;> simp
theorem execGetDigests_md (t port : Nat) (s : State) {t_ : State} (h : execGetDigests t port s = .next t_) : t_.md = s.md := by
  unfold execGetDigests at h
  injection h with h; subst h
  refine spdmReq_md _ _ _ _ _ (fun u => ?_)
  try dsimp only
  (repeat' split) <;> simp
theorem execGetCertificate_md (t port slot offset len : Nat) (s : State) {t_ : State} (h : execGetCertificate t port slot offset len s = .next t_) : t_.md = s.md := by
  unfold execGetCertificate at h
  injection h with h; subst h
  refine spdmReq_md _ _ _ _ _ (fun u => ?_)
  try dsimp only
  (repeat' split) <;> simp
theorem execChallenge_md (t port slot : Nat) (nonce : List Byte) (s : State) {t_ : State} (h : execChallenge t port slot nonce s = .next t_) : t_.md = s.md := by
  unfold execChallenge at h
  injection h with h; subst h
  refine spdmReq_md _ _ _ _ _ (fun u => ?_)
  try dsimp only
  (repeat' split) <;> simp
theorem execGetMeasurements_md (t port index : Nat) (nonce : List Byte) (s : State) {t_ : State} (h : execGetMeasurements t port index nonce s = .next t_) : t_.md = s.md := by
  unfold execGetMeasurements at h
  injection h with h; subst h
  refine spdmReq_md _ _ _ _ _ (fun u => ?_)
  try dsimp only
  (repeat' split) <;> simp
theorem execKeyExchange_md (t port reqSession : Nat) (exchange : List Byte) (s : State) {t_ : State} (h : execKeyExchange t port reqSession exchange s = .next t_) : t_.md = s.md := by
  unfold execKeyExchange at h
  injection h with h; subst h
  refine spdmReq_md _ _ _ _ _ (fun u => ?_)
  try dsimp only
  (repeat' split) <;> simp
theorem execFinish_md (t port session : Nat) (s : State) {t_ : State} (h : execFinish t port session s = .next t_) : t_.md = s.md := by
  unfold execFinish at h
  injection h with h; subst h
  refine spdmReq_md _ _ _ _ _ (fun u => ?_)
  try dsimp only
  (repeat' split) <;> simp
theorem execHeartbeat_md (t port session : Nat) (s : State) {t_ : State} (h : execHeartbeat t port session s = .next t_) : t_.md = s.md := by
  unfold execHeartbeat at h
  injection h with h; subst h
  refine spdmReq_md _ _ _ _ _ (fun u => ?_)
  try dsimp only
  (repeat' split) <;> simp
theorem execKeyUpdate_md (t port session : Nat) (s : State) {t_ : State} (h : execKeyUpdate t port session s = .next t_) : t_.md = s.md := by
  unfold execKeyUpdate at h
  injection h with h; subst h
  refine spdmReq_md _ _ _ _ _ (fun u => ?_)
  try dsimp only
  (repeat' split) <;> simp
theorem execEndSession_md (t port session : Nat) (s : State) {t_ : State} (h : execEndSession t port session s = .next t_) : t_.md = s.md := by
  unfold execEndSession at h
  injection h with h; subst h
  refine spdmReq_md _ _ _ _ _ (fun u => ?_)
  try dsimp only
  (repeat' split) <;> simp

theorem execRingDisable_pending (t port : Nat) (vf : Option Nat) (off : Nat) (be : BitVec 4) (v : Word) (s : State) {t_ : State} (h : execRingDisable t port vf off be v s = .next t_) : t_.pending = s.pending := by
  unfold execRingDisable at h
  injection h with h; subst h
  have w := State.wrFront_pending (s.arrive t) port vf off be
  split
  · rename_i hh; rw [hh] at w; simpa using w
  · rename_i hh; rw [hh] at w
    simp only [State.arrive_pending] at w
    dsimp only
    split
    · exact w
    · split <;> simp [w]
theorem execCqDisable_pending (t port : Nat) (vf : Option Nat) (off : Nat) (be : BitVec 4) (v : Word) (s : State) {t_ : State} (h : execCqDisable t port vf off be v s = .next t_) : t_.pending = s.pending := by
  unfold execCqDisable at h
  injection h with h; subst h
  have w := State.wrFront_pending (s.arrive t) port vf off be
  split
  · rename_i hh; rw [hh] at w; simpa using w
  · rename_i hh; rw [hh] at w
    simp only [State.arrive_pending] at w
    dsimp only
    split
    · exact w
    · split
      · simp [w]
      · split <;> simp [w]
theorem execGuardOpen_pending (t : Nat) (s : State) {t_ : State} (h : execGuardOpen t s = .next t_) : t_.pending = s.pending := by
  unfold execGuardOpen at h
  dsimp only at h
  split at h
  · injection h with h; subst h; simp
  · injection h with h; subst h; simp
theorem execPrepareVote_pending (t die sub : Nat) (s : State) {t_ : State} (h : execPrepareVote t die sub s = .next t_) : t_.pending = s.pending := by
  unfold execPrepareVote at h
  dsimp only at h
  split at h
  · injection h with h; subst h; simp
  · split at h
    · split at h
      · injection h with h; subst h; simp
      · injection h with h; subst h; simp
    · split at h
      · injection h with h; subst h; simp
      · injection h with h; subst h; simp
theorem execVoteEvaluate_pending (t : Nat) (s : State) {t_ : State} (h : execVoteEvaluate t s = .next t_) : t_.pending = s.pending := by
  unfold execVoteEvaluate at h
  dsimp only at h
  split at h
  · injection h with h; subst h; simp
  · injection h with h; subst h
    refine (foldl_pending (fun t a => ?_) rfl).trans ?_
    · simp
    · simp
theorem execL2FillReturn_pending (t slice line err asn : Nat) (s : State) {t_ : State} (h : execL2FillReturn t slice line err asn s = .next t_) : t_.pending = s.pending := by
  unfold execL2FillReturn at h
  dsimp only at h
  injection h with h; subst h
  generalize ha : s.stamped t = a
  have e : a.pending = s.pending := by rw [← ha]; simp
  clear ha
  split
  · exact e
  · split
    · exact e
    · split
      · split <;> simp [e]
      · split
        · simp [e]
        · split
          · simp [e]
          · split
            · simp [e]
            · (repeat' split) <;> simp [e]
theorem State.rewatchRings_pending (old new : State) : (State.rewatchRings old new).pending = new.pending := by
  unfold State.rewatchRings
  dsimp only
  refine (foldl_pending (fun t a => ?_) ?_)
  · split <;> simp
  · simp
theorem execDlDown_pending (t port : Nat) (s : State) {t_ : State} (h : execDlDown t port s = .next t_) : t_.pending = s.pending := by
  unfold execDlDown at h
  dsimp only at h
  injection h with h; subst h
  split
  · simp
  · refine (State.rewatchRings_pending _ _).trans ((State.rewatch_pending _ _ _).trans ?_)
    simp
theorem cfgGate_pending (s : State) (p f : Nat) (k : State) (h : k.pending = s.pending) : (s.cfgGate p f k).pending = s.pending := by
  unfold State.cfgGate
  split
  · split
    · exact h
    · rfl
  · simp
theorem execBusMasterEnable_pending (t port func : Nat) (bme d3 : Bool) (s : State) {t_ : State} (h : execBusMasterEnable t port func bme d3 s = .next t_) : t_.pending = s.pending := by
  unfold execBusMasterEnable at h
  dsimp only at h
  injection h with h; subst h
  refine (cfgGate_pending _ _ _ _ ?_).trans (by simp)
  refine (State.rewatchRings_pending _ _).trans ?_
  simp
theorem execVfEnable_pending (t port num : Nat) (on : Bool) (s : State) {t_ : State} (h : execVfEnable t port num on s = .next t_) : t_.pending = s.pending := by
  unfold execVfEnable at h
  dsimp only at h
  injection h with h; subst h
  refine (cfgGate_pending _ _ _ _ ?_).trans (by simp)
  split
  · rfl
  · refine (State.rewatchRings_pending _ _).trans ?_
    (repeat' split) <;> simp
theorem execConfigurationRequest_pending (t port func : Nat) (req : CfgReq) (s : State) {t_ : State} (h : execConfigurationRequest t port func req s = .next t_) : t_.pending = s.pending := by
  unfold execConfigurationRequest at h
  dsimp only at h
  injection h with h; subst h
  refine (cfgGate_pending _ _ _ _ ?_).trans (by simp)
  (repeat' split) <;> simp
theorem execHostHbmWrite_pending (t port : Nat) (cxl : Bool) (addr : Nat) (data : List Byte) (regions : List (List Byte)) (s : State) {t_ : State} (h : execHostHbmWrite t port cxl addr data regions s = .next t_) : t_.pending = s.pending := by
  unfold execHostHbmWrite at h
  dsimp only at h
  injection h with h; subst h
  split
  · simp
  · split
    · simp
    · split
      · rename_i s' hh
        refine (congrArg (fun x => x.1.pending) hh).symm.trans ?_
        refine foldl_pending_fst (fun x b => ?_) (by simp)
        split
        · exact State.hostPut_pending_eq (by assumption)
        · rfl
      · rename_i s' lost hh
        refine (State.accessErr_pending _ _ _ _).trans ?_
        refine (congrArg (fun x => x.1.pending) hh).symm.trans ?_
        refine foldl_pending_fst (fun x b => ?_) (by simp)
        split
        · exact State.hostPut_pending_eq (by assumption)
        · rfl
theorem execLacq_pending (t : Nat) (via : Option (Nat × Option Nat × Nat × BitVec 4 × Word)) (port init win n : Nat) (s : State) {t_ : State} (h : execLacq t via port init win n s = .next t_) : t_.pending = s.pending := by
  unfold execLacq at h
  injection h with h; subst h; simp
theorem execChainPartialReceived_pending (core asn item array ltile terms flags : Nat) (rows : List (List SpillE)) (s : State) {t_ : State} (h : execChainPartialReceived core asn item array ltile terms flags rows s = .next t_) : t_.pending = s.pending := by
  unfold execChainPartialReceived at h
  injection h with h; subst h; simp
theorem execDescriptorFetched_pending (t page ring : Nat) (desc : List Byte) (tensors regions : List (Nat × List Byte)) (s : State) {t_ : State} (h : execDescriptorFetched t page ring desc tensors regions s = .next t_) : t_.pending = s.pending := by
  unfold execDescriptorFetched at h
  dsimp only at h
  split at h
  · injection h with h; subst h; simp
  · injection h with h; subst h
    refine (State.putRing_pending _ _).trans ?_
    split <;> simp
theorem execRecoverGoRecover_pending (t port : Nat) (be : BitVec 4) (v : Word) (dlogs : List DecLogRead) (rlogs : List RingLogRead) (posted : List CqRead) (tables : List PageTables) (s : State) {t_ : State} (h : execRecoverGoRecover t port be v dlogs rlogs posted tables s = .next t_) : t_.pending = s.pending := by
  unfold execRecoverGoRecover at h
  injection h with h; subst h
  have w : ((s.arrive t).goFront port be v.toNat true).1.pending = s.pending := by simp
  split
  · rename_i hh; rw [hh] at w; exact w
  · rename_i hh; rw [hh] at w
    dsimp only at w ⊢
    split
    · simp [w]
    · refine (foldl_pending (fun t a => by simp) rfl).trans ?_
      simp only [State.fenceAndResend_pending, State.settleScopes_pending, State.abortUndecided_pending]
      refine (foldl_pending (fun t a => by simp) rfl).trans ?_
      refine (foldl_pending (fun t a => by simp) rfl).trans ?_
      exact w
theorem spdmReq_pending (s : State) (t p : Nat) (ok : Spdm → Bool) (k : State → State) (h : ∀ u : State, (k u).pending = u.pending) : (s.spdmReq t p ok k).pending = s.pending := by
  unfold State.spdmReq
  dsimp only
  split
  · simp
  · split
    · simp [h]
    · simp
theorem execGetVersion_pending (t port : Nat) (s : State) {t_ : State} (h : execGetVersion t port s = .next t_) : t_.pending = s.pending := by
  unfold execGetVersion at h
  injection h with h; subst h
  refine spdmReq_pending _ _ _ _ _ (fun u => ?_)
  try dsimp only
  (repeat' split) <;> simp
theorem execGetCapabilities_pending (t port : Nat) (s : State) {t_ : State} (h : execGetCapabilities t port s = .next t_) : t_.pending = s.pending := by
  unfold execGetCapabilities at h
  injection h with h; subst h
  refine spdmReq_pending _ _ _ _ _ (fun u => ?_)
  try dsimp only
  (repeat' split) <;> simp
theorem execNegotiateAlgorithms_pending (t port algs : Nat) (s : State) {t_ : State} (h : execNegotiateAlgorithms t port algs s = .next t_) : t_.pending = s.pending := by
  unfold execNegotiateAlgorithms at h
  injection h with h; subst h
  refine spdmReq_pending _ _ _ _ _ (fun u => ?_)
  try dsimp only
  (repeat' split) <;> simp
theorem execGetDigests_pending (t port : Nat) (s : State) {t_ : State} (h : execGetDigests t port s = .next t_) : t_.pending = s.pending := by
  unfold execGetDigests at h
  injection h with h; subst h
  refine spdmReq_pending _ _ _ _ _ (fun u => ?_)
  try dsimp only
  (repeat' split) <;> simp
theorem execGetCertificate_pending (t port slot offset len : Nat) (s : State) {t_ : State} (h : execGetCertificate t port slot offset len s = .next t_) : t_.pending = s.pending := by
  unfold execGetCertificate at h
  injection h with h; subst h
  refine spdmReq_pending _ _ _ _ _ (fun u => ?_)
  try dsimp only
  (repeat' split) <;> simp
theorem execChallenge_pending (t port slot : Nat) (nonce : List Byte) (s : State) {t_ : State} (h : execChallenge t port slot nonce s = .next t_) : t_.pending = s.pending := by
  unfold execChallenge at h
  injection h with h; subst h
  refine spdmReq_pending _ _ _ _ _ (fun u => ?_)
  try dsimp only
  (repeat' split) <;> simp
theorem execGetMeasurements_pending (t port index : Nat) (nonce : List Byte) (s : State) {t_ : State} (h : execGetMeasurements t port index nonce s = .next t_) : t_.pending = s.pending := by
  unfold execGetMeasurements at h
  injection h with h; subst h
  refine spdmReq_pending _ _ _ _ _ (fun u => ?_)
  try dsimp only
  (repeat' split) <;> simp
theorem execKeyExchange_pending (t port reqSession : Nat) (exchange : List Byte) (s : State) {t_ : State} (h : execKeyExchange t port reqSession exchange s = .next t_) : t_.pending = s.pending := by
  unfold execKeyExchange at h
  injection h with h; subst h
  refine spdmReq_pending _ _ _ _ _ (fun u => ?_)
  try dsimp only
  (repeat' split) <;> simp
theorem execFinish_pending (t port session : Nat) (s : State) {t_ : State} (h : execFinish t port session s = .next t_) : t_.pending = s.pending := by
  unfold execFinish at h
  injection h with h; subst h
  refine spdmReq_pending _ _ _ _ _ (fun u => ?_)
  try dsimp only
  (repeat' split) <;> simp
theorem execHeartbeat_pending (t port session : Nat) (s : State) {t_ : State} (h : execHeartbeat t port session s = .next t_) : t_.pending = s.pending := by
  unfold execHeartbeat at h
  injection h with h; subst h
  refine spdmReq_pending _ _ _ _ _ (fun u => ?_)
  try dsimp only
  (repeat' split) <;> simp
theorem execKeyUpdate_pending (t port session : Nat) (s : State) {t_ : State} (h : execKeyUpdate t port session s = .next t_) : t_.pending = s.pending := by
  unfold execKeyUpdate at h
  injection h with h; subst h
  refine spdmReq_pending _ _ _ _ _ (fun u => ?_)
  try dsimp only
  (repeat' split) <;> simp
theorem execEndSession_pending (t port session : Nat) (s : State) {t_ : State} (h : execEndSession t port session s = .next t_) : t_.pending = s.pending := by
  unfold execEndSession at h
  injection h with h; subst h
  refine spdmReq_pending _ _ _ _ _ (fun u => ?_)
  try dsimp only
  (repeat' split) <;> simp

end Sys2Proof.Machine
end

