-- ==== Sys2Proof/Laws/Mem.lean ====
section
/-! SUPPORT. Byte memories: reading back what was written, every other byte unchanged, and the canonical form kept by
every memory operation. -/

namespace Sys2Proof

/-! ### Little-endian numbers -/

@[simp] theorem length_leBytes (n v : Nat) : (leBytes n v).length = n := by
  induction n generalizing v with
  | zero => rfl
  | succ n ih => simp [leBytes, ih]

theorem leNat_leBytes (n v : Nat) : leNat (leBytes n v) = v % 256 ^ n := by
  induction n generalizing v with
  | zero => simp [leBytes, leNat, Nat.mod_one]
  | succ n ih =>
    have h : (BitVec.ofNat 8 v).toNat = v % 256 := by simp
    rw [leBytes, leNat, ih, h, Nat.pow_succ, Nat.mul_comm (256 ^ n) 256, Nat.mod_mul]

theorem leNat_append (xs ys : List Byte) : leNat (xs ++ ys) = leNat xs + 256 ^ xs.length * leNat ys := by
  induction xs with
  | nil => simp [leNat]
  | cons x xs ih => simp only [List.cons_append, leNat, ih, List.length_cons, Nat.pow_succ]; ring

theorem leNat_lt (xs : List Byte) : leNat xs < 256 ^ xs.length := by
  induction xs with
  | nil => simp [leNat]
  | cons x xs ih =>
    have := x.isLt
    simp only [leNat, List.length_cons, Nat.pow_succ]
    omega

/-! ### One byte -/

namespace Mem

theorem read_below {m : Mem} {lo a : Nat} (h : m.risesFrom lo = true) (ha : a < lo) : read a m = unlisted := by
  cases m with
  | nil => rfl
  | cons c r =>
    obtain ⟨x, b⟩ := c
    simp only [risesFrom, Bool.and_eq_true, decide_eq_true_eq] at h
    have h1 : x ≠ a := by omega
    have h2 : a < x := by omega
    simp [read, h1, h2]

theorem risesFrom_mono {m : Mem} {lo hi : Nat} (h : m.risesFrom hi = true) (hl : lo ≤ hi) : m.risesFrom lo = true := by
  cases m with
  | nil => rfl
  | cons c r =>
    obtain ⟨x, b⟩ := c
    simp only [risesFrom, Bool.and_eq_true, decide_eq_true_eq] at h ⊢
    exact ⟨⟨by omega, h.1.2⟩, h.2⟩

theorem risesFrom_write {m : Mem} {lo a : Nat} {v : Byte} (h : m.risesFrom lo = true) (ha : lo ≤ a) :
    (write a v m).risesFrom lo = true := by
  induction m generalizing lo with
  | nil => by_cases hv : v = unlisted <;> simp [write, risesFrom, hv, ha]
  | cons c r ih =>
    obtain ⟨x, b⟩ := c
    have h' := h
    simp only [risesFrom, Bool.and_eq_true, decide_eq_true_eq] at h'
    obtain ⟨⟨hx, hb⟩, hr⟩ := h'
    simp only [write]
    split
    · split
      · exact h
      · rename_i hlt hv
        simp only [risesFrom, Bool.and_eq_true, decide_eq_true_eq]
        exact ⟨⟨ha, by simpa using hv⟩, ⟨by omega, hb⟩, hr⟩
    · split
      · rename_i hnl he
        subst he
        split
        · exact risesFrom_mono hr (by omega)
        · rename_i hv
          simp only [risesFrom, Bool.and_eq_true, decide_eq_true_eq]
          exact ⟨⟨hx, by simpa using hv⟩, hr⟩
      · rename_i hnl hne
        simp only [risesFrom, Bool.and_eq_true, decide_eq_true_eq]
        exact ⟨⟨hx, hb⟩, ih hr (by omega)⟩

/-- A byte reads back as it was written, also where writing the unlisted value removes the entry. -/
theorem read_write_same {m : Mem} {lo a : Nat} {v : Byte} (h : m.risesFrom lo = true) :
    read a (write a v m) = v := by
  induction m generalizing lo with
  | nil => by_cases hv : v = unlisted <;> simp [write, read, hv]
  | cons c r ih =>
    obtain ⟨x, b⟩ := c
    have h' := h
    simp only [risesFrom, Bool.and_eq_true, decide_eq_true_eq] at h'
    simp only [write]
    split
    · rename_i hlt
      split
      · rename_i hv
        have h1 : x ≠ a := by omega
        simp [read, h1, hlt, hv]
      · simp [read]
    · split
      · rename_i he
        subst he
        split
        · rename_i hv; rw [read_below h'.2 (by omega), hv]
        · simp [read]
      · rename_i hnl hne
        have h1 : x ≠ a := fun e => hne e.symm
        simp only [read, h1, if_false, hnl]
        exact ih h'.2

/-- A write leaves every other byte as it was. -/
theorem read_write_other {m : Mem} {lo a b : Nat} {v : Byte} (h : m.risesFrom lo = true) (hab : b ≠ a) :
    read b (write a v m) = read b m := by
  induction m generalizing lo with
  | nil =>
    by_cases hv : v = unlisted
    · simp [write, hv]
    · have h1 : a ≠ b := fun e => hab e.symm
      simp [write, read, hv, h1]
  | cons c r ih =>
    obtain ⟨x, w⟩ := c
    have h' := h
    simp only [risesFrom, Bool.and_eq_true, decide_eq_true_eq] at h'
    simp only [write]
    split
    · rename_i hlt
      split
      · rfl
      · have h1 : a ≠ b := fun e => hab e.symm
        rw [read, if_neg h1]
        split
        · rename_i hba
          have h2 : x ≠ b := by omega
          have h3 : b < x := by omega
          simp [read, h2, h3]
        · rfl
    · split
      · rename_i he
        subst he
        have h1 : a ≠ b := fun e => hab e.symm
        split
        · simp only [read, h1, if_false]
          split
          · rename_i hba; rw [read_below h'.2 (by omega)]
          · rfl
        · simp [read, h1]
      · simp only [read]
        split
        · rfl
        · split
          · rfl
          · exact ih h'.2

end Mem

/-! ### The canonical form -/

theorem Memory.wf_empty : Memory.wf Mem.empty = true := rfl

theorem Memory.wf_write {m : Mem} (h : Memory.wf m = true) (a : Nat) (v : Byte) :
    Memory.wf (m.write a v) = true := Mem.risesFrom_write h (Nat.zero_le a)

theorem Memory.wf_writeBytes {m : Mem} (h : Memory.wf m = true) (a : Nat) (bs : List Byte) :
    Memory.wf (m.writeBytes a bs) = true := by
  induction bs generalizing m a with
  | nil => exact h
  | cons b bs ih => exact ih (Memory.wf_write h a b) (a + 1)

theorem Memory.wf_writeLe {m : Mem} (h : Memory.wf m = true) (a n v : Nat) :
    Memory.wf (m.writeLe a n v) = true := Memory.wf_writeBytes h a _

theorem Mem.risesFrom_filter {m : Mem} {lo : Nat} (p : Host.Cell → Bool) (h : m.risesFrom lo = true) :
    Mem.risesFrom lo (m.filter p) = true := by
  induction m generalizing lo with
  | nil => rfl
  | cons c r ih =>
    obtain ⟨x, b⟩ := c
    simp only [Mem.risesFrom, Bool.and_eq_true, decide_eq_true_eq] at h
    rw [List.filter_cons]
    split
    · simp only [Mem.risesFrom, Bool.and_eq_true, decide_eq_true_eq]
      exact ⟨h.1, ih h.2⟩
    · exact Mem.risesFrom_mono (ih h.2) (by omega)

theorem Memory.wf_clear {m : Mem} (h : Memory.wf m = true) (lo n : Nat) : Memory.wf (m.clear lo n) = true :=
  Mem.risesFrom_filter _ h

namespace Mem

/-! ### Ranges of bytes -/

theorem read_writeBytes_outside {m : Mem} (h : Memory.wf m = true) {a x : Nat} {bs : List Byte}
    (hx : x < a ∨ a + bs.length ≤ x) : (m.writeBytes a bs).read x = m.read x := by
  induction bs generalizing m a with
  | nil => rfl
  | cons b bs ih =>
    rw [writeBytes, ih (Memory.wf_write h a b) (by simp at hx; omega)]
    exact read_write_other h (by simp at hx; omega)

theorem read_writeBytes_inside {m : Mem} (h : Memory.wf m = true) {a i : Nat} {bs : List Byte}
    (hi : i < bs.length) : (m.writeBytes a bs).read (a + i) = bs[i] := by
  induction bs generalizing m a i with
  | nil => simp at hi
  | cons b bs ih =>
    rw [writeBytes]
    cases i with
    | zero =>
      rw [read_writeBytes_outside (Memory.wf_write h a b) (by omega)]
      exact read_write_same h
    | succ i =>
      have := ih (m := m.write a b) (Memory.wf_write h a b) (a := a + 1) (i := i) (by simpa using hi)
      rw [show a + (i + 1) = a + 1 + i by omega, this]
      simp

theorem read_filter_keeps {m : Mem} {lo x : Nat} (p : Host.Cell → Bool) (h : m.risesFrom lo = true)
    (hp : ∀ b, p (x, b) = true) : (Mem.read x (m.filter p)) = m.read x := by
  induction m generalizing lo with
  | nil => rfl
  | cons c r ih =>
    obtain ⟨y, b⟩ := c
    have h' := h
    simp only [risesFrom, Bool.and_eq_true, decide_eq_true_eq] at h'
    rw [List.filter_cons]
    by_cases hy : y = x
    · subst hy; simp [hp, read]
    · split
      · simp only [read, hy, if_false]; split
        · rfl
        · exact ih h'.2
      · simp only [read, hy, if_false]
        rw [ih h'.2]
        split
        · exact read_below h'.2 (by omega)
        · rfl

theorem read_filter_drops {m : Mem} {lo x : Nat} (p : Host.Cell → Bool) (h : m.risesFrom lo = true)
    (hp : ∀ b, p (x, b) = false) : (Mem.read x (m.filter p)) = unlisted := by
  induction m generalizing lo with
  | nil => rfl
  | cons c r ih =>
    obtain ⟨y, b⟩ := c
    simp only [risesFrom, Bool.and_eq_true, decide_eq_true_eq] at h
    rw [List.filter_cons]
    by_cases hy : y = x
    · subst hy; simp only [hp]; exact ih h.2
    · split
      · simp only [read, hy, if_false]; split
        · rfl
        · exact ih h.2
      · exact ih h.2

/-- Clearing a range makes exactly its bytes read as unlisted. -/
theorem read_clear {m : Mem} (h : Memory.wf m = true) (lo n x : Nat) :
    (m.clear lo n).read x = if lo ≤ x ∧ x < lo + n then unlisted else m.read x := by
  split
  · exact read_filter_drops _ h fun b => by simp; omega
  · exact read_filter_keeps _ h fun b => by simp; omega

/-- Two memories in canonical form that read alike are equal. -/
theorem ext_risesFrom {m m' : Mem} {lo : Nat} (h : m.risesFrom lo = true) (h' : m'.risesFrom lo = true)
    (e : ∀ a, m.read a = m'.read a) : m = m' := by
  induction m generalizing m' lo with
  | nil =>
    cases m' with
    | nil => rfl
    | cons c r =>
      obtain ⟨x, b⟩ := c
      simp only [risesFrom, Bool.and_eq_true, decide_eq_true_eq, bne_iff_ne] at h'
      have := e x
      simp [read] at this
      exact absurd this.symm h'.1.2
  | cons c r ih =>
    obtain ⟨x, b⟩ := c
    have hh := h
    simp only [risesFrom, Bool.and_eq_true, decide_eq_true_eq, bne_iff_ne] at hh
    cases m' with
    | nil =>
      have := e x
      simp [read] at this
      exact absurd this hh.1.2
    | cons c' r' =>
      obtain ⟨y, b'⟩ := c'
      have hh' := h'
      simp only [risesFrom, Bool.and_eq_true, decide_eq_true_eq, bne_iff_ne] at hh'
      have hxy : x = y := by
        rcases Nat.lt_trichotomy x y with hlt | heq | hgt
        · have h2 : y ≠ x := by omega
          have := e x
          simp [read, h2, hlt] at this
          exact absurd this hh.1.2
        · exact heq
        · have h2 : x ≠ y := by omega
          have := e y
          simp [read, h2, hgt] at this
          exact absurd this.symm hh'.1.2
      subst hxy
      have hb : b = b' := by have := e x; simpa [read] using this
      subst hb
      rw [ih (lo := x + 1) hh.2 hh'.2 fun a => ?_]
      have := e a
      simp only [read] at this
      by_cases ha : x = a
      · subst ha; rw [read_below hh.2 (by omega), read_below hh'.2 (by omega)]
      · by_cases hlt : a < x
        · rw [read_below hh.2 (by omega), read_below hh'.2 (by omega)]
        · simpa [ha, hlt] using this

end Mem

theorem Memory.ext {m m' : Mem} (h : Memory.wf m = true) (h' : Memory.wf m' = true)
    (e : ∀ a, m.read a = m'.read a) : m = m' := Mem.ext_risesFrom h h' e

/-! ### Core stores: bytes with undefined ranges -/

theorem undefAt_flatMap_cut (us : List Undef) (lo n x : Nat) (hx : lo ≤ x ∧ x < lo + n) :
    undefAt (us.flatMap (cutUndef lo n)) x = none := by
  unfold undefAt
  rw [Option.map_eq_none_iff, List.find?_eq_none]
  intro u hu
  simp only [List.mem_flatMap] at hu
  obtain ⟨w, -, hw⟩ := hu
  unfold cutUndef at hw
  split at hw
  · simp only [List.mem_append] at hw
    rcases hw with hw | hw
    · split at hw
      · simp at hw; subst hw; simp; omega
      · simp at hw
    · split at hw
      · simp at hw; subst hw; simp; omega
      · simp at hw
  · simp at hw; subst hw; simp; omega

theorem cutUndef_covers (u : Undef) (lo n x : Nat) (hx : ¬(lo ≤ x ∧ x < lo + n)) :
    ((cutUndef lo n u).find? fun v => decide (v.1 ≤ x) && decide (x < v.1 + v.2.1)).map (·.2.2) =
      if u.1 ≤ x ∧ x < u.1 + u.2.1 then some u.2.2 else none := by
  obtain ⟨a, len, e⟩ := u
  have hx' : x < lo ∨ lo + n ≤ x := by omega
  simp only [cutUndef]
  by_cases ho : lo < a + len ∧ a < lo + n
  · rw [if_pos ho]
    rcases hx' with hx' | hx'
    · have hy : ¬lo + n ≤ x := by omega
      by_cases ha : a ≤ x
      · have h1 : a < lo := by omega
        have hb : x < a + len := by omega
        have hc : x < a + (lo - a) := by omega
        simp [h1, ha, hb, hc]
      · by_cases h1 : a < lo <;> by_cases h2 : lo + n < a + len <;> simp [h1, h2, ha, hy]
    · by_cases hb : x < a + len
      · have h2 : lo + n < a + len := by omega
        have ha : a ≤ x := by omega
        have hc : x < lo + n + (a + len - (lo + n)) := by omega
        by_cases h1 : a < lo
        · have hd : ¬x < a + (lo - a) := by omega
          simp [h1, h2, ha, hb, hc, hd, hx']
        · simp [h1, h2, ha, hb, hc, hx']
      · by_cases h1 : a < lo
        · have hd : ¬x < a + (lo - a) := by omega
          by_cases h2 : lo + n < a + len
          · have hc : ¬x < lo + n + (a + len - (lo + n)) := by omega
            simp [h1, h2, hb, hc, hd]
          · simp [h1, h2, hb, hd]
        · by_cases h2 : lo + n < a + len
          · have hc : ¬x < lo + n + (a + len - (lo + n)) := by omega
            simp [h1, h2, hb, hc]
          · simp [h1, h2, hb]
  · rw [if_neg ho]
    by_cases ha : a ≤ x <;> by_cases hb : x < a + len <;> simp [ha, hb]

theorem undefAt_flatMap_keep (us : List Undef) (lo n x : Nat) (hx : ¬(lo ≤ x ∧ x < lo + n)) :
    undefAt (us.flatMap (cutUndef lo n)) x = undefAt us x := by
  induction us with
  | nil => rfl
  | cons u us ih =>
    unfold undefAt at ih ⊢
    have hc := cutUndef_covers u lo n x hx
    rw [List.flatMap_cons, List.find?_append, List.find?_cons]
    by_cases hu : u.1 ≤ x ∧ x < u.1 + u.2.1
    · rw [if_pos hu] at hc
      have hu' : (decide (u.1 ≤ x) && decide (x < u.1 + u.2.1)) = true := by simp [hu]
      rw [hu']
      obtain ⟨w, hw, hw'⟩ := Option.map_eq_some_iff.mp hc
      rw [hw]; simp [hw']
    · rw [if_neg hu] at hc
      have hu' : (decide (u.1 ≤ x) && decide (x < u.1 + u.2.1)) = false := by
        simp only [Bool.and_eq_false_iff, decide_eq_false_iff_not]; omega
      rw [hu', Option.map_eq_none_iff.mp hc]
      simpa using ih

namespace CStore

theorem read_writeBytes_outside {c : CStore} (h : Memory.wf c.mem = true) {a x : Nat} {bs : List Byte}
    (hx : x < a ∨ a + bs.length ≤ x) : (c.writeBytes a bs).read x = c.read x := by
  unfold read writeBytes
  rw [undefAt_flatMap_keep _ _ _ _ (by omega), Mem.read_writeBytes_outside h hx]

theorem read_writeBytes_inside {c : CStore} (h : Memory.wf c.mem = true) {a i : Nat} {bs : List Byte}
    (hi : i < bs.length) : (c.writeBytes a bs).read (a + i) = bs[i] := by
  unfold read writeBytes
  rw [undefAt_flatMap_cut _ _ _ _ (by omega)]
  exact Mem.read_writeBytes_inside h hi

theorem readBytes_writeBytes {c : CStore} (h : Memory.wf c.mem = true) (a : Nat) (bs : List Byte) :
    (c.writeBytes a bs).readBytes a bs.length = bs := by
  apply List.ext_getElem
  · simp [readBytes]
  · intro i h1 h2
    simp only [readBytes, List.getElem_map, List.getElem_range]
    exact read_writeBytes_inside h h2

/-- Reading part of what was just written. -/
theorem readBytes_writeBytes_part {c : CStore} (h : Memory.wf c.mem = true) (a i n : Nat) (bs : List Byte)
    (hi : i + n ≤ bs.length) : (c.writeBytes a bs).readBytes (a + i) n = (bs.drop i).take n := by
  apply List.ext_getElem
  · simp [readBytes]; omega
  · intro j h1 h2
    have hj : j < n := by simpa [readBytes] using h1
    simp only [readBytes, List.getElem_map, List.getElem_range, List.getElem_take, List.getElem_drop]
    rw [Nat.add_assoc]
    exact read_writeBytes_inside h (by omega)

theorem readLe_writeBytes_part {c : CStore} (h : Memory.wf c.mem = true) (a i n : Nat) (bs : List Byte)
    (hi : i + n ≤ bs.length) : (c.writeBytes a bs).readLe (a + i) n = leNat ((bs.drop i).take n) := by
  rw [readLe, readBytes_writeBytes_part h a i n bs hi]

theorem readLe_writeLe {c : CStore} (h : Memory.wf c.mem = true) (a n v : Nat) :
    (c.writeLe a n v).readLe a n = v % 256 ^ n := by
  have := readBytes_writeBytes h a (leBytes n v)
  rw [length_leBytes] at this
  rw [readLe, writeLe, this, leNat_leBytes]

theorem wf_writeBytes {c : CStore} (h : Memory.wf c.mem = true) (a : Nat) (bs : List Byte) :
    Memory.wf (c.writeBytes a bs).mem = true := Memory.wf_writeBytes h a bs

theorem wf_write {c : CStore} (h : Memory.wf c.mem = true) (a : Nat) (v : Byte) :
    Memory.wf (c.write a v).mem = true := Memory.wf_write h a v

theorem wf_clear {c : CStore} (h : Memory.wf c.mem = true) (lo n : Nat) :
    Memory.wf (c.clear lo n).mem = true := Memory.wf_clear h lo n

theorem wf_forget {c : CStore} (h : Memory.wf c.mem = true) (lo n e : Nat) :
    Memory.wf (c.forget lo n e).mem = true := h

/-- A cleared range reads as 0, every other byte as before. -/
theorem read_clear {c : CStore} (h : Memory.wf c.mem = true) (lo n x : Nat) :
    (c.clear lo n).read x = if lo ≤ x ∧ x < lo + n then Mem.unlisted else c.read x := by
  unfold read clear
  by_cases hx : lo ≤ x ∧ x < lo + n
  · rw [undefAt_flatMap_cut _ _ _ _ hx, if_pos hx, Mem.read_clear h, if_pos hx]
  · rw [undefAt_flatMap_keep _ _ _ _ hx, if_neg hx, Mem.read_clear h, if_neg hx]

end CStore

end Sys2Proof
end

