-- ==== Sys2Proof/Laws/Rings.lean ====
section
/-! SUPPORT. Laws of the rings: what a ring, a completion ring, an operation or a decision reads as after an update. -/

namespace Sys2Proof.Machine

variable (s : State)

theorem find_filter_other {α : Type} (l : List α) (p q : α → Bool) (h : ∀ y, q y = true → p y = false) :
    (l.filter fun y => !p y).find? q = l.find? q := by
  induction l with
  | nil => rfl
  | cons y l ih =>
    rw [List.filter_cons]
    by_cases hq : q y = true
    · simp [h y hq, hq]
    · by_cases hp : p y = true
      · simp only [hp, Bool.not_true, Bool.false_eq_true, if_false]
        rw [ih, List.find?_cons]; simp [hq]
      · simp only [hp, Bool.not_false, if_true, List.find?_cons]
        simp only [hq]; exact ih

theorem State.ring_putRing_same (r : Ring) : (s.putRing r).ring r.page r.n = r := by
  simp [State.ring, State.putRing]

theorem State.ring_putRing_other (r : Ring) (pg n : Nat) (h : ¬ (pg = r.page ∧ n = r.n)) :
    (s.putRing r).ring pg n = s.ring pg n := by
  have e := find_filter_other s.rings.sq (fun x => x.page = r.page && x.n = r.n) (fun x => x.page = pg && x.n = n) (by
    intro y hy
    simp only [Bool.and_eq_true, decide_eq_true_eq] at hy
    simp only [Bool.and_eq_false_iff, decide_eq_false_iff_not]
    by_cases e : y.page = r.page
    · exact .inr fun e2 => h ⟨hy.1 ▸ e, hy.2 ▸ e2⟩
    · exact .inl e)
  have hr : (Decidable.decide (r.page = pg) && Decidable.decide (r.n = n)) = false := by
    simp only [Bool.and_eq_false_iff, decide_eq_false_iff_not]
    by_cases e : r.page = pg
    · exact .inr fun e2 => h ⟨e.symm, e2.symm⟩
    · exact .inl e
  unfold State.ring State.putRing
  simp only [List.find?_cons, hr]
  rw [e]

theorem State.cring_putCring_same (r : CRing) : (s.putCring r).cring r.page r.n = r := by
  simp [State.cring, State.putCring]

theorem State.cring_putCring_other (r : CRing) (pg n : Nat) (h : ¬ (pg = r.page ∧ n = r.n)) :
    (s.putCring r).cring pg n = s.cring pg n := by
  have e := find_filter_other s.rings.cq (fun x => x.page = r.page && x.n = r.n) (fun x => x.page = pg && x.n = n) (by
    intro y hy
    simp only [Bool.and_eq_true, decide_eq_true_eq] at hy
    simp only [Bool.and_eq_false_iff, decide_eq_false_iff_not]
    by_cases e : y.page = r.page
    · exact .inr fun e2 => h ⟨hy.1 ▸ e, hy.2 ▸ e2⟩
    · exact .inl e)
  have hr : (Decidable.decide (r.page = pg) && Decidable.decide (r.n = n)) = false := by
    simp only [Bool.and_eq_false_iff, decide_eq_false_iff_not]
    by_cases e : r.page = pg
    · exact .inr fun e2 => h ⟨e.symm, e2.symm⟩
    · exact .inl e
  unfold State.cring State.putCring
  simp only [List.find?_cons, hr]
  rw [e]

/-- The rings themselves know their place. -/
theorem State.ring_key (pg n : Nat) : (s.ring pg n).page = pg ∧ (s.ring pg n).n = n := by
  unfold State.ring
  cases h : s.rings.sq.find? fun r => r.page = pg && r.n = n with
  | none => exact ⟨rfl, rfl⟩
  | some r => simpa using List.find?_some h

theorem State.cring_key (pg n : Nat) : (s.cring pg n).page = pg ∧ (s.cring pg n).n = n := by
  unfold State.cring
  cases h : s.rings.cq.find? fun r => r.page = pg && r.n = n with
  | none => exact ⟨rfl, rfl⟩
  | some r => simpa using List.find?_some h

@[simp] theorem State.ring_page (pg n : Nat) : (s.ring pg n).page = pg := (s.ring_key pg n).1
@[simp] theorem State.ring_n (pg n : Nat) : (s.ring pg n).n = n := (s.ring_key pg n).2
@[simp] theorem State.cring_page (pg n : Nat) : (s.cring pg n).page = pg := (s.cring_key pg n).1
@[simp] theorem State.cring_n (pg n : Nat) : (s.cring pg n).n = n := (s.cring_key pg n).2

/-- A ring put back under its own place is the one read there. -/
theorem State.ring_put (r : Ring) (pg n : Nat) (h1 : r.page = pg) (h2 : r.n = n) : (s.putRing r).ring pg n = r := by
  subst h1; subst h2; exact s.ring_putRing_same r

theorem State.cring_put (r : CRing) (pg n : Nat) (h1 : r.page = pg) (h2 : r.n = n) : (s.putCring r).cring pg n = r := by
  subst h1; subst h2; exact s.cring_putCring_same r

/-- Rings, completion rings and operations depend on their own lists alone. -/
theorem State.ring_congr {s t : State} (h : t.rings.sq = s.rings.sq) (pg n : Nat) : t.ring pg n = s.ring pg n := by
  unfold State.ring; rw [h]

theorem State.cring_congr {s t : State} (h : t.rings.cq = s.rings.cq) (pg n : Nat) : t.cring pg n = s.cring pg n := by
  unfold State.cring; rw [h]

theorem State.op_congr {s t : State} (h : t.ops = s.ops) (x : Nat) : t.op? x = s.op? x := by unfold State.op?; rw [h]

/-- A changed operation reads back changed where the change keeps its ASN. -/
theorem State.op_onOp_same (asn : Nat) (f : OpRec → OpRec) (hf : ∀ o, (f o).ctx.asn = o.ctx.asn) :
    (s.onOp asn f).op? asn = (s.op? asn).map f := by
  unfold State.op? State.onOp
  dsimp only
  induction s.ops.list with
  | nil => rfl
  | cons o l ih =>
    rw [List.map_cons, List.find?_cons, List.find?_cons]
    by_cases h : o.ctx.asn = asn
    · simp [h, hf]
    · simp only [h, if_false, decide_false]; exact ih

theorem State.op_onOp_other (asn a : Nat) (f : OpRec → OpRec) (hf : ∀ o, (f o).ctx.asn = o.ctx.asn) (h : a ≠ asn) :
    (s.onOp asn f).op? a = s.op? a := by
  unfold State.op? State.onOp
  dsimp only
  induction s.ops.list with
  | nil => rfl
  | cons o l ih =>
    rw [List.map_cons, List.find?_cons, List.find?_cons]
    by_cases e : o.ctx.asn = asn
    · have h1 : Decidable.decide (o.ctx.asn = a) = false := decide_eq_false fun x => h (x.symm.trans e)
      have h2 : Decidable.decide ((f o).ctx.asn = a) = false := by rw [hf]; exact h1
      rw [if_pos e, h1, h2]
      exact ih
    · rw [if_neg e, ih]

end Sys2Proof.Machine
end

