-- ==== Sys2Proof/Laws/Seq.lean ====
section
/-! SUPPORT. The sequencer's shared operations: banks, registers, fetching, taking exceptions. One lemma each says what an
operation does, for later proofs to cite. -/

namespace Sys2Proof.Machine

/-! ### Banks -/

@[simp] theorem Core.bank_setBank (k : Core) (b : SeqBank) : (k.setBank b).bank = b := by
  by_cases h : k.urgent = true <;> simp [Core.setBank, Core.bank, h]

@[simp] theorem Core.bank_store (k : Core) (c : CStore) : ({ k with store := c } : Core).bank = k.bank := rfl
@[simp] theorem Core.bank_ft (k : Core) (f : CoreFt) : ({ k with ft := f } : Core).bank = k.bank := rfl
@[simp] theorem Core.urgent_setBank (k : Core) (b : SeqBank) : (k.setBank b).urgent = k.urgent := rfl
@[simp] theorem Core.store_setBank (k : Core) (b : SeqBank) : (k.setBank b).store = k.store := rfl
@[simp] theorem Core.queue_setBank (k : Core) (b : SeqBank) : (k.setBank b).queue = k.queue := rfl
@[simp] theorem Core.engines_setBank (k : Core) (b : SeqBank) : (k.setBank b).engines = k.engines := rfl
@[simp] theorem Core.endings_setBank (k : Core) (b : SeqBank) : (k.setBank b).endings = k.endings := rfl
@[simp] theorem Core.segs_setBank (k : Core) (b : SeqBank) : (k.setBank b).segs = k.segs := rfl
@[simp] theorem Core.ft_setBank (k : Core) (b : SeqBank) : (k.setBank b).ft = k.ft := rfl
@[simp] theorem Core.notes_setBank (k : Core) (b : SeqBank) : (k.setBank b).notes = k.notes := rfl
@[simp] theorem Core.arrays_setBank (k : Core) (b : SeqBank) : (k.setBank b).arrays = k.arrays := rfl
@[simp] theorem Core.guard_setBank (k : Core) (b : SeqBank) : (k.setBank b).guard = k.guard := rfl

@[simp] theorem Core.setBank_setBank (k : Core) (b c : SeqBank) : (k.setBank b).setBank c = k.setBank c := by
  by_cases h : k.urgent = true <;> simp [Core.setBank, h]

/-! ### Registers -/

theorem SeqBank.reg_zero (b : SeqBank) : b.reg 0 = 0 := rfl
theorem SeqBank.setReg_zero (b : SeqBank) (v : Word) : b.setReg 0 v = b := rfl

theorem SeqBank.reg_setReg (b : SeqBank) (n r : BitVec 5) (v : Word) :
    (b.setReg n v).reg r = if r = n ∧ r ≠ 0 then v else b.reg r := by
  by_cases hr : r = 0
  · subst hr; rw [if_neg (fun h => h.2 rfl)]; rfl
  · by_cases hrn : r = n
    · subst hrn
      rw [if_pos ⟨rfl, hr⟩, SeqBank.setReg, if_neg hr, SeqBank.reg, if_neg hr]
      exact Vector.getElem_set_self _
    · rw [if_neg (fun h => hrn h.1), SeqBank.setReg]
      split
      · rfl
      · rw [SeqBank.reg, if_neg hr, SeqBank.reg, if_neg hr]
        exact Vector.getElem_set_ne n.isLt _ fun e => hrn (BitVec.eq_of_toNat_eq e.symm)

@[simp] theorem SeqBank.setReg_pc (b : SeqBank) (n : BitVec 5) (v : Word) : (b.setReg n v).pc = b.pc := by
  unfold SeqBank.setReg; split <;> rfl
@[simp] theorem SeqBank.setReg_sta (b : SeqBank) (n : BitVec 5) (v : Word) : (b.setReg n v).sta = b.sta := by
  unfold SeqBank.setReg; split <;> rfl
@[simp] theorem SeqBank.setReg_ecause (b : SeqBank) (n : BitVec 5) (v : Word) : (b.setReg n v).ecause = b.ecause := by
  unfold SeqBank.setReg; split <;> rfl
@[simp] theorem SeqBank.setReg_era (b : SeqBank) (n : BitVec 5) (v : Word) : (b.setReg n v).era = b.era := by
  unfold SeqBank.setReg; split <;> rfl
@[simp] theorem SeqBank.setReg_evb (b : SeqBank) (n : BitVec 5) (v : Word) : (b.setReg n v).evb = b.evb := by
  unfold SeqBank.setReg; split <;> rfl
@[simp] theorem SeqBank.setReg_slo (b : SeqBank) (n : BitVec 5) (v : Word) : (b.setReg n v).slo = b.slo := by
  unfold SeqBank.setReg; split <;> rfl
@[simp] theorem SeqBank.setReg_shi (b : SeqBank) (n : BitVec 5) (v : Word) : (b.setReg n v).shi = b.shi := by
  unfold SeqBank.setReg; split <;> rfl
@[simp] theorem SeqBank.setReg_fsb (b : SeqBank) (n : BitVec 5) (v : Word) : (b.setReg n v).fsb = b.fsb := by
  unfold SeqBank.setReg; split <;> rfl
@[simp] theorem SeqBank.setReg_ctx (b : SeqBank) (n : BitVec 5) (v : Word) : (b.setReg n v).ctx = b.ctx := by
  unfold SeqBank.setReg; split <;> rfl
@[simp] theorem SeqBank.setReg_prog (b : SeqBank) (n : BitVec 5) (v : Word) : (b.setReg n v).prog = b.prog := by
  unfold SeqBank.setReg; split <;> rfl
@[simp] theorem SeqBank.setReg_active (b : SeqBank) (n : BitVec 5) (v : Word) : (b.setReg n v).active = b.active := by
  unfold SeqBank.setReg; split <;> rfl

@[simp] theorem SeqBank.jump_pc (b : SeqBank) (t : Word) : (b.jump t).pc = t := rfl
@[simp] theorem SeqBank.jump_sta (b : SeqBank) (t : Word) : (b.jump t).sta = b.sta := rfl
@[simp] theorem SeqBank.jump_ecause (b : SeqBank) (t : Word) : (b.jump t).ecause = b.ecause := rfl
@[simp] theorem SeqBank.jump_era (b : SeqBank) (t : Word) : (b.jump t).era = b.era := rfl
@[simp] theorem SeqBank.jump_evb (b : SeqBank) (t : Word) : (b.jump t).evb = b.evb := rfl
@[simp] theorem SeqBank.jump_slo (b : SeqBank) (t : Word) : (b.jump t).slo = b.slo := rfl
@[simp] theorem SeqBank.jump_shi (b : SeqBank) (t : Word) : (b.jump t).shi = b.shi := rfl
@[simp] theorem SeqBank.jump_fsb (b : SeqBank) (t : Word) : (b.jump t).fsb = b.fsb := rfl
@[simp] theorem SeqBank.jump_reg (b : SeqBank) (t : Word) (r : BitVec 5) : (b.jump t).reg r = b.reg r := rfl
@[simp] theorem SeqBank.next_pc (b : SeqBank) : b.next.pc = b.pc + 4 := rfl
@[simp] theorem SeqBank.next_sta (b : SeqBank) : b.next.sta = b.sta := rfl
@[simp] theorem SeqBank.next_ecause (b : SeqBank) : b.next.ecause = b.ecause := rfl
@[simp] theorem SeqBank.next_era (b : SeqBank) : b.next.era = b.era := rfl
@[simp] theorem SeqBank.next_evb (b : SeqBank) : b.next.evb = b.evb := rfl
@[simp] theorem SeqBank.next_slo (b : SeqBank) : b.next.slo = b.slo := rfl
@[simp] theorem SeqBank.next_shi (b : SeqBank) : b.next.shi = b.shi := rfl
@[simp] theorem SeqBank.next_fsb (b : SeqBank) : b.next.fsb = b.fsb := rfl
@[simp] theorem SeqBank.next_reg (b : SeqBank) (r : BitVec 5) : b.next.reg r = b.reg r := rfl

/-- Everything putReg does to the registers: g[rd] receives the value unless it is g0, pc moves to the next word. -/
theorem Core.reg_putReg (k : Core) (rd r : BitVec 5) (v : Word) :
    (k.putReg rd v).bank.reg r = if r = rd ∧ r ≠ 0 then v else k.bank.reg r := by
  simp [Core.putReg, SeqBank.reg_setReg]

/-! ### Fetching -/

theorem Core.seq_runs {k : Core} (h1 : k.bank.active = true) (h2 : k.guard = false)
    (h3 : k.bank.inImage k.bank.pc.toNat 4 = true) (f : Core → Core) : k.seq f = f k := by
  simp [Core.seq, h1, h2, h3]

/-- A sequencer instruction that fetches applies its meaning to its core, and to nothing else. -/
theorem State.seqOn_fetches {s : State} {c : Nat} (h : Fetches s c) (f : Core → Core) :
    s.seqOn c f = s.onCore c fun _ => f (s.core c) :=
  s.onCore_congr (Core.seq_runs h.2.1 h.2.2.1 h.2.2.2 f)

/-! ### Exceptions (R389) -/

theorem Core.raise_none {k : Core} {x : Exc} (h : x.cause = 9 ∨ bit k.bank.evb.toNat 0 = false) :
    k.raise x = k.endProgram 0x20 (seqInfo x.cause (if x.cause = 9 then 0 else x.addr) 0) := by
  unfold Core.raise; rw [if_pos]; simpa using h

theorem Core.raise_double {k : Core} {x : Exc} (h9 : x.cause ≠ 9) (hv : bit k.bank.evb.toNat 0 = true)
    (h : k.bank.hlv = 2) : k.raise x = k.doubleFault x 2 := by
  simp [Core.raise, h9, hv, h]

theorem Core.raise_nested {k : Core} {x : Exc} (h9 : x.cause ≠ 9) (hv : bit k.bank.evb.toNat 0 = true)
    (h : k.bank.hlv = 1) : k.raise x = k.enterSecond x 2 := by
  simp [Core.raise, h9, hv, h]

theorem Core.raise_stack {k : Core} {x : Exc} (h9 : x.cause ≠ 9) (hv : bit k.bank.evb.toNat 0 = true)
    (h1 : k.bank.hlv ≠ 1) (h2 : k.bank.hlv ≠ 2) (hs : k.bank.stackFits = false) :
    k.raise x = k.enterSecond x 1 := by
  simp [Core.raise, h9, hv, h1, h2, hs]

theorem Core.raise_first {k : Core} {x : Exc} (h9 : x.cause ≠ 9) (hv : bit k.bank.evb.toNat 0 = true)
    (h1 : k.bank.hlv ≠ 1) (h2 : k.bank.hlv ≠ 2) (hs : k.bank.stackFits = true) :
    k.raise x = k.enterFirst x := by
  simp [Core.raise, h9, hv, h1, h2, hs]

theorem Core.bank_withStore (k : Core) (st : CStore) : ({ k with store := st } : Core).bank = k.bank := rfl

/-- The bank of a first-level entry. -/
theorem Core.enterFirst_bank (k : Core) (x : Exc) : (k.enterFirst x).bank =
    { k.bank.setReg 31 (k.bank.reg 31 - 16) with
      era := x.ret &&& 0x7FFFFC#32, ecause := BitVec.ofNat 32 x.cause, sta := (k.bank.sta &&& 0xC#32) ||| 0x1#32,
      pc := firstVector k.bank.evb x.cause, tags := k.bank.touched } := by
  unfold Core.enterFirst
  exact (Core.bank_withStore _ _).trans (Core.bank_setBank k _)

theorem Core.enterFirst_store (k : Core) (x : Exc) :
    (k.enterFirst x).store = k.store.writeBytes (k.bank.reg 31 - 16).toNat (excFrame k.bank x) := rfl

/-- The bank of a second-level entry with a valid FSB_BASE. -/
theorem Core.enterSecond_bank {k : Core} (h : k.bank.fsbValid = true) (x : Exc) (reason : Nat) :
    (k.enterSecond x reason).bank =
    { k.bank with
      era := x.ret &&& 0x7FFFFC#32, ecause := BitVec.ofNat 32 x.cause, sta := (k.bank.sta &&& 0xC#32) ||| 0x2#32,
      pc := (k.bank.evb &&& 0x7FFF00#32) + 0x100, tags := k.bank.touched } := by
  rw [Core.enterSecond, if_neg (by simp [h]), Core.bank_store, Core.bank_setBank]

theorem Core.enterSecond_store {k : Core} (h : k.bank.fsbValid = true) (x : Exc) (reason : Nat) :
    (k.enterSecond x reason).store = k.store.writeBytes k.bank.fsb.toNat (fsbBlock k.bank x reason) := by
  rw [Core.enterSecond, if_neg (by simp [h])]

theorem Core.hret_first {k : Core} (h : k.bank.hlv = 1) : k.hret =
    k.setBank { k.bank.setReg 31 (k.bank.reg 31 + 16) with
      sta := (BitVec.ofNat 32 (k.store.readLe ((k.bank.reg 31).toNat + 4) 4) &&& 0xB#32) ||| (k.bank.sta &&& 0x4#32),
      pc := k.bank.era, tags := k.bank.touched } := by
  rw [Core.hret, if_neg (by omega), Core.handlerReturn]
  exact if_pos h

theorem Core.hret_second {k : Core} (h : k.bank.hlv = 2) : k.hret =
    k.setBank { k.bank.setReg 31 (BitVec.ofNat 32 (k.store.readLe (k.bank.fsb.toNat + 0x10) 4)) with
      sta := (BitVec.ofNat 32 (k.store.readLe (k.bank.fsb.toNat + 4) 4) &&& 0xB#32) ||| (k.bank.sta &&& 0x4#32),
      pc := k.bank.era, tags := k.bank.touched } := by
  rw [Core.hret, if_neg (by omega), Core.handlerReturn]
  exact if_neg (by omega)

theorem length_excFrame (b : SeqBank) (x : Exc) : (excFrame b x).length = 16 := by simp [excFrame]

theorem length_fsbBlock (b : SeqBank) (x : Exc) (r : Nat) : (fsbBlock b x r).length = 64 := by simp [fsbBlock]

/-- A sequencer instruction that fetches completes with what its meaning does to its core. -/
theorem Does.of_fetches {i : Instr} {s : State} {c : Nat} {f : Core → Core} {p : State → Prop} (h : Fetches s c)
    (he : exec i s = .next (s.seqOn c f))
    (hp : ∀ t, t.core c = f (s.core c) → t = s.onCore c (fun _ => t.core c) → p t) : Does i s p := by
  refine ⟨_, he, hp _ ?_ ?_⟩
  · rw [State.seqOn_fetches h, State.core_onCore_same _ _ h.1]
  · rw [State.seqOn_fetches h, State.core_onCore_same _ _ h.1]

end Sys2Proof.Machine
end

