-- ==== Sys2Proof/Laws/Stream.lean ====
section
/-! SUPPORT. The stream engines' shared operations: reading an engine back after it was replaced, address registers, and
the step of a running program. -/

namespace Sys2Proof.Machine

theorem Core.engine_putEngine_same {k : Core} {e : Nat} (x : StreamEng) (h : e < k.engines.length) :
    (k.putEngine e x).engine e = x := by
  simp [Core.engine, Core.putEngine, List.getD, h]

theorem Core.engine_putEngine_other (k : Core) {e j : Nat} (x : StreamEng) (h : j ≠ e) :
    (k.putEngine e x).engine j = k.engine j := by
  simp [Core.engine, Core.putEngine, List.getD, Ne.symm h]

@[simp] theorem Core.putEngine_store (k : Core) (e : Nat) (x : StreamEng) : (k.putEngine e x).store = k.store := rfl
@[simp] theorem Core.putEngine_queue (k : Core) (e : Nat) (x : StreamEng) : (k.putEngine e x).queue = k.queue := rfl
@[simp] theorem Core.putEngine_bank (k : Core) (e : Nat) (x : StreamEng) : (k.putEngine e x).bank = k.bank := rfl
@[simp] theorem Core.putEngine_guard (k : Core) (e : Nat) (x : StreamEng) : (k.putEngine e x).guard = k.guard := rfl
@[simp] theorem Core.putEngine_segs (k : Core) (e : Nat) (x : StreamEng) : (k.putEngine e x).segs = k.segs := rfl
@[simp] theorem Core.putEngine_endings (k : Core) (e : Nat) (x : StreamEng) : (k.putEngine e x).endings = k.endings := rfl
@[simp] theorem Core.putEngine_length (k : Core) (e : Nat) (x : StreamEng) :
    (k.putEngine e x).engines.length = k.engines.length := by simp [Core.putEngine]
@[simp] theorem Core.putEngine_putEngine (k : Core) (e : Nat) (x y : StreamEng) :
    (k.putEngine e x).putEngine e y = k.putEngine e y := by simp [Core.putEngine]

theorem StreamEng.sreg_setS (e : StreamEng) (d r : BitVec 4) (v : DWord) :
    (e.setS d v).sreg r = if r = d then v else e.sreg r := by
  unfold StreamEng.setS StreamEng.sreg
  split
  · rename_i h; subst h; exact Vector.getElem_set_self _
  · rename_i h; exact Vector.getElem_set_ne d.isLt _ fun x => h (BitVec.eq_of_toNat_eq x.symm)

/-- A program that runs executes its instruction. -/
theorem Core.seStep_runs {k : Core} {eng : Nat} (h : Streaming k eng) (f : StreamEng → Core) :
    k.seStep eng f = f (k.engine eng) := by
  obtain ⟨-, h1, h2, h3, h4⟩ := h
  simp [Core.seStep, h1, h2, h3, h4]

/-- A stream instruction that stays on its core completes with what it does to the core. -/
theorem Does.of_onCore {i : Instr} {s : State} {c : Nat} {f : Core → Core} {p : State → Prop} (h : c < s.cores.length)
    (he : exec i s = .next (s.onCore c f))
    (hp : ∀ t, t.core c = f (s.core c) → t = s.onCore c (fun _ => t.core c) → p t) : Does i s p := by
  refine ⟨_, he, hp _ ?_ ?_⟩
  · rw [State.core_onCore_same _ _ h]
  · rw [State.core_onCore_same _ _ h]; exact State.onCore_congr _ rfl

theorem State.onCore_const (s : State) (c : Nat) (f : Core → Core) :
    s.onCore c f = s.onCore c fun _ => f (s.core c) := State.onCore_congr _ rfl

theorem State.onCore_same {s : State} {c : Nat} (h : c < s.cores.length) : s.onCore c (fun _ => s.core c) = s := by
  have hm : s.cores.modify c (fun _ => s.core c) = s.cores := by
    apply List.ext_getElem?
    intro i
    rw [List.getElem?_modify]
    split
    · rename_i hi; subst hi; simp [State.core, List.getD, h]
    · simp
  rw [State.onCore, hm]

end Sys2Proof.Machine
end

