-- ==== Sys2Proof/Tests/Slice0.lean ====
section
/-! SUPPORT. Tests: ill-formed commands that WellFormed refuses, worked examples of the manual, single steps, and a
witness of the hypotheses of every statement of Certificates/Slice0 that has hypotheses (witness_<statement>). -/
namespace Sys2Proof

theorem test_wellFormed_accepts_a : ([
    .registerWrite 0 0 none 0 0 0, .wsFieldWrite 0 0 0 0 0, .commitArm 0 0 0 0 0, .loReadLatch 0 0 none 0,
    .rcRead 0 0 none 0, .run 0 0 0 0, .frameTick 0 0 0 [] [], .tickMessage 0 0 0 0, .tickWatchdog 0 0,
    .subTick 0 1, .guardOpen 0, .waitWindowExpired 0 0, .prepareVote 0 0 0, .voteEvaluate 0, .lease 0 0 0,
    .decisionDurable 0 0 0, .dieCommitApply 0 0 0 0, .completionRecordPosted 0 0 0, .moderationTimer 0 0 0,
    .cqHeadRead 0 0 0 0, .leaseRenewalMissed 0, .takeover 0 [], .fenceTokenMessage 0 0 0, .fenceAckTimeout 0 0,
    .perstN 0 0, .hotReset 0 0, .fullReset 0 0 0 0, .resetRebootReady 0, .recoverGoFresh 0 0 0 0,
    .recoverGoRecover 0 0 0 0 [] [] [] [], .journalPassDone 0, .ppsEdge 0, .ppsTimeout 0, .ptpMessage 0 0 0 0,
    .timeHoldover 0, .timeLocked 0, .snpinv 0 0 0, .snpdata 0 0 0, .snpcur 0 0 0, .pollInterval 0 0 0,
    .doorbellLineReturn 0 0 0 none, .descriptorFetched 0 0 0 [] [] [], .journalEntryConfirmed 0 0,
    .journalDeadlineMissed 0 0, .rejectionConfirmed 0 0 0, .urgentDispatch 0 0 0, .urgentEndResume 0 0,
    .itemStart 0 0, .steal 0 0, .ringEnable 0 0 none 0 0 0, .ringDisable 0 0 none 0 0 0, .cqEnable 0 0 none 0 0 0,
    .cqDisable 0 0 none 0 0 0, .flagCfgWrite 0 0 none 0 0 0, .flagValWrite 0 0 none 0 0 0, .mark 0 0,
    .program 0 0 0, .spmm 0 0 0 [], .spgemm 0 0 0 [], .sddmm 0 0 0 []] : List Instr).all (fun c => c.wellFormed) = true := by decide

theorem test_wellFormed_accepts_b : ([
    .gemm 0 0 0 [], .spattn 0 0 0 [], .aggr 0 0 0 [], .moeRoute 0 0 0 [], .embReduce 0 0 0 [], .copy 0 0 0 [],
    .convert 0 0 0 [], .streamProgramStart 0 0, .seEnd 0 0, .seSetw 0 0 0 0 0, .seAddi 0 0 0 0 0, .seAdd 0 0 0 0 0,
    .seSub 0 0 0 0 0, .seMuli 0 0 0 0 0, .seShli 0 0 0 0 0, .seLdw 0 0 0 0 0, .seLdh 0 0 0 0 0,
    .seLoop 0 0 0 false 0 0, .seNext 0 0 0, .seRdl 0 0 0 0 0 0 0 0, .seWrl 0 0 0 0 0 0 0 0, .seRda 0 0 0 0 0 0 0 0,
    .seRdw 0 0 0 0 0 0 0 0, .seRdb 0 0 0 0 0 0 0 0, .seGet 0 0 0, .sePut 0 0 0, .seFence 0 0, .seRstep 0 0 0 0 0 0,
    .transferRetire 0 0 0, .residentShardFilled 0 0, .add 0 0 0 0, .sub 0 0 0 0, .and 0 0 0 0, .or 0 0 0 0,
    .xor 0 0 0 0, .shl 0 0 0 0, .shr 0 0 0 0, .sar 0 0 0 0, .clt 0 0 0 0, .cltu 0 0 0 0, .mul 0 0 0 0,
    .mulHi 0 0 0 0, .mulHiu 0 0 0 0, .quo 0 0 0 0, .quou 0 0 0 0, .mod 0 0 0 0, .modu 0 0 0 0, .min 0 0 0 0,
    .max 0 0 0 0, .minu 0 0 0 0, .maxu 0 0 0 0, .fadd 0 0 0 0, .fsub 0 0 0 0, .fmul 0 0 0 0, .fmin 0 0 0 0,
    .fmax 0 0 0 0, .fclt 0 0 0 0, .fceq 0 0 0 0, .addK 0 0 0 0, .andK 0 0 0 0] : List Instr).all (fun c => c.wellFormed) = true := by decide

theorem test_wellFormed_accepts_c : ([
    .orK 0 0 0 0, .xorK 0 0 0 0, .cltK 0 0 0 0, .cltuK 0 0 0 0, .hiK 0 0 0 0, .shlK 0 0 0 0, .shrK 0 0 0 0,
    .sarK 0 0 0 0, .pcrel 0 0 0, .ldW 0 0 0 0, .ldHs 0 0 0 0, .ldHu 0 0 0 0, .ldBs 0 0 0 0, .ldBu 0 0 0 0,
    .stW 0 0 0 0, .stH 0 0 0 0, .stB 0 0 0 0, .brEq 0 0 0 0, .brNe 0 0 0 0, .brLt 0 0 0 0, .brGe 0 0 0 0,
    .brLtu 0 0 0 0, .brGeu 0 0 0 0, .bra 0 0, .call 0 0, .callr 0 0 0 0, .sget 0 0 0, .sput 0 0 0, .hret 0,
    .trap 0 0, .done 0 0, .fence 0, .qt 0 0 0 0, .sest 0 0 0, .tget 0 0 0, .tput 0 0 0, .cvt 0 0 0 0 0 0 false,
    .dec 0 0 0 0, .illegalInstruction 0 0, .ldw 0 0, .str 0 0 0 0 0, .acc 0 0 0, .mv 0 0 0, .ew 0 0, .close 0 0,
    .drain 0 0, .merge 0 0, .gather 0 0, .tileEntryRetire 0 0, .closeDrainEnd 0 0 0, .itemEnd 0 0 0,
    .chainPartialReceived 0 0 0 0 0 0 0 [], .l2Read 0 0 0 0 0 0 0 none false, .l2Write 0 0 0 0 0 [] none false,
    .l2FillReturn 0 0 0 0 0, .patrolScrub 0 0 0 0, .refresh 0 0 0 0, .maintClean 0 0 0 0, .maintInv 0 0 0 0,
    .maintDone 0 0] : List Instr).all (fun c => c.wellFormed) = true := by decide

theorem test_wellFormed_accepts_d : ([
    .ucieLinkDown 0 [], .linkWatchdog 0 [], .ucieModuleLost 0 0 0, .routeChange 0 [] [], .isolation 0 0 0,
    .ageLimit 0 0 0, .qlPortTrained 0 0 false false, .qlPortDegraded 0 0, .qlPortLost 0 0, .rd 0 0 0 0 0 0,
    .rdr 0 0 0 0 0 [], .wr 0 0 0 0 0 0 [], .swr 0 0 0 0 0 0 0 0 0 0 [], .sacc 0 0 0 0 0 0 0 0 [], .ack 0 0 0 0 0 0,
    .ackDeadline 0 0 0 0 0, .prepSend 0 0, .prep 0 0 0 0 0 0 0 [], .vote 0 0 0 0 0 false, .commit 0 0 0 0 0 0 0 [],
    .abort 0 0 0 0 0 0 0 [], .cack 0 0 0 0 0 false, .qlFence 0 0 0 0, .late 0 0 0 0, .poolHoldExpired 0 0 0 0,
    .cas64 0 none 0 0 0 0 0 0 0, .swap64 0 none 0 0 0 0 0 0, .add64 0 none 0 0 0 0 0 0, .add32 0 none 0 0 0 0 0 0,
    .lacq 0 none 0 0 0 0, .lren 0 none 0 0 0 0 0, .lrel 0 none 0 0 0 0, .lockLeaseExpiry 0 0, .linkDown 0 0,
    .hostPortLost 0 0, .portReturned 0 0, .linkUp 0 0 0 0 0 false, .dlDown 0 0, .cxlCacheToggle 0 0 false,
    .busMasterEnable 0 0 0 false false, .vfEnable 0 0 0 false, .initiateFlr 0 0 0, .msixUnmask 0 0 0 0,
    .hostHbmRead 0 0 false 0 0 0 [], .hostHbmWrite 0 0 false 0 [] [], .heldReadAnswer 0 0 0 [],
    .atsInvalidation 0 0 0 false, .atsInvalidationTimeout 0 0 0, .requestError 0 0 0 0, .ideIntegrityFailure 0 0 0,
    .ideKm 0 0 0 0, .getVersion 0 0, .getCapabilities 0 0, .negotiateAlgorithms 0 0 0, .getDigests 0 0,
    .getCertificate 0 0 0 0 0, .challenge 0 0 0 (List.replicate 32 0),
    .getMeasurements 0 0 0 (List.replicate 32 0), .keyExchange 0 0 0 [], .finish 0 0 0] : List Instr).all (fun c => c.wellFormed) = true := by decide

theorem test_wellFormed_accepts_e : ([
    .heartbeat 0 0 0, .keyUpdate 0 0 0, .endSession 0 0 0, .fatalErrorReport 0 0, .standbyLeaseAckMissed 0,
    .checksumReport 0 0, .coreStoreUe 0 0 0, .summary 0 0 [], .summaryApply 0, .mdFence 0 0 0,
    .read 0 0 0 0 (List.replicate 32 0), .param 0 0 0, .clear 0 0, .fwBegin 0 0 0, .fwData 0 0 [],
    .fwEnd 0 0 [] [], .i3cPrivateRead 0, .entdaa 0 0, .setdasa 0 0 0, .rstdaa 0, .enec 0, .disec 0, .getpid 0,
    .getbcr 0, .getdcr 0, .getstatus 0, .getmwl 0, .getmrl 0, .rstact 0 0, .sealChange 0 false, .clockCheck 0 0,
    .fwHashCheck 0 false, .nvSnapshot 0 false, .mdBranchFall 0 false, .mdPowerOn 0 0, .statusWord 0 0,
    .statusWordTimeout 0 0, .mbxGo 0 0 0 0, .mbxTimeout 0 0, .vinLoss 0 0, .vinReconnect 0 0, .vinOvervoltage 0 0,
    .modfail 0, .supplyTrip 0 0 0, .thermalTrip 0 0 0, .pwrOk 0 false false false false, .perstRelease 0 0,
    .pwrDnN 0, .pwrDnRelease 0, .coldRstN 0, .coldResetRelease 0 false false false, .refclkLoss 0, .refclkReturn 0,
    .qlRefclkLoss 0 0, .testPortAccess 0, .slotVerified 0 0 0 [], .imageCompare 0, .recoveryGo 0 0 0,
    .svnCommit 0 0 0 0, .flashErase 0 0 0 0] : List Instr).all (fun c => c.wellFormed) = true := by decide

theorem test_wellFormed_accepts_f : ([
    .flashProgram 0 0 0 0, .flashCheck 0 0 0 0, .flashDone 0 0, .energySample 0 0 0 0 0, .lidLoopOpen 0 false,
    .completionTimeout 0 0 0, .throttleThreshold 0 0 false, .fenceAcknowledgement 0 0, .doeDiscovery 0 0 0,
    .cdatTableAccess 0 0 0, .configurationRequest 0 0 0 .other] : List Instr).all (fun c => c.wellFormed) = true := by decide

theorem test_wellFormed_refuses_a : ([
    .registerWrite 0 2 none 0 0 0, .registerWrite 0 0 (some 64) 0 0 0, .registerWrite 0 0 none 2 0 0,
    .wsFieldWrite 0 2 0 0 0, .wsFieldWrite 0 0 2 0 0, .commitArm 0 2 0 0 0, .commitArm 0 0 2 0 0,
    .loReadLatch 0 2 none 0, .loReadLatch 0 0 (some 64) 0, .loReadLatch 0 0 none 2, .rcRead 0 2 none 0,
    .rcRead 0 0 (some 64) 0, .rcRead 0 0 none 2, .run 0 2 0 0, .tickMessage 0 11 0 0, .tickWatchdog 0 11,
    .subTick 0 0, .prepareVote 0 9 0, .prepareVote 0 0 8, .decisionDurable 0 0 8, .dieCommitApply 0 9 0 0,
    .dieCommitApply 0 0 0 8, .completionRecordPosted 0 128 0, .completionRecordPosted 0 0 64,
    .moderationTimer 0 128 0, .moderationTimer 0 0 64, .cqHeadRead 0 128 0 0, .cqHeadRead 0 0 64 0,
    .fenceTokenMessage 0 11 0, .perstN 0 2, .hotReset 0 2, .fullReset 0 2 0 0, .recoverGoFresh 0 2 0 0,
    .recoverGoRecover 0 2 0 0 [] [] [] [], .ptpMessage 0 16 0 0, .snpinv 0 2 0, .snpdata 0 2 0, .snpcur 0 2 0,
    .pollInterval 0 2 0, .doorbellLineReturn 0 2 0 none, .descriptorFetched 0 128 0 [] [] [],
    .descriptorFetched 0 0 64 [] [] [], .rejectionConfirmed 0 128 0, .rejectionConfirmed 0 0 64,
    .urgentEndResume 0 36, .itemStart 0 36, .steal 0 36, .ringEnable 0 2 none 0 0 0,
    .ringEnable 0 0 (some 64) 0 0 0, .ringEnable 0 0 none 2 0 0, .ringDisable 0 2 none 0 0 0,
    .ringDisable 0 0 (some 64) 0 0 0, .ringDisable 0 0 none 2 0 0, .cqEnable 0 2 none 0 0 0,
    .cqEnable 0 0 (some 64) 0 0 0, .cqEnable 0 0 none 2 0 0, .cqDisable 0 2 none 0 0 0,
    .cqDisable 0 0 (some 64) 0 0 0, .cqDisable 0 0 none 2 0 0, .flagCfgWrite 0 2 none 0 0 0] : List Instr).all (fun c => !c.wellFormed) = true := by decide

theorem test_wellFormed_refuses_b : ([
    .flagCfgWrite 0 0 (some 64) 0 0 0, .flagCfgWrite 0 0 none 2 0 0, .flagValWrite 0 2 none 0 0 0,
    .flagValWrite 0 0 (some 64) 0 0 0, .flagValWrite 0 0 none 2 0 0, .program 0 0 36, .spmm 0 0 36 [],
    .spgemm 0 0 36 [], .sddmm 0 0 36 [], .gemm 0 0 36 [], .spattn 0 0 36 [], .aggr 0 0 36 [], .moeRoute 0 0 36 [],
    .embReduce 0 0 36 [], .copy 0 0 36 [], .convert 0 0 36 [], .streamProgramStart 36 0, .streamProgramStart 0 6,
    .seEnd 36 0, .seEnd 0 6, .seSetw 36 0 0 0 0, .seSetw 0 6 0 0 0, .seAddi 36 0 0 0 0, .seAddi 0 6 0 0 0,
    .seAdd 36 0 0 0 0, .seAdd 0 6 0 0 0, .seSub 36 0 0 0 0, .seSub 0 6 0 0 0, .seMuli 36 0 0 0 0,
    .seMuli 0 6 0 0 0, .seShli 36 0 0 0 0, .seShli 0 6 0 0 0, .seLdw 36 0 0 0 0, .seLdw 0 6 0 0 0,
    .seLdh 36 0 0 0 0, .seLdh 0 6 0 0 0, .seLoop 36 0 0 false 0 0, .seLoop 0 6 0 false 0 0, .seNext 36 0 0,
    .seNext 0 6 0, .seRdl 36 0 0 0 0 0 0 0, .seRdl 0 6 0 0 0 0 0 0, .seWrl 36 0 0 0 0 0 0 0,
    .seWrl 0 6 0 0 0 0 0 0, .seRda 36 0 0 0 0 0 0 0, .seRda 0 6 0 0 0 0 0 0, .seRdw 36 0 0 0 0 0 0 0,
    .seRdw 0 6 0 0 0 0 0 0, .seRdb 36 0 0 0 0 0 0 0, .seRdb 0 6 0 0 0 0 0 0, .seGet 36 0 0, .seGet 0 6 0,
    .sePut 36 0 0, .sePut 0 6 0, .seFence 36 0, .seFence 0 6, .seRstep 36 0 0 0 0 0, .seRstep 0 6 0 0 0 0,
    .transferRetire 36 0 0, .transferRetire 0 6 0] : List Instr).all (fun c => !c.wellFormed) = true := by decide

theorem test_wellFormed_refuses_c : ([
    .residentShardFilled 36 0, .residentShardFilled 0 4, .add 36 0 0 0, .sub 36 0 0 0, .and 36 0 0 0, .or 36 0 0 0,
    .xor 36 0 0 0, .shl 36 0 0 0, .shr 36 0 0 0, .sar 36 0 0 0, .clt 36 0 0 0, .cltu 36 0 0 0, .mul 36 0 0 0,
    .mulHi 36 0 0 0, .mulHiu 36 0 0 0, .quo 36 0 0 0, .quou 36 0 0 0, .mod 36 0 0 0, .modu 36 0 0 0, .min 36 0 0 0,
    .max 36 0 0 0, .minu 36 0 0 0, .maxu 36 0 0 0, .fadd 36 0 0 0, .fsub 36 0 0 0, .fmul 36 0 0 0, .fmin 36 0 0 0,
    .fmax 36 0 0 0, .fclt 36 0 0 0, .fceq 36 0 0 0, .addK 36 0 0 0, .andK 36 0 0 0, .orK 36 0 0 0, .xorK 36 0 0 0,
    .cltK 36 0 0 0, .cltuK 36 0 0 0, .hiK 36 0 0 0, .shlK 36 0 0 0, .shrK 36 0 0 0, .sarK 36 0 0 0, .pcrel 36 0 0,
    .ldW 36 0 0 0, .ldHs 36 0 0 0, .ldHu 36 0 0 0, .ldBs 36 0 0 0, .ldBu 36 0 0 0, .stW 36 0 0 0, .stH 36 0 0 0,
    .stB 36 0 0 0, .brEq 36 0 0 0, .brNe 36 0 0 0, .brLt 36 0 0 0, .brGe 36 0 0 0, .brLtu 36 0 0 0,
    .brGeu 36 0 0 0, .bra 36 0, .call 36 0, .callr 36 0 0 0, .sget 36 0 0, .sput 36 0 0] : List Instr).all (fun c => !c.wellFormed) = true := by decide

theorem test_wellFormed_refuses_d : ([
    .hret 36, .trap 36 0, .done 36 0, .fence 36, .qt 36 0 0 0, .sest 36 0 0, .tget 36 0 0, .tput 36 0 0,
    .cvt 36 0 0 0 0 0 false, .dec 36 0 0 0, .illegalInstruction 36 0, .ldw 36 0, .str 36 0 0 0 0, .acc 36 0 0,
    .mv 36 0 0, .ew 36 0, .close 36 0, .drain 36 0, .merge 36 0, .gather 36 0, .tileEntryRetire 36 0,
    .closeDrainEnd 36 0 0, .closeDrainEnd 0 4 0, .closeDrainEnd 0 0 8, .itemEnd 36 0 0,
    .chainPartialReceived 36 0 0 0 0 0 0 [], .chainPartialReceived 0 0 0 4 0 0 0 [],
    .l2Read 0 64 0 0 0 0 0 none false, .l2Read 0 0 0 0 4 0 0 none false, .l2Write 0 64 0 0 0 [] none false,
    .l2Write 0 0 0 4 0 [] none false, .l2FillReturn 0 9 0 0 0, .patrolScrub 0 9 0 0, .refresh 0 9 0 0,
    .maintClean 0 2 0 0, .maintInv 0 2 0 0, .maintDone 0 2, .ucieModuleLost 0 11 0, .ucieModuleLost 0 0 11,
    .ageLimit 0 9 0, .qlPortTrained 0 16 false false, .qlPortDegraded 0 16, .qlPortLost 0 16, .rd 0 16 0 0 0 0,
    .rd 0 0 0 256 0 0, .rdr 0 36 0 0 0 [], .rdr 0 0 6 0 0 [], .wr 0 16 0 0 0 0 [], .wr 0 0 0 256 0 0 [],
    .swr 0 16 0 0 0 0 0 0 0 0 [], .swr 0 0 0 256 0 0 0 0 0 0 [], .sacc 0 16 0 0 0 0 0 0 [],
    .sacc 0 0 0 256 0 0 0 0 [], .ack 0 36 0 0 0 0, .ack 0 0 6 0 0 0, .ackDeadline 0 36 0 0 0,
    .ackDeadline 0 0 6 0 0, .prepSend 0 8, .prep 0 16 0 0 0 0 0 [], .prep 0 0 0 256 0 0 0 []] : List Instr).all (fun c => !c.wellFormed) = true := by decide

theorem test_wellFormed_refuses_e : ([
    .prep 0 0 0 0 0 8 0 [], .vote 0 65536 0 0 0 false, .vote 0 0 256 0 0 false, .vote 0 0 0 0 8 false,
    .commit 0 16 0 0 0 0 0 [], .commit 0 0 0 256 0 0 0 [], .commit 0 0 0 0 0 8 0 [], .abort 0 16 0 0 0 0 0 [],
    .abort 0 0 0 256 0 0 0 [], .abort 0 0 0 0 0 8 0 [], .cack 0 65536 0 0 0 false, .cack 0 0 256 0 0 false,
    .cack 0 0 0 0 8 false, .qlFence 0 16 0 0, .late 0 65536 0 0, .late 0 0 256 0, .poolHoldExpired 0 256 0 0,
    .cas64 0 (some (2, none, 0, 0, 0)) 0 0 0 0 0 0 0, .cas64 0 none 16 0 0 0 0 0 0, .cas64 0 none 0 0 256 0 0 0 0,
    .swap64 0 (some (2, none, 0, 0, 0)) 0 0 0 0 0 0, .swap64 0 none 16 0 0 0 0 0, .swap64 0 none 0 0 256 0 0 0,
    .add64 0 (some (2, none, 0, 0, 0)) 0 0 0 0 0 0, .add64 0 none 16 0 0 0 0 0, .add64 0 none 0 0 256 0 0 0,
    .add32 0 (some (2, none, 0, 0, 0)) 0 0 0 0 0 0, .add32 0 none 16 0 0 0 0 0, .add32 0 none 0 0 256 0 0 0,
    .lacq 0 (some (2, none, 0, 0, 0)) 0 0 0 0, .lacq 0 none 16 0 0 0, .lacq 0 none 0 0 256 0,
    .lren 0 (some (2, none, 0, 0, 0)) 0 0 0 0 0, .lren 0 none 16 0 0 0 0, .lren 0 none 0 0 256 0 0,
    .lrel 0 (some (2, none, 0, 0, 0)) 0 0 0 0, .lrel 0 none 16 0 0 0, .lrel 0 none 0 0 256 0,
    .lockLeaseExpiry 0 256, .linkDown 0 2, .hostPortLost 0 2, .portReturned 0 2, .linkUp 0 2 0 0 0 false,
    .dlDown 0 2, .cxlCacheToggle 0 2 false, .busMasterEnable 0 2 0 false false,
    .busMasterEnable 0 0 64 false false, .vfEnable 0 2 0 false, .initiateFlr 0 2 0, .initiateFlr 0 0 64,
    .msixUnmask 0 2 0 0, .msixUnmask 0 0 64 0, .msixUnmask 0 0 0 32, .hostHbmRead 0 2 false 0 0 0 [],
    .hostHbmRead 0 0 false 0 0 64 [], .hostHbmWrite 0 2 false 0 [] [], .heldReadAnswer 0 2 0 [],
    .atsInvalidation 0 2 0 false, .atsInvalidation 0 0 64 false, .atsInvalidationTimeout 0 2 0] : List Instr).all (fun c => !c.wellFormed) = true := by decide

theorem test_wellFormed_refuses_f : ([
    .atsInvalidationTimeout 0 0 64, .requestError 0 2 0 0, .requestError 0 0 64 0, .ideIntegrityFailure 0 2 0,
    .ideIntegrityFailure 0 0 3, .ideKm 0 2 0 0, .ideKm 0 0 3 0, .getVersion 0 2, .getCapabilities 0 2,
    .negotiateAlgorithms 0 2 0, .getDigests 0 2, .getCertificate 0 2 0 0 0, .challenge 0 2 0 (List.replicate 32 0),
    .challenge 0 0 0 [], .getMeasurements 0 2 0 (List.replicate 32 0), .getMeasurements 0 0 0 [],
    .keyExchange 0 2 0 [], .finish 0 2 0, .heartbeat 0 2 0, .keyUpdate 0 2 0, .endSession 0 2 0,
    .fatalErrorReport 0 9, .checksumReport 0 36, .coreStoreUe 0 36 0, .summary 0 2 [],
    .read 0 3 0 0 (List.replicate 32 0), .read 0 0 0 0 [], .entdaa 0 128, .setdasa 0 128 0, .setdasa 0 0 128,
    .statusWord 0 2, .statusWordTimeout 0 2, .mbxGo 0 2 0 0, .mbxTimeout 0 2, .vinLoss 0 2, .vinReconnect 0 2,
    .vinOvervoltage 0 2, .perstRelease 0 2, .qlRefclkLoss 0 2, .slotVerified 0 2 0 [], .slotVerified 0 0 2 [],
    .recoveryGo 0 2 0, .svnCommit 0 2 0 0, .flashErase 0 2 0 0, .flashProgram 0 2 0 0, .flashCheck 0 2 0 0,
    .flashDone 0 2, .completionTimeout 0 2 0, .completionTimeout 0 0 64, .throttleThreshold 0 11 false,
    .readoutRecord 0 2 [], .readoutRecord 0 0 [], .doeDiscovery 0 2 0, .cdatTableAccess 0 2 0,
    .configurationRequest 0 2 0 .other, .configurationRequest 0 0 64 .other, .ucieLinkDown 0 [(11, 0)],
    .ucieLinkDown 0 [(0, 11)], .linkWatchdog 0 [(11, 0, 0)], .linkWatchdog 0 [(0, 11, 0)]] : List Instr).all (fun c => !c.wellFormed) = true := by decide

theorem test_wellFormed_accepts_a_record : (Instr.readoutRecord 0 0 (List.replicate 256 0)).wellFormed = true := by
  show (below 2 0 && recordOk (List.replicate 256 0)) = true
  unfold recordOk
  rw [List.length_replicate]
  rfl

end Sys2Proof

namespace Sys2Proof.Machine

/-! ### Worked examples of the manual -/

/-- 0.10, example 1: field [11:4] of 0x0004_1A00, and the register's bytes by R6. -/
theorem test_field_and_byte_order : bitf 0x00041A00 4 8 = 160 ∧ leBytes 4 0x00041A00 = [0x00, 0x1A, 0x04, 0x00] := by decide

/-- 13.11, example 1: the stack, the stack-local address and the mirror of 0x12_3456_7890. -/
theorem test_device_address : stackOf 0x1234567890 = 4 ∧ localOf 0x1234567890 = 0x205D0B890
    ∧ State.reset.mirror 0x1234567890 = 0x4834568890 ∧ stackOf 0x4834568890 = 5 := by decide

/-- 6.12, example 1: the block sum 18 - 1 + 2^-10 under scales 2^-1 and 2^1 is 17.0009765625 = 17409 x 2^-10. -/
theorem test_block_sum :
    let d := blockDot (scaleExp 0x7E) (scaleExp 0x80) ([0x4C, 0xB8, 0x01].map Elem.e4m3.decode) ([0x5, 0x2, 0x1].map Elem.e2m1.decode)
    Val.eqv d (.fin false 17409 (-10)) = true := by decide

/-- 6.12, example 2: one FP32 block into MXFP8 E4M3 under FIT and under FLOOR. -/
theorem test_convert_block :
    let vs := [Val.ofZ 1000, Val.ofZ 928, Val.ofZ 3, f32 0x3C23D70A, f32 0x80000000] ++ List.replicate 27 Val.zero
    let fit := convBlock .e4m3 false .rne false (List.replicate 32 0) vs
    let low := convBlock .e4m3 true .rne false (List.replicate 32 0) vs
    fit.scale = 0x81 ∧ fit.codes.take 5 = [0x78, 0x76, 0x34, 0x01, 0x80]
      ∧ low.scale = 0x80 ∧ low.codes.take 5 = [0x7E, 0x7E, 0x3C, 0x03, 0x80] := by decide

/-- 6.12, example 3: FP32 to INT8 rounds, saturates with a note, and takes a NaN to 0; a stochastic draw into BF16. -/
theorem test_convert_int8 :
    let c := fun w : Word => convElem .int8 .rne false 0 (f32 w)
    (c 0x42FECCCD).code = 127 ∧ (c 0x42FF0000).code = 127 ∧ (c 0x42FF0000).sat = true ∧ (c 0xC3008000).code = 0x80
      ∧ (c 0xC3008000).sat = false ∧ (c 0x7FC00000).code = 0 ∧ (c 0x7FC00000).sat = true
      ∧ (convElem .bf16 .stoch false 0x2A000000 (f32 0x3F804000)).code = 0x3F81
      ∧ (convElem .bf16 .stoch false 0xC1000000 (f32 0x3F804000)).code = 0x3F80 := by decide

/-- 6.13: the E4M3 tie at 464 gives 448; E5M2 61,440 overflows to 57,344 or to infinity. -/
theorem test_convert_ties : (convElem .e4m3 .rne false 0 (Val.ofZ 464)).code = 0x7E
    ∧ (convElem .e5m2 .rne false 0 (Val.ofZ 61440)).code = 0x7B ∧ (convElem .e5m2 .rne true 0 (Val.ofZ 61440)).code = 0x7C := by
  decide

/-- 9.9, example 1: the intersection of 0, 3, .. 57 with 0, 2, .. 78 has 10 entries and the union 50. -/
theorem test_merge_counts :
    let a := combine 0 ((List.range 20).map (3 * ·)) 0
    let b := combine 0 ((List.range 40).map (2 * ·)) 0
    (mergeRuns 0 61 a b).map (·.coord) = [0, 6, 12, 18, 24, 30, 36, 42, 48, 54] ∧ (mergeRuns 1 61 a b).length = 50 := by decide

/-- 17.11, example 1: 80 uWh over work units 1.2, 0.6 and 0.3 million go 46, 23 and 11. -/
theorem test_apportionment :
    Meter.finalShares 80 2100000 [(0, 1200000), (5, 600000), (70, 300000)] = [(0, 46), (5, 23), (70, 11)] := by decide

/-- 11.13, example 2: the two INFO words. -/
theorem test_seq_info : seqInfo 0x01 0x00200100 0 = 0x08004001 ∧ seqInfo 0x05 0x00200104 2 = 0x48004105 := by decide

/-- 5.13, example 1: the fields of the descriptor's flag words and its class and operation. -/
theorem test_descriptor_words :
    let w : FlagRef := ⟨0x00000000000C8405⟩
    let g : FlagRef := ⟨0x00000000000D8009⟩
    w.en = true ∧ w.index = 5 ∧ w.win = 1 ∧ w.value = 12 ∧ g.en = true ∧ g.index = 9 ∧ g.value = 13
      ∧ Op.ofCode 0x10 = some .spmm := by decide

/-! ### States of the tests -/

/-- The state after reset with one change to core 0. -/
def onCore0 (f : Core → Core) : State := State.reset.onCore 0 f

/-- Core 0 runs a program: its image is the first 4 KiB, its work area the next 4 KiB. -/
def runs (f : SeqBank → SeqBank) : State :=
  onCore0 fun k => { k with bankN := f { k.bankN with active := true, prog := { k.bankN.prog with imageLen := 4096, wbase := 4096, work := 4096 } } }

/-- The same with g1 and g2 given. -/
def ops (a b : Word) : State := runs fun k => (k.setReg 1 a).setReg 2 b

/-- The state a command leaves. -/
def after (c : Instr) (s : State) : State := match exec c s with | .next t => t | _ => s

/-- A register of core 0's running bank. -/
def reg0 (r : BitVec 5) (s : State) : Word := (s.core 0).bank.reg r

/-- PWR_OK seen, no reset held, the package ready. -/
def powered : State :=
  { State.reset with pwr := { State.reset.pwr with pwrOk := true, inReset := false }, boot := { State.reset.boot with ready := true, done := true, fds := [FdBoot.reset, FdBoot.reset] } }

/-- A package whose frames tick: frame 5 began at 0. -/
def ticking : State := { powered with frames := { powered.frames with ticking := true, frn := 5, tick := 0 } }

/-! ### The sequencer -/

theorem test_alu : reg0 3 (after (.add 0 3 1 2) (ops 7 5)) = 12 ∧ reg0 0 (after (.add 0 0 1 2) (ops 7 5)) = 0
    ∧ reg0 3 (after (.sub 0 3 1 2) (ops 5 7)) = 0xFFFFFFFE#32 ∧ reg0 3 (after (.mulHi 0 3 1 2) (ops 0xFFFFFFFF#32 2)) = 0xFFFFFFFF#32
    ∧ reg0 3 (after (.sar 0 3 1 2) (ops 0x80000000#32 31)) = 0xFFFFFFFF#32 := by decide

/-- The decided cases of R382. -/
theorem test_division : reg0 3 (after (.quo 0 3 1 2) (ops 7 0)) = 0x7FFFFFFF#32
    ∧ reg0 3 (after (.quo 0 3 1 2) (ops 0x80000000#32 0)) = 0x80000000#32
    ∧ reg0 3 (after (.quou 0 3 1 2) (ops 7 0)) = 0xFFFFFFFF#32 ∧ reg0 3 (after (.mod 0 3 1 2) (ops 7 0)) = 7
    ∧ reg0 3 (after (.quo 0 3 1 2) (ops 0x80000000#32 0xFFFFFFFF#32)) = 0x7FFFFFFF#32
    ∧ reg0 3 (after (.mod 0 3 1 2) (ops 0x80000000#32 0xFFFFFFFF#32)) = 0
    ∧ reg0 3 (after (.quo 0 3 1 2) (ops 0xFFFFFFF9#32 2)) = 0xFFFFFFFD#32 := by decide

theorem witness_IntegerInstructionsSaturateAndRaiseNothing :
    (Fetches (ops 7 0) 0 ∧ reg0 2 (ops 7 0) = 0 ∧ 0 ≤ (reg0 1 (ops 7 0)).toInt)
    ∧ (Fetches (ops 0x80000000#32 0) 0 ∧ reg0 2 (ops 0x80000000#32 0) = 0 ∧ (reg0 1 (ops 0x80000000#32 0)).toInt < 0)
    ∧ (Fetches (ops 0x80000000#32 0xFFFFFFFF#32) 0 ∧ (reg0 1 (ops 0x80000000#32 0xFFFFFFFF#32)).toInt = -2 ^ 31
        ∧ (reg0 2 (ops 0x80000000#32 0xFFFFFFFF#32)).toInt = -1)
    ∧ (Fetches (ops 0x80000000#32 2) 0 ∧ reg0 2 (ops 0x80000000#32 2) ≠ 0
        ∧ ¬((reg0 1 (ops 0x80000000#32 2)).toInt = -2 ^ 31 ∧ (reg0 2 (ops 0x80000000#32 2)).toInt = -1)) := by
  unfold Fetches; decide

theorem witness_BinaryFloatAndDecodeResults :
    Fetches (ops 0x3F800000#32 0x7FC00000#32) 0
    ∧ ((f32 (reg0 1 (ops 0x3F800000#32 0x7FC00000#32))).isNan || (f32 (reg0 2 (ops 0x3F800000#32 0x7FC00000#32))).isNan) = true
    ∧ (f32 (reg0 1 (ops 0x80000000#32 0))).isNan = false ∧ (f32 (reg0 2 (ops 0x80000000#32 0))).isNan = false
    ∧ decSrcDefined 0xB = true ∧ cvtFormat 0xB = some .mxint8 ∧ decSrcDefined 0 = false ∧ decSrcDefined 0xC = false := by
  unfold Fetches; decide

theorem witness_SequencerInstructionsKeepTheRest :
    regDest (.add 0 3 1 2) = some (0, 3) ∧ Fetches (ops 7 5) 0 ∧ (∃ t, exec (.add 0 3 1 2) (ops 7 5) = .next t)
    ∧ seqCore (.bra 0 1) = some 0 :=
  ⟨rfl, by unfold Fetches; decide, ⟨_, rfl⟩, rfl⟩

/-- Loads at the last word of the image, of the operation window, past them, and misaligned. -/
theorem witness_LoadsExtendAndCheckTheirAddress :
    let k := (ops 8188 0).core 0
    Fetches (ops 8188 0) 0 ∧ k.bank.inProgram 8188 4 = true ∧ 8188 % 4 = 0 ∧ k.bank.inProgram 8191 1 = true
    ∧ (k.bank.inProgram 8190 4 || inWindow 8190 4) = false ∧ (k.bank.inProgram 8192 4 || inWindow 8192 4) = false
    ∧ inWindow 0x010004FC 4 = true ∧ (k.bank.inProgram 0x01000500 1 || inWindow 0x01000500 1) = false ∧ 8191 % 2 ≠ 0 := by
  unfold Fetches; decide

theorem test_load_store : reg0 3 (after (.ldHs 0 3 1 0) (after (.stW 0 2 1 0) (ops 4096 0x1234F00D#32))) = 0xFFFFF00D#32
    ∧ reg0 3 (after (.ldBu 0 3 1 3) (after (.stW 0 2 1 0) (ops 4096 0x1234F00D#32))) = 0x12 := by decide

theorem witness_StoresWriteExactlyTheirBytes :
    let k := (ops 8188 9).core 0
    Fetches (ops 8188 9) 0 ∧ Memory.wf k.store.mem = true ∧ k.bank.reg 1 + (0 : BitVec 16).signExtend 32 = 8188#32
    ∧ k.bank.inProgram 8188 4 = true ∧ k.bank.inProgram 8190 2 = true ∧ k.bank.inProgram 8191 1 = true
    ∧ k.bank.inProgram 8192 4 = false ∧ k.bank.inProgram 8192 1 = false := by
  unfold Fetches; decide

theorem test_branches : ((after (.brEq 0 1 2 0xFFFF#16) (runs fun b => { b with pc := 8 })).core 0).bank.pc = 4
    ∧ ((after (.call 0 2) (ops 0 0)).core 0).bank.pc = 8 ∧ reg0 30 (after (.call 0 2) (ops 0 0)) = 4 := by decide

theorem witness_BranchesAndCallsContinueAtTheirTargets : Fetches (ops 8 6) 0 ∧ (reg0 1 (ops 8 6)).toNat % 4 = 0
    ∧ (reg0 2 (ops 8 6)).toNat % 4 ≠ 0 := by
  unfold Fetches; decide

/-! ### Exceptions -/

/-- The program of 11.13, example 2, at handler level `hlv`, with its stack pointer `sp`. -/
def trapping (hlv sp evb fsb : Word) : State :=
  runs fun b => { (b.setReg 31 sp) with
    evb := evb, sta := hlv, slo := 0x210000#32, shi := 0x210400#32, fsb := fsb, pc := 0x200800#32,
    prog := { b.prog with ibase := 0x200000, imageLen := 4096, wbase := 0x210000, work := 0x2000 } }

def overflowed : State := trapping 0 0x210008#32 0x200001#32 0x210400#32

/-- 11.13, example 2: the save block, the saved registers and the handler's address. -/
theorem test_second_level_entry :
    let k := (after (.illegalInstruction 0 0) overflowed).core 0
    k.bank.era = 0x200800#32 ∧ k.bank.ecause = 1 ∧ k.bank.hlv = 2 ∧ k.bank.pc = 0x200100#32
      ∧ k.store.readLe 0x210410 4 = 0x210008 ∧ k.store.readLe 0x210418 4 = 1 ∧ k.store.readLe 0x21041C 4 = 0x200800
      ∧ k.store.readLe 0x210420 1 = 1 := by decide

/-- 11.13, example 2: the handler's first instruction is DONE 1. -/
theorem test_done_1_in_a_handler :
    ((after (.done 0 1) (after (.illegalInstruction 0 0) overflowed)).core 0).endings = [⟨0, 0x20, 0x08004001⟩] := by decide

/-- 11.13, example 2: the second instruction loads from 0x0100_0600: a double fault. -/
theorem test_double_fault :
    let s := after (.add 0 0 0 0) (after (.illegalInstruction 0 0) overflowed)
    let t := after (.ldW 0 3 1 0) (s.onCore 0 fun k => k.setBank (k.bank.setReg 1 0x01000600#32))
    (t.core 0).endings = [⟨0, 0x21, 0x48004105⟩] ∧ (t.core 0).ft.halt = true := by decide

def framed : State := trapping 0 0x210400#32 0x200001#32 0x210400#32

/-- Every row of R389: HEADER, each handler level, a stack that does not fit, one that just fits, and HRET. -/
theorem witness_FirstLevelEntryAndReturn :
    let k := framed.core 0
    let b := k.bank
    Memory.wf k.store.mem = true ∧ (9 : Nat) < 32 ∧ b.active = true ∧ k.endings = []
    ∧ (bit b.evb.toNat 0 = true ∧ b.hlv = 0 ∧ (b.reg 31 - 16).toNat % 16 = 0 ∧ b.slo.toNat ≤ (b.reg 31 - 16).toNat
        ∧ (b.reg 31 - 16).toNat + 16 ≤ b.shi.toNat)
    ∧ ((overflowed.core 0).bank.hlv = 0 ∧ ((overflowed.core 0).bank.reg 31 - 16).toNat % 16 ≠ 0)
    ∧ ((trapping 1 0x210400#32 0x200001#32 0x210400#32).core 0).bank.hlv = 1
    ∧ ((trapping 2 0x210400#32 0x200001#32 0x210400#32).core 0).bank.hlv = 2
    ∧ bit ((trapping 0 0x210400#32 0x200000#32 0x210400#32).core 0).bank.evb.toNat 0 = false
    ∧ Fetches (trapping 1 0x210400#32 0x200001#32 0x210400#32) 0 := by
  unfold Fetches; decide

/-- First-level entry and its return (R389). -/
theorem test_first_level_and_return :
    let s := after (.trap 0 5) framed
    let t := after (.hret 0) s
    (s.core 0).bank.ecause = 0x15 ∧ (s.core 0).bank.pc = 0x200040#32 ∧ reg0 31 s = 0x2103F0#32 ∧ (s.core 0).bank.hlv = 1
      ∧ (t.core 0).bank.pc = 0x200804#32 ∧ reg0 31 t = 0x210400#32 ∧ (t.core 0).bank.hlv = 0 := by decide

theorem witness_SecondLevelEntryAndDoubleFault :
    let k := framed.core 0
    let m := (trapping 0 0x210400#32 0x200001#32 0x210404#32).core 0
    Memory.wf k.store.mem = true ∧ k.bank.fsbValid = true ∧ m.bank.fsbValid = false ∧ m.bank.active = true ∧ m.endings = [] := by
  decide

theorem witness_SystemInstructionsAct :
    Fetches framed 0 ∧ (framed.core 0).bank.hlv = 0 ∧ Fetches (trapping 2 0x210400#32 0x200001#32 0x210400#32) 0
    ∧ ((trapping 2 0x210400#32 0x200001#32 0x210400#32).core 0).bank.hlv = 2
    ∧ 7 ≤ (7 : BitVec 5).toNat ∧ (15 : BitVec 5).toNat < 16 ∧ 16 ≤ (16 : BitVec 5).toNat ∧ 2 ≤ (2 : BitVec 5).toNat
    ∧ (framed.core 0).streaming (framed.core 0).bank.ctx.asn = false := by
  unfold Fetches; decide

/-- One word of each undefined kind (R394). -/
theorem witness_UndefinedWordsRaise : Fetches framed 0 ∧ (0 : Nat) / 2 ^ 26 = 0
    ∧ (0x04000015#32).toNat / 2 ^ 26 = 0x01 ∧ (0x04000015#32).toNat % 64 = 0x15
    ∧ (0xA0000006#32).toNat / 2 ^ 26 = 0x28 ∧ (0xA0000006#32).toNat % 64 = 6
    ∧ (0x04000040#32).toNat / 2 ^ 26 = 0x01 ∧ bitf (0x04000040#32).toNat 6 5 = 1
    ∧ (0x24000020#32).toNat / 2 ^ 26 = 0x09 ∧ bitf (0x24000020#32).toNat 5 11 = 1
    ∧ (0x30010000#32).toNat / 2 ^ 26 = 0x0C ∧ bitf (0x30010000#32).toNat 16 5 = 1
    ∧ (0xC0000001#32).toNat / 2 ^ 26 = 0x30 ∧ (0xC4000000#32 ||| 0xC000#32).toNat / 2 ^ 26 = 0x31
    ∧ bitf (0xC400C000#32).toNat 13 3 = 6 ∧ (0xD0000000#32).toNat / 2 ^ 26 = 0x34 ∧ bitf (0xD0000000#32).toNat 7 4 = 0
    ∧ (0xD4000000#32).toNat / 2 ^ 26 = 0x35 ∧ decSrcDefined (bitf (0xD4000000#32).toNat 12 4) = false := by
  unfold Fetches; decide

/-! ### Streams -/

/-- A DRAM region the operation may read and write. -/
def aRegion : Region := { kind := .versioned, rights := 3, writer := 0, target := 0, base := 0x10000, size := 0x10000, window := 0, aux := 0 }

/-- An operation's context: ASN 7, the region in slots 0 and 4. -/
def aCtx : OpCtx :=
  { OpCtx.idle with asn := 7, regions := [some { aRegion with kind := .scratch }, none, none, none, some { aRegion with kind := .scratch }, none, none] }

/-- The operation journaled and running on core 0. -/
def anOp : OpRec :=
  { ctx := aCtx, page := 0, slot := 0, fmt := 3, raw := [], logSlot := 0, lap := 1, issue := 0, deadline := 0, accept := some 0, stage := .running,
    targets := [], replays := 0, ovr := false, rfail := 0, rfailTgt := 0, bad := [], cores := [0], firstFrn := some 1, ended := none, notes := 0, units := 0,
    voted := false, guards := 0, held := false, pages := [], homes := [], sent := [], remoteNo := [], acks := 0, votes := [], append := none,
    appendHi := 0, deltas := [], us := [], res := none }

def withOp (s : State) : State := { s with ops := { s.ops with list := [anOp] } }

/-- Engine 1 of core 0 runs a stream program for it. -/
def streaming (code : List Word) (f : StreamEng → StreamEng) : State :=
  withOp (onCore0 fun k => { k.putEngine 1 (f { StreamEng.reset with running := true, asn := 7, code := code, tok := [1, 0, 0, 254] }) with
    segs := [{ ctx := aCtx, prog := none, items := [], urgent := false, started := true, finished := false }] })

/-- One word of each stream instruction used below: SE FENCE. -/
def seFenceWord : Word := 0x2C000000#32

theorem witness_QueueTokenAndConversionInstructions :
    let s := (ops 0x38000800#32 0).onCore 0 fun k => k.putEngine 1 { StreamEng.reset with running := true, tok := [1, 0, 255, 254] }
    let k := s.core 0
    Fetches s 0 ∧ k.shareFull k.urgent = false ∧ firstFault (k.tileFaults (s.resident 0) (k.newEntry (k.bank.reg 1) (k.bank.reg 2) (k.bank.reg 3))) = none
    ∧ (({ k with queue := List.replicate 28 { k.newEntry 0 0 0 with issued := false } }).shareFull false) = true
    ∧ (ops 0 0 |>.core 0).bank.inProgram 0 192 = true ∧ k.bank.ctx.desc.isUrgent = false
    ∧ k.engines[1]? = some (k.engine 1) ∧ (k.engine 1).running = true ∧ (k.engine 1).asn = k.bank.ctx.asn
    ∧ (k.engine 1).tok = [1, 0, 255, 254] ∧ k.engineServes k.bank.ctx.asn 2 = false ∧ (cvtFormat 0xB).isSome = true ∧ cvtFormat 0xC = none := by
  unfold Fetches; decide

theorem test_tokens :
    let s := (ops 0 0).onCore 0 fun k => k.putEngine 1 { StreamEng.reset with running := true, tok := [1, 0, 255, 254] }
    (((after (.tget 0 1 0) s).core 0).engine 1).tok = [0, 0, 255, 254] ∧ (((after (.tget 0 1 1) s).core 0).engine 1).tok = [1, 0, 255, 254]
    ∧ (((after (.tput 0 1 3) s).core 0).engine 1).tok = [1, 0, 255, 255] := by decide

theorem witness_StreamRegisterInstructions :
    let s := streaming [seFenceWord] fun e => e.setS 2 0x7FFFF8#64
    Streaming (s.core 0) 1 ∧ 0 < s.cores.length ∧ (((s.core 0).engine 1).sreg 2).toNat % 8 = 0 ∧ (((s.core 0).engine 1).sreg 2).toNat < 0x800000
    ∧ (((s.core 0).engine 1).sreg 2 + (8 : BitVec 14).signExtend 64).toNat = 0x800000
    ∧ (((s.core 0).engine 1).sreg 2 + (0x3FFF : BitVec 14).signExtend 64).toNat % 4 ≠ 0 := by
  unfold Streaming; decide

theorem test_stream_registers :
    (((after (.seAddi 0 1 3 2 0x3FFF) (streaming [seFenceWord] fun e => e.setS 2 5)).core 0).engine 1).sreg 3 = 4
    ∧ (((after (.seSetw 0 1 2 1 0xABCD) (streaming [seFenceWord] fun e => e.setS 2 0x123456789)).core 0).engine 1).sreg 2 = 0x1ABCD6789#64
    ∧ (((after (.seMuli 0 1 2 2 0x3FFF) (streaming [seFenceWord] fun e => e.setS 2 2)).core 0).engine 1).sreg 2 = 0x7FFE := by decide

theorem witness_StreamControlAndTokens :
    let s := streaming [seFenceWord] id
    let open1 := streaming [seFenceWord] fun e => { e with loops := [some ⟨0, 1⟩, some ⟨0, 2⟩, none, none] }
    let img := (List.replicate 0x80 0) ++ [1, 0] ++ List.replicate 62 0 ++ [0, 0, 0, 0x2C]
    let q := onCore0 fun k => k.putEngine 1 { StreamEng.reset with queued := some (7, img) }
    Streaming (s.core 0) 1 ∧ Streaming (open1.core 0) 1 ∧ ((s.core 0).engine 1).loops.getD 3 none = none
    ∧ ((open1.core 0).engine 1).loops.getD 0 none = some ⟨0, 1⟩ ∧ ((open1.core 0).engine 1).loops.getD 1 none = some ⟨0, 2⟩
    ∧ ((s.core 0).engine 1).xfers = [] ∧ (∀ l ∈ ((s.core 0).engine 1).loops, l = none) ∧ (∃ l ∈ ((open1.core 0).engine 1).loops, l ≠ none)
    ∧ ((s.core 0).engine 1).tok = [1, 0, 0, 254] ∧ (q.core 0).guard = false ∧ ((q.core 0).engine 1).running = false
    ∧ ((q.core 0).engine 1).queued = some (7, img) ∧ fld img 0x80 2 = 1 ∧ zeroBytes img 0x82 62 = true := by
  refine ⟨by unfold Streaming; decide, by unfold Streaming; decide, by decide, by decide, by decide, by decide, by decide, by decide, by decide,
    by decide, by decide, rfl, by decide, by decide⟩

theorem test_loops :
    let s := streaming [0x28000003#32, seFenceWord, 0x2C000000#32] id
    let t := after (.seLoop 0 1 0 false 0 3) s
    ((t.core 0).engine 1).loops = [some ⟨1, 3⟩, none, none, none] ∧ ((t.core 0).engine 1).index = 1 := by decide

theorem witness_StreamTransfersMoveTheirBytes :
    let s := streaming [0x40000000#32] id
    let k := s.core 0
    let e := k.engine 1
    let x := fun op : Nat => (⟨op, 0, 0, 0, 1, false, 0, (e.sreg 14).toNat, [k.store.readLe 0 4]⟩ : XferReq)
    Streaming k 1 ∧ (k.segOf e.asn).isSome = true ∧ s.op? e.asn = some anOp ∧ (aCtx.slot 0).2.isSome = true
    ∧ s.xferFault 0 aCtx (x 0x10) = none ∧ e.blocked (x 0x10) none = false
    ∧ (∃ bs, s.readPieces anOp { aRegion with kind := .scratch } False ((x 0x10).pieces none) = .ok bs)
    ∧ s.xferFault 0 aCtx { x 0x10 with slot := 1 } = some 0xA03 ∧ s.xferFault 0 aCtx { x 0x10 with a := 0x10000 } = some 0xA02
    ∧ s.xferFault 0 aCtx { x 0x10 with cs := 1 } = some 0xA04 ∧ s.xferFault 0 aCtx { x 0x10 with cs := 0x800000 } = some 0xA05 := by
  refine ⟨by unfold Streaming; decide, by decide, by decide, by decide, by decide, by decide, ⟨_, rfl⟩, by decide, by decide, by decide, by decide⟩

theorem witness_RetirementAndResidentRing :
    let y : Xfer := ⟨4, .read, 0, 0, 64, 0, 0, 64, 0x10, false, [], [], 0, 0, false⟩
    let s := streaming [seFenceWord] fun e => { e with xfers := [y, { y with id := 5, kind := .remote, acks := 1 }] }
    let r := (streaming [0x70000000#32] fun e => (e.setS 1 0).setS 2 0x1000).onCore 0 fun k =>
      { k with shards := [{ member := true, pos := 0, filled := true, bufA := none, bufB := none }, Shard.none, Shard.none, Shard.none],
               segs := k.segs.map fun g => { g with prog := some { Prog.idle with gang := some 0 } }, ringIn := [(0, 1, [])] }
    let r := (r.setReg { name := .coRsCfg, n := 0 } 5).setReg { name := .coRsSz, n := 0 } 1
    (s.core 0).xfer? 1 4 = some y ∧ y.ripe = true ∧ (((s.core 0).xfer? 1 5).map (·.ripe)) = some false ∧ ((s.core 0).engine 1).puts = []
    ∧ Streaming (r.core 0) 1 ∧ r.bitOf { name := .coRsCfg, n := 0 } 0 = true ∧ r.fieldOf { name := .coRsSz, n := 0 } 0 9 = 1
    ∧ (((r.core 0).segOf 7).bind (·.prog)).bind (·.gang) = some 0 ∧ (((r.core 0).engine 1).sreg 1).toNat = 0
    ∧ (((r.core 0).engine 1).sreg 2).toNat = 0x1000 ∧ (r.ringNext 0 0).isSome = true ∧ r.ringNext 0 0 ≠ some 0 ∧ (r.core 0).ringIn = [(0, 1, [])] := by
  unfold Streaming; decide

/-! ### Tiles -/

/-- An entry of operation 7's item 0 with opcode `top` and further bits of word 0. -/
def entryOf (top : Nat) (bits : Word) : TileEntry :=
  { id := 3, bankU := false, asn := 7, item := 0, w0 := BitVec.ofNat 32 (top * 2 ^ 27) ||| bits, w1 := 0, w2 := 0, block := List.replicate 64 0,
    start := none, bound := [], issued := false }

/-- Core 0 with that entry queued, logical tile 0 mapped to physical tile 0 of array 0, and engine 1 holding a token. -/
def tiled (q : TileEntry) : Core :=
  let s := streaming [seFenceWord] id
  let k := s.core 0
  ({ k with queue := [q] } : Core).putTile 0 0 (freshTile { asn := 7, item := 0, ltile := 0, bankU := false, group := none } Desc.idle)

def tiledState (q : TileEntry) : State := State.reset.onCore 0 fun _ => tiled q

theorem witness_TileEntriesIssueWithTheirEffect :
    (∀ x ∈ ([(topLDW, 0x800), (topSTR, 0x800), (topACC, 0), (topMV, 0), (topEW, 0), (topMERGE, 0), (topGATHER, 0), (topDRAIN, 0x800),
        (topCLOSE, 0x880), (topCLOSE, 0x800)] : List (Nat × Word)),
      Issues (tiled (entryOf x.1 x.2)) x.1 3 (entryOf x.1 x.2) ∧ (tiledState (entryOf x.1 x.2)).shardWaits 0 (entryOf x.1 x.2) = false)
    ∧ (tiled (entryOf topDRAIN 0x800)).draining (entryOf topDRAIN 0x800) = false
    ∧ (entryOf topCLOSE 0x880).f0 6 2 = 2 ∧ (entryOf topCLOSE 0x800).f0 6 2 = 0 ∧ (entryOf topCLOSE 0x800).blk 9 1 < 2 := by
  unfold Issues; decide

/-- A waiting entry takes its engine's token. -/
theorem witness_TileEntriesIssueWithTheirEffect_token :
    let q := entryOf topLDW 0x04800800#32
    q.wen = true ∧ q.weng = 1 ∧ Issues (tiled q) topLDW 3 q ∧ (tiled q).engines[q.weng]? = some ((tiled q).engine 1) := by
  unfold Issues; decide

theorem test_ldw : (((after (.ldw 0 3) (tiledState (entryOf topLDW 0x1000))).core 0).array 1).bg.elem = some .int8
    ∧ (((after (.ldw 0 3) (tiledState (entryOf topLDW 0x1000))).core 0).array 0).bg.elem = none := by decide

theorem witness_TileEffectsMatchTheirRules :
    (entryOf topLDW 0x1000).arrays = [1] ∧ (entryOf topCLOSE 0x880).arrays = [0] ∧ (tiled (entryOf topCLOSE 0x880)).lastMember 7 = true
    ∧ (tiled (entryOf topCLOSE 0x880)).physOf 0 7 0 0 none = some 0 ∧ (entryOf topGATHER 0x4000).f0 14 1 = 1
    ∧ Memory.wf (tiled (entryOf topGATHER 0x4000)).store.mem = true
    ∧ [1, 3, 5].Pairwise (· < ·) ∧ [3, 4, 5, 9].Pairwise (· < ·)
    ∧ (mergeRuns 0 8 (combine 0 [1, 3, 5] 0) (combine 0 [3, 4, 5, 9] 0)).map (·.coord) = [3, 5] := by decide

theorem witness_TileEntriesRetireAndReleaseTiles :
    let q := { entryOf topLDW 0x00120800#32 with issued := true }
    let k := tiled q
    k.entry? 3 = some q ∧ k.drainOpen q = false ∧ q.sen = true ∧ q.seng = 1 ∧ k.engines[q.seng]? = some (k.engine 1) ∧ (k.engine 1).running = true ∧ (k.engine 1).asn = q.asn
    ∧ (k.engine 1).tok[q.sctr]? = some 1 ∧ k.physOf 0 7 0 0 none = some 0
    ∧ ((k.putTile 0 0 (closeSwap .none ((k.array 0).tile 0))).array 0 |>.tile 0).closed = true
    ∧ ({ k with queue := [], segs := k.segs.map fun g => { g with items := [⟨0, 0, 0, 0, 0, true, true⟩] } } : Core).itemEnded 7 0 = true := by decide

theorem test_retire_and_close : let q := { entryOf topLDW 0x00120800#32 with issued := true }
    (((after (.tileEntryRetire 0 3) (tiledState q)).core 0).engine 1).tok = [2, 0, 0, 254] ∧ ((after (.tileEntryRetire 0 3) (tiledState q)).core 0).queue = []
    ∧ (((after (.close 0 3) (tiledState (entryOf topCLOSE 0x880))).core 0).array 0).tile 0 = AccTile.free := by decide

/-! ### Built-in operations, segments -/

/-- A dense vector of 64 INT8 elements at the start of its region. -/
def vec64 : Tensor := { Tensor.idle with dims := [64], arr := [0, 0, 0, 0] }

/-- A COPY of it between two regions of kind `k` and `n` bytes, its one item on core 0. -/
def copyCtx (k : RKind) (n : Nat) : OpCtx :=
  { aCtx with
    desc := { Desc.idle with opCode := 0x20 }, tensors := [some vec64, none, none, none, some vec64, none],
    regions := [some { aRegion with kind := k, size := n }, none, none, none, some { aRegion with kind := .scratch, base := 0x40000 }, none, none] }

def copySeg (k : RKind) (n : Nat) (items : List Item) : Seg :=
  { ctx := copyCtx k n, prog := none, items := items, urgent := false, started := true, finished := false }

def copyOp (k : RKind) (n : Nat) : OpRec := { anOp with ctx := copyCtx k n }

def copying (k : RKind) (n : Nat) (items : List Item) : State :=
  { onCore0 fun c => { c with segs := [copySeg k n items] } with ops := { Ops.reset with list := [{ copyOp k n with ctx := { copyCtx k n with asn := 3 }, stage := .accepted }, copyOp k n] } }

def whole : List Item := [⟨0, 4, 0, 1, 0, false, false⟩]

def copyRun (s : State) (k : RKind) (n : Nat) : Get ItemOut := Job.bounded Job.copy { s := s, o := copyOp k n, ctx := copyCtx k n, remote := [] } 0

def answers : Get ItemOut → Nat
  | .ok _ => 0 | .error .wait => 1 | .error .lost => 2 | .error (.fault n) => n

/-- Each answer of a run: its bytes, an earlier operation's page, lost memory, an extent. -/
theorem witness_BuiltinOperationsRunTheirItems :
    let a := (copying .scratch 4096 whole).stamped 0
    (a.core 0).segOf 7 = some (copySeg .scratch 4096 whole) ∧ a.op? 7 = some (copyOp .scratch 4096)
    ∧ (copySeg .scratch 4096 whole).ctx.desc.op = some .copy ∧ (copySeg .scratch 4096 whole).todo = whole
    ∧ (a.core 0).guard = false ∧ answers (copyRun a .scratch 4096) = 0
    ∧ answers (copyRun ((copying .versioned 4096 whole).setPageEntry 1 ⟨false, true, 3⟩) .versioned 4096) = 1
    ∧ answers (copyRun ((copying .scratch 4096 whole).setReg rFtFailed 0x10000) .scratch 4096) = 2
    ∧ answers (copyRun a .scratch 32) = innerExtent
    ∧ (copying .scratch 4096 [⟨0, 4, 0, 2, 1, false, false⟩]).splitsDone 1 7 ⟨0, 4, 1, 2, 1, false, false⟩ = false := by decide

theorem test_copy : let t := after (.copy 5 7 0 []) ((copying .scratch 4096 whole).writeRange false 0x10000 [1, 2, 3] |>.getD State.reset)
    t.readRange false false 0x40000 4 = some [1, 2, 3, 0] ∧ ((t.core 0).segs.map fun g => g.items.map (·.done)) = [[true]] := by decide

/-- A package whose frames tick, with operation 7 accepted. -/
def accepted (f : OpRec → OpRec) : State := { ticking with ops := { ticking.ops with list := [f { anOp with stage := .accepted, cores := [] }] } }

def markOp (cls : Nat) (o : OpRec) : OpRec := { o with ctx := { aCtx with desc := { Desc.idle with cls := cls } } }

/-- An URGENT COPY with one wait, held until its flag reaches 1, and without one; an URGENT MARK and a NORMAL one. -/
theorem witness_UrgentAndMarkOperationsRun :
    let u := fun w : List FlagRef => fun o : OpRec => { o with ctx := { aCtx with desc := { Desc.idle with cls := 2, opCode := 0x20, waits := w } } }
    let held := (accepted (u [⟨0x18000⟩])).arrive 3
    let a := (accepted (u [])).arrive 3
    let m := (accepted (markOp 0)).arrive 3
    (∀ s ∈ [held, a, m], (s.op? 7).isSome = true ∧ s.frames.ticking = true ∧ s.frames.guard = false
      ∧ ∀ o ∈ s.ops.list, o.stage = .accepted ∧ o.ended = none ∧ s.excluded o = false)
    ∧ (∀ o ∈ held.ops.list, o.ctx.desc.isUrgent = true ∧ o.ctx.desc.op ≠ some .mark)
    ∧ (∀ o ∈ a.ops.list, a.waitsOk o = true ∧ o.appendRegion = none ∧ (a.urgentCore o).isSome = true)
    ∧ (∀ o ∈ m.ops.list, o.ctx.desc.op = some .mark ∧ o.firstFrn ≠ none ∧ m.waitsOk o = true)
    ∧ (∀ o ∈ held.ops.list, held.waitsOk o = false) := by decide

/-- A header of R365: image 4, workspace 4096, stack 64, entry 0, one item of cost 1. -/
def headBytes : List Byte :=
  [0xA1, 0, 0, 0, 4, 0, 0, 0, 0, 0x10, 0, 0, 64, 0, 0, 0, 0, 0, 0, 0, 0, 0, 0, 0, 1, 0, 0, 0, 1, 0, 0, 0] ++ List.replicate 32 0

/-- A PROGRAM operation whose region holds `b`, its segment on core 0 not started. -/
def programmed (b : List Byte) : State :=
  let x := { aCtx with desc := { Desc.idle with opCode := 1 }, regions := [none, none, none, none, none, none, some { aRegion with kind := .scratch }] }
  (({ onCore0 fun k => { k with segs := [{ ctx := x, prog := none, items := [⟨0, 1, 0, 1, 0, false, false⟩], urgent := false, started := false, finished := false }] } with
    ops := { Ops.reset with list := [{ anOp with ctx := x }] } }).writeRange false 0x10000 b).getD State.reset

/-- The bytes an access answers. -/
def got : MemAcc (List Byte) → Option (List Byte)
  | .ok b => some b
  | _ => none

def loaded : State := after (.program 0 7 0) (programmed (headBytes ++ [1, 2, 3, 4]))

set_option maxRecDepth 4000 in
theorem test_program_loads : ((loaded.core 0).segs.map (·.started)) = [true]
    ∧ (((loaded.core 0).segs.head?).bind (·.prog)).map (fun p => (loaded.core 0).store.readLe p.ibase 4) = some 0x04030201 := by decide

set_option maxRecDepth 4000 in
theorem witness_SegmentsLoadStartMoveAndResume :
    let a := (programmed headBytes).arrive 0
    (∃ g, (a.core 0).segOf 7 = some g ∧ g.started = false ∧ g.finished = false ∧ g.ctx.desc.op = some .program)
    ∧ (Head.parse headBytes false 0xFF80).isSome = true ∧ Head.parse (List.replicate 64 0) false 0xFF80 = none
    ∧ (match Head.parse headBytes false 0xFF80 with | some h => (a.placeProgram 0 h false).isSome | none => false) = true
    ∧ got (a.opRead anOp { aRegion with kind := .scratch } false 0 64) = some headBytes := by
  exact ⟨⟨_, rfl, rfl, rfl, by decide⟩, by decide, by decide, by decide, by decide⟩

set_option maxRecDepth 4000 in
/-- A loaded program's item may start; the URGENT bank is done; core 1 may take core 0's item. -/
theorem witness_SegmentsLoadStartMoveAndResume_moves :
    (loaded.core 0).bank.active = false ∧ (loaded.core 0).guard = false
    ∧ ((loaded.core 0).segs.find? fun g => g.urgent = (loaded.core 0).urgent && g.started && !g.finished && g.prog.isSome && g.nextItem.isSome).isSome = true
    ∧ ((onCore0 fun k => { k with urgent := true }).core 0).urgentOver = true
    ∧ (let a := { ticking with cores := (copying .scratch 4096 whole).cores }.setReg { name := .frSplitCfg } 0x100
       a.bitOf { name := .frSplitCfg } 8 = true ∧ a.schedCores.contains 1 = true ∧ a.shunned 1 = false ∧ a.flt.banked ≠ some (1 / 4)
         ∧ (a.core 1).mayThieve = true ∧ a.victim 1 = some 0 ∧ ((a.core 0).unstarted.reverse.find? (stealable 1)).isSome = true ∧ a.inFlight 1 < 64) := by
  decide

/-! ### Frames, votes, leases, time -/

theorem witness_FramesStartBeginHoldAndGuard :
    let a := powered.stamped 7
    let run := (powered.setReg rFrCtl 1).stamped 0
    let due := { run with frames := { run.frames with first := some (0, 3) } }
    let w := (accepted fun o => { o with ctx := { aCtx with desc := { Desc.idle with waits := [⟨0x18000⟩] } }, firstFrn := some 5 })
    let late := { w with frames := { w.frames with guard := true, frn := 5 } }
    a.wrFront 0 none offFrCtl 15#4 = (a, some rFrCtl) ∧ a.running = false ∧ a.pwr.straps.getD 2 false = false
    ∧ (a.frames.dies.length = 11 ∧ a.tickOf 7 = none ∧ due.tickOf 0 = some (0, 3) ∧ due.hasMaster = true ∧ due.cm.fenceAt = none)
    ∧ ticking.tickOf 400000 = some (400000, 7) ∧ ticking.tickOf 399999 = some (200000, 6)
    ∧ (a.die 10).frn = none ∧ (a.die 10).token ≤ 1 ∧ ¬ (0 : Nat) < (a.die 10).token
    ∧ ticking.frames.tick + 200000 / max 1 ticking.lenF * max 1 ticking.lenF + 1032 ≤ 201032 ∧ (ticking.die 3).frn = none
    ∧ ticking.guardAt ≤ 194000 ∧ (late.op? 7).isSome = true
    ∧ (∀ o ∈ late.ops.list, o.firstFrn = some 5 ∧ 5 + o.window ≤ late.frames.frn + 1 ∧ late.waitsOk o = false) := by
  refine ⟨rfl, ?_⟩; decide

/-- A decision of frame 4 over operation 7, and the same at a sub-tick. -/
def aDec (frn sub deadline : Nat) : Decision :=
  { frn := frn, sub := sub, token := 1, stamp := 0, deadline := deadline, allAbort := false, fence := false, scope := [7], outs := [⟨7, 0, 0, 0, 0⟩],
    durable := false, late := false, applied := [], inForce := false, remote := [], offs := [], sums := [] }

theorem witness_VotesAndDecisions :
    let a := (accepted fun o => { o with stage := .running }).arrive 199000
    let g := { a with frames := { a.frames with guard := true } }
    let u := (accepted fun o => { o with ctx := { aCtx with desc := { Desc.idle with cls := 2 } }, voted := true }).arrive 25000
    let d := { a with ops := { a.ops with decs := [aDec 4 0 200000, aDec 4 1 100000] } }
    (g.frames.ticking = true ∧ g.votes 0 = true ∧ (g.die 0).hold = false ∧ (g.die 0).withhold = false ∧ 198000 ≤ g.voteAt ∧ g.voteOf 5 0 0 = none
      ∧ ∀ c ∈ dieCores 0, ∀ x ∈ (g.core c).segs, x.urgent = true ∨ (g.core c).segDone x = true)
    ∧ g.hasMaster = true ∧ g.voteAt + 32 ≤ 199000 ∧ g.dec? 5 0 = none
    ∧ u.frames.guard = false ∧ u.subAt 1 ≤ 25000 ∧ u.frames.sub < 1 ∧ u.hasMaster = true ∧ (u.scopeAt 1).isEmpty = false ∧ (a.scopeAt 1).isEmpty = true
    ∧ d.dec? 4 0 = some (aDec 4 0 200000) ∧ d.dec? 4 1 = some (aDec 4 1 100000) ∧ (199000 : Nat) ≤ 200000 ∧ (100000 : Nat) < 199000
    ∧ d.votes 8 = true ∧ (d.die 8).token ≤ 1 ∧ 4 < d.frames.frn := by decide

theorem test_vote_commits : let a := after (.prepareVote 198000 0 0) { (accepted fun o => { o with stage := .finished }) with frames := { ticking.frames with guard := true } }
    (a.voteOf 5 0 0).isSome = true ∧ (after (.voteEvaluate 198032) a).ops.decs.map (fun d => (d.frn, d.scope, d.deadline)) = [(5, [7], 200000)] := by decide

theorem witness_LeasesFencesAndTakeoverKeepOneMaster :
    let a := ticking.arrive 100000
    let f := { a with cm := { a.cm with fenceAt := some 0, waiting := [11, 3], token := 2 } }
    let m := { a with cm := { a.cm with missed := 2, ackMiss := 1 } }
    a.cm.standby = true ∧ a.cm.token = 1 ∧ 100000 ≤ a.frames.tick + (6 - a.frames.frn) * a.lenF ∧ a.cm.leaseFrn = none ∧ a.frames.dies.length = 11
    ∧ (a.die 10).token ≤ 0 ∧ ({ a with frames := { a.frames with dies := List.replicate 11 { DieSeq.reset with token := 3 } } } : State).die 10 = { DieSeq.reset with token := 3 }
    ∧ f.cm.fenceAt = some 0 ∧ 11 ∈ f.cm.waiting ∧ 3 ∈ f.cm.waiting ∧ 0 + 10032 ≤ 100000 ∧ (10031 : Nat) < 0 + 10032
    ∧ a.cm.ackMiss = 0 ∧ 1 ≤ m.cm.ackMiss ∧ m.cm.master < 2 ∧ m.fdAlive 1 = true ∧ m.fdAlive 0 = true ∧ 2 ≤ m.cm.missed ∧ m.pwr.waits = [] := by decide

set_option maxRecDepth 8000 in
theorem test_takeover : let t := after (.takeover 100000 []) { ticking with cm := { ticking.cm with missed := 2 } }
    t.cm.master = 1 ∧ t.cm.token = 2 ∧ t.fdAlive 0 = false ∧ t.cm.standby = false := by decide

theorem witness_TimeLocksStepsAndHoldsOver :
    let p := (powered.setReg rFrCtl 2).arrive 7
    let l := { p with frames := { p.frames with ppsDone := true, ppsLast := some 7, ppsBad := 1 } }
    let q := (powered.setReg rFrCtl 0x400).setReg (qlStatReg 0) 2
    p.syncSrc = 1 ∧ p.locked = false ∧ p.holdover = false ∧ p.frames.ppsDone = false ∧ p.running = false
    ∧ l.frames.ppsLast = some 7 ∧ 7 + 1500000000 + 32 ≤ 1500000039 ∧ l.frames.ppsDone = true ∧ 1 ≤ l.frames.ppsBad
    ∧ (-1000 ≤ ((1000001000 : Nat) : Int) - (((1000001000 + 500000000) / 1000000000 * 1000000000 : Nat) : Int))
    ∧ 1000 < ((1000001001 : Nat) : Int) - (((1000001001 + 500000000) / 1000000000 * 1000000000 : Nat) : Int)
    ∧ q.syncSrc = 0 ∧ q.bitOf rFrCtl (10 + 0 % 16) = true ∧ q.fieldOf rFrCtl 3 7 = 0 ∧ q.fieldOf (qlStatReg 0) 0 2 = 2 := by decide

/-! ### Rings and acceptance -/

/-- Page 0's ring 0, format 3, 64 slots of log 12, its doorbell word in host memory at 0x2004, the meter ready, completion ring 0 of 64. -/
def ringing (f : Ring → Ring) : State :=
  let s := powered.setReg { name := .sqCfg } 0x8000401B
  let s := (s.setReg { name := .sqDb } 0x2004).setReg { name := .cqCfg } 0x80000006
  let s := s.onFunc 0 0 fun x => { x with bme := true }
  (s.setReg { name := .mtState } 0).putRing (f (s.ring 0 0))

/-- A MARK in format v3. -/
def markBytes : List Byte :=
  [3, 0, 0, 0, 0, 0, 0, 0, 0, 0, 7, 0, 0, 0, 0, 0] ++ List.replicate 32 0 ++ List.replicate 12 0xFF ++ List.replicate 68 0

def oneMore (r : Ring) : Ring := { r with produce := 1 }

def issued (accept : Option Stamp) (stage : Stage) : State :=
  let s := ringing fun r => { r with produce := 1, fetched := 1, written := 1 }
  { s with ops := { s.ops with list := [{ anOp with ctx := { aCtx with desc := { Desc.idle with tag := 9 } }, deadline := 2000, accept := accept, stage := stage }] } }

theorem witness_DoorbellLinesAreWatchedAndRead :
    let a := (ringing id).arrive 7
    let l := a.onPort 0 fun p => { p with lines := [⟨0x2000, true, false⟩] }
    let r := a.onPort 0 fun p => { p with lines := [⟨0x2000, false, true⟩] }
    a.ports.length = 2 ∧ l.dbLine? 0 0x203F = some ⟨0x2000, true, false⟩ ∧ r.dbLine? 0 0x2000 = some ⟨0x2000, false, true⟩
    ∧ a.snoops 0 = false ∧ lineAddr 0x2004 ∈ a.watchedLines 0 ∧ a.sqSize 0 0 = 64
    ∧ (64 + 2 ^ 32 - (a.ring 0 0).consumed) % 2 ^ 32 ≤ a.sqSize 0 0 ∧ ¬ (65 + 2 ^ 32 - (a.ring 0 0).consumed) % 2 ^ 32 ≤ a.sqSize 0 0
    ∧ 0 = (a.ring 0 0).lastDb.getD (a.ring 0 0).consumed
    ∧ ((r.requestEnds 0 (r.lineFunc 0 0x2000) false).dbLine? 0 0x2000).isSome
    ∧ (((r.onFunc 0 0 fun x => { x with errs := 2 }).requestEnds 0 (r.lineFunc 0 0x2000) false).dbLine? 0 0x2000) = none := by decide

theorem test_doorbell : (((ringing id).doorbell 0 0 64).ring 0 0).produce = 64 ∧ (((ringing id).doorbell 0 0 65).ring 0 0).produce = 0 := by decide

theorem witness_AcceptanceJournalsOrRejects :
    let a := (ringing oneMore).arrive 7
    let i := (issued none .issued).arrive 2000
    a.mayFetch 0 0 = true ∧ a.sqFmt 0 0 = 3 ∧ a.verdict (a.serving 0 0) ⟨0, 0, 3, markBytes, [], []⟩ = none
    ∧ a.verdict (a.serving 0 0) ⟨0, 0, 3, markBytes.set 1 0x7F, [], []⟩ = some (0x30, 1)
    ∧ i.ops.list.length = 1 ∧ (∀ o ∈ i.ops.list, i.op? 7 = some o ∧ o.stage = .issued ∧ o.accept = none ∧ 2000 ≤ o.deadline ∧ o.deadline + 32 ≤ 2032)
    ∧ ((ringing fun r => { r with reject := some ⟨0x30, 1, 0, 3⟩ }).ring 0 0).reject = some ⟨0x30, 1, 0, 3⟩
    ∧ (ringing fun r => { r with reject := some ⟨0x30, 1, 0, 3⟩ }).ringOps 0 0 = [] := by decide

theorem test_acceptance : let t := after (.descriptorFetched 7 0 0 markBytes [] []) (ringing oneMore)
    (t.ops.list.map fun o => (o.ctx.asn, o.stage, o.issue, o.deadline)) = [(14, .issued, 7, 2007)]
    ∧ ((after (.journalEntryConfirmed 8 14) t).ops.list.map (·.stage)) = [.accepted] := by decide

theorem witness_CompletionRecordsArePostedAndAnnounced :
    let x : Resolution := ⟨0, 0, 5, 0, 0, 0, 1⟩
    let s := issued (some 0) .resolved
    let a := ({ s with ops := { s.ops with list := s.ops.list.map fun o => { o with res := some x } } } : State).arrive 7
    let m := ((ringing id).setReg { name := .cqMod } 0x101).putCring { page := 0, n := 0, tail := 64, head := 0, pend := [0] }
    (∃ o, a.nextToPost 0 0 = some o ∧ o.stage = .resolved ∧ o.res = some x) ∧ a.cqFree 0 (a.cqOf 0 0) = 64 ∧ a.funcServed 0 = true ∧ a.owedBefore 0 0 = false
    ∧ (m.cring 0 0).pend = [0] ∧ m.fieldOf { name := .cqMod, dev := 0, n := 0 } 8 14 = 1 ∧ (0 : Nat) + 100 * 1 + 32 ≤ 132
    ∧ m.cqEnabled 0 0 = true ∧ m.cqFree 0 0 = 0 := by
  exact ⟨⟨_, rfl, rfl, rfl⟩, by decide⟩

theorem witness_RingsAndFlagsAreSetUp :
    let off := (powered.setReg { name := .sqCfg } 0x1B).arrive 7
    let both := off.setReg { name := .cqCfg } 0x80000006
    let on := (ringing id).arrive 7
    let cqOnly := ((powered.setReg { name := .sqCfg } 0x1B).setReg { name := .cqCfg } 0x80000006).arrive 7
    let sq : Reg := { name := .sqCfg }
    let cq : Reg := { name := .cqCfg }
    off.wrFront 0 none 0x801020 15#4 = (off, some sq) ∧ off.wrFront 0 none 0x802018 15#4 = (off, some cq) ∧ on.wrFront 0 none 0x801020 15#4 = (on, some sq)
    ∧ on.wrFront 0 none 0x802018 15#4 = (on, some cq) ∧ both.wrFront 0 none 0x801020 15#4 = (both, some sq) ∧ cqOnly.wrFront 0 none 0x802018 15#4 = (cqOnly, some cq)
    ∧ on.wrFront 0 none 0x800024 15#4 = (on, some { name := .rgFlagCfg }) ∧ on.wrFront 0 none 0x80002C 15#4 = (on, some { name := .rgFlagVal, hi := true })
    ∧ off.bitOf sq 31 = false ∧ off.cqEnabled 0 0 = false ∧ both.cqEnabled 0 0 = true ∧ (both.applyWrite 0 none 0x801020 sq 0x8000401B).bitOf sq 31 = true
    ∧ on.bitOf sq 31 = true ∧ on.bitOf cq 31 = true ∧ off.bitOf cq 31 = false ∧ (off.applyWrite 0 none 0x802018 cq 0x80000006).bitOf cq 31 = true
    ∧ ((List.range 64).any fun n => on.sqActive 0 n && on.cqOf 0 n = 0) = true ∧ ((List.range 64).any fun n => cqOnly.sqActive 0 n && cqOnly.cqOf 0 n = 0) = false
    ∧ on.othersDiffer sq 0 = true ∧ (on.flag 0 0).valid = false ∧ ((on.setFlag 0 0 ⟨5, 0, true⟩).flag 0 0).valid = true := by
  refine ⟨rfl, rfl, rfl, rfl, rfl, rfl, rfl, rfl, ?_⟩; decide

theorem witness_RegisterCommandsStoreShadowLatchAndClear :
    let a := powered.arrive 7
    let b := powered.stamped 7
    a.wrFront 0 none 0x801024 15#4 = (a, some { name := .sqPoll }) ∧ b.wrFront 0 none 0x400004 15#4 = (b, some { name := .frLen })
    ∧ b.wrFront 0 none 0x40000C 15#4 = (b, some { name := .frCommit })
    ∧ a.rowOwned { name := .sqPoll } 100 = false ∧ a.refuses { name := .sqPoll } 100 = false
    ∧ (judge (Reg.fields { name := .sqPoll }) (a.readReg { name := .sqPoll }) 0).2 = true
    ∧ ({ name := .frLen } : Reg).wsBlk.isSome = true ∧ (judgeWs (Reg.fields { name := .frLen }) (b.shadow.get { name := .frLen }).toNat 0).2 = true
    ∧ RegName.frCommit.blk = some .fr ∧ (b.armed.any fun x => x.1 = .fr) = false
    ∧ b.target 0 none 0x400020 = some { name := .frPtb } ∧ RegName.frPtb.latched = true ∧ b.target 0 none 0x800114 = some { name := .evqStat }
    ∧ b.target 0 none 0x20004 = some { name := .coChk } ∧ b.target 0 none 0x20000 = some { name := .coFrz } ∧ b.target 0 none 0x50100 = some { name := .ftCore }
    ∧ (ringing id).refuses { name := .sqPoll } 101 = true ∧ (ringing id).wrFront 0 none 0x801024 15#4 = (ringing id, some { name := .sqPoll }) := by
  refine ⟨rfl, rfl, rfl, by decide, by decide, by decide, by decide, by decide, by decide, by decide, by decide, by decide, by decide, by decide,
    by decide, by decide, by decide, rfl⟩

/-! ### L2, fabric, pool -/

/-- An export entry of one 64 KiB page: its flags byte and the rights of its sharer, endpoint 5. -/
def exportOf (flags : Byte) (rights : Byte) : List Byte :=
  [flags, 0, 0, 0, 8, 0, 0, 0, 0, 0, 2, 0, 0, 0, 0, 0, 0, 0, 1] ++ List.replicate 45 0 ++ [5, 0, rights, 0x80] ++ List.replicate 60 0

/-- Window 0 is SNAPSHOT, 1 SCRATCH, 2 ACCUM, 3 SCRATCH under a lock, 4 SCRATCH without rights; QL3 runs on port 0. -/
def exporting : State :=
  let s := ticking.setReg (qlStatReg 0) 6
  { s with pool := { s.pool with exps := [⟨0, exportOf 1 0x0E⟩, ⟨1, exportOf 3 0x0E⟩, ⟨2, exportOf 5 0x0E⟩, ⟨3, exportOf 0x13 0x0E⟩, ⟨4, exportOf 3 0⟩] } }

/-- Line 0 of stack 0 in L2, both sectors valid. -/
def cached : State :=
  { powered with mem := { powered.mem with slices := powered.mem.slices.set 0 { L2Slice.reset with lines := [⟨0, 0, [true, true], [false, false], List.replicate 128 7⟩] } } }

theorem witness_SliceHitsServeReadsAndWrites :
    let a := cached.stamped 7
    a.maskedSrc 47 = false ∧ 127 < devT ∧ a.stackDead (stackOf 127) = false ∧ stackOf 127 < a.mem.slices.length
    ∧ ((a.slice 0).waitq.any fun q => q.addr / 128 = localOf 127 / 128) = false ∧ (a.slice 0).mshr? 0 = none
    ∧ (a.slice 0).line? (localOf 127 / 128) = some ⟨0, 0, [true, true], [false, false], List.replicate 128 7⟩
    ∧ a.writeThrough 0 0 127 2 false [1] = true ∧ (a.slice 0).order = [] := by decide

theorem test_l2_hit : (after (.l2Read 7 47 120 16 0 0 0 none false) cached).out = [.l2Data 0 0 (List.replicate 8 7)] := by decide

theorem witness_FillsScrubsAndMaintenance :
    let a := powered.stamped 7
    let f := after (.l2Read 7 47 0 64 0 0 0 none false) powered
    let c := (powered.setReg { name := .maintAddr } 0).setReg { name := .maintLen } 1
    let d : State := { powered with mem := { powered.mem with maint := [some ⟨true, []⟩, none] } }
    f.stackDead 0 = false ∧ ((f.slice 0).mshr? 0).isSome = true ∧ a.fieldOf { name := .mcScrub } 0 8 ≠ 0 ∧ a.stackDead 8 = false
    ∧ c.wrFront 0 none offMaintCtl 15#4 = (c, some (rMaintCtl 0)) ∧ bitf (judge (Reg.fields (rMaintCtl 0)) (c.readReg (rMaintCtl 0)) 5).1 0 2 = 1
    ∧ bitf (judge (Reg.fields (rMaintCtl 0)) (c.readReg (rMaintCtl 0)) 6).1 0 2 = 2 ∧ 0 < c.mem.maint.length
    ∧ (let b := c.applyWrite 0 none offMaintCtl (rMaintCtl 0) 1
       (b.pairOf .maintAddr 0 / 128 + b.reg { name := .maintLen } - 1) * 128 < devT)
    ∧ (let b := (c.setReg { name := .maintAddr, hi := true } 0x6C).applyWrite 0 none offMaintCtl (rMaintCtl 0) 1
       devT ≤ (b.pairOf .maintAddr 0 / 128 + b.reg { name := .maintLen } - 1) * 128)
    ∧ d.mem.maint.getD 0 none = some ⟨true, []⟩ ∧ (d.maintLeft ⟨true, []⟩).isEmpty = true := by
  refine ⟨by decide, by decide, by decide, by decide, rfl, by decide, by decide, by decide, by decide, by decide, rfl, by decide⟩

theorem witness_LinksPortsAndSourcesFailOrAreIsolated :
    let a := powered.stamped 1001032
    let half := { powered with fab := { powered.fab with halfLinks := [(0, 1)], changed := true } }
    let u := powered.setReg (qlCfgReg 0) 3
    let f := (u.setReg (qlStatReg 0) 2).onQl 0 fun z => { z with fails := 2, downAt := some 0 }
    linkOf 1 0 ∈ links ∧ linkOf 1 0 ∉ a.fab.deadLinks ∧ linkOf 1 0 ∉ a.fab.halfLinks ∧ linkOf 1 0 ∈ half.fab.halfLinks ∧ half.fab.changed = true
    ∧ a.fab.changed = false ∧ a.pairOf .arIso < 2 ^ 64 ∧ 8 < a.mem.slices.length
    ∧ u.bitOf (qlCfgReg 0) 0 = true ∧ u.bitOf (qlCfgReg 0) 1 = true ∧ u.fdAlive 0 = true ∧ 0 < u.fab.ports.length ∧ u.fieldOf (qlStatReg 0) 0 2 = 0
    ∧ (u.fab.ports.getD 0 ⟨none, 0, 0⟩).fails = 0 ∧ f.fieldOf (qlStatReg 0) 0 2 = 2 ∧ f.fab.ports.getD 0 ⟨none, 0, 0⟩ = ⟨some 0, 2, 0⟩
    ∧ 0 + 1000000 + 32 ≤ 1001032 := by decide

theorem witness_WindowsAreReadAndWritten :
    let a := exporting.stamped 7
    let y : Xfer := ⟨4, .remote, 0, 0, 64, 0, 0, 64, 0x10, false, [], [], 1, 0, false⟩
    let r := streaming [seFenceWord] fun e => { e with xfers := [y] }
    a.window 9 = none ∧ a.window 1 = some (exportOf 3 0x0E) ∧ expSize (exportOf 3 0x0E) = 65536 ∧ expKind (exportOf 1 0x0E) = 0 ∧ expKind (exportOf 3 0x0E) = 1
    ∧ remoteRight (exportOf 3 0) 5 17 = false ∧ remoteRight (exportOf 3 0) 5 18 = false ∧ remoteRight (exportOf 3 0x0E) 5 17 = true
    ∧ remoteRight (exportOf 3 0x0E) 5 18 = true ∧ a.lockOk 3 (exportOf 0x13 0x0E) 0 = false ∧ a.lockOk 1 (exportOf 3 0x0E) 0 = true
    ∧ (a.writeRange false (expBase (exportOf 3 0x0E) + 65535) [1]).isSome = true
    ∧ ((r.core 0).xfer? 1 4 = some y ∧ y.kind = .remote ∧ y.op = 0x10 ∧ y.acks ≠ 0 ∧ y.csLen = 64) := by decide

theorem witness_WindowsAreReadAndWritten_read : let a := exporting.stamped 7
    ∀ i, i < 64 → (a.serve (expMirror (exportOf 1 0x0E)) (expBase (exportOf 1 0x0E) + 65472 + i)).isSome = true := by decide

theorem witness_AtomicsActAtOnce :
    let a := exporting.stamped 7
    let m : Reg := { name := .amCmd }
    a.window 9 = none ∧ a.window 1 = some (exportOf 3 0x0E) ∧ expKind (exportOf 1 0x0E) ≠ 1 ∧ 65532 % 8 ≠ 0 ∧ 65528 + 8 ≤ expSize (exportOf 3 0x0E)
    ∧ 65532 + 4 ≤ expSize (exportOf 3 0x0E) ∧ remoteRight (exportOf 3 0) 5 19 = false ∧ remoteRight (exportOf 3 0x0E) 5 19 = true
    ∧ a.lockOk 3 (exportOf 0x13 0x0E) 0 = false ∧ a.lockOk 1 (exportOf 3 0x0E) 0 = true ∧ a.windowLost (exportOf 3 0x0E) (expBase (exportOf 3 0x0E) + 65528) 8 = false
    ∧ a.wrFront 0 none 0x800220 15#4 = (a, some m) ∧ ([1, 2, 3, 4].all fun op => bitf (judge m.fields (a.readReg m) (0x1000 + op)).1 0 4 = op) = true := by
  refine ⟨by decide, by decide, by decide, by decide, by decide, by decide, by decide, by decide, by decide, by decide, by decide, rfl, by decide⟩

theorem test_cas : let t := after (.cas64 7 none 0 5 1 65528 0 9 0) exporting
    t.out = [.ql 0 0x08 [5, 1, 0, 0] []] ∧ t.readRange false false (expBase (exportOf 3 0x0E) + 65528) 1 = some [9] := by decide

theorem witness_PoolLocksAreLeased :
    let a := exporting.stamped 32
    let h := { exporting with pool := { exporting.pool with locks := [⟨1, true, 5, 5, 3⟩] } }
    let o := { h with frames := { h.frames with frn := 6 } }
    a.window 9 = none ∧ a.window 4 = some (exportOf 3 0) ∧ remoteRight (exportOf 3 0) 5 19 = false ∧ remoteRight (exportOf 3 0x0E) 5 19 = true
    ∧ (a.lockNow 1).held = false ∧ (h.lockNow 1).held = true ∧ (h.lockNow 1).token = 3 ∧ (o.lock 1).held = true ∧ (o.lock 1).leaseEnd + 1 = o.frames.frn
    ∧ o.frames.tick + 32 ≤ 32 := by decide

/-- A remote scope of endpoint 5 in window 0, with two messages received. -/
def aScope (st : ScopeState) : Scope :=
  { num := 0, win := 0, init := 5, asn := 7, attempt := 1, state := st, count := 2, refused := 0, pages := [], deltas := [], frn := 5, sub := 0, since := 3, lockTok := [] }

def holding (x : Scope) : State := { exporting with pool := { exporting.pool with scopes := [x], tokens := [(5, 2)] } }

set_option maxRecDepth 8000 in
/-- The first status of each kind; a fresh scope of each kind, one that votes, a later and an older attempt. -/
theorem witness_StagedWritesJoinTheirScope :
    let a := (exporting.stamped 7).seeToken 5 0
    let c := exporting.setPageEntry 2 ⟨false, true, 3⟩
    a.window 9 = none ∧ a.window 0 = some (exportOf 1 0x0E) ∧ a.window 2 = some (exportOf 5 0x0E) ∧ a.bitOf (qlStatReg 0) 2 = true ∧ a.bitOf (qlStatReg 1) 2 = false
    ∧ expKind (exportOf 3 0x0E) = 1 ∧ a.scope? 0 5 7 = none ∧ (∃ x, (holding (aScope .receiving)).scope? 0 5 7 = some x ∧ 0 < x.attempt)
    ∧ (∃ x, (holding (aScope .votedYes)).scope? 0 5 7 = some x ∧ x.attempt ≤ 1 ∧ x.state ≠ .receiving)
    ∧ ((pagesOf (windowPlace (exportOf 1 0x0E)) 65472 64).any fun g => (c.pageEntry g).stg && (c.pageEntry g).owner != 0) = true
    ∧ ((pagesOf (windowPlace (exportOf 1 0x0E)) 65472 64).any fun g => (a.pageEntry g).stg && (a.pageEntry g).owner != 0) = false
    ∧ expSize (exportOf 1 0x0E) < 65473 + 64 ∧ remoteRight (exportOf 1 0x0E) 5 18 = true ∧ remoteRight (exportOf 5 0x0E) 5 19 = true
    ∧ ¬ 0 < a.topToken 5 ∧ 1 < (holding (aScope .receiving)).topToken 5
    ∧ (a.scopeFor 0 5 7 0).2.isSome = true
    ∧ saccStatus 65536 1 (leBytes 8 0x1000000000000 ++ leBytes 8 0) = stOK ∧ saccStatus 65536 0 (leBytes 8 0x1000000000000 ++ leBytes 8 0) ≠ stOK := by
  exact ⟨by decide, by decide, by decide, by decide, by decide, by decide, by decide, ⟨_, rfl, by decide⟩, ⟨_, rfl, by decide⟩,
    by decide, by decide, by decide, by decide, by decide, by decide, by decide, by decide, by decide, by decide⟩

theorem test_swr_refused : (after (.swr 7 0 5 0 65473 5 7 0 0 0 (List.replicate 64 1)) exporting).out = [.ql 0 0x06 [5, 0, 7, 5, stRANGE] []]
    ∧ (after (.swr 7 0 5 4 0 5 7 0 0 0 [1]) exporting).out = [.ql 0 0x06 [5, 4, 7, 5, stKIND] []] := by decide

theorem witness_RemoteScopesVoteAndSettle :
    let r := (holding (aScope .receiving)).stamped 7
    let y := (holding (aScope .votedYes)).stamped 7
    let n := (holding { aScope .receiving with refused := 3 }).stamped 7
    1 < r.topToken 5 ∧ r.topToken 5 ≤ 2 ∧ r.bitOf (qlStatReg 0) 2 = true ∧ r.bitOf (qlStatReg 1) 2 = false ∧ r.scope? 0 5 7 = some (aScope .receiving) ∧ r.window 0 = some (exportOf 1 0x0E) ∧ (aScope .receiving).lockTok = []
    ∧ expGuard (exportOf 1 0x0E) = false ∧ (aScope .receiving).refused = 0 ∧ (aScope .receiving).count = 2 ∧ (aScope .receiving).count ≠ 1
    ∧ n.scope? 0 5 7 = some { aScope .receiving with refused := 3 }
    ∧ ((y.pool.scopes.filter fun x => x.win = 0 && x.init = 5).filter fun x => x.frn = 5 && x.sub = 0 && x.state = .votedYes && !([] : List Nat).contains x.asn) ≠ []
    ∧ ((r.pool.scopes.filter fun x => x.win = 0 && x.init = 5).filter fun x => x.frn = 6 && x.sub = 0 && x.state = .votedYes && !([] : List Nat).contains x.asn) = []
    ∧ ((r.pool.scopes.filter fun x => x.win = 0 && x.init = 5).filter fun x => ([7].contains x.asn) && x.state != .committing) ≠ []
    ∧ y.scope? 0 5 7 = some (aScope .votedYes) ∧ (aScope .votedYes).since + (y.setReg { name := .plCtl } 2).fieldOf { name := .plCtl } 0 16 ≤ y.frames.frn
    ∧ y.frames.frn < (aScope .votedYes).since + (y.setReg { name := .plCtl } 3).fieldOf { name := .plCtl } 0 16 := by decide

theorem test_prep_and_commit : let t := after (.prep 7 0 5 0 5 0 2 [(7, 2)]) (holding (aScope .receiving))
    t.out = [.ql 0 0x11 [5, 0, 5, 0, 1, 0] []] ∧ (after (.commit 8 0 5 0 5 0 2 []) t).pool.scopes = []
    ∧ (after (.prep 7 1 5 0 5 0 2 [(7, 2)]) (holding (aScope .receiving))).out = [.ql 1 0x11 [5, 0, 5, 0, 0, stKIND] []] := by decide

/-- An import entry that allows 100 ns, a remote transfer of engine 1 waiting for one answer, and a scope with one target. -/
def importing : State :=
  let y : Xfer := ⟨4, .remote, 0, 0, 64, 4, 0, 64, 0x11, false, [], [], 1, 7, false⟩
  let g : RTarget := ⟨9, 0, 3⟩
  let r : Region := { aRegion with kind := .poolRemote, target := 9 }
  let x := { aCtx with regions := [none, none, none, none, some r, none, none] }
  let s := (ticking.setReg (qlStatReg 0) 6).onCore 0 fun k => { k.putEngine 1 { StreamEng.reset with running := true, asn := 7, code := [seFenceWord], xfers := [y] } with
    segs := [{ ctx := x, prog := none, items := [], urgent := false, started := true, finished := false }] }
  { s with ops := { s.ops with list := [{ anOp with ctx := x, targets := [g], sent := [(0, 2)] }], decs := [{ aDec 5 0 200000 with remote := [(g, false)] }] },
           pool := { s.pool with imps := [⟨0, [1, 0, 9, 0, 3, 0, 0, 0] ++ List.replicate 12 0 ++ [100, 0, 0, 0] ++ List.replicate 8 0⟩] } }

theorem witness_InitiatorCountsAnswersAndVotes :
    let a := importing.stamped 194400
    (∃ y, (a.core 0).xfer? 1 4 = some y ∧ y.kind = .remote ∧ y.acks ≠ 0 ∧ ∃ o r, a.xferRegion 0 1 y = some (o, r) ∧ 107 ≤ y.at_ + a.ackNs r ∧ y.at_ + a.ackNs r < 108
        ∧ y.at_ + a.ackNs r + 32 ≤ 139)
    ∧ ((a.core 0).engine 1).asn = 7 ∧ (a.op? 7).isSome = true ∧ a.frames.ticking = true ∧ a.guardAt + 400 ≤ 194400 ∧ (194399 : Nat) < a.guardAt + 400
    ∧ targetsOf (a.scopeAt 0) = [⟨9, 0, 3⟩] ∧ a.bitOf (qlStatReg (a.qlNow 0)) 2 = true ∧ a.fieldOf (qlStatReg (a.qlNow 0)) 0 2 = 2
    ∧ (∃ o, a.scopeAt 0 = [o] ∧ a.op? o.ctx.asn = some o) ∧ a.voteAt = 198000 ∧ (a.dec? 5 0).isSome = true ∧ a.dec? 5 1 = none
    ∧ (∃ b, a.import 0 = some b ∧ fld b 2 2 = 9 ∧ fld b 4 4 = 3) := by
  exact ⟨⟨_, rfl, by decide, by decide, _, _, rfl, by decide⟩, by decide, by decide, by decide, by decide, by decide, by decide, by decide, by decide,
    ⟨_, rfl, rfl⟩, by decide, by decide, by decide, ⟨_, rfl, by decide⟩⟩

/-! ### Host ports, boot -/

/-- Port 0's link is up as CXL 3.1 with CXL.mem, its configuration space ready, function 0 with bus mastering. -/
def linked (f : HostPort → HostPort) : State :=
  let s := ((powered.setReg (hlLstat 0) (2 * 64 + 0x200 + 5)).setReg (hlCtl 0) 0x10).onPort 0 fun h =>
    f { h with up := true, perst := false, cfgReady := true, steady := some 0 }
  (s.setReg { name := .msix, dev := 0, n := 3 } 0).onFunc 0 0 fun x => { x with bme := true, msixEn := true, pend := 1 }

theorem witness_HostLinksComeAndGo :
    let d := (linked fun h => { h with up := false }).arrive 7
    let l := (linked id).arrive 1000000000
    let gone := (linked fun h => { h with up := false, downAt := some 0 }).arrive 1000032
    linkMode 6 2 2 true = true ∧ linkMode 6 1 0 false = false ∧ (d.port 0).up = false ∧ (d.port 0).perst = false ∧ d.boot.perstFrom ≤ 7 ∧ d.pwr.inReset = false
    ∧ d.fdAlive 0 = true ∧ 0 < d.ports.length ∧ (l.port 0).up = true ∧ gone.portDue 0 1000032 = true ∧ gone.portDue 0 1000031 = false
    ∧ (l.port 0).steady = some 0 ∧ l.portLost 0 = false ∧ 0 + 1000000000 ≤ 1000000000 ∧ (l.port 0).funcs[0]?.isSome = true
    ∧ l.fieldOf (hlLstat 0) 6 2 ≠ 0 ∧ powered.fieldOf (hlLstat 0) 6 2 = 0 := by decide

theorem test_link_up : let t := after (.linkUp 7 0 6 2 2 true) (linked fun h => { h with up := false })
    (t.port 0).up = true ∧ t.reg (hlLstat 0) % 256 = 6 + 2 * 8 + 32 + 2 * 64 := by decide

theorem witness_FunctionsAreConfiguredAndReport :
    let a := (linked fun h => { h with ats := [(0, 0)], lines := [⟨0x2000, false, true⟩], ide := [⟨true, true, false⟩, ⟨false, false, false⟩, ⟨false, false, false⟩],
                                       spdm := { h.spdm with finished := true } }).arrive 100032
    let n := (linked fun h => { h with cfgReady := false }).arrive 7
    let v := (linked fun h => { h with vfEn := true, numVfs := 63 }).arrive 7
    let r := (ringing id).onPort 0 fun h => { h with lines := [⟨0x2000, false, true⟩] }
    (n.port 0).cfgReady = false ∧ (a.port 0).cfgReady = true ∧ a.funcOn 0 0 = true ∧ v.funcOn 0 63 = true ∧ 63 < (v.port 0).funcs.length
    ∧ ((a.func 0 0).msixEn = true ∧ (a.func 0 0).fmask = false ∧ (a.func 0 0).bme = true ∧ (a.func 0 0).d3 = false ∧ bit (a.func 0 0).pend 0 = true
        ∧ a.bitOf { name := .msix, dev := 0, n := 3 } 0 = false ∧ (a.func 0 0).errs < 2)
    ∧ a.fieldOf (hlLstat 0) 6 2 = 2 ∧ (a.port 0).vfEn = false ∧ (v.port 0).vfEn = true ∧ 2 ≤ ((v.onFunc 0 0 fun x => { x with errs := 2 }).func 0 0).errs
    ∧ (∃ y ∈ (a.port 0).ats, y.1 = 0 ∧ y.2 + 100000 + 32 ≤ 100032)
    ∧ (∃ l ∈ (r.port 0).lines, l.reading = true ∧ l.addr ∈ r.watchedLines 0 ∧ r.lineFunc 0 l.addr = 0)
    ∧ (a.port 0).ide[0]? = some ⟨true, true, false⟩ ∧ (a.port 0).ide[2]? = some ⟨false, false, false⟩ ∧ (a.port 0).spdm.finished = true
    ∧ 4 < (if a.fieldOf (hlLstat 0) 6 2 = 0 then 4 else 5) := by decide

theorem test_virtual_functions : ((after (.vfEnable 7 0 63 true) (linked id)).port 0).numVfs = 63
    ∧ (after (.vfEnable 7 0 64 true) (linked id)).port 0 = (linked id).port 0 := by decide

theorem witness_HostAccessReachesCommittedMemory :
    let a := (linked fun h => { h with heldRds := [⟨3, 0x10000, 64, true⟩], nextId := 4 }).arrive 7
    let u := powered.arrive 7
    let held := { (linked fun h => { h with heldRds := [⟨3, 0x10000, 64, true⟩], nextId := 4 }) with
      ops := { powered.ops with list := [{ anOp with ctx := { aCtx with regions := [none, none, none, none, some aRegion, none, none] }, pages := [1], voted := true }] } }
    a.hdmOn 0 = true ∧ u.hdmOn 0 = false ∧ a.hostBase 0 true = 0 ∧ devT < 0x6BFFFFFFC1 + 64 ∧ 0x6BFFFFFFC0 + 64 ≤ devT
    ∧ a.rangeHeld 0x10000 64 = false ∧ (∀ i, i < 64 → (a.hostByte [] (0x10000 + i)).isSome = true)
    ∧ ((a.setReg rFtFailed 0x10000).hostByte [] 0x10000) = none ∧ ((a.setReg rFtFailed 0x10000).hostPut [] 0x10000 1) = none
    ∧ (a.hostPut [] 0x10000 1).isSome = true ∧ (a.port 0).heldRds.find? (·.id = 3) = some ⟨3, 0x10000, 64, true⟩ ∧ held.rangeHeld 0x10000 64 = true := by decide

theorem test_host_access : (after (.hostHbmRead 8 0 false 0x10000 2 0 []) powered).out.head? = some (.completion 0 0 cplOk [0, 0])
    ∧ (after (.hostHbmRead 8 0 false 0x6BFFFFFFFF 2 0 []) powered).out.head? = some (.completion 0 0 cplUr [])
    ∧ (after (.hostHbmWrite 7 0 false 0x10000 [9] []) powered).devByte 0x10000 = 9 := by decide

/-- Negotiated to each point, with a session open. -/
def talking (f : Spdm → Spdm) : State :=
  let s := powered.onPort 0 fun h => { h with spdm := f h.spdm }
  s.onFd 0 fun f => { f with stoker := true }

theorem witness_SpdmAnswersInOrder :
    let n := (talking id).arrive 7
    let a := (talking fun x => { x with version := true, caps := true, algs := true }).arrive 7
    let o := (talking fun x => { x with version := true, caps := true, algs := true, session := some 3 }).arrive 7
    let f := (talking fun x => { x with version := true, caps := true, algs := true, session := some 3, finished := true }).arrive 7
    0 < n.ports.length ∧ (n.fd 0).stoker = true ∧ (n.port 0).spdm.version = false ∧ (n.port 0).spdm.caps = false ∧ (n.port 0).spdm.algs = false
    ∧ (a.port 0).spdm.version = true ∧ (a.port 0).spdm.caps = true ∧ (a.port 0).spdm.algs = true ∧ (a.port 0).spdm.session = none ∧ 31 % 16 = 15 ∧ 14 % 16 ≠ 15
    ∧ (o.port 0).spdm.session = some 3 ∧ (o.port 0).spdm.finished = false ∧ (f.port 0).spdm.session = some 3 ∧ (f.port 0).spdm.finished = true := by decide

/-! ### Boot, power, reset, faults -/

/-- A fabric die that reads slot 0 of a blank flash. -/
def booting (second : Bool) : State := powered.onFd 0 fun f => { f with reading := true, slot := 0, second := second }

theorem witness_FabricDiesBootAndKeepFirmware :
    let a := (booting false).arrive 7
    let z := (booting true).arrive 7
    let n := (({ powered with boot := { powered.boot with ready := false } }.onFd 0 fun f => { f with stoker := true, store := [1] }).onFd 1 fun f => { f with stoker := true }).arrive 7
    let r := (powered.onFd 0 fun f => { f with recovery := true }).arrive 7
    let k := (powered.onFd 0 fun f => { f with stoker := true, flashOp := some (3 + 4 * 1 + 8 * 1) }).arrive 7
    (0 < a.boot.fds.length ∧ 0 < a.ports.length ∧ a.pwr.inReset = false ∧ (a.fd 0).reading = true ∧ (a.fd 0).slot = 0
      ∧ slotOk ((a.fd 0).flashRd 0) (a.fd 0).fuseSvn = false ∧ (a.fd 0).second = false ∧ (z.fd 0).second = true)
    ∧ (n.chooseMaster.cm.master = 0 ∧ n.boot.ready = false ∧ (n.fd 0).stoker = true ∧ n.fdAlive 1 = true ∧ (n.fd 1).stoker = true
        ∧ slotOk (n.fd 0).storeRd (n.fd 1).fuseSvn = false)
    ∧ r.wrFront 0 none offRcvCtl 15#4 = (r, some { name := .scRcvCtl }) ∧ slotOk (r.fd 0).rcvRd (r.fd 0).fuseSvn = false
    ∧ k.wrFront 0 none offSvnCommit 15#4 = (k, some { name := .scSvnCommit }) ∧ (k.fd 0).stoker = true
    ∧ k.wrFront 0 none offFlashCtl 15#4 = (k, some { name := .scFlashCtl })
    ∧ ([1, 2, 3].all fun op => bitf (judge (Reg.fields { name := .scFlashCtl }) (k.readReg { name := .scFlashCtl }) (8 + op)).1 0 2 = op) = true
    ∧ k.bitOf { name := .scFlashCtl } 4 = false ∧ (k.setReg { name := .scFlashCtl } 16).bitOf { name := .scFlashCtl } 4 = true
    ∧ (k.fd 0).flashOp = some (3 + 4 * 1 + 8 * 1) := by
  refine ⟨by decide, by decide, rfl, by decide, rfl, by decide, rfl, by decide, by decide, by decide, by decide⟩

/-- The clauses over images that verify: hash and signature are opaque (log entry 9), so no bytes of ours show one; a slot
that verifies meets them. -/
theorem witness_FabricDiesBootAndKeepFirmware_verified (f : FdBoot) (h : slotOk (f.flashRd 0) f.fuseSvn = true) :
    let s := { powered with boot := { powered.boot with resetAt := some 0, fds := [{ f with reading := true, slot := 0 }, FdBoot.reset] } }
    let a := s.arrive 7
    a.pwr.inReset = false ∧ (a.fd 0).reading = true ∧ (a.fd 0).slot = 0 ∧ a.boot.resetAt ≠ none ∧ slotOk ((a.fd 0).flashRd 0) (a.fd 0).fuseSvn = true :=
  ⟨rfl, rfl, rfl, Option.some_ne_none 0, h⟩

theorem witness_FailedDiesAreDeclared :
    (powered.stamped 7).hasMaster = true ∧ powered.dieDead 8 = false ∧ (powered.arrive 7).flt.banked = some 8 ∧ (powered.arrive 7).pwr.inReset = false
    ∧ ((powered.setReg rFtFailed 0xC0000).stamped 7).hasMaster = false ∧ powered.pwr.waits = [] := by decide

set_option maxRecDepth 8000 in
theorem witness_OtherTripsAndReportsActOnTheirPart :
    let a := powered.arrive 7
    let one := (powered.setReg { name := .ftCfg } 0x11).stamped 7
    let k := onCore0 fun k => { k with segs := [{ copySeg .scratch 4096 [] with prog := some { Prog.idle with imageLen := 4096, wbase := 4096, work := 4096 } }] }
    powered.md.on = true ∧ a.pwr.inReset = false ∧ a.hasMaster = true ∧ a.stackDead 8 = false ∧ a.frames.dies.length = 11 ∧ a.cm.master = 0
    ∧ one.fieldOf { name := .ftCfg } 0 4 = 1 ∧ one.fieldOf { name := .ftCfg } 4 8 = 1 ∧ one.hasMaster = true ∧ one.dieDead (35 / 4) = false
    ∧ (((35, one.frames.frn) :: one.flt.reports).filter fun r => one.frames.frn < r.2 + 1).length = 1
    ∧ ({ k.core 0 with ft := { (k.core 0).ft with csUe := true } } : Core).lineOwner 8191 = some 7 := by decide

theorem witness_PowerInputsClocksAndTestPort :
    let a := powered.arrive 7
    let l := ({ powered with pwr := { powered.pwr with vin := [true, false], refclk1 := true, straps := [false, false, true] } }).arrive 7
    a.pwr.vin.length = 2 ∧ a.pwr.inReset = false ∧ a.pwr.vin.getD 1 false = true ∧ l.pwr.vin.getD (1 - 0) false = false ∧ a.pwr.refclk1 = false
    ∧ l.pwr.refclk1 = true ∧ l.pwr.straps.getD 2 false = true := by decide

set_option maxRecDepth 8000 in
theorem test_last_input_lost : let t := after (.vinLoss 8 1) (after (.vinLoss 7 0) powered)
    t.pwr.pwrOk = false ∧ t.pwr.inReset = true ∧ t.md = powered.md := by decide

theorem witness_PowerSequencesStartAndStopThePackage :
    State.reset.pwr.pwrOk = false ∧ State.reset.pwr.pwrDn = false ∧ (State.reset.pwr.vin.any (·)) = true ∧ State.reset.boot.fds.length = 2
    ∧ (({ State.reset with pwr := { State.reset.pwr with coldLow := true } } : State).arrive 7).pwr.coldLow = true
    ∧ (powered.arrive 7).pwr.pwrOk = true ∧ (powered.arrive 7).pwr.coldLow = false ∧ 1 < (powered.arrive 7).ports.length := by decide

set_option maxRecDepth 8000 in
theorem test_power_on_starts_the_boot : let t := after (.pwrOk 7 false false true false) State.reset
    t.pwr.straps = [false, false, true] ∧ t.pwr.inReset = false ∧ (t.boot.fds.map (·.reading)) = [true, true] ∧ t.cm.token = 1 := by decide

theorem witness_FullResetsKeepWhatOutlivesThem :
    let a := powered.arrive 7
    a.pwr.pwrOk = true ∧ a.pwr.pwrDn = false ∧ a.pwr.coldLow = false ∧ a.pwr.inReset = false ∧ a.boot.ready = true ∧ a.boot.resetAt = none
    ∧ a.wrFront 0 none offGxCtl 15#4 = (a, some { name := .gxCtl }) ∧ State.reset.pwr.pwrOk = false ∧ 1 < a.ports.length := by
  refine ⟨rfl, rfl, rfl, rfl, rfl, rfl, rfl, rfl, by decide⟩

set_option maxRecDepth 8000 in
theorem test_full_reset : let t := after (.fullReset 7 0 15#4 0x0A5A#32) powered
    t.cm.token = 2 ∧ t.boot.resetAt = some 7 ∧ t.boot.ready = false := by decide

/-- READY, with the configuration values the pass checks. -/
def readied : State := { powered with boot := { powered.boot with done := false } }

set_option maxRecDepth 50000 in
theorem witness_JournalPassesFollowAReset :
    let a := (({ powered with boot := { powered.boot with ready := false, done := false } }.onFd 0 fun f => { f with stoker := true }).onFd 1 fun f => { f with stoker := true }).arrive 7
    let c := ((a.reboot 0).reboot 1).chooseMaster
    a.pwr.pwrOk = true ∧ a.pwr.inReset = false ∧ a.boot.ready = false ∧ (∀ f, f < 2 → ((if c.hasMaster then c.settleWaits else c).fd f).reading = false)
    ∧ ((if c.hasMaster then c.settleWaits else c).fd 0).stoker = true ∧ dlogHeaderOk (List.replicate 64 0) = false
    ∧ dlogHeaderOk (withCrc ([0x20] ++ List.replicate 63 0) 0x3C) = true
    ∧ (({ readied with boot := { readied.boot with pass := some true } } : State).arrive 7).boot.pass.isSome = true := by decide

set_option maxRecDepth 8000 in
theorem witness_JournalPassesFollowAReset_go : (readied.goFront 0 15#4 2 false).2 = true ∧ (readied.goFront 0 15#4 6 true).2 = true := by decide

/-! ### The meter -/

/-- A summary of session 3, frame 5, token 2: accounts `x` and `y` with one unit each. -/
def sumBytes (x y : Byte) : List Byte :=
  withCrc ([0x31, 2, 0, 0, 3, 0, 0, 0, 5, 0, 0, 0, 0, 0, 0, 0, 2, 0, 0, 0, 0, 0, 0, 0, 1, 0, 0, 0, 1, 0, 0, 0] ++ List.replicate 16 0 ++
    [x, 0, 1, 0, 0, 0, 0, 0, y, 0, 1, 0, 0, 0, 0, 0]) 0x20

def metered (f : Meter → Meter) : State := { State.reset with md := f State.reset.md }

set_option maxRecDepth 8000 in
theorem witness_MeterLedgerIsKeptByEveryStep : State.reset.meterLawful
    ∧ ∃ t, step { State.reset with pending := [.energySample 10000 48000 1000000 48000 1000000] } = .next t :=
  ⟨by unfold State.meterLawful Meter.lawful Legal.lawful; decide, ⟨_, rfl⟩⟩

set_option maxRecDepth 8000 in
theorem test_energy : let t := after (.energySample 10000 48000 64000000 48000 64000000) State.reset
    t.md.winN = 1 ∧ t.md.legal = State.reset.md.legal ∧ bit t.md.health 7 = false
    ∧ bit (after (.energySample 10000 48000 64000001 48000 0) State.reset).md.health 7 = true := by decide

set_option maxRecDepth 50000 in
theorem witness_EnergyIsSampledAndApportioned :
    let s := metered fun m => { m with session := some 3, token := 2, lastFrn := 4 }
    let h := metered fun m => { m with held := [⟨5, 2, 1, 1, [(1, 1), (2, 1)], 0⟩], fresh := false }
    s.md.on = true ∧ s.md.restart = false ∧ Meter.outOfRange 75000 (-64000000) = false ∧ Meter.outOfRange 75001 0 = true
    ∧ Meter.noLoad ≤ (s.md.winP + ((s.md.samplePower 0 75000 64000000) + (s.md.samplePower 1 75000 64000000))) * 1000
    ∧ fld (sumBytes 1 2) 0 1 = 0x31 ∧ Meter.sumOk (sumBytes 1 2) = true ∧ Meter.sumOk (sumBytes 2 1) = false ∧ fld (sumBytes 1 2) 4 4 = 3
    ∧ fld (sumBytes 1 2) 8 8 = 5 ∧ fld (sumBytes 1 2) 0x10 8 = 2 ∧ s.md.held = [] ∧ State.reset.md.session ≠ some 3
    ∧ h.md.held = [⟨5, 2, 1, 1, [(1, 1), (2, 1)], 0⟩] ∧ 0 + 50000 ≤ 50000 ∧ h.md.lastFrn < 5 ∧ h.md.fresh = false := by decide

theorem witness_InvalidSummariesHaveNoEffect :
    (∃ e ∈ Meter.sumEntries (sumBytes 1 128), 127 < e.1) ∧ fld (sumBytes 1 128) 0 1 = 0x31 ∧ State.reset.md.on = true ∧ State.reset.md.restart = false
    ∧ (∃ x y, (Meter.sumEntries (sumBytes 2 2))[0]? = some x ∧ (Meter.sumEntries (sumBytes 2 2))[0 + 1]? = some y ∧ y.1 ≤ x.1) :=
  ⟨by decide, by decide, rfl, rfl, ⟨_, _, rfl, rfl, by decide⟩⟩

theorem witness_MeterCommandsAreServedAndLogged :
    let s := metered fun m => { m with addr := some 8, sealedIn := false }
    let f := metered fun m => { m with addr := some 8, sealedIn := false, fwTarget := some 0 }
    let i := metered fun m => { m with addr := some 8, fwTarget := some 1, fwLen := 1024 }
    s.md.on = true ∧ s.md.restart = false ∧ s.md.addr ≠ none ∧ s.md.sealedIn = false ∧ s.md.log.length < 4000 ∧ paramOk 1 1 = true ∧ paramOk 1 2 = false
    ∧ i.md.sealedIn = true ∧ f.md.fwTarget = some 0 ∧ 0 ≤ f.md.fwVer ∧ i.md.fwTarget = some 1 ∧ (0 : Nat) % 2 ^ 32 + 1024 ≤ i.md.fwLen ∧ s.md.fwTarget = none
    ∧ State.reset.md.addr = none := by decide

/-- The clause over a signed image: hash and signature are opaque (log entry 9); one that verifies meets it. -/
theorem witness_MeterCommandsAreServedAndLogged_signed (m : Meter) (v : Nat) (hash sig : List Byte)
    (h : m.imageSigned v hash sig = true) (hv : m.fwVer < v) :
    let s := metered fun _ => { m with on := true, restart := false, addr := some 8, sealedIn := false, log := [], fwTarget := some 0 }
    s.md.on = true ∧ s.md.restart = false ∧ s.md.addr ≠ none ∧ s.md.sealedIn = false ∧ s.md.log.length < 4000 ∧ s.md.fwTarget = some 0
      ∧ s.md.imageSigned v hash sig = true ∧ s.md.fwVer < v :=
  ⟨rfl, rfl, by simp [metered], rfl, by simp [metered], rfl, h, hv⟩

set_option maxRecDepth 8000 in
theorem test_param : let s := metered fun m => { m with addr := some 8, sealedIn := false }
    (after (.param 7 1 1) s).md.trade = true ∧ (after (.param 7 1 1) s).md.log.length = 1
    ∧ (after (.param 7 1 1) (metered fun m => { m with addr := some 8 })).md.trade = false := by decide

set_option maxRecDepth 8000 in
theorem witness_MeterHealthPowerAndReadout :
    let a := powered.arrive 5000032
    let g := (powered.setReg (rMbxCtl 0) 0x2000000).onFd 0 fun f => { f with mbxAt := some 0, statusAt := some 0 }
    State.reset.md.on = true ∧ State.reset.md.sealedIn = true ∧ State.reset.md.log.length < 4095 ∧ State.reset.md.restart = false
    ∧ (metered fun m => { m with restart := true }).md.queue = [] ∧ State.reset.md.snaps.length = 2 ∧ a.md.on = true ∧ a.fdServes 1 = true
    ∧ (metered fun m => { m with on := false }).md.newest.final = false ∧ (a.fd 0).statusAt = none ∧ (g.fd 0).statusAt = some 0 ∧ 0 + 40000 + 32 ≤ 5000032
    ∧ a.wrFront 0 none offMbxCtl 15#4 = (a, some { name := .scMbxCtl }) ∧ 0 < a.boot.fds.length
    ∧ g.bitOf (rMbxCtl 0) 25 = true ∧ (g.fd 0).mbxAt = some 0 ∧ 0 + 5000000 + 32 ≤ 5000032 ∧ (List.replicate 256 (0 : Byte)).length = 256 := by
  refine ⟨by decide, by decide, by decide, by decide, by decide, by decide, by decide, by decide, by decide, by decide, by decide, by decide, rfl,
    by decide, by decide, by decide, by decide, by decide⟩

/-! ### The queue -/

/-- A step runs the front command with the queue's rest; an empty queue idles. -/
theorem witness_StepRunsTheFrontCommand : (match step { State.reset with pending := [.rstact 5 1, .enec 6] } with
      | .next t => t.md.rstAct = 1 ∧ t.md.ibi = false ∧ t.pending = [.enec 6] | _ => False)
    ∧ step State.reset = .next State.reset := ⟨⟨rfl, rfl, rfl⟩, rfl⟩

end Sys2Proof.Machine
end

section
/-! PROOFS. What the package and its parts hold right after reset (R20, R589, R643; log entries 2 and 3). -/

namespace Sys2Proof

/-! ### Memory nothing has written -/

@[simp] theorem CStore.read_empty (a : Nat) : CStore.empty.read a = 0 := rfl

end Sys2Proof

namespace Sys2Proof.Machine

/-! ### The parts of a core after reset -/

@[simp] theorem SeqBank.reg_reset (r : BitVec 5) : SeqBank.reset.reg r = 0 := by
  by_cases hr : r = 0
  · rw [hr, SeqBank.reg_zero]
  · rw [SeqBank.reg, if_neg hr]
    exact Vector.getElem_replicate ..

theorem Core.eq_reset_of_mem_engines_reset {e : StreamEng} (h : e ∈ Core.reset.engines) : e = StreamEng.reset :=
  List.eq_of_mem_replicate h

/-! ### The parts of the package after reset -/

/-- The register file lists only what differs from a register's table value, and at reset it lists nothing. -/
theorem State.reg_reset (r : Reg) : State.reset.reg r = r.reset.toNat := rfl

theorem State.eq_reset_of_mem_cores_reset {k : Core} (h : k ∈ State.reset.cores) : k = Core.reset :=
  List.eq_of_mem_replicate h

theorem State.eq_reset_of_mem_slices_reset {l : L2Slice} (h : l ∈ State.reset.mem.slices) : l = L2Slice.reset :=
  List.eq_of_mem_replicate h

theorem State.eq_reset_of_mem_ports_reset {p : HostPort} (h : p ∈ State.reset.ports) : p = HostPort.reset :=
  List.eq_of_mem_replicate (n := 2) h

/-! ### The stated values -/

/-- Settles O3. The cores, engines, slices and ports of the reset state are copies of one reset part each, so what the
obligation says of each of them is read off that part; the rest are fields of the reset state. -/
theorem resetHoldsTheStatedValues : Obligations.ResetHoldsTheStatedValues := by
  unfold Obligations.ResetHoldsTheStatedValues
  refine ⟨State.reg_reset, List.length_replicate, fun k hk => ?cores, rfl, rfl, rfl, rfl, rfl, fun l hl => ?slices,
    List.length_replicate, rfl, rfl, rfl, rfl, rfl, fun p hp => ?ports, rfl, rfl, rfl, rfl, rfl, rfl, rfl, rfl⟩
  case cores =>
    rw [State.eq_reset_of_mem_cores_reset hk]
    refine ⟨rfl, rfl, rfl, rfl, rfl, List.length_replicate, List.length_replicate, fun e he => ?_,
      fun r => ⟨SeqBank.reg_reset r, SeqBank.reg_reset r⟩, CStore.read_empty⟩
    rw [Core.eq_reset_of_mem_engines_reset he]
    exact ⟨rfl, rfl⟩
  case slices =>
    rw [State.eq_reset_of_mem_slices_reset hl]
    exact ⟨rfl, rfl, rfl⟩
  case ports =>
    rw [State.eq_reset_of_mem_ports_reset hp]
    rfl

end Sys2Proof.Machine
end

section
/-! PROOFS. Time (chapter 2): what lock, holdover and a measured offset show in FR_STAT, and what they leave. -/

namespace Sys2Proof.Machine

/-! ### What the time status leaves alone -/

/-- Only FR_STAT, the event rings and what left the package may differ. -/
structure SameButTime (s t : State) : Prop where
  now : t.now = s.now
  frames : t.frames = s.frames
  cm : t.cm = s.cm
  cores : t.cores = s.cores
  ops : t.ops = s.ops
  mem : t.mem = s.mem
  regs : ∀ r : Reg, r.name ≠ .frStat → r.name ≠ .evqTail → r.name ≠ .evqStat → t.reg r = s.reg r

theorem SameButTime.refl (s : State) : SameButTime s s := ⟨rfl, rfl, rfl, rfl, rfl, rfl, fun _ _ _ _ => rfl⟩

theorem SameButTime.trans {s t u : State} (h : SameButTime s t) (g : SameButTime t u) : SameButTime s u where
  now := g.now.trans h.now
  frames := g.frames.trans h.frames
  cm := g.cm.trans h.cm
  cores := g.cores.trans h.cores
  ops := g.ops.trans h.ops
  mem := g.mem.trans h.mem
  regs r h1 h2 h3 := (g.regs r h1 h2 h3).trans (h.regs r h1 h2 h3)

theorem SameBut.sameButTime {s t : State} (h : SameBut s t) : SameButTime s t :=
  ⟨h.now, h.frames, h.cm, h.cores, h.ops, h.mem, fun r _ h2 h3 => h.regs r h2 h3⟩

theorem SameButTime.setField (s : State) (d lo len x : Nat) :
    SameButTime s (s.setField { name := .frStat, dev := d } lo len x) where
  now := rfl
  frames := rfl
  cm := rfl
  cores := rfl
  ops := rfl
  mem := rfl
  regs r h1 _ _ := s.reg_setField_other _ r _ _ _ fun e => h1 (by rw [e])

theorem State.timeBits_same (s : State) (l h : Bool) : SameButTime s (s.timeBits l h) :=
  (((SameButTime.setField s 0 0 1 _).trans (.setField _ 0 1 1 _)).trans (.setField _ 1 0 1 _)).trans (.setField _ 1 1 1 _)

theorem State.timeOffset_same (s : State) (x : Int) : SameButTime s (s.timeOffset x) :=
  (SameButTime.setField s 0 16 16 _).trans (.setField _ 1 16 16 _)

theorem State.lockTime_same (s : State) : SameButTime s s.lockTime := by
  unfold State.lockTime
  split
  · exact .refl s
  · exact (s.timeBits_same true false).trans (State.event_same _ _).sameButTime

theorem State.loseTime_same (s : State) : SameButTime s s.loseTime := by
  unfold State.loseTime
  split
  · exact .refl s
  · exact (s.timeBits_same false true).trans (State.event_same _ _).sameButTime

theorem State.measured_same (s : State) (x : Int) : SameButTime s (s.measured x) := by
  unfold State.measured
  split
  · exact (s.timeOffset_same x).trans (State.lockTime_same _)
  · exact (s.timeOffset_same x).trans (State.loseTime_same _)

theorem SameButTime.syncSrc {s t : State} (h : SameButTime s t) : t.syncSrc = s.syncSrc := by
  unfold State.syncSrc State.fieldOf
  rw [h.regs rFrCtl nofun nofun nofun]

/-! ### What FR_STAT shows -/

/-- Both fabric dies show LOCKED and HOLDOVER so. -/
def State.ShowsTime (u : State) (locked holdover : Bool) : Prop :=
  ∀ d, d < 2 → u.bitOf { name := .frStat, dev := d } 0 = locked ∧ u.bitOf { name := .frStat, dev := d } 1 = holdover

/-- Both fabric dies show the offset x, saturated to 16 bits. -/
def State.ShowsOffset (u : State) (x : Int) : Prop :=
  ∀ d, d < 2 → u.fieldOf { name := .frStat, dev := d } 16 16 = ((max (-32767) (min 32767 x)) % 65536).toNat

/-- FR_STAT of both fabric dies reads the same. -/
def SameStat (s t : State) : Prop := ∀ d, t.reg { name := .frStat, dev := d } = s.reg { name := .frStat, dev := d }

theorem SameBut.sameStat {s t : State} (h : SameBut s t) : SameStat s t := fun _ => h.regs _ nofun nofun

theorem State.ShowsTime.congr {s t : State} {l h : Bool} (g : SameStat s t) (w : s.ShowsTime l h) : t.ShowsTime l h :=
  fun d hd => by unfold State.bitOf; rw [g d]; exact w d hd

theorem State.ShowsOffset.congr {s t : State} {x : Int} (g : SameStat s t) (w : s.ShowsOffset x) : t.ShowsOffset x :=
  fun d hd => by unfold State.fieldOf; rw [g d]; exact w d hd

/-- FR_STAT of one fabric die is not that of the other. -/
theorem frStat_ne {d e : Nat} (h : d ≠ e) : ({ name := .frStat, dev := d } : Reg) ≠ { name := .frStat, dev := e } :=
  fun x => h (congrArg Reg.dev x)

/-- Setting a die's bits of FR_STAT. -/
theorem State.bitOf_timeBit (s : State) (l h : Bool) (d : Nat) :
    let r : Reg := { name := .frStat, dev := d }
    ((s.setBit r 0 l).setBit r 1 h).bitOf r 0 = l ∧ ((s.setBit r 0 l).setBit r 1 h).bitOf r 1 = h := by
  intro r
  rw [State.bitOf_setBit_other _ _ _ _ _ (by decide) (by decide), State.bitOf_setBit_same _ _ _ _ (by decide),
    State.bitOf_setBit_same _ _ _ _ (by decide)]
  exact ⟨rfl, rfl⟩

theorem State.timeBits_shows (s : State) (l h : Bool) : (s.timeBits l h).ShowsTime l h := by
  intro d hd
  simp only [State.timeBits, List.foldl_cons, List.foldl_nil]
  interval_cases d
  · simp only [State.bitOf_setBit_reg _ _ _ _ _ _ (frStat_ne Nat.zero_ne_one)]
    exact s.bitOf_timeBit l h 0
  · exact State.bitOf_timeBit _ l h 1

theorem State.timeBits_offset {s : State} {x : Int} (w : s.ShowsOffset x) (l h : Bool) : (s.timeBits l h).ShowsOffset x := by
  intro d hd
  have keep (u : State) (e i : Nat) (b : Bool) (hi : i < 16) :
      (u.setBit { name := .frStat, dev := e } i b).fieldOf { name := .frStat, dev := d } 16 16
        = u.fieldOf { name := .frStat, dev := d } 16 16 := by
    by_cases h : d = e
    · subst h; exact u.fieldOf_setField_other _ _ _ _ _ _ (by decide) (.inr (by omega))
    · exact u.fieldOf_setField_reg _ _ _ _ _ _ _ (frStat_ne h)
  simp only [State.timeBits, List.foldl_cons, List.foldl_nil]
  rw [keep _ _ _ _ (by decide), keep _ _ _ _ (by decide), keep _ _ _ _ (by decide), keep _ _ _ _ (by decide)]
  exact w d hd

theorem State.timeOffset_shows (s : State) (x : Int) : (s.timeOffset x).ShowsOffset x := by
  have hv : ((max (-32767) (min 32767 x)) % 65536).toNat < 2 ^ 16 := by omega
  intro d hd
  simp only [State.timeOffset, List.foldl_cons, List.foldl_nil]
  interval_cases d
  · rw [State.fieldOf_setField_reg _ _ _ _ _ _ _ _ (frStat_ne Nat.zero_ne_one), State.fieldOf_setField_same _ _ _ _ _ (by decide),
      Nat.mod_eq_of_lt hv]
  · rw [State.fieldOf_setField_same _ _ _ _ _ (by decide), Nat.mod_eq_of_lt hv]

/-- Storing an offset leaves the two status bits. -/
theorem State.timeOffset_bitOf (s : State) (x : Int) (d i : Nat) (hi : i < 16) :
    (s.timeOffset x).bitOf { name := .frStat, dev := d } i = s.bitOf { name := .frStat, dev := d } i := by
  have keep (u : State) (e v : Nat) : (u.setField { name := .frStat, dev := e } 16 16 v).bitOf { name := .frStat, dev := d } i
        = u.bitOf { name := .frStat, dev := d } i := by
    rw [State.bitOf, State.bitOf, bit_eq_bitf, bit_eq_bitf]
    by_cases h : d = e
    · subst h
      have := u.fieldOf_setField_other { name := .frStat, dev := d } 16 16 v i 1 (by omega) (.inl (by omega))
      rw [State.fieldOf, State.fieldOf] at this
      rw [this]
    · rw [u.reg_setField_other _ _ _ _ _ (frStat_ne h)]
  simp only [State.timeOffset, List.foldl_cons, List.foldl_nil]
  rw [keep, keep]

/-! ### Lock and holdover (R47) -/

theorem State.lockTime_shows {s : State} (h2 : s.syncSrc ≠ 2) (hl : s.locked = false) : s.lockTime.ShowsTime true false := by
  unfold State.lockTime
  rw [if_neg (by simp [h2, hl])]
  exact (s.timeBits_shows true false).congr (State.event_same _ _).sameStat

theorem State.loseTime_shows {s : State} (h2 : s.syncSrc ≠ 2) (hh : s.holdover = false) : s.loseTime.ShowsTime false true := by
  unfold State.loseTime
  rw [if_neg (by simp [h2, hh])]
  exact (s.timeBits_shows false true).congr (State.event_same _ _).sameStat

theorem State.lockTime_offset {s : State} {x : Int} (w : s.ShowsOffset x) : s.lockTime.ShowsOffset x := by
  unfold State.lockTime
  split
  · exact w
  · exact (State.timeBits_offset w true false).congr (State.event_same _ _).sameStat

theorem State.loseTime_offset {s : State} {x : Int} (w : s.ShowsOffset x) : s.loseTime.ShowsOffset x := by
  unfold State.loseTime
  split
  · exact w
  · exact (State.timeBits_offset w false true).congr (State.event_same _ _).sameStat

/-! ### A measured offset (R46, R47) -/

theorem State.measured_offset (s : State) (x : Int) : (s.measured x).ShowsOffset x := by
  unfold State.measured
  split
  · exact State.lockTime_offset (s.timeOffset_shows x)
  · exact State.loseTime_offset (s.timeOffset_shows x)

theorem State.measured_locks {s : State} {x : Int} (h2 : s.syncSrc ≠ 2) (hlo : -100 ≤ x) (hhi : x ≤ 100) (hl : s.locked = false) :
    (s.measured x).ShowsTime true false := by
  unfold State.measured
  rw [if_pos (by simp [hlo, hhi])]
  exact State.lockTime_shows (by rwa [(s.timeOffset_same x).syncSrc])
    ((s.timeOffset_bitOf x 0 0 (by decide)).trans hl)

theorem State.measured_loses {s : State} {x : Int} (h2 : s.syncSrc ≠ 2) (hx : x < -100 ∨ 100 < x) (hh : s.holdover = false) :
    (s.measured x).ShowsTime false true := by
  unfold State.measured
  rw [if_neg (by simp; omega)]
  exact State.loseTime_shows (by rwa [(s.timeOffset_same x).syncSrc])
    ((s.timeOffset_bitOf x 0 1 (by decide)).trans hh)

/-- What a change of the time status leaves of the package's work. -/
theorem SameButTime.kept {s u : State} (h : SameButTime s u) :
    u.cores = s.cores ∧ u.ops = s.ops ∧ u.mem = s.mem ∧ u.cm = s.cm ∧ u.frames.frn = s.frames.frn ∧ u.frames.tick = s.frames.tick :=
  ⟨h.cores, h.ops, h.mem, h.cm, by rw [h.frames], by rw [h.frames]⟩

/-! ### TS_PPS edges (R46, R599) -/

/-- The first edge before RUN sets the PTB to the second it marks. -/
def State.firstEdge (a : State) : State :=
  { a with
    now := a.frames.ppsSec * 1000000000,
    frames := { a.frames with ppsDone := true, ppsLast := some (a.frames.ppsSec * 1000000000), ppsBad := 0 } }

/-- A later edge near its second counts that second. -/
def State.goodEdge (a : State) (t : Nat) : State :=
  { a with frames := { a.frames with ppsDone := true, ppsLast := some t, ppsBad := 0, ppsSec := a.frames.ppsSec + 1 } }

/-- An edge off its second by more than 1 us counts as bad. -/
def State.badEdge (a : State) (t : Nat) : State :=
  { a with frames := { a.frames with ppsBad := a.frames.ppsBad + 1, ppsLast := a.frames.ppsLast.map fun _ => t } }

section
variable {s : State} {t : Nat}

theorem exec_ppsEdge_first (hs : (s.arrive t).syncSrc = 1) (hd : (s.arrive t).frames.ppsDone = false)
    (hr : (s.arrive t).running = false) : exec (.ppsEdge t) s = .next ((s.arrive t).firstEdge.measured 0) := by
  change execPpsEdge t s = _
  simp [execPpsEdge, State.firstEdge, hs, hd, hr]

/-- Once the PTB has stepped, or after RUN, an edge is judged by its offset from the nearest second. -/
theorem exec_ppsEdge_later (hs : (s.arrive t).syncSrc = 1)
    (hd : (s.arrive t).frames.ppsDone = true ∨ (s.arrive t).running = true)
    {off : Int} (ho : off = (t : Int) - ((t + 500000000) / 1000000000 * 1000000000 : Nat)) :
    exec (.ppsEdge t) s =
      if off < -1000 ∨ 1000 < off then
        .next (if 2 ≤ (s.arrive t).frames.ppsBad + 1 then ((s.arrive t).badEdge t).loseTime else (s.arrive t).badEdge t)
      else .next (((s.arrive t).goodEdge t).measured off) := by
  have hn : ¬ ((!(s.arrive t).frames.ppsDone && !(s.arrive t).running) = true) := by
    rcases hd with h | h <;> simp [h]
  change execPpsEdge t s = _
  simp only [execPpsEdge, hs, ne_eq, not_true_eq_false, if_false, if_neg hn, ← ho, Bool.or_eq_true, decide_eq_true_eq]
  rfl

theorem exec_ppsTimeout_late (hs : (s.arrive t).syncSrc = 1) {x : Nat} (hx : (s.arrive t).frames.ppsLast = some x)
    (hl : x + 1500000000 + 32 ≤ t) : exec (.ppsTimeout t) s = .next (s.arrive t).loseTime := by
  change execPpsTimeout t s = _
  simp [execPpsTimeout, hs, hx, hl]

end

/-! ### PTP messages (R29, R43) -/

/-- A PTP message counts: PTP is the source, the port is selected and in service, the domain is ours. -/
def State.PtpCounts (a : State) (q domain : Nat) : Prop :=
  a.syncSrc = 0 ∧ a.bitOf rFrCtl (10 + q % 16) = true ∧ domain = a.fieldOf rFrCtl 3 7 ∧ a.fieldOf (qlStatReg (q % 16)) 0 2 = 2

/-- The message shows on its port. -/
def State.ptpSeen (a : State) (q : Nat) : State := a.setBit (qlStatReg (q % 16)) 4 true

/-- The PTB steps by the measured offset. -/
def State.ptpStepped (b : State) (offset : Int) : State :=
  { b with now := ((b.now : Int) - offset).toNat, frames := { b.frames with ppsDone := true } }

theorem State.ptpSeen_running (a : State) (q : Nat) : (a.ptpSeen q).running = a.running :=
  State.bitOf_setBit_reg _ _ _ _ _ _ nofun

theorem State.ptpSeen_syncSrc (a : State) (q : Nat) : (a.ptpSeen q).syncSrc = a.syncSrc :=
  State.fieldOf_setField_reg _ _ _ _ _ _ _ _ nofun

theorem State.ptpSeen_frStat (a : State) (q i : Nat) :
    (a.ptpSeen q).bitOf { name := .frStat } i = a.bitOf { name := .frStat } i :=
  State.bitOf_setBit_reg _ _ _ _ _ _ nofun

/-- The mark on the port outlasts a change of the time status. -/
theorem SameButTime.shows_ptpSeen {a u : State} {q : Nat} (h : ∀ r : Reg, r.name ≠ .frStat → r.name ≠ .evqTail →
    r.name ≠ .evqStat → u.reg r = (a.ptpSeen q).reg r) : u.bitOf (qlStatReg (q % 16)) 4 = true := by
  rw [State.bitOf, h (qlStatReg (q % 16)) nofun nofun nofun]
  exact a.bitOf_setBit_same _ _ _ (by decide)

/-- Before RUN the first offset beyond 100 ns steps the PTB; any other is measured. -/
theorem exec_ptpMessage {s : State} {t q domain : Nat} {offset : Int} (h : (s.arrive t).PtpCounts q domain) :
    exec (.ptpMessage t q domain offset) s =
      if (s.arrive t).frames.ppsDone = false ∧ (s.arrive t).running = false ∧ (offset < -100 ∨ 100 < offset) then
        .next ((((s.arrive t).ptpSeen q).ptpStepped offset).measured 0)
      else .next (((s.arrive t).ptpSeen q).measured offset) := by
  obtain ⟨hs, hp, hd, hq⟩ := h
  have hr := (s.arrive t).ptpSeen_running q
  rw [State.ptpSeen] at hr
  change execPtpMessage t q domain offset s = _
  simp only [execPtpMessage, hs, hp, ← hd, hq, hr, State.setBit_frames, ne_eq, not_true_eq_false, decide_false,
    Bool.not_true, Bool.or_false, Bool.false_eq_true, if_false, Bool.and_eq_true, Bool.or_eq_true, Bool.not_eq_true',
    decide_eq_true_eq, and_assoc]
  rfl

/-- Settles O30. What an edge, a timeout or a message does is one equation each; the rest are the laws of the time
status: lock, holdover and a measured offset change FR_STAT alone. -/
theorem timeLocksStepsAndHoldsOver : Obligations.TimeLocksStepsAndHoldsOver := by
  unfold Obligations.TimeLocksStepsAndHoldsOver
  intro s t q domain offset a locked lost shows_ kept
  refine ⟨fun h2 hl => ?lock, fun h2 hh => ?holdover, fun x hs hx hl hh => ?timeout, fun hs hd hr => ?first,
    fun hs hd => ⟨fun hlo hhi => ?good, fun hb => ?bad⟩, fun hs hp hd hq => ?ptp⟩
  case lock => exact ⟨_, rfl, State.lockTime_shows h2 hl, (State.lockTime_same a).kept, (State.lockTime_same a).now⟩
  case holdover => exact ⟨_, rfl, State.loseTime_shows h2 hh, (State.loseTime_same a).kept, (State.loseTime_same a).now⟩
  case timeout =>
    exact ⟨_, exec_ppsTimeout_late hs hx hl, State.loseTime_shows (by rw [hs]; decide) hh, (State.loseTime_same a).kept,
      (State.loseTime_same a).now⟩
  case first =>
    have h2 : a.firstEdge.syncSrc ≠ 2 := by change a.syncSrc ≠ 2; rw [hs]; decide
    have same := a.firstEdge.measured_same 0
    exact ⟨_, exec_ppsEdge_first hs hd hr, same.now, congrArg Frames.ppsDone same.frames, State.measured_offset _ 0, same.kept,
      fun hl => State.measured_locks h2 (by decide) (by decide) hl⟩
  case good =>
    have h2 : (a.goodEdge t).syncSrc ≠ 2 := by change a.syncSrc ≠ 2; rw [hs]; decide
    have same := (a.goodEdge t).measured_same ((t : Int) - ((t + 500000000) / 1000000000 * 1000000000 : Nat))
    exact ⟨_, (exec_ppsEdge_later hs hd rfl).trans (if_neg (by omega)), congrArg Frames.ppsSec same.frames,
      congrArg Frames.ppsBad same.frames, congrArg Frames.ppsLast same.frames, same.now, State.measured_offset _ _, same.kept,
      fun h1 h2' hl => State.measured_locks h2 h1 h2' hl, fun hx hh => State.measured_loses h2 hx hh⟩
  case bad =>
    have h2 : (a.badEdge t).syncSrc ≠ 2 := by change a.syncSrc ≠ 2; rw [hs]; decide
    have same := (a.badEdge t).loseTime_same
    refine ⟨_, (exec_ppsEdge_later hs hd rfl).trans (if_pos hb), ?_⟩
    split
    · exact ⟨by rw [same.frames]; rfl, congrArg Frames.ppsBad same.frames, same.now, same.kept,
        fun _ hh => State.loseTime_shows h2 hh⟩
    · next few =>
      exact ⟨rfl, rfl, rfl, (SameButTime.refl (a.badEdge t)).kept, fun h1 => absurd (Nat.succ_le_succ h1) few⟩
  case ptp =>
    have counts : a.PtpCounts q domain := ⟨hs, hp, hd, hq⟩
    have h2 : (a.ptpSeen q).syncSrc ≠ 2 := by rw [a.ptpSeen_syncSrc, hs]; decide
    by_cases hx : a.frames.ppsDone = false ∧ a.running = false ∧ (offset < -100 ∨ 100 < offset)
    · have same := ((a.ptpSeen q).ptpStepped offset).measured_same 0
      refine ⟨_, (exec_ptpMessage counts).trans (if_pos hx), SameButTime.shows_ptpSeen same.regs, same.kept, ?_⟩
      rw [if_pos hx]
      exact ⟨same.now, congrArg Frames.ppsDone same.frames, State.measured_offset _ 0⟩
    · have same := (a.ptpSeen q).measured_same offset
      refine ⟨_, (exec_ptpMessage counts).trans (if_neg hx), SameButTime.shows_ptpSeen same.regs, same.kept, ?_⟩
      rw [if_neg hx]
      exact ⟨same.now, State.measured_offset _ _,
        fun hlo hhi hl => State.measured_locks h2 hlo hhi ((a.ptpSeen_frStat q 0).trans hl),
        fun hx hh => State.measured_loses h2 hx ((a.ptpSeen_frStat q 1).trans hh)⟩

end Sys2Proof.Machine
end

section
/-! PROOFS. URGENT dispatch and MARK (chapters 2, 3, 5): what placing an operation on one core does. -/

namespace Sys2Proof.Machine

/-! ### Numbers in ascending order -/

theorem mem_of_mem_insertAsc {x k : Nat} {l : List Nat} (h : k ∈ insertAsc x l) : k = x ∨ k ∈ l := by
  induction l with
  | nil => exact .inl (List.mem_singleton.mp h)
  | cons y r ih =>
    unfold insertAsc at h
    split at h
    · exact List.mem_cons.mp h
    · split at h
      · exact .inr h
      · rcases List.mem_cons.mp h with rfl | h
        · exact .inr (List.mem_cons_self ..)
        · exact (ih h).imp id (List.mem_cons_of_mem y)

theorem mem_of_mem_ascending {k : Nat} {l : List Nat} (h : k ∈ ascending l) : k ∈ l := by
  induction l with
  | nil => exact h
  | cons x l ih =>
    rcases mem_of_mem_insertAsc h with rfl | h
    · exact List.mem_cons_self ..
    · exact List.mem_cons_of_mem x (ih h)

/-! ### Operations -/

theorem State.asn_of_op? {s : State} {asn : Nat} {o : OpRec} (h : s.op? asn = some o) : o.ctx.asn = asn := by
  simpa using List.find?_some h

/-- Counting operations by what a change of records keeps. -/
theorem State.count_onOp (s : State) (asn : Nat) {f : OpRec → OpRec} {p : OpRec → Bool} (hp : ∀ o, p (f o) = p o) :
    ((s.onOp asn f).ops.list.filter p).length = (s.ops.list.filter p).length := by
  have : (p ∘ fun o => if o.ctx.asn = asn then f o else o) = p := by
    funext o
    dsimp only [Function.comp_apply]
    split
    · exact hp o
    · rfl
  rw [State.onOp, List.filter_map, List.length_map, this]

/-- The core an URGENT operation goes to depends on which cores hold which operations, not on the rest of their records. -/
theorem State.urgentCore_onOp (s : State) (asn : Nat) {f : OpRec → OpRec} (hc : ∀ o, (f o).cores = o.cores)
    (hx : ∀ o, (f o).ctx = o.ctx) (o : OpRec) : (s.onOp asn f).urgentCore o = s.urgentCore o := by
  have flight (c : Nat) : (s.onOp asn f).inFlight c = s.inFlight c := s.count_onOp asn fun o => by rw [hc]
  have urgent (c : Nat) : (s.onOp asn f).urgentOn c = s.urgentOn c := s.count_onOp asn fun o => by rw [hc, hx]
  simp only [State.urgentCore, flight, urgent]
  rfl

/-! ### Work given to one core -/

/-- Only core c differs: it keeps its urgency, and bank N where operation `asn` does not run there. -/
structure OnlyCore (c asn : Nat) (s t : State) : Prop where
  eq : t = { s with cores := t.cores }
  length : t.cores.length = s.cores.length
  other : ∀ d, d ≠ c → t.core d = s.core d
  urgent : (t.core c).urgent = (s.core c).urgent
  bankN : (s.core c).bankN.ctx.asn ≠ asn → (t.core c).bankN = (s.core c).bankN

section
variable {c asn : Nat} {s t : State} (h : OnlyCore c asn s t)
include h
theorem OnlyCore.ops : t.ops = s.ops := by rw [h.eq]
theorem OnlyCore.mem : t.mem = s.mem := by rw [h.eq]
theorem OnlyCore.regs : t.regs = s.regs := by rw [h.eq]
end

theorem OnlyCore.refl (c asn : Nat) (s : State) : OnlyCore c asn s s := ⟨rfl, rfl, fun _ _ => rfl, rfl, fun _ => rfl⟩

theorem OnlyCore.trans {c asn : Nat} {s t u : State} (h : OnlyCore c asn s t) (g : OnlyCore c asn t u) : OnlyCore c asn s u where
  eq := by rw [g.eq, h.eq]
  length := g.length.trans h.length
  other d hd := (g.other d hd).trans (h.other d hd)
  urgent := g.urgent.trans h.urgent
  bankN hb := by
    have e := h.bankN hb
    rw [g.bankN (by rwa [e]), e]

/-- A change of core c that keeps its urgency, and bank N of other operations. -/
theorem OnlyCore.onCore {c asn : Nat} (s : State) {f : Core → Core} (hu : ∀ k, (f k).urgent = k.urgent)
    (hb : ∀ k, k.bankN.ctx.asn ≠ asn → (f k).bankN = k.bankN) : OnlyCore c asn s (s.onCore c f) := by
  refine ⟨rfl, by simp, fun d hd => s.core_onCore_other f hd, ?_, fun h => ?_⟩ <;>
    by_cases hc : c < s.cores.length
  · rw [s.core_onCore_same f hc, hu]
  · simp [State.onCore, List.modify_eq_self (Nat.le_of_not_lt hc)]
  · rw [s.core_onCore_same f hc, hb _ h]
  · simp [State.onCore, List.modify_eq_self (Nat.le_of_not_lt hc)]

theorem OnlyCore.foldl {c asn : Nat} {α : Type} {f : State → α → State} {l : List α}
    (h : ∀ s, ∀ x ∈ l, OnlyCore c asn s (f s x)) (s : State) : OnlyCore c asn s (l.foldl f s) := by
  induction l generalizing s with
  | nil => exact .refl c asn s
  | cons x l ih =>
    exact (h s x (List.mem_cons_self ..)).trans (ih (fun s y hy => h s y (List.mem_cons_of_mem x hy)) _)

theorem SeqBank.drop_of_ne {b : SeqBank} {asn : Nat} (h : b.ctx.asn ≠ asn) : b.drop asn = b := by
  simp [SeqBank.drop, h]

theorem OnlyCore.endOp (s : State) (c asn st info : Nat) : OnlyCore c asn s (s.onCore c fun k => k.endOp asn st info) :=
  .onCore s (fun _ => rfl) fun _ h => SeqBank.drop_of_ne h

theorem Core.charge_urgent (k : Core) (b : Bucket) (r d i n : Nat) : (k.charge b r d i n).urgent = k.urgent := by
  cases b <;> rfl

theorem Core.charge_bankN (k : Core) (b : Bucket) (r d i n : Nat) : (k.charge b r d i n).bankN = k.bankN := by
  cases b <;> rfl

/-- Starting a segment loads its program, or ends its operation on that core. -/
theorem State.startSeg_onlyCore (s : State) (c asn : Nat) : OnlyCore c asn s (s.startSeg c asn) := by
  have charged (b : Bucket) (i n : Nat) : OnlyCore c asn s (s.chargeOn c b i n) :=
    .onCore s (fun k => k.charge_urgent ..) fun k _ => k.charge_bankN ..
  unfold State.startSeg
  repeat' split
  all_goals first
    | exact .refl c asn s
    | exact .endOp s c asn _ _
    | exact .onCore s (fun _ => rfl) fun _ _ => rfl
    | exact (charged _ _ _).trans (.onCore _ (fun _ => rfl) fun _ _ => rfl)

/-- The record of an operation placed on these cores. -/
def OpRec.placedOn (cores : List Nat) (o : OpRec) : OpRec := { o with cores := cores, stage := .running, held := false }

/-- The cores of a placement whose items all go to core c. -/
def coresOf (c : Nat) (items : List Item) : List Nat := ascending ((items.map fun i => (c, i)).map (·.1))

theorem eq_of_mem_coresOf {c d : Nat} {items : List Item} (h : d ∈ coresOf c items) : d = c := by
  obtain ⟨x, hx, rfl⟩ := List.mem_map.mp (mem_of_mem_ascending h)
  obtain ⟨i, -, rfl⟩ := List.mem_map.mp hx
  rfl

/-- An operation placed on core c alone: its record runs there, and the core gets its segment. -/
theorem State.putPlaced_onlyCore {s : State} {asn c : Nat} {o : OpRec} (ho : s.op? asn = some o) (items : List Item) :
    OnlyCore c asn (s.onOp asn (OpRec.placedOn (coresOf c items))) (s.putPlaced (asn, items.map fun i => (c, i))) := by
  simp only [State.putPlaced, ho]
  split
  · exact .refl ..
  · refine OnlyCore.foldl (fun v d hd => ?_) _
    rw [eq_of_mem_coresOf hd]
    exact .onCore v (fun _ => rfl) fun _ _ => rfl

/-- What a core stops and clears for URGENT work (R397). -/
def Core.enterUrgent (k : Core) : Core := { k with urgent := true, bankN := { k.bankN with tags := [] } }

/-- The operation is on core c, its first frame kept, its context untouched. -/
def OpRec.RunsOn (c : Nat) (o x : OpRec) : Prop :=
  x.stage = .running ∧ x.held = false ∧ x.ctx = o.ctx ∧ x.firstFrn = o.firstFrn ∧ ∀ k, k ∈ x.cores → k = c

/-- A dispatched operation runs on its core, which turns urgent; no other core and nothing else changes. -/
theorem State.dispatchOn_spec {s : State} {asn c : Nat} {o x : OpRec} (hx : s.op? asn = some x) (ha : o.ctx.asn = asn)
    (hc : c < s.cores.length) :
    let u := s.dispatchOn o c
    (∃ y, u.op? asn = some y ∧ x.RunsOn c y) ∧ (u.core c).urgent = true
    ∧ ((s.core c).bankN.ctx.asn ≠ asn → (u.core c).bankN = { (s.core c).bankN with tags := [] })
    ∧ (∀ d, d ≠ c → u.core d = s.core d) ∧ u.mem = s.mem ∧ u.regs = s.regs := by
  subst ha
  have placed := State.putPlaced_onlyCore (c := c) hx (s.urgentItems o c)
  have started := State.startSeg_onlyCore ((s.putPlaced (o.ctx.asn, (s.urgentItems o c).map fun i => (c, i))).onCore c
    Core.enterUrgent) c o.ctx.asn
  have eq_ops : (s.dispatchOn o c).ops = (s.onOp o.ctx.asn (OpRec.placedOn (coresOf c (s.urgentItems o c)))).ops :=
    started.ops.trans placed.ops
  have entered := State.core_onCore_same (s.putPlaced (o.ctx.asn, (s.urgentItems o c).map fun i => (c, i)))
    Core.enterUrgent (placed.length ▸ hc)
  refine ⟨⟨x.placedOn (coresOf c (s.urgentItems o c)), ?op, rfl, rfl, rfl, rfl, fun k => eq_of_mem_coresOf⟩, ?urgent, fun hb => ?bankN, fun d hd => ?other,
    started.mem.trans placed.mem, started.regs.trans placed.regs⟩
  case op =>
    rw [State.op_congr eq_ops, s.op_onOp_same o.ctx.asn (OpRec.placedOn _) fun _ => rfl, hx]
    rfl
  case urgent => exact started.urgent.trans (by rw [entered]; rfl)
  case bankN =>
    have kept := placed.bankN hb
    refine (started.bankN ?_).trans ?_
    · rw [entered, Core.enterUrgent, kept]
      exact hb
    · rw [entered, Core.enterUrgent, kept]
      rfl
  case other => exact (started.other d hd).trans ((State.core_onCore_other _ _ hd).trans (placed.other d hd))

/-! ### The commands (R56, R166, R168) -/

/-- An accepted operation that nothing keeps from dispatch: it has not ended, its ring is served, the frame is open. -/
structure State.Ready (a : State) (asn : Nat) (o : OpRec) : Prop where
  op : a.op? asn = some o
  accepted : o.stage = .accepted
  notEnded : o.ended = none
  served : a.excluded o = false
  ticking : a.frames.ticking = true
  noGuard : a.frames.guard = false

/-- The first frame of an operation, once it is looked at. -/
abbrev OpRec.seenIn (frn : Nat) (o : OpRec) : OpRec := { o with firstFrn := some (o.firstFrn.getD frn) }

/-- The record of an operation whose waits do not hold. -/
abbrev OpRec.hold (o : OpRec) : OpRec := { o with held := true }

/-- The record of a MARK that has finished. -/
abbrev OpRec.markDone (frn : Nat) (o : OpRec) : OpRec :=
  { o with stage := .finished, voted := o.ctx.desc.isUrgent, firstFrn := some (o.firstFrn.getD frn) }

/-- Waits look at flags, not at operations. -/
@[simp] theorem State.waitsOk_onOp (s : State) (asn : Nat) (f : OpRec → OpRec) (o : OpRec) :
    (s.onOp asn f).waitsOk o = s.waitsOk o := (rfl)

/-- What looking at an operation leaves as it was: its record is the only change. -/
theorem State.Ready.op_seen {a : State} {asn : Nat} {o : OpRec} (h : a.Ready asn o) :
    (a.onOp asn (OpRec.seenIn a.frames.frn)).op? asn = some (o.seenIn a.frames.frn) := by
  rw [a.op_onOp_same asn (OpRec.seenIn a.frames.frn) fun _ => rfl, h.op]
  rfl

section
variable {s : State} {t asn consume c : Nat} {o : OpRec}

/-- An URGENT operation that is no MARK: URGENT_DISPATCH takes it up. -/
theorem State.Ready.urgent_goes {a : State} (h : a.Ready asn o) (hu : o.ctx.desc.isUrgent = true) (hm : o.ctx.desc.op ≠ some .mark) :
    ¬ ((!o.ctx.desc.isUrgent || o.stage != .accepted || o.ended.isSome || o.ctx.desc.op = some .mark || a.excluded o
      || !a.frames.ticking || a.frames.guard) = true) := by
  simp [hu, hm, h.accepted, h.notEnded, h.served, h.ticking, h.noGuard]

theorem exec_urgentDispatch_held (h : (s.arrive t).Ready asn o) (hu : o.ctx.desc.isUrgent = true)
    (hm : o.ctx.desc.op ≠ some .mark) (hw : (s.arrive t).waitsOk o = false) :
    exec (.urgentDispatch t asn consume) s = .next
      (((s.arrive t).onOp asn (OpRec.seenIn (s.arrive t).frames.frn)).onOp asn OpRec.hold) := by
  change execUrgentDispatch t asn consume s = _
  rw [execUrgentDispatch, h.op]
  dsimp only
  rw [if_neg (h.urgent_goes hu hm)]
  exact congrArg _ (if_pos (by simpa using hw))

theorem exec_urgentDispatch_goes (h : (s.arrive t).Ready asn o) (hu : o.ctx.desc.isUrgent = true)
    (hm : o.ctx.desc.op ≠ some .mark) (hw : (s.arrive t).waitsOk o = true) (ha : o.appendRegion = none)
    (hc : (s.arrive t).urgentCore o = some c) :
    exec (.urgentDispatch t asn consume) s = .next
      (((s.arrive t).onOp asn (OpRec.seenIn (s.arrive t).frames.frn)).dispatchOn o c) := by
  have core : ((s.arrive t).onOp asn (OpRec.seenIn (s.arrive t).frames.frn)).urgentCore o = some c :=
    (State.urgentCore_onOp _ asn (f := OpRec.seenIn _) (fun _ => rfl) (fun _ => rfl) o).trans hc
  have slot (b : State) : b.reserveFor o = some b := by simp [State.reserveFor, ha]
  change execUrgentDispatch t asn consume s = _
  rw [execUrgentDispatch, h.op]
  dsimp only
  rw [if_neg (h.urgent_goes hu hm)]
  refine congrArg _ ((if_neg (by simpa using hw)).trans ?_)
  rw [ha]
  dsimp only
  rw [core, slot]

theorem exec_mark (h : (s.arrive t).Ready asn o) (hm : o.ctx.desc.op = some .mark)
    (hf : o.ctx.desc.isUrgent = true ∨ o.firstFrn ≠ none) (hw : (s.arrive t).waitsOk o = true) :
    exec (.mark t asn) s = .next ((s.arrive t).onOp asn (OpRec.markDone (s.arrive t).frames.frn)) := by
  have hf : (!o.ctx.desc.isUrgent && o.firstFrn.isNone) = false := by
    rcases hf with h | h
    · rw [h]; rfl
    · rw [Option.isNone_eq_false_iff.mpr (Option.isSome_iff_ne_none.mpr h), Bool.and_false]
  change execMark t asn s = _
  rw [execMark, h.op]
  dsimp only
  rw [if_neg (by simp [hm, hf, hw, h.accepted, h.notEnded, h.served, h.ticking, h.noGuard])]

end

/-- Settles O25. A ready operation is held, dispatched or finished by one equation each; what dispatch to a core changes
is `State.dispatchOn_spec`. -/
theorem urgentAndMarkOperationsRun : Obligations.UrgentAndMarkOperationsRun := by
  unfold Obligations.UrgentAndMarkOperationsRun
  intro s t asn consume c o a hop hst hend hex htick hguard first
  have ready : a.Ready asn o := ⟨hop, hst, hend, hex, htick, hguard⟩
  refine ⟨fun hu hm => ⟨fun hw => ?held, fun hw ha hc hlen => ?goes⟩, fun hm hf hw => ?mark⟩
  case held =>
    refine ⟨_, exec_urgentDispatch_held ready hu hm hw, ?_, rfl, rfl, rfl⟩
    rw [State.op_onOp_same _ asn OpRec.hold fun _ => rfl, ready.op_seen]
    rfl
  case goes =>
    exact ⟨_, exec_urgentDispatch_goes ready hu hm hw ha hc, State.dispatchOn_spec ready.op_seen (State.asn_of_op? hop) hlen⟩
  case mark =>
    refine ⟨_, exec_mark ready hm hf hw, ?_, fun x hx => State.op_onOp_other _ asn x _ (fun _ => rfl) hx, rfl, rfl, rfl⟩
    rw [State.op_onOp_same _ asn (OpRec.markDone _) fun _ => rfl, hop]
    rfl

end Sys2Proof.Machine
end

section
/-! PROOFS. Register commands (chapter 20): what an error capture, a judged write, a latch and a clearing read change. -/

namespace Sys2Proof.Machine

/-! ### The work of the package -/

/-- Cores, operations, memory, meter and frames are the same. -/
structure SameWork (s t : State) : Prop where
  cores : t.cores = s.cores
  ops : t.ops = s.ops
  mem : t.mem = s.mem
  md : t.md = s.md
  frames : t.frames = s.frames

theorem SameWork.refl (s : State) : SameWork s s := ⟨rfl, rfl, rfl, rfl, rfl⟩

theorem SameWork.trans {s t u : State} (h : SameWork s t) (g : SameWork t u) : SameWork s u :=
  ⟨g.cores.trans h.cores, g.ops.trans h.ops, g.mem.trans h.mem, g.md.trans h.md, g.frames.trans h.frames⟩

theorem SameWork.all {s t : State} (h : SameWork s t) :
    t.cores = s.cores ∧ t.ops = s.ops ∧ t.mem = s.mem ∧ t.md = s.md ∧ t.frames = s.frames :=
  ⟨h.cores, h.ops, h.mem, h.md, h.frames⟩

theorem SameWork.setReg (s : State) (r : Reg) (v : Nat) : SameWork s (s.setReg r v) := ⟨rfl, rfl, rfl, rfl, rfl⟩

theorem SameWork.setField (s : State) (r : Reg) (lo len x : Nat) : SameWork s (s.setField r lo len x) := .setReg s r _

/-! ### Configuration errors (R644, R645) -/

/-- The error register of a page, or of the package. -/
def errReg : Option Nat → Reg
  | some g => { name := .pgErr, dev := g }
  | none => { name := .cfgErr }

/-- The register that captures the first error. -/
def errInfoReg : Option Nat → Reg
  | some g => { name := .pgErrInfo, dev := g }
  | none => { name := .cfgErrInfo }

/-- The names of the error registers. -/
def errNames : List RegName := [.cfgErr, .cfgErrInfo, .pgErr, .pgErrInfo]

theorem ne_errReg {r : Reg} (h : r.name ∉ errNames) (pg : Option Nat) : r ≠ errReg pg :=
  fun e => h (by rw [e]; cases pg <;> simp [errReg, errNames])

theorem ne_errInfoReg {r : Reg} (h : r.name ∉ errNames) (pg : Option Nat) : r ≠ errInfoReg pg :=
  fun e => h (by rw [e]; cases pg <;> simp [errInfoReg, errNames])

theorem State.cfgErr_eq (s : State) (pg : Option Nat) (cause off port : Nat) :
    s.cfgErr pg cause off port = s.cfgErrAt (errReg pg) (errInfoReg pg) cause off port false := by
  cases pg <;> rfl

theorem State.cfgErr_work (s : State) (pg : Option Nat) (cause off port : Nat) : SameWork s (s.cfgErr pg cause off port) := by
  rw [State.cfgErr_eq, State.cfgErrAt]
  split
  · exact (SameWork.setReg s _ _).trans (.setField _ _ _ _ _)
  · exact .setField s _ _ _ _

theorem State.cfgErr_shadow (s : State) (pg : Option Nat) (cause off port : Nat) : (s.cfgErr pg cause off port).shadow = s.shadow := by
  rw [State.cfgErr_eq, State.cfgErrAt, State.setBit_shadow]
  split
  · exact State.setReg_shadow ..
  · rfl

theorem State.bitOf_cfgErr (s : State) (pg : Option Nat) {cause : Nat} (off port : Nat) (h : cause < 32) :
    (s.cfgErr pg cause off port).bitOf (errReg pg) cause = true := by
  rw [State.cfgErr_eq]
  exact State.bitOf_setBit_same _ _ _ _ h

theorem State.reg_cfgErr (s : State) (pg : Option Nat) (cause off port : Nat) {r : Reg} (h : r.name ∉ errNames) :
    (s.cfgErr pg cause off port).reg r = s.reg r := by
  rw [State.cfgErr_eq, State.cfgErrAt]
  rw [State.reg_setBit_other _ _ _ _ _ (ne_errReg h pg)]
  split
  · exact s.reg_setReg_other _ _ _ (ne_errInfoReg h pg)
  · rfl

/-! ### Watching (R113, R114, R130) -/

/-- The work is the same, and every register but HL_LSTAT. -/
structure SameButLstat (s t : State) : Prop extends SameWork s t where
  regs : ∀ r : Reg, r.name ≠ .hlLstat → t.reg r = s.reg r

theorem SameButLstat.refl (s : State) : SameButLstat s s := ⟨.refl s, fun _ _ => rfl⟩

theorem SameButLstat.trans {s t u : State} (h : SameButLstat s t) (g : SameButLstat t u) : SameButLstat s u :=
  ⟨h.toSameWork.trans g.toSameWork, fun r hr => (g.regs r hr).trans (h.regs r hr)⟩

theorem SameButLstat.setField (s : State) (p lo len x : Nat) :
    SameButLstat s (s.setField { name := .hlLstat, dev := p } lo len x) :=
  ⟨.setField s _ _ _ _, fun r hr => s.reg_setField_other _ r _ _ _ fun e => hr (by rw [e])⟩

theorem State.stretch_same (s : State) (p : Nat) : SameButLstat s (s.stretch p) :=
  (SameButLstat.setField s p 10 1 _).trans (.setField _ p 16 16 _)

theorem State.mpCheck_same (s : State) : SameButLstat s s.mpCheck :=
  (SameButLstat.setField s 0 12 1 _).trans (.setField _ 1 12 1 _)

theorem State.readLine_same (s : State) (p addr : Nat) : SameButLstat s (s.readLine p addr) :=
  ⟨⟨rfl, rfl, rfl, rfl, rfl⟩, fun _ _ => rfl⟩

theorem State.readLines_same (s : State) (p : Nat) : SameButLstat s (s.readLines p) := by
  rw [State.readLines]
  generalize s.watchedLines p = l
  induction l generalizing s with
  | nil => exact .refl s
  | cons a l ih => exact (s.readLine_same p a).trans (ih _)

theorem State.rewatch_same (old new : State) (p : Nat) : SameButLstat new (State.rewatch old new p) := by
  unfold State.rewatch
  refine SameButLstat.trans ?_ (State.stretch_same _ p)
  split
  · exact new.readLines_same p
  · split
    · exact ⟨⟨rfl, rfl, rfl, rfl, rfl⟩, fun _ _ => rfl⟩
    · exact .refl new

/-! ### Writes (R640) -/

/-- Registers stored elsewhere, in part, or by a rule of their own. -/
def asideNames : List RegName :=
  [.plExpD, .plImpD, .scFlashBuf, .scRcvBuf, .ftCore, .frPpsSec, .sqCfg, .cqMod, .hlLstat, .cfgErr, .cfgErrInfo, .pgErr, .pgErrInfo]

theorem not_errName_of_not_aside {r : Reg} (h : r.name ∉ asideNames) : r.name ∉ errNames :=
  fun e => h (List.mem_append_right [_, _, _, _, _, _, _, _, _] e)

theorem State.store_eq_setReg (s : State) {r : Reg} (h : r.name ∉ asideNames) (v : Nat) : s.store r v = s.setReg r v := by
  unfold State.store
  split <;> first | rfl | exact absurd (by simp_all [asideNames]) h

theorem State.releaseInfo_eq (s : State) {r : Reg} (h : r.name ∉ asideNames) : s.releaseInfo r = s := by
  unfold State.releaseInfo
  split <;> first | rfl | exact absurd (by simp_all [asideNames]) h

/-- A write that changes a held field is refused as busy. -/
theorem State.applyWrite_refused {s : State} {r : Reg} {v : Nat} (h : s.refuses r v = true) (port : Nat) (vf : Option Nat) (off : Nat) :
    s.applyWrite port vf off r v = s.cfgErr r.page errBUSY (errOffset r vf off) port := if_pos h

/-- A write that is not refused stores the judged value and shows a reserved encoding. -/
theorem State.applyWrite_judged {s : State} {r : Reg} {v : Nat} (h : s.refuses r v = false) (ha : r.name ∉ asideNames) (port : Nat)
    (vf : Option Nat) (off : Nat) :
    s.applyWrite port vf off r v =
      if (judge r.fields (s.readReg r) v).2 then
        (s.setReg r (judge r.fields (s.readReg r) v).1).cfgErr r.page errRSVD (errOffset r vf off) port
      else s.setReg r (judge r.fields (s.readReg r) v).1 := by
  have hm : r.name ≠ .cqMod := fun e => ha (by rw [e]; decide)
  unfold State.applyWrite
  rw [h]
  simp only [Bool.false_eq_true, if_false, if_neg hm, s.store_eq_setReg ha, State.releaseInfo_eq _ ha]

/-- What a judged write leaves: the value stored, the work as it was, a reserved encoding shown. -/
theorem State.applyWrite_spec {s : State} {r : Reg} {v : Nat} (h : s.refuses r v = false) (ha : r.name ∉ asideNames) (port : Nat)
    (vf : Option Nat) (off : Nat) :
    (s.applyWrite port vf off r v).reg r = (judge r.fields (s.readReg r) v).1 % 2 ^ 32
    ∧ SameWork s (s.applyWrite port vf off r v)
    ∧ ((judge r.fields (s.readReg r) v).2 = true → (s.applyWrite port vf off r v).bitOf (errReg r.page) errRSVD = true) := by
  have stored := s.reg_setReg_same r (judge r.fields (s.readReg r) v).1
  rw [State.applyWrite_judged h ha]
  split
  · exact ⟨(State.reg_cfgErr _ _ _ _ _ (not_errName_of_not_aside ha)).trans stored,
      (SameWork.setReg s r _).trans (State.cfgErr_work _ _ _ _ _), fun _ => State.bitOf_cfgErr _ _ _ _ (by decide)⟩
  · next hj => exact ⟨stored, .setReg s r _, fun hr => absurd hr hj⟩

/-- A register write that is its own row's: the judged write, then the watching that follows from it. -/
theorem exec_registerWrite {s : State} {t port off : Nat} {vf : Option Nat} {be : BitVec 4} {v : Word} {r : Reg}
    (hw : (s.arrive t).wrFront port vf off be = (s.arrive t, some r)) (ho : (s.arrive t).rowOwned r v.toNat = false) :
    ∃ u, exec (.registerWrite t port vf off be v) s = .next u
      ∧ SameButLstat ((s.arrive t).applyWrite port vf off r v.toNat) u := by
  have written : (s.arrive t).writeReg port vf off be v.toNat = (s.arrive t).applyWrite port vf off r v.toNat := by
    simp [State.writeReg, hw, ho]
  refine ⟨_, rfl, ?_⟩
  rw [written]
  exact (State.mpCheck_same _).trans ((State.rewatch_same _ _ 0).trans (State.rewatch_same _ _ 1))

theorem SameButLstat.bitOf_errReg {s t : State} (h : SameButLstat s t) (pg : Option Nat) (i : Nat) :
    t.bitOf (errReg pg) i = s.bitOf (errReg pg) i := by
  rw [State.bitOf, State.bitOf, h.regs (errReg pg) (by cases pg <;> simp [errReg])]

/-! ### WS fields (R647) -/

theorem not_errName_of_ws {r : Reg} (h : r.wsBlk.isSome = true) : r.name ∉ errNames := by
  intro hm
  simp only [errNames, List.mem_cons, List.not_mem_nil, or_false] at hm
  rcases hm with e | e | e | e <;> simp [Reg.wsBlk, e] at h

/-! ### Reads (R65, R641, R642) -/

/-- A read sends the register's value; beside that it may latch the other half. -/
theorem State.readLatch_eq {s : State} {port off : Nat} {vf : Option Nat} {r : Reg} (h : s.target port vf off = some r) :
    ∃ ls, s.readLatch port vf off = { s with out := .regValue port (BitVec.ofNat 32 (s.readReg r)) :: s.out, latches := ls } := by
  unfold State.readLatch
  rw [h]
  dsimp only
  split
  · exact ⟨_, rfl⟩
  · exact ⟨_, rfl⟩

/-- Fields with access code RC cleared. -/
def rcCleared (fs : List Field) (v : Nat) : Nat := fs.foldl (fun v f => if f.acc = .rc then putBits v f.lo f.len 0 else v) v

theorem State.clearRc_eq_setReg (s : State) {r : Reg} (h1 : r.name ≠ .coFrz) (h2 : r.name ≠ .coChk) (h3 : r.name ≠ .ftCore) :
    s.clearRc r = s.setReg r (rcCleared r.fields (s.reg r)) := by
  unfold State.clearRc
  split
  · exact absurd ‹_› h1
  · exact absurd ‹_› h2
  · exact absurd ‹_› h3
  · rfl

theorem State.clearRc_ops_mem (s : State) (r : Reg) : (s.clearRc r).ops = s.ops ∧ (s.clearRc r).mem = s.mem := by
  unfold State.clearRc
  split <;> exact ⟨rfl, rfl⟩

/-- The counts a core keeps for its RC fields are cleared, the rest of its fault record stays. -/
theorem State.clearRc_counts {s : State} {r : Reg} (h : r.dev < s.cores.length) :
    (r.name = .coFrz → ((s.clearRc r).core r.dev).frzDry = 0 ∧ ((s.clearRc r).core r.dev).frzAcc = 0)
    ∧ (r.name = .coChk → ((s.clearRc r).core r.dev).chkArray = 0 ∧ ((s.clearRc r).core r.dev).chkMv = false)
    ∧ (r.name = .ftCore →
        ((s.clearRc r).core r.dev).ft = { (s.core r.dev).ft with csCe := 0, accCe := 0, mismatch := 0 }) := by
  refine ⟨fun e => ?_, fun e => ?_, fun e => ?_⟩ <;> simp only [State.clearRc, e] <;> rw [s.core_onCore_same _ h]
  · exact ⟨rfl, rfl⟩
  · exact ⟨rfl, rfl⟩

theorem exec_rcRead {s : State} {t port off : Nat} {vf : Option Nat} {r : Reg} (h : (s.stamped t).target port vf off = some r) :
    exec (.rcRead t port vf off) s = .next (((s.stamped t).readLatch port vf off).clearRc r) := by
  change execRcRead t port vf off s = _
  simp [execRcRead, h]

/-- Settles O35. A write is the judged write of `State.applyWrite_spec` under the watching it brings; WS writes, arming and
reads are read off their functions. -/
theorem registerCommandsStoreShadowLatchAndClear : Obligations.RegisterCommandsStoreShadowLatchAndClear := by
  unfold Obligations.RegisterCommandsStoreShadowLatchAndClear
  intro s t port off vf be v r a b aside err kept
  have herr : err = errReg r.page := by cases h : r.page <;> simp [err, h, errReg]
  refine ⟨fun hw ho ha => ⟨fun hr => ?judged, fun hr => ?refused⟩, fun hw hs => ?shadow, fun k hw hk hv hn => ?arm,
    fun ht hl hh => ?latch, fun ht h1 h2 h3 => ?clear, fun ht hc => ?counts⟩
  case judged =>
    obtain ⟨u, hu, same⟩ := exec_registerWrite hw ho
    obtain ⟨hv, hk, hj⟩ := State.applyWrite_spec hr ha port vf off
    refine ⟨u, hu, (same.regs r fun e => ha (by rw [e]; decide)).trans hv, (hk.trans same.toSameWork).all, fun h => ?_⟩
    rw [herr, same.bitOf_errReg]
    exact hj h
  case refused =>
    obtain ⟨u, hu, same⟩ := exec_registerWrite hw ho
    rw [State.applyWrite_refused hr] at same
    refine ⟨u, hu, (same.regs r fun e => ha (by rw [e]; decide)).trans
      (State.reg_cfgErr _ _ _ _ _ (not_errName_of_not_aside ha)), ?_, ((State.cfgErr_work _ _ _ _ _).trans same.toSameWork).all⟩
    rw [herr, same.bitOf_errReg]
    exact State.bitOf_cfgErr _ _ _ _ (by decide)
  case shadow =>
    refine ⟨_, rfl, ?_⟩
    rw [State.writeWs, hw]
    simp only [Option.isNone_eq_false_iff.mpr hs, Bool.false_eq_true, if_false]
    split
    · next hj =>
      exact ⟨by rw [State.cfgErr_shadow]; exact RegFile.get_set_same .., (State.cfgErr_work _ _ _ _ _).all,
        fun _ _ => State.reg_cfgErr _ _ _ _ _ (not_errName_of_ws hs), fun _ => State.bitOf_cfgErr _ none _ _ (by decide)⟩
    · next hj => exact ⟨RegFile.get_set_same .., ⟨rfl, rfl, rfl, rfl, rfl⟩, fun _ _ => rfl, fun h => absurd h hj⟩
  case arm =>
    refine ⟨_, rfl, ?_⟩
    unfold State.arm
    rw [hw]
    simp [hk, hv, hn]
  case latch =>
    refine ⟨_, rfl, ?_⟩
    rw [State.readLatch, ht]
    simp only [hl, hh, Bool.not_false, Bool.and_true, if_true]
    exact ⟨rfl, rfl, rfl, rfl, rfl, rfl, rfl, rfl⟩
  case clear =>
    obtain ⟨ls, hls⟩ := State.readLatch_eq ht
    refine ⟨_, exec_rcRead ht, ?_⟩
    rw [hls, State.clearRc_eq_setReg _ h1 h2 h3]
    exact ⟨rfl, State.reg_setReg_same .., fun q hq => State.reg_setReg_other _ r q _ hq, rfl, rfl, rfl, rfl, rfl⟩
  case counts =>
    obtain ⟨ls, hls⟩ := State.readLatch_eq ht
    refine ⟨_, exec_rcRead ht, ?_⟩
    rw [hls]
    obtain ⟨frz, chk, ft⟩ := State.clearRc_counts (s := { b with
      out := .regValue port (BitVec.ofNat 32 (b.readReg r)) :: b.out, latches := ls }) hc
    exact ⟨frz, chk, ft, State.clearRc_ops_mem _ r⟩

end Sys2Proof.Machine
end

section
/-! PROOFS. Votes and decisions (chapters 2 and 3): the vote a die sends, what the master's decision holds, and how it
becomes durable and is applied. -/

namespace Sys2Proof.Machine

/-! ### Steps that only send -/

/-- Only what left the package differs. -/
def OnlyOut (s t : State) : Prop := t = { s with out := t.out }

theorem OnlyOut.refl (s : State) : OnlyOut s s := rfl

theorem OnlyOut.trans {s t u : State} (h : OnlyOut s t) (g : OnlyOut t u) : OnlyOut s u := by
  rw [OnlyOut] at h g ⊢
  rw [g, h]

theorem OnlyOut.say (s : State) (m : Msg) : OnlyOut s (s.say m) := rfl

theorem OnlyOut.foldl {α : Type} {f : State → α → State} (h : ∀ s x, OnlyOut s (f s x)) (l : List α) (s : State) :
    OnlyOut s (l.foldl f s) := by
  induction l generalizing s with
  | nil => exact .refl s
  | cons x l ih => exact (h s x).trans (ih _)

theorem State.tellTarget_onlyOut (s : State) (d : Decision) (x : RTarget) : OnlyOut s (s.tellTarget d x) := by
  unfold State.tellTarget
  dsimp only
  split
  · exact .say s _
  · exact .say s _

theorem State.toMeter_onlyOut (s : State) (bs : List Byte) : OnlyOut s (s.toMeter bs) := by
  unfold State.toMeter
  dsimp only
  split
  · exact (OnlyOut.say s _).trans (.say _ _)
  · exact .say s _

/-- What a fold keeps when each of its steps does. -/
theorem foldl_keeps {α β : Type} (p : State → β) {f : State → α → State} (h : ∀ s x, p (f s x) = p s) (l : List α) (s : State) :
    p (l.foldl f s) = p s := by
  induction l generalizing s with
  | nil => rfl
  | cons x l ih => exact (ih _).trans (h s x)

/-! ### The list of decisions -/

theorem State.key_of_dec? {s : State} {frn sub : Nat} {d : Decision} (h : s.dec? frn sub = some d) : d.frn = frn ∧ d.sub = sub := by
  simpa using List.find?_some h

/-- A decision put in the list is the one read there. -/
theorem State.dec?_putDec (s : State) (d : Decision) : (s.putDec d).dec? d.frn d.sub = some d := by
  have none : (s.ops.decs.filter fun x => !(x.frn = d.frn && x.sub = d.sub)).find? (fun x => x.frn = d.frn && x.sub = d.sub) = none := by
    rw [List.find?_eq_none]
    intro x hx
    have := (List.mem_filter.mp hx).2
    simpa [imp_iff_not_or] using this
  rw [State.dec?, State.putDec, List.find?_append, none]
  simp

theorem State.dec?_congr {s t : State} (h : t.ops = s.ops) (frn sub : Nat) : t.dec? frn sub = s.dec? frn sub := by
  rw [State.dec?, State.dec?, h]

/-! ### Writing and confirming a record (R76, R87) -/

/-- Writing a decision's record moves the logs and tells the decision where it lies, or that it came late. -/
theorem State.writeDecision_eq (s : State) (d : Decision) (rings : List (Nat × Nat)) :
    ∃ out logs offs late, s.writeDecision d rings =
      ({ s with out := out, ops := { s.ops with dlogs := logs } }, { d with offs := offs, late := late }) := by
  have step (ps : List Nat) (s : State) (d : Decision) : ∃ out logs offs late,
      ps.foldl (fun a p => match a.1.writeRecord a.2 rings p with
        | some (s, off) => (s, { a.2 with offs := a.2.offs ++ [(p, off)] })
        | none => (a.1, { a.2 with late := true })) (s, d) =
      ({ s with out := out, ops := { s.ops with dlogs := logs } }, { d with offs := offs, late := late }) := by
    induction ps generalizing s d with
    | nil => exact ⟨_, _, _, _, rfl⟩
    | cons p ps ih =>
      rw [List.foldl_cons]
      dsimp only
      split
      · next u off hu =>
        obtain ⟨o, l, rfl⟩ : ∃ o l, u = { s with out := o, ops := { s.ops with dlogs := l } } := by
          unfold State.writeRecord at hu
          dsimp only at hu
          split at hu
          · cases hu
          · cases hu
            exact ⟨_, _, rfl⟩
        obtain ⟨o', l', f, w, e⟩ := ih { s with out := o, ops := { s.ops with dlogs := l } } { d with offs := d.offs ++ [(p, off)] }
        exact ⟨o', l', f, w, e⟩
      · obtain ⟨o', l', f, w, e⟩ := ih s { d with late := true }
        exact ⟨o', l', f, w, e⟩
  exact step _ s d

/-- A durable decision: it is marked, CM_DECIDED_FRN shows its frame, and messages leave. -/
theorem State.nowDurable_onlyOut (s : State) (d : Decision) :
    OnlyOut ((s.putDec { d with durable := true }).setPair .cmDecided 0 0 d.frn) (s.nowDurable d) := by
  have sent (u : State) : OnlyOut u (d.outs.foldl (fun acc x => match acc.op? x.asn with
      | some o => if x.outcome = 0xFF then acc.writeAttempt (o.counted x.cause x.tgt) else acc
      | none => acc) u) := by
    refine OnlyOut.foldl (fun v x => ?_) _ u
    split
    · split
      · exact .say v _
      · exact .refl v
    · exact .refl v
  unfold State.nowDurable
  dsimp only
  split
  · exact (sent _).trans (State.toMeter_onlyOut _ _)
  · exact sent _

/-- CM_DECIDED_FRN after a pair is written. -/
theorem State.pairOf_setPair (s : State) (nm : RegName) (dev n v : Nat) : (s.setPair nm dev n v).pairOf nm dev n = v % 2 ^ 64 := by
  have ne : ({ name := nm, dev := dev, n := n } : Reg) ≠ { name := nm, dev := dev, n := n, hi := true } := by simp
  rw [State.pairOf, State.setPair, State.reg_setReg_same, State.reg_setReg_other _ _ _ _ ne, State.reg_setReg_same]
  omega

/-! ### Deciding (R86) -/

/-- The decision of a point as the master makes it on state a at t. -/
def State.Decides (a : State) (t frn sub deadline : Nat) (d : Decision) : Prop :=
  d.stamp = t ∧ d.inForce = false ∧ d.token = a.cm.token ∧ d.deadline = deadline ∧ d.allAbort = false
    ∧ d.scope = (a.scopeAt sub).map (·.ctx.asn) ∧ d.outs = a.outcomes frn sub (a.scopeAt sub)

/-- The decision before its record is written. -/
def State.proposed (s : State) (t frn sub deadline : Nat) : Decision :=
  let outs := s.outcomes frn sub (s.scopeAt sub)
  { frn := frn, sub := sub, token := s.cm.token, stamp := t, deadline := deadline, allAbort := false, fence := false,
    scope := (s.scopeAt sub).map (·.ctx.asn), outs := outs, durable := false, late := false, applied := [], inForce := false,
    remote := (targetsOf (s.scopeAt sub)).map fun x => (x, false), offs := [],
    sums := outs.filterMap fun x => if x.outcome < 0x10 then (s.op? x.asn).map fun o => (s.account o, o.munits) else none }

theorem State.decide_eq (s : State) (t frn sub deadline : Nat) :
    s.decide t frn sub deadline =
      (let r := s.writeDecision (s.proposed t frn sub deadline) (ringsOf (s.scopeAt sub))
       if (s.scopeAt sub).isEmpty then r.1.nowDurable r.2 else r.1.putDec r.2) := (rfl)

theorem State.decide_spec (s : State) (t frn sub deadline : Nat) :
    (∃ d, (s.decide t frn sub deadline).dec? frn sub = some d ∧ s.Decides t frn sub deadline d)
    ∧ (s.decide t frn sub deadline).cores = s.cores ∧ (s.decide t frn sub deadline).frames = s.frames := by
  obtain ⟨out, logs, offs, late, hw⟩ := s.writeDecision_eq (s.proposed t frn sub deadline) (ringsOf (s.scopeAt sub))
  rw [State.decide_eq, hw]
  dsimp only
  split
  · rw [State.nowDurable_onlyOut]
    exact ⟨⟨_, State.dec?_putDec _ { s.proposed t frn sub deadline with offs := offs, late := late, durable := true },
      rfl, rfl, rfl, rfl, rfl, rfl, rfl⟩, rfl, rfl⟩
  · exact ⟨⟨_, State.dec?_putDec _ _, rfl, rfl, rfl, rfl, rfl, rfl, rfl⟩, rfl, rfl⟩

/-- Messages do not change what is decided. -/
theorem State.Decides.onlyOut {a b : State} (h : OnlyOut a b) {t frn sub deadline : Nat} {d : Decision}
    (g : b.Decides t frn sub deadline d) : a.Decides t frn sub deadline d := by
  rw [h] at g
  exact g

/-! ### Evaluation and sub-ticks (R86, R89, R93) -/

section
variable {s : State} {t : Nat}

/-- Everything but registers is kept when withheld votes show in MC_ERR. -/
theorem State.showWithheld_keeps (ds : List Nat) (s : State) :
    let u := ds.foldl (fun acc d => acc.setBit { name := .mcErr, n := d } 24 true) s
    u.ops = s.ops ∧ u.cores = s.cores ∧ u.frames = s.frames :=
  ⟨foldl_keeps State.ops (fun _ _ => State.setBit_ops ..) ds s, foldl_keeps State.cores (fun _ _ => State.setBit_cores ..) ds s,
    foldl_keeps State.frames (fun _ _ => State.setBit_frames ..) ds s⟩

/-- The master sends the standby its lease for the next tick. -/
def State.leaseSent (a : State) : State := if a.cm.standby then a.say (.lease (a.frames.frn + 1) a.cm.token) else a

theorem State.leaseSent_onlyOut (a : State) : OnlyOut a a.leaseSent := by
  unfold State.leaseSent
  split
  · exact .say a _
  · exact .refl a

/-- The state once the frame's point is decided and the withheld votes are shown. -/
def State.evaluated (a : State) (t : Nat) : State :=
  ((List.range 9).filter fun d => (a.die d).withhold && a.votes d).foldl
    (fun acc d => acc.setBit { name := .mcErr, n := d } 24 true)
    (a.leaseSent.decide t a.leaseSent.frames.frn 0 a.leaseSent.nextTick)

/-- 32 ns after the vote deadline the master decides the frame's point, and no die withholds its vote any longer. -/
theorem exec_voteEvaluate (hg : (s.arrive t).frames.guard = true) (hm : (s.arrive t).hasMaster = true)
    (ht : (s.arrive t).voteAt + 32 ≤ t) (hd : (s.arrive t).dec? (s.arrive t).frames.frn 0 = none) :
    exec (.voteEvaluate t) s = .next { (s.arrive t).evaluated t with
      frames := { ((s.arrive t).evaluated t).frames with
        dies := ((s.arrive t).evaluated t).frames.dies.map fun x => { x with withhold := false } } } := by
  change execVoteEvaluate t s = _
  rw [execVoteEvaluate]
  exact if_neg (by simp [hg, hm, ht, hd])

theorem State.evaluated_spec (a : State) (t : Nat) :
    (∃ d, (a.evaluated t).dec? a.frames.frn 0 = some d ∧ a.Decides t a.frames.frn 0 a.nextTick d)
    ∧ (a.evaluated t).cores = a.cores ∧ (a.evaluated t).frames = a.frames := by
  have sent := a.leaseSent_onlyOut
  have frames : a.leaseSent.frames = a.frames := by rw [sent]
  have next : a.leaseSent.nextTick = a.nextTick := by rw [sent]; rfl
  obtain ⟨⟨d, hd, decides⟩, hc, hf⟩ := a.leaseSent.decide_spec t a.leaseSent.frames.frn 0 a.leaseSent.nextTick
  obtain ⟨ops, cores, frames'⟩ := State.showWithheld_keeps ((List.range 9).filter fun d => (a.die d).withhold && a.votes d)
    (a.leaseSent.decide t a.leaseSent.frames.frn 0 a.leaseSent.nextTick)
  refine ⟨⟨d, ?_, ?_⟩, cores.trans (hc.trans (by rw [sent])), frames'.trans (hf.trans frames)⟩
  · rw [← frames, ← hd]
    exact State.dec?_congr ops _ _
  · rw [← next, ← frames]
    exact decides.onlyOut sent

/-- COMMIT is repeated to every target that has not acknowledged. -/
def State.remind (a : State) : State :=
  a.ops.decs.foldl (fun acc d =>
    if d.inForce && d.durable then (d.remote.filter (!·.2)).foldl (fun a x => a.tellTarget d x.1) acc else acc) a

theorem State.remind_onlyOut (a : State) : OnlyOut a a.remind := by
  refine OnlyOut.foldl (fun v d => ?_) _ a
  split
  · exact OnlyOut.foldl (fun v (x : RTarget × Bool) => v.tellTarget_onlyOut d x.1) _ v
  · exact .refl v

/-- At a sub-tick the master decides the URGENT operations that have voted, if there are any. -/
theorem exec_subTick {k : Nat} (ht : (s.arrive t).frames.ticking = true) (hg : (s.arrive t).frames.guard = false) (h1 : 1 ≤ k)
    (h7 : k ≤ 7) (hs : (s.arrive t).subAt k ≤ t) (hk : (s.arrive t).frames.sub < k) (hm : (s.arrive t).hasMaster = true) :
    let b := ({ s.arrive t with frames := { (s.arrive t).frames with sub := k } } : State).remind
    exec (.subTick t k) s = .next (if (b.scopeAt k).isEmpty then b else b.decide t b.frames.frn k (b.subAt k + 1000)) := by
  change execSubTick t k s = _
  rw [execSubTick]
  have hs : ¬ t < (s.arrive t).subAt k := Nat.not_lt.mpr hs
  exact if_neg (by simp [ht, hg, hm, hs]; omega)

end

/-! ### The vote of a die (R55, R84) -/

/-- Voting for URGENT operations leaves cores, frames and votes, and every operation its context. -/
structure SameButVoted (s t : State) : Prop where
  cores : t.cores = s.cores
  frames : t.frames = s.frames
  votes : t.ops.votes = s.ops.votes
  ctx : ∀ asn, (t.op? asn).map (·.ctx) = (s.op? asn).map (·.ctx)

theorem SameButVoted.refl (s : State) : SameButVoted s s := ⟨rfl, rfl, rfl, fun _ => rfl⟩

theorem SameButVoted.trans {s t u : State} (h : SameButVoted s t) (g : SameButVoted t u) : SameButVoted s u :=
  ⟨g.cores.trans h.cores, g.frames.trans h.frames, g.votes.trans h.votes, fun x => (g.ctx x).trans (h.ctx x)⟩

theorem SameButVoted.foldl {α : Type} {f : State → α → State} (h : ∀ s x, SameButVoted s (f s x)) (l : List α) (s : State) :
    SameButVoted s (l.foldl f s) := by
  induction l generalizing s with
  | nil => exact .refl s
  | cons x l ih => exact (h s x).trans (ih _)

/-- Lines recalled from the hosts: messages leave and the ports forget the lines. -/
theorem State.backInvalidate_keeps (s : State) (o : OpRec) : SameButVoted s (s.backInvalidate o) := by
  unfold State.backInvalidate
  refine SameButVoted.foldl (fun _ _ => ?_) _ s
  exact ⟨rfl, rfl, rfl, fun _ => rfl⟩

/-- A change of an operation's record that keeps its context. -/
theorem SameButVoted.onOp (s : State) (asn : Nat) {f : OpRec → OpRec} (hf : ∀ o, (f o).ctx = o.ctx) :
    SameButVoted s (s.onOp asn f) := by
  have hf' (o : OpRec) : (f o).ctx.asn = o.ctx.asn := by rw [hf]
  refine ⟨rfl, rfl, rfl, fun x => ?_⟩
  by_cases hx : x = asn
  · subst hx
    rw [s.op_onOp_same x f hf', Option.map_map]
    exact congrFun (congrArg Option.map (funext hf)) _
  · rw [s.op_onOp_other asn x f hf' hx]

theorem State.voteUrgent_keeps (s : State) (cores : List Nat) : SameButVoted s (s.voteUrgent cores) := by
  unfold State.voteUrgent
  refine SameButVoted.foldl (fun v o => (v.backInvalidate_keeps o).trans ?_) _ s
  exact .onOp _ _ fun _ => rfl

/-- An URGENT operation that has not voted yet: its abort waits for its own decision point. -/
def State.urgentLeft (s : State) (asn : Nat) : Bool :=
  match s.op? asn with
  | some o => o.ctx.desc.isUrgent && !o.voted
  | none => false

theorem SameButVoted.not_urgentLeft {a s : State} (h : SameButVoted a s) {asn : Nat}
    (hn : ∀ o, a.op? asn = some o → o.ctx.desc.isUrgent = false) : s.urgentLeft asn = false := by
  unfold State.urgentLeft
  split
  · next o ho =>
    have hc := h.ctx asn
    rw [ho, Option.map_some] at hc
    obtain ⟨x, hx, hxo⟩ := Option.map_eq_some_iff.mp hc.symm
    rw [← hxo, hn x hx]
    rfl
  · rfl

/-- The vote a die sends for the frame's point: what its cores give up, but for URGENT operations left to a sub-tick. -/
def State.tickVote (s : State) (t die : Nat) : Vote :=
  { frn := s.frames.frn, sub := 0, die := die, stamp := t,
    aborts := ((dieCores die).flatMap fun c => (s.core c).aborts).filter fun x => !s.urgentLeft x.1 }

theorem exec_prepareVote {s : State} {t die : Nat} (ht : (s.arrive t).frames.ticking = true) (hv : (s.arrive t).votes die = true)
    (hh : ((s.arrive t).die die).hold = false) (hg : (s.arrive t).frames.guard = true) (hw : ((s.arrive t).die die).withhold = false)
    (hl : t ≤ (s.arrive t).voteAt) (hn : (s.arrive t).voteOf (s.arrive t).frames.frn 0 die = none)
    (hd : ∀ c ∈ dieCores die, ∀ g ∈ ((s.arrive t).core c).segs, g.urgent = true ∨ ((s.arrive t).core c).segDone g = true) :
    let b := (s.arrive t).voteUrgent (dieCores die)
    exec (.prepareVote t die 0) s = .next (b.putVote (b.tickVote t die)) := by
  have done : ((dieCores die).any fun c => ((s.arrive t).core c).segs.any fun g => !g.urgent && !((s.arrive t).core c).segDone g)
      = false := by
    rw [List.any_eq_false]
    intro c hc
    rw [Bool.not_eq_true, List.any_eq_false]
    intro g hg
    rcases hd c hc g hg with h | h <;> simp [h]
  have hl : ¬ (s.arrive t).voteAt < t := Nat.not_lt.mpr hl
  change execPrepareVote t die 0 s = _
  rw [execPrepareVote]
  refine (if_neg (by simp [ht, hv, hh])).trans ((if_pos rfl).trans ((if_neg ?_).trans rfl))
  simp [hg, hw, hl, hn, done]

/-- A die's first vote for a point is the one read there. -/
theorem State.voteOf_putVote {s : State} {v : Vote} (h : s.voteOf v.frn v.sub v.die = none) :
    (s.putVote v).voteOf v.frn v.sub v.die = some v := by
  rw [State.putVote, h]
  simp [State.voteOf]

/-! ### Durability and application (R87, R88) -/

theorem exec_decisionDurable {s : State} {t frn sub : Nat} {d : Decision} (hd : (s.arrive t).dec? frn sub = some d)
    (h1 : d.durable = false) (h2 : d.late = false) (hp : ∀ x ∈ d.offs, (s.arrive t).portLost x.1 = false) :
    exec (.decisionDurable t frn sub) s = .next
      (if d.deadline < t then (s.arrive t).putDec { d with late := true } else (s.arrive t).nowDurable d) := by
  have hp : (d.offs.any fun x => (s.arrive t).portLost x.1) = false := by
    rw [List.any_eq_false]
    intro x hx
    rw [hp x hx]
    exact Bool.false_ne_true
  change execDecisionDurable t frn sub s = _
  rw [execDecisionDurable, hd]
  simp [h1, h2, hp]

/-- Putting a decision into force keeps its outcomes and who applied it; it is late where it was not durable. -/
theorem State.applyDecision_dec? {s : State} {frn sub : Nat} {d : Decision} (hd : s.dec? frn sub = some d) :
    ∃ e, (s.applyDecision d).dec? frn sub = some e ∧ e.inForce = true ∧ e.applied = d.applied ∧ e.outs = d.outs
      ∧ e.late = (if d.inForce then d.late else !d.durable) := by
  obtain ⟨rfl, rfl⟩ := State.key_of_dec? hd
  unfold State.applyDecision
  split
  · next hf => exact ⟨d, hd, hf, rfl, rfl, rfl⟩
  · next hf => exact ⟨_, State.dec?_putDec _ { d with
      inForce := true, late := !d.durable, remote := if d.durable && !d.allAbort then d.remote else [] },
      rfl, rfl, rfl, rfl⟩

/-- A decision is due: at the tick for a frame's point, once durable or late for a sub-tick's. -/
def State.Due (a : State) (t frn sub : Nat) (d : Decision) : Prop :=
  if sub = 0 then frn < a.frames.frn else d.durable = true ∨ d.late = true ∨ d.deadline < t

/-- A die in service applies a due decision, whose token is not lower than any it saw, once. -/
theorem exec_dieCommitApply {s : State} {t die frn sub : Nat} {d e : Decision} (hd : (s.arrive t).dec? frn sub = some d)
    (hv : (s.arrive t).votes die = true) (hk : ((s.arrive t).die die).token ≤ d.token) (ha : d.applied.contains die = false)
    (hu : (s.arrive t).Due t frn sub d) (he : ((s.arrive t).applyDecision d).dec? frn sub = some e) :
    exec (.dieCommitApply t die frn sub) s = .next
      (((s.arrive t).applyDecision d).putDec { e with applied := die :: e.applied }) := by
  have due : if sub = 0 then frn < (s.arrive t).frames.frn
      else (d.durable || d.late || Decidable.decide (d.deadline < t)) = true := by
    simpa [State.Due, or_assoc] using hu
  have hk : ¬ d.token < ((s.arrive t).die die).token := Nat.not_lt.mpr hk
  change execDieCommitApply t die frn sub s = _
  rw [execDieCommitApply, hd]
  dsimp only
  rw [decide_eq_true due, hv, ha, decide_eq_false hk]
  simp only [Bool.not_true, Bool.or_self, Bool.false_eq_true, if_false]
  rw [he]

/-- Settles O28. Each command is one equation; what the vote, the decision and its application hold are laws of the
functions they run. -/
theorem votesAndDecisions : Obligations.VotesAndDecisions := by
  unfold Obligations.VotesAndDecisions
  intro s t die sub k frn a decided
  refine ⟨fun ht hv hh hg hw hl hn hd => ?vote, fun hg hm ht hd => ?evaluate, fun ht hg h1 h7 hs hk hm => ?subTick,
    fun d hd => ⟨fun h1 h2 hp => ⟨fun hl => ?durable, fun hl => ?late⟩, fun hv hk ha hu => ?apply_⟩⟩
  case vote =>
    have kept := a.voteUrgent_keeps (dieCores die)
    have frn : ((a.voteUrgent (dieCores die)).tickVote t die).frn = a.frames.frn := congrArg Frames.frn kept.frames
    have none : (a.voteUrgent (dieCores die)).voteOf a.frames.frn 0 die = none := by rw [State.voteOf, kept.votes]; exact hn
    refine ⟨_, exec_prepareVote ht hv hh hg hw hl hn hd, ⟨(a.voteUrgent (dieCores die)).tickVote t die, ?_, rfl, ?_⟩, kept.cores⟩
    · exact frn ▸ State.voteOf_putVote (frn.symm ▸ none)
    · intro c hc x hx hn
      refine List.mem_filter.mpr ⟨List.mem_flatMap.mpr ⟨c, hc, ?_⟩, by rw [kept.not_urgentLeft hn]; rfl⟩
      rwa [State.core_congr kept.cores]
  case evaluate =>
    obtain ⟨dec, cores, frames⟩ := a.evaluated_spec t
    refine ⟨_, exec_voteEvaluate hg hm ht hd, dec, cores, ?_,
      (congrArg Frames.frn frames : (a.evaluated t).frames.frn = _)⟩
    intro x hx
    obtain ⟨y, -, rfl⟩ := List.mem_map.mp hx
    rfl
  case subTick =>
    let b : State := { a with frames := { a.frames with sub := k } }
    have sent : OnlyOut b b.remind := b.remind_onlyOut
    have scope : b.remind.scopeAt k = a.scopeAt k := by rw [sent]; rfl
    refine ⟨_, exec_subTick ht hg h1 h7 hs hk hm, ?_⟩
    split
    · next he =>
      rw [scope] at he
      exact ⟨by rw [sent], by rw [sent], fun _ => by rw [sent], fun hf => absurd he (by rw [hf]; decide)⟩
    · next he =>
      rw [scope] at he
      obtain ⟨⟨d, hd, decides⟩, cores, frames⟩ := b.remind.decide_spec t b.remind.frames.frn k (b.remind.subAt k + 1000)
      have same := decides.onlyOut sent
      have frn : b.remind.frames.frn = a.frames.frn := by rw [sent]
      have instant : b.remind.subAt k = a.subAt k := by rw [sent]; rfl
      rw [frn, instant] at same
      exact ⟨frames.trans (by rw [sent]), cores.trans (by rw [sent]), fun ht => absurd ht he,
        fun _ => ⟨d, (congrArg (State.dec? _ · k) frn.symm).trans hd, same⟩⟩
  case durable =>
    obtain ⟨rfl, rfl⟩ := State.key_of_dec? hd
    refine ⟨_, (exec_decisionDurable hd h1 h2 hp).trans (congrArg _ (if_neg (Nat.not_lt.mpr hl))), ?_⟩
    rw [a.nowDurable_onlyOut d]
    exact ⟨a.dec?_putDec { d with durable := true }, State.pairOf_setPair _ _ _ _ _, rfl⟩
  case late =>
    obtain ⟨rfl, rfl⟩ := State.key_of_dec? hd
    exact ⟨_, (exec_decisionDurable hd h1 h2 hp).trans (congrArg _ (if_pos hl)), a.dec?_putDec { d with late := true }, rfl, rfl⟩
  case apply_ =>
    obtain ⟨e, he, force, applied, outs, late⟩ := State.applyDecision_dec? hd
    obtain ⟨rfl, rfl⟩ := State.key_of_dec? he
    refine ⟨_, exec_dieCommitApply hd hv hk ha hu he, _, State.dec?_putDec _ { e with applied := die :: e.applied }, force, ?_, late, outs⟩
    rw [← applied]

end Sys2Proof.Machine
end

section
/-! PROOFS. The frame law (chapter 2): the steps of a tick and of a guard, and what each of them leaves of the frame's own
state and of mastership. -/

namespace Sys2Proof.Machine

/-! ### Steps beside the frame law -/

/-- The frame's own state and mastership are the same. -/
structure SameLaw (s t : State) : Prop where
  frames : t.frames = s.frames
  cm : t.cm = s.cm

theorem SameLaw.refl (s : State) : SameLaw s s := ⟨rfl, rfl⟩

theorem SameLaw.trans {s t u : State} (h : SameLaw s t) (g : SameLaw t u) : SameLaw s u :=
  ⟨g.frames.trans h.frames, g.cm.trans h.cm⟩

theorem SameLaw.foldl {α : Type} {f : State → α → State} (h : ∀ s x, SameLaw s (f s x)) (l : List α) (s : State) :
    SameLaw s (l.foldl f s) := by
  induction l generalizing s with
  | nil => exact .refl s
  | cons x l ih => exact (h s x).trans (ih _)

theorem SameLaw.getD {s : State} {o : Option State} (h : ∀ t, o = some t → SameLaw s t) : SameLaw s (o.getD s) := by
  cases o with
  | none => exact .refl s
  | some t => exact h t rfl

/-- A step after one that plainly keeps the frame law. -/
theorem SameLaw.after {s t u : State} (g : SameLaw t u) (hf : t.frames = s.frames) (hc : t.cm = s.cm) : SameLaw s u :=
  .trans ⟨hf, hc⟩ g

theorem SameLaw.ite {s t u : State} {c : Prop} [Decidable c] (ht : SameLaw s t) (hu : SameLaw s u) :
    SameLaw s (if c then t else u) := by
  split
  · exact ht
  · exact hu

theorem OnlyOut.sameLaw {s t : State} (h : OnlyOut s t) : SameLaw s t := by
  rw [h]
  exact ⟨rfl, rfl⟩

theorem OnlyCore.sameLaw {c asn : Nat} {s t : State} (h : OnlyCore c asn s t) : SameLaw s t := by
  rw [h.eq]
  exact ⟨rfl, rfl⟩

theorem SameLaw.setReg (s : State) (r : Reg) (v : Nat) : SameLaw s (s.setReg r v) :=
  ⟨State.setReg_frames .., State.setReg_cm ..⟩

theorem SameLaw.setField (s : State) (r : Reg) (lo len x : Nat) : SameLaw s (s.setField r lo len x) :=
  ⟨State.setField_frames .., State.setField_cm ..⟩

/-! ### Memory and operations -/

theorem State.writeRange_law {s t : State} {m : Bool} {a : Nat} {bs : List Byte} (h : s.writeRange m a bs = some t) : SameLaw s t := by
  unfold State.writeRange at h
  split at h
  · dsimp only at h
    cases h
    have wrote (u : State) (b : Nat) : SameLaw u (if u.stackDead (stackOf b) then u else u.devWrite b bs) :=
      .ite (.refl u) ⟨rfl, rfl⟩
    exact (wrote s a).trans (wrote _ _)
  · split at h
    · cases h
    · cases h
      exact ⟨rfl, rfl⟩

theorem State.sysWrite_law (s : State) (off n v : Nat) : SameLaw s (s.sysWrite off n v) :=
  .getD fun _ => State.writeRange_law

theorem State.setPageEntry_law (s : State) (i : Nat) (e : PageEntry) : SameLaw s (s.setPageEntry i e) :=
  (s.sysWrite_law _ _ _).trans (State.sysWrite_law _ _ _ _)

theorem State.settlePages_law (s : State) (owner : Nat) (commit : Bool) (pages : List Nat) :
    SameLaw s (s.settlePages owner commit pages) := by
  refine SameLaw.foldl (fun v i => ?_) pages s
  exact .ite (v.setPageEntry_law _ _) (.refl v)

theorem State.appendPut_law (s : State) (r : AppendRegion) (m : Bool) (n : Nat) (bs : List Byte) :
    SameLaw s (s.appendPut r m n bs) :=
  .getD fun _ => State.writeRange_law

theorem State.advanceTail_law (s : State) (m : Bool) (r : AppendRegion) (l : List ASlot) :
    SameLaw s (s.advanceTail m r l).1 := by
  induction l generalizing s r with
  | nil => exact .refl s
  | cons x xs ih =>
    unfold State.advanceTail
    split
    · exact .refl s
    · exact (s.appendPut_law _ _ _ _).trans (ih _ _)

theorem State.putAppend_law (s : State) (r : AppendRegion) : SameLaw s (s.putAppend r) := ⟨rfl, rfl⟩

theorem State.settleSlot_law (s : State) (base size asn how hi : Nat) (m : Bool) :
    SameLaw s (s.settleSlot base size asn how hi m) := by
  unfold State.settleSlot
  dsimp only
  split
  · exact .refl s
  · split
    · split
      · exact s.putAppend_law _
      · exact ((s.appendPut_law _ _ _ _).trans (State.advanceTail_law _ _ _ _)).trans (State.putAppend_law _ _)
    · refine SameLaw.trans ?_ (State.putAppend_law _ _)
      refine SameLaw.trans ?_ (State.advanceTail_law _ _ _ _)
      exact .ite ((s.appendPut_law _ _ _ _).trans (State.appendPut_law _ _ _ _ _)) (s.appendPut_law _ _ _ _)

theorem State.settleAppend_law (s : State) (o : OpRec) (how : Nat) : SameLaw s (s.settleAppend o how) := by
  unfold State.settleAppend
  split
  · exact s.settleSlot_law _ _ _ _ _ _
  · exact .refl s

theorem State.applyDeltas_law (s : State) (win : Nat) (ds : List Delta) : SameLaw s (s.applyDeltas win ds) := by
  unfold State.applyDeltas
  split
  · exact SameLaw.foldl (fun v d => .getD fun _ => State.writeRange_law) ds s
  · exact .refl s

theorem State.localDeltas_law (s : State) (o : OpRec) : SameLaw s (s.localDeltas o) := by
  refine SameLaw.foldl (fun v d => ?_) o.deltas s
  exact v.applyDeltas_law d.1 [d.2]

theorem State.signal_law (s : State) (o : OpRec) : SameLaw s (s.signal o) :=
  SameLaw.foldl (fun v _ => v.sysWrite_law _ _ _) o.ctx.desc.activeSigs s

/-- Settling an operation works on its record, its cores and its memory. -/
theorem State.settle_law (s : State) (frn sub : Nat) (x : OpOutcome) : SameLaw s (s.settle frn sub x) := by
  unfold State.settle
  dsimp only
  split
  · exact .refl s
  · next o ho =>
    have given (commit : Bool) : SameLaw s (s.settlePages x.asn commit o.pages) := s.settlePages_law x.asn commit o.pages
    split
    · have dropped := (given false).trans (State.settleAppend_law _ o 2)
      split
      · exact dropped.trans ⟨rfl, rfl⟩
      · exact dropped.trans ⟨rfl, rfl⟩
    · split
      · exact ((given false).trans (State.settleAppend_law _ o 1)).trans ⟨rfl, rfl⟩
      · exact ((((given true).trans (State.localDeltas_law _ o)).trans (State.signal_law _ o)).trans
          (State.settleAppend_law _ o 0)).trans ⟨rfl, rfl⟩

theorem State.applyDecision_law (s : State) (d : Decision) : SameLaw s (s.applyDecision d) := by
  unfold State.applyDecision
  split
  · exact .refl s
  · have told (v : State) : SameLaw v (d.remote.foldl (fun acc t => acc.tellTarget d t.1) v) :=
      .foldl (fun v (x : RTarget × Bool) => (v.tellTarget_onlyOut d x.1).sameLaw) _ v
    have settled (v : State) : SameLaw v (d.effective.foldl (fun acc x => acc.settle d.frn d.sub x) v) :=
      .foldl (fun v x => v.settle_law d.frn d.sub x) _ v
    have wrote (v : State) : SameLaw v (if d.durable then v else
        d.scope.foldl (fun acc a => match acc.op? a with | some o => acc.writeAttempt o | none => acc) v) := by
      split
      · exact .refl v
      · refine SameLaw.foldl (fun v a => ?_) _ v
        split
        · exact ⟨rfl, rfl⟩
        · exact .refl v
    exact (((OnlyOut.say s _).sameLaw.trans (told _)).trans (settled _)).trans ((wrote _).trans ⟨rfl, rfl⟩)

/-- The decisions that take effect at a tick leave the frame law alone. -/
theorem State.applyPending_law (s : State) : SameLaw s s.applyPending :=
  (SameLaw.foldl (fun v d => v.applyDecision_law d) _ s).trans (.foldl (fun v d => v.applyDecision_law d) _ _)

/-! ### Values that become active (R35, R647) -/

theorem State.cfgErrTick_law (s : State) (cause : Nat) (b : Blk) : SameLaw s (s.cfgErrTick cause b) := by
  unfold State.cfgErrTick State.cfgErrAt
  exact (SameLaw.ite (.setReg s _ _) (.refl s)).trans (.setField _ _ _ _ _)

theorem State.activateSets_law (s : State) (sources : List (List Byte)) : SameLaw s (s.activateSets sources) := by
  refine SameLaw.foldl (fun v n => ?_) (List.range 4) s
  have stored : SameLaw v ((rsRegs n).foldl (fun a r => { a with regs := a.regs.set r (a.shadow.get r) }) v) := by
    refine SameLaw.foldl (fun u r => ?_) _ v
    exact ⟨rfl, rfl⟩
  exact .ite (.refl v) (.ite (stored.trans ⟨rfl, rfl⟩) (v.cfgErrTick_law _ _))

theorem State.activatePool_law (s : State) : SameLaw s s.activatePool := by
  unfold State.activatePool
  exact .ite (.after (State.cfgErrTick_law _ _ _) rfl rfl) ⟨rfl, rfl⟩

theorem State.activate_law (s : State) (refused : List Reg) (b : Blk) : SameLaw s (s.activate refused b) := by
  refine SameLaw.foldl (fun v r => ?_) _ s
  exact ⟨rfl, rfl⟩

theorem State.activateAt_law (s : State) (t : Stamp) (sources : List (List Byte)) : SameLaw s (s.activateAt t sources) := by
  unfold State.activateAt
  refine SameLaw.trans (SameLaw.trans (SameLaw.trans ?_ (.ite (State.cfgErrTick_law _ _ _) (.refl _)))
    (.ite (State.activateSets_law _ _) (.refl _))) (.ite (State.activatePool_law _) (.refl _))
  exact .after (.foldl (fun v b => v.activate_law _ b) _ _) rfl rfl

theorem State.moveRole_law (s : State) (cut : Stamp) (m : Nat × Stamp) : SameLaw s (s.moveRole cut m) := by
  unfold State.moveRole
  refine .ite (.refl s) ?_
  split
  · exact .after (.setField _ _ _ _ _) rfl rfl
  · exact ⟨rfl, rfl⟩

theorem State.moveRoles_law (s : State) (cut : Stamp) : SameLaw s (s.moveRoles cut) :=
  SameLaw.foldl (fun v m => v.moveRole_law cut m) _ s

theorem State.placeShards_law (s : State) (changed : List Nat) : SameLaw s (s.placeShards changed) := by
  unfold State.placeShards
  refine .after (.foldl (fun v n => ?_) (List.range 4) _) rfl rfl
  exact (SameLaw.setField v _ _ _ _).trans (.setField _ _ _ _ _)

theorem State.unmask_law (s : State) : SameLaw s s.unmask := ⟨State.setPair_frames .., State.setPair_cm ..⟩

/-! ### Rings, ports and links (R131-R133, R471) -/

theorem State.moveRing_law (s : State) (x : Nat × Nat) : SameLaw s (s.moveRing x) := by
  unfold State.moveRing
  exact .ite (.refl s) (.ite ⟨rfl, rfl⟩ ⟨rfl, rfl⟩)

theorem State.excludePorts_law (s : State) : SameLaw s s.excludePorts := by
  unfold State.excludePorts
  refine .ite (.refl s) (.foldl (fun v p => ?_) [0, 1] s)
  exact .ite ⟨rfl, rfl⟩ (.refl v)

theorem State.qlSwitch_law (s : State) : SameLaw s s.qlSwitch := ⟨rfl, rfl⟩

/-! ### Placement (R51, R328) -/

theorem State.reserveFor_law {s t : State} {o : OpRec} (h : s.reserveFor o = some t) : SameLaw s t := by
  unfold State.reserveFor at h
  split at h
  · cases h
    exact .refl s
  · split at h
    · cases h
    · cases h
      exact ⟨rfl, rfl⟩

/-- A branch of two results whose states both keep the frame law. -/
theorem SameLaw.iteFst {α : Type} {s : State} {x y : State × α} {c : Prop} [Decidable c] (hx : SameLaw s x.1) (hy : SameLaw s y.1) :
    SameLaw s (if c then x else y).1 := by
  split
  · exact hx
  · exact hy

theorem State.consider_law (a : State × PlaceRun) (x : OpRec × List ItemEst × Option Head) : SameLaw a.1 (State.consider a x).1 := by
  unfold State.consider
  extract_lets s o r ring ws r' u later fitted
  have noted : SameLaw s u := ⟨rfl, rfl⟩
  refine .iteFst (.refl s) (.iteFst (.refl s) (.iteFst (noted.trans ⟨rfl, rfl⟩) (.iteFst noted ?_)))
  split
  · next hr => exact noted.trans (State.reserveFor_law hr)
  · exact noted

theorem State.runSplitter_law (s : State) (p : Plan) : SameLaw s (s.runSplitter p).1 := by
  have run (os : List OpRec) (a : State × PlaceRun) : SameLaw a.1 (os.foldl (fun a o =>
      State.consider a (o, (p.ests.lookup o.ctx.asn).getD [], o.head (p.heads.lookup o.ctx.asn))) a).1 := by
    induction os generalizing a with
    | nil => exact .refl a.1
    | cons o os ih => exact (State.consider_law a _).trans (ih _)
  unfold State.runSplitter
  exact run _ (s, _)

theorem State.putPlaced_law (s : State) (x : Nat × Placed) : SameLaw s (s.putPlaced x) := by
  unfold State.putPlaced
  split
  · exact .refl s
  · dsimp only
    split
    · exact ⟨rfl, rfl⟩
    · refine .after (.foldl (fun v c => ?_) _ _) rfl rfl
      exact ⟨rfl, rfl⟩

theorem State.startSegs_law (s : State) (c : Nat) : SameLaw s (s.startSegs c) :=
  SameLaw.foldl (fun v (g : Seg) => (v.startSeg_onlyCore c g.ctx.asn).sameLaw) _ s

/-! ### The phases of a tick (R31) -/

/-- Shadows and roles change, shards are placed anew, sources are unmasked. -/
def State.tickValues (b : State) (T cutoff : Nat) (sources : List (List Byte)) : State :=
  let s1 := b.activateAt T sources
  ((s1.moveRoles cutoff).placeShards (setsChanged b s1)).unmask

/-- Rings and links follow their ports; the append control lines are read. -/
def State.tickLinks (b : State) (consumes : List (Nat × Nat)) : State :=
  consumes.foldl (fun acc c =>
    match acc.ops.append.find? (·.base = c.1) with
    | some r => acc.putAppend { r with consume := c.2 }
    | none => acc) (b.enabledRings.foldl (fun acc x => acc.moveRing x) b.excludePorts).qlSwitch

/-- The plan of the guard is placed and its segments start. -/
def State.tickWork (b : State) (cutoff : Nat) : State :=
  let s := b.noteFirst cutoff
  let r := s.runSplitter (match s.frames.plan with | some p => p | none => s.planAt cutoff)
  (List.range 36).foldl (fun acc c => if acc.votes (c / 4) then acc.startSegs c else acc)
    (r.2.placed.foldl (fun acc x => acc.putPlaced x) r.1)

theorem State.tickValues_law (b : State) (T cutoff : Nat) (sources : List (List Byte)) : SameLaw b (b.tickValues T cutoff sources) :=
  (((b.activateAt_law T sources).trans (State.moveRoles_law _ cutoff)).trans (State.placeShards_law _ _)).trans (State.unmask_law _)

theorem State.tickLinks_law (b : State) (consumes : List (Nat × Nat)) : SameLaw b (b.tickLinks consumes) := by
  refine ((b.excludePorts_law.trans (.foldl (fun v x => v.moveRing_law x) _ _)).trans (State.qlSwitch_law _)).trans
    (.foldl (fun v c => ?_) consumes _)
  split
  · exact v.putAppend_law _
  · exact .refl v

theorem State.tickWork_law (b : State) (cutoff : Nat) : SameLaw b (b.tickWork cutoff) := by
  have placed (x : List (Nat × Placed)) (v : State) : SameLaw v (x.foldl (fun acc y => acc.putPlaced y) v) :=
    .foldl (fun v y => v.putPlaced_law y) x v
  have started (v : State) : SameLaw v
      ((List.range 36).foldl (fun acc c => if acc.votes (c / 4) then acc.startSegs c else acc) v) :=
    .foldl (fun v c => .ite (v.startSegs_law c) (.refl v)) _ v
  unfold State.tickWork
  extract_lets s r
  have noted : SameLaw b s := ⟨rfl, rfl⟩
  exact ((noted.trans (s.runSplitter_law _)).trans (placed _ _)).trans (started _)

theorem State.thermPin_law (s : State) : SameLaw s s.thermPin := by
  unfold State.thermPin
  exact .ite (.refl s) ⟨rfl, rfl⟩

/-- The throttle clears the mark of a hot frame. -/
theorem State.throttleAt_law (s : State) (power hottest : Nat) :
    (s.throttleAt power hottest).frames = { s.frames with hot := false } ∧ (s.throttleAt power hottest).cm = s.cm := by
  unfold State.throttleAt
  extract_lets theta s1 s2
  have metered : SameLaw s s2 := ((SameLaw.setField s _ _ _ _).trans (.setField _ _ _ _ _)).trans (.setField _ _ _ _ _)
  have pinned := State.thermPin_law { s2 with frames := { s2.frames with hot := false } }
  exact ⟨pinned.frames.trans (by rw [metered.frames]), pinned.cm.trans metered.cm⟩

/-! ### Only cores change -/

/-- Only cores differ. -/
def OnlyCores (s t : State) : Prop := t = { s with cores := t.cores }

theorem OnlyCores.refl (s : State) : OnlyCores s s := rfl

theorem OnlyCores.frames {s t : State} (h : OnlyCores s t) : t.frames = s.frames := by rw [h]

theorem OnlyCores.cm {s t : State} (h : OnlyCores s t) : t.cm = s.cm := by rw [h]

theorem OnlyCores.foldl_onCore {f : State → Core → Core} (l : List Nat) (s : State) :
    OnlyCores s (l.foldl (fun acc c => acc.onCore c (f acc)) s) := by
  induction l generalizing s with
  | nil => exact .refl s
  | cons c l ih =>
    have tail := ih (s.onCore c (f s))
    rw [OnlyCores] at tail ⊢
    rw [List.foldl_cons, tail]
    rfl

/-! ### A die accepts a tick (R41, R42) -/

theorem State.die_onDie_same (s : State) {d : Nat} (f : DieSeq → DieSeq) (h : d < s.frames.dies.length) :
    (s.onDie d f).die d = f (s.die d) := by
  simp [State.die, State.onDie, List.getD, h]

theorem State.die_onDie_other (s : State) {d e : Nat} (f : DieSeq → DieSeq) (h : e ≠ d) : (s.onDie d f).die e = s.die e := by
  simp [State.die, State.onDie, List.getD, h.symm]

theorem State.die_congr {s t : State} (h : t.frames.dies = s.frames.dies) (d : Nat) : t.die d = s.die d := by
  rw [State.die, State.die, h]

/-- A die takes a tick whose number it has not reached and whose token is not below its own. -/
def State.FreshTick (s : State) (d frn token : Nat) : Prop := (∀ f, (s.die d).frn = some f → f < frn) ∧ (s.die d).token ≤ token

/-- The die after a tick it accepted. -/
def DieSeq.accepting (frn token : Nat) (x : DieSeq) : DieSeq := { x with frn := some frn, token := token, hold := false }

/-- Accepting works on the die and its cores. -/
theorem State.acceptTick_onlyCores {s : State} {d frn token : Nat} (h : s.FreshTick d frn token) :
    OnlyCores (s.onDie d (DieSeq.accepting frn token)) (s.acceptTick d frn token) := by
  obtain ⟨hf, ht⟩ := h
  have taken : s.acceptTick d frn token = (dieCores d).foldl (fun acc c => acc.onCore c fun k => { k with guard := acc.frames.guard })
      (s.onDie d (DieSeq.accepting frn token)) := by
    refine if_neg fun hc => ?_
    rcases (Bool.or_eq_true _ _).mp hc with seen | low
    · split at seen
      · next f he => exact Nat.not_le.mpr (hf f he) (of_decide_eq_true seen)
      · cases seen
    · exact Nat.not_le.mpr (of_decide_eq_true low) ht
  rw [taken]
  exact .foldl_onCore (dieCores d) _

theorem State.acceptTick_stale {s : State} {d frn token : Nat} (h : ¬ s.FreshTick d frn token) : s.acceptTick d frn token = s := by
  refine if_pos ?_
  by_contra hn
  rw [Bool.or_eq_true, not_or] at hn
  obtain ⟨hf, ht⟩ := hn
  refine h ⟨fun f he => ?_, by simpa using ht⟩
  rw [he] at hf
  simpa using hf

/-- Of a list of dies, what each does with a tick of mastership's token. -/
structure TickTaken (frn : Nat) (l : List Nat) (s t : State) : Prop where
  frames : t.frames = { s.frames with dies := t.frames.dies }
  cm : t.cm = s.cm
  length : t.frames.dies.length = s.frames.dies.length
  other : ∀ d, d ∉ l → t.die d = s.die d
  taken : ∀ d ∈ l, d < s.frames.dies.length → s.FreshTick d frn s.cm.token → t.die d = (s.die d).accepting frn s.cm.token

theorem State.acceptTick_taken (s : State) (d frn : Nat) : TickTaken frn [d] s (s.acceptTick d frn s.cm.token) := by
  by_cases h : s.FreshTick d frn s.cm.token
  · have he := State.acceptTick_onlyCores h
    rw [OnlyCores] at he
    rw [he]
    refine ⟨rfl, rfl, List.length_modify .., fun e hn => ?_, fun e hm hl _ => ?_⟩
    · exact s.die_onDie_other _ (by simpa using hn)
    · obtain rfl := List.mem_singleton.mp hm
      exact s.die_onDie_same _ hl
  · rw [State.acceptTick_stale h]
    refine ⟨rfl, rfl, rfl, fun _ _ => rfl, fun e hm _ hf => ?_⟩
    obtain rfl := List.mem_singleton.mp hm
    exact absurd hf h

theorem TickTaken.cons {frn d : Nat} {l : List Nat} {s t u : State} (hd : d ∉ l) (h : TickTaken frn [d] s t)
    (g : TickTaken frn l t u) : TickTaken frn (d :: l) s u where
  frames := by rw [g.frames, h.frames]
  cm := g.cm.trans h.cm
  length := g.length.trans h.length
  other e he := by
    rw [List.mem_cons, not_or] at he
    exact (g.other e he.2).trans (h.other e (by simpa using he.1))
  taken e he hl hf := by
    by_cases hed : e = d
    · subst hed
      exact (g.other e hd).trans (h.taken e (List.mem_singleton.mpr rfl) hl hf)
    · have same : t.die e = s.die e := h.other e (by simpa using hed)
      have hm : e ∈ l := (List.mem_cons.mp he).resolve_left hed
      have := g.taken e hm (h.length ▸ hl) (by rw [State.FreshTick, same, h.cm]; exact hf)
      rwa [same, h.cm] at this

/-- Every die of the list takes the tick, or leaves it when it is stale there. -/
theorem State.acceptTicks_taken (s : State) (frn : Nat) {l : List Nat} (hl : l.Nodup) :
    TickTaken frn l s (l.foldl (fun acc d => acc.acceptTick d frn acc.cm.token) s) := by
  induction l generalizing s with
  | nil => exact ⟨rfl, rfl, rfl, fun _ _ => rfl, fun _ h => absurd h List.not_mem_nil⟩
  | cons d l ih =>
    obtain ⟨hd, hl⟩ := List.nodup_cons.mp hl
    exact (s.acceptTick_taken d frn).cons hd (ih _ hl)

/-! ### The tick (R31) -/

/-- The frame has begun and the tick message has left. -/
def State.tickSent (a : State) (T frn : Nat) : State := (a.applyPending.beginFrame T frn).say (.tick frn a.cm.token)

/-- Every die has seen the tick. -/
def State.tickAccepted (a : State) (T frn : Nat) : State :=
  (List.range 11).foldl (fun acc d => acc.acceptTick d frn acc.cm.token) (a.tickSent T frn)

/-- What the plan of a tick counts as accepted: up to the plan's instant, or the guard's without one. -/
def State.cutoffOf (a : State) (T : Nat) : Nat := match a.frames.plan with | some p => p.cutoff | none => T - a.lenG

/-- A tick after its dies accepted it. -/
def State.tickDone (b : State) (T cutoff power hottest : Nat) (sources : List (List Byte)) (consumes : List (Nat × Nat)) : State :=
  let s := ((((b.tickValues T cutoff sources).tickLinks consumes).tickWork cutoff).throttleAt power hottest).pruneDecs
  { s with frames := { s.frames with plan := none } }

theorem exec_frameTick {s : State} {t T frn : Nat} (power hottest : Nat) (sources : List (List Byte)) (consumes : List (Nat × Nat))
    (ht : (s.arrive t).tickOf t = some (T, frn)) (hm : (s.arrive t).hasMaster = true) (hf : (s.arrive t).cm.fenceAt = none) :
    exec (.frameTick t power hottest sources consumes) s = .next (((s.arrive t).tickAccepted T frn).tickDone T
      ((s.arrive t).cutoffOf T) power hottest sources consumes) := by
  change execFrameTick t power hottest sources consumes s = _
  rw [execFrameTick, ht]
  exact if_neg (by simp [hm, hf])

theorem exec_frameTick_none {s : State} {t : Nat} (power hottest : Nat) (sources : List (List Byte)) (consumes : List (Nat × Nat))
    (ht : (s.arrive t).tickOf t = none) : exec (.frameTick t power hottest sources consumes) s = .next (s.arrive t) := by
  change execFrameTick t power hottest sources consumes s = _
  rw [execFrameTick, ht]

/-- The rest of a tick ends the plan and the mark of a hot frame. -/
theorem State.tickDone_law (b : State) (T cutoff power hottest : Nat) (sources : List (List Byte)) (consumes : List (Nat × Nat)) :
    (b.tickDone T cutoff power hottest sources consumes).frames = { b.frames with hot := false, plan := none }
      ∧ (b.tickDone T cutoff power hottest sources consumes).cm = b.cm := by
  have work : SameLaw b (((b.tickValues T cutoff sources).tickLinks consumes).tickWork cutoff) :=
    ((b.tickValues_law T cutoff sources).trans (State.tickLinks_law _ consumes)).trans (State.tickWork_law _ cutoff)
  obtain ⟨hf, hc⟩ := State.throttleAt_law (((b.tickValues T cutoff sources).tickLinks consumes).tickWork cutoff) power hottest
  rw [work.frames] at hf
  exact ⟨congrArg (fun x : Frames => { x with plan := none }) hf, hc.trans work.cm⟩

/-- A begun frame with its dies, read from the state before it. -/
theorem State.tickAccepted_taken (a : State) (T frn : Nat) :
    TickTaken frn (List.range 11) (a.tickSent T frn) (a.tickAccepted T frn) :=
  State.acceptTicks_taken _ frn List.nodup_range

theorem State.tickSent_frames (a : State) (T frn : Nat) : (a.tickSent T frn).frames =
    { a.frames with ticking := true, tick := T, frn := frn, guard := false, sub := 0, lastFrn := some frn } := by
  rw [← a.applyPending_law.frames]
  rfl

theorem State.tickSent_cm (a : State) (T frn : Nat) : (a.tickSent T frn).cm = a.cm := a.applyPending_law.cm

/-! ### The tick message and its watchdog (R34, R42) -/

theorem exec_tickMessage (s : State) (t die frn token : Nat) : exec (.tickMessage t die frn token) s =
    .next ((dieCores die).foldl (fun acc c => acc.startSegs c) ((s.arrive t).acceptTick die frn token)) := rfl

/-- Segments that start on a die leave the frame law alone. -/
theorem State.startSegs_foldl_law (s : State) (l : List Nat) : SameLaw s (l.foldl (fun acc c => acc.startSegs c) s) :=
  .foldl (fun v c => v.startSegs_law c) l s

theorem exec_tickWatchdog {s : State} {t die : Nat} (ht : (s.arrive t).frames.ticking = true)
    (hl : (s.arrive t).frames.tick + (t - (s.arrive t).frames.tick) / max 1 (s.arrive t).lenF * max 1 (s.arrive t).lenF + 1032 ≤ t)
    (hn : ((s.arrive t).die die).frn = none) :
    exec (.tickWatchdog t die) s = .next ((dieCores die).foldl (fun acc c => acc.onCore c fun k => { k with guard := true })
      ((s.arrive t).onDie die fun x => { x with hold := true })) := by
  change execTickWatchdog t die s = _
  rw [execTickWatchdog, hn]
  refine congrArg Host.Outcome.next (if_neg ?_)
  simpa [ht, Nat.add_assoc] using hl

/-- Cores that were told to stop are in the guard. -/
theorem State.core_guard_foldl {l : List Nat} {s : State} {c : Nat} (hc : c ∈ l ∨ (s.core c).guard = true) (hl : c < s.cores.length) :
    ((l.foldl (fun acc c => acc.onCore c fun k => { k with guard := true }) s).core c).guard = true := by
  induction l generalizing s with
  | nil => exact hc.resolve_left List.not_mem_nil
  | cons d l ih =>
    refine ih ?_ (by simpa using hl)
    by_cases hd : c = d
    · subst hd
      right
      exact congrArg Core.guard (State.core_onCore_same s _ hl)
    · rw [State.core_onCore_other s _ hd]
      exact hc.imp_left fun hm => (List.mem_cons.mp hm).resolve_left hd

/-! ### The guard (R58, R167) -/

/-- The frame's own state is the same, and cores all in the guard stay there. -/
structure KeepsGuard (s t : State) : Prop where
  frames : t.frames = s.frames
  cores : (∀ k ∈ s.cores, k.guard = true) → ∀ k ∈ t.cores, k.guard = true

theorem KeepsGuard.refl (s : State) : KeepsGuard s s := ⟨rfl, id⟩

theorem KeepsGuard.trans {s t u : State} (h : KeepsGuard s t) (g : KeepsGuard t u) : KeepsGuard s u :=
  ⟨g.frames.trans h.frames, g.cores ∘ h.cores⟩

theorem KeepsGuard.of_eq {s t : State} (hf : t.frames = s.frames) (hc : t.cores = s.cores) : KeepsGuard s t :=
  ⟨hf, by rw [hc]; exact id⟩

theorem KeepsGuard.foldl {α : Type} {f : State → α → State} (h : ∀ s x, KeepsGuard s (f s x)) (l : List α) (s : State) :
    KeepsGuard s (l.foldl f s) := by
  induction l generalizing s with
  | nil => exact .refl s
  | cons x l ih => exact (h s x).trans (ih _)

theorem KeepsGuard.onCore (s : State) (c : Nat) {f : Core → Core} (hf : ∀ k, (f k).guard = k.guard) : KeepsGuard s (s.onCore c f) := by
  refine ⟨rfl, fun h k hk => ?_⟩
  obtain ⟨i, hi⟩ := List.mem_iff_getElem?.mp hk
  rw [State.onCore_cores, List.getElem?_modify] at hi
  obtain ⟨x, hx, rfl⟩ := Option.map_eq_some_iff.mp hi
  have hg := h x (List.mem_of_getElem? hx)
  split
  · exact (hf x).trans hg
  · exact hg

theorem State.urgentGuard_keeps (s : State) (o : OpRec) : KeepsGuard s (s.urgentGuard o) := by
  unfold State.urgentGuard
  extract_lets u
  have counted : KeepsGuard s u := .of_eq rfl rfl
  split
  · exact .refl s
  · split
    · have stopped : KeepsGuard u (o.cores.foldl (fun acc c => acc.onCore c fun k => k.giveUp o.ctx.asn) u) :=
        .foldl (fun v c => .onCore v c (f := fun k => k.giveUp o.ctx.asn) fun _ => rfl) o.cores u
      exact (counted.trans stopped).trans (.of_eq rfl rfl)
    · exact counted

theorem State.cleanSlice_keeps (s : State) (h : Nat) : KeepsGuard s (s.cleanSlice h) := by
  refine .foldl (fun v l => ?_) _ s
  have out (u : State) (b : Bool) (i : Nat) : KeepsGuard u (if b then u.sectorOut h l i else u) := by
    split
    · exact .of_eq rfl rfl
    · exact .refl u
  have cleaned : KeepsGuard v (v.cleanLine h l) := ((out v _ 0).trans (out _ _ 1)).trans (.of_eq rfl rfl)
  split
  · exact cleaned
  · exact .refl v

/-- An operation whose wait window is over ends with WAIT_EXPIRED (0x11). -/
def OpRec.expire (x : OpRec) : OpRec := { x with ended := some (0x11, 0) }

theorem State.expireWait_eq (s : State) (o : OpRec) :
    s.expireWait o = s ∨ s.expireWait o = s.onOp o.ctx.asn OpRec.expire := by
  unfold State.expireWait
  split
  · exact .inl rfl
  · split
    · exact .inr rfl
    · exact .inl rfl

theorem State.expireWait_frames (s : State) (o : OpRec) : (s.expireWait o).frames = s.frames := by
  rcases s.expireWait_eq o with h | h <;> rw [h]
  rfl

/-- A guard begins: waits of last windows expire and every core stops. -/
def State.guardStops (a : State) : State :=
  let s := a.noteUrgent
  let s := s.ops.list.foldl (fun acc o => acc.expireWait o) s
  { s with cores := s.cores.map Core.enterGuard }

/-- URGENT operations count the guard. -/
def State.guardCounts (s : State) : State :=
  s.ops.list.foldl (fun acc o => acc.urgentGuard o) { s with frames := { s.frames with guard := true } }

/-- Every slice writes its dirty lines back. -/
def State.guardCleans (s : State) : State := (List.range 9).foldl (fun acc h => acc.cleanSlice h) s

/-- The hosts give up the lines of the scope. -/
def State.guardRecalls (s : State) : State := (s.scopeAt 0).foldl (fun acc o => acc.backInvalidate o) s

def State.guardPlans (s : State) : State := { s with frames := { s.frames with plan := some (s.planAt s.guardAt) } }

theorem State.guardStops_frames (a : State) : a.guardStops.frames = a.frames :=
  foldl_keeps State.frames State.expireWait_frames _ a.noteUrgent

theorem State.guard_of_mem_guardStops {a : State} {k : Core} (h : k ∈ a.guardStops.cores) : k.guard = true := by
  obtain ⟨x, -, rfl⟩ := List.mem_map.mp h
  rfl

theorem State.guardCounts_keeps (s : State) : KeepsGuard { s with frames := { s.frames with guard := true } } s.guardCounts :=
  .foldl State.urgentGuard_keeps _ _

theorem State.guardCleans_keeps (s : State) : KeepsGuard s s.guardCleans := .foldl State.cleanSlice_keeps _ s

theorem State.guardRecalls_keeps (s : State) : KeepsGuard s s.guardRecalls :=
  .foldl (fun v o => .of_eq (v.backInvalidate_keeps o).frames (v.backInvalidate_keeps o).cores) _ s

/-- The state at the end of a guard's opening. -/
def State.guardOpened (a : State) : State := a.guardStops.guardCounts.guardCleans.guardRecalls

/-- A guard stops every core; of the frame it changes nothing but that the guard is open. -/
theorem State.guardOpened_spec (a : State) :
    a.guardOpened.frames = { a.frames with guard := true } ∧ ∀ k ∈ a.guardOpened.cores, k.guard = true := by
  have kept := (a.guardStops.guardCounts_keeps.trans (State.guardCleans_keeps _)).trans (State.guardRecalls_keeps _)
  have stopped : ∀ k ∈ a.guardStops.cores, k.guard = true := fun k => State.guard_of_mem_guardStops (a := a) (k := k)
  exact ⟨kept.frames.trans (by rw [a.guardStops_frames]), kept.cores stopped⟩

theorem exec_guardOpen {s : State} {t : Nat} (ht : (s.arrive t).frames.ticking = true) (hg : (s.arrive t).frames.guard = false)
    (hl : (s.arrive t).guardAt ≤ t) : exec (.guardOpen t) s = .next (s.arrive t).guardOpened.guardPlans := by
  change execGuardOpen t s = _
  rw [execGuardOpen, if_neg (by simp [ht, hg, Nat.not_lt.mpr hl])]
  generalize s.arrive t = a
  extract_lets s1 s2 s3 f3 s4 s5 s6
  have stops : s3 = a.guardStops := rfl
  have counts : s4 = s3.guardCounts := rfl
  have cleans : s5 = s4.guardCleans := rfl
  have recalls : s6 = s5.guardRecalls := rfl
  change Host.Outcome.next s6.guardPlans = _
  rw [recalls, cleans, counts, stops, State.guardOpened]

/-- The plan of the next frame is the only change the plan makes. -/
theorem State.guardPlans_spec (s : State) : s.guardPlans.frames.plan.isSome = true
    ∧ s.guardPlans.frames.guard = s.frames.guard ∧ s.guardPlans.frames.frn = s.frames.frn
    ∧ s.guardPlans.frames.tick = s.frames.tick ∧ s.guardPlans.cores = s.cores := ⟨rfl, rfl, rfl, rfl, rfl⟩

/-! ### RUN and the wait window (R30, R167, R598) -/

theorem exec_run_eq {s : State} {t p : Nat} {be : BitVec 4} {v : Word}
    (hw : (s.stamped t).wrFront p none offFrCtl be = (s.stamped t, some rFrCtl)) (hv : bit v.toNat 0 = true)
    (hr : (s.stamped t).running = false) : exec (.run t p be v) s = .next
      (if (s.stamped t).pwr.straps.getD 2 false then
        ((s.stamped t).applyWrite p none offFrCtl rFrCtl (putBits v.toNat 0 1 0)).cfgErr none errBUSY offFrCtl p
      else { (s.stamped t).applyWrite p none offFrCtl rFrCtl v.toNat with
        frames := { ((s.stamped t).applyWrite p none offFrCtl rFrCtl v.toNat).frames with
          first := some (((s.stamped t).applyWrite p none offFrCtl rFrCtl v.toNat).firstTick t) } }) := by
  change execRun t p be v s = _
  have go : (decide (rFrCtl.name ≠ .frCtl) || !bit v.toNat 0 || (s.stamped t).running) = false := by simp [hv, hr, rFrCtl]
  rw [execRun, hw]
  dsimp only
  rw [go, if_neg Bool.false_ne_true]

theorem exec_waitWindowExpired {s : State} {t asn : Nat} {o : OpRec} (ho : (s.arrive t).op? asn = some o)
    (hg : (s.arrive t).frames.guard = true) : exec (.waitWindowExpired t asn) s = .next ((s.arrive t).expireWait o) := by
  change execWaitWindowExpired t asn s = _
  rw [execWaitWindowExpired, ho]
  exact congrArg Host.Outcome.next (if_pos hg)

/-- Of an accepted operation in its window's last guard, only one whose waits are open ends. -/
theorem State.expireWait_last {s : State} {o : OpRec} {f : Nat} (hf : o.firstFrn = some f) (ha : o.stage = .accepted)
    (he : o.ended = none) (hw : f + o.window ≤ s.frames.frn + 1) : s.expireWait o =
      if s.waitsOk o then s else s.onOp o.ctx.asn OpRec.expire := by
  unfold State.expireWait
  rw [hf]
  cases s.waitsOk o with
  | true => simp
  | false =>
    rw [if_neg Bool.false_ne_true]
    exact if_pos (by simp [ha, he, hw])

/-- Settles O27. Each command is one equation; what a tick and a guard leave is said by the laws of their phases. -/
theorem framesStartBeginHoldAndGuard : Obligations.FramesStartBeginHoldAndGuard := by
  unfold Obligations.FramesStartBeginHoldAndGuard
  refine ⟨fun s t p be v => ?run, fun s t die frn token power hottest asn T sources consumes => ?frames⟩
  case run =>
    intro a hw hv hr
    have ran := exec_run_eq hw hv hr
    exact ⟨fun hs => ⟨_, ran.trans (congrArg Host.Outcome.next (if_neg (Bool.eq_false_iff.mp hs))), rfl⟩,
      fun hs => ⟨_, ran.trans (congrArg Host.Outcome.next (if_pos hs)), rfl⟩⟩
  case frames =>
  intro a fresh hdies
  refine ⟨fun ht hm hf => ?tick, exec_frameTick_none power hottest sources consumes, fun hd => ⟨fun hn => ?message, fun hn => ?stale⟩,
    fun hd ht hl hn => ?watchdog, fun ht hg hl => ?guard, fun o f ho hg hff ha he hw => ⟨fun hk => ?expired, fun hk => ?open_⟩⟩
  case tick =>
    have began := a.tickAccepted_taken T frn
    obtain ⟨frames, cm⟩ := (a.tickAccepted T frn).tickDone_law T (a.cutoffOf T) power hottest sources consumes
    rw [began.frames, a.tickSent_frames T frn] at frames
    rw [began.cm, a.tickSent_cm T frn] at cm
    refine ⟨_, exec_frameTick power hottest sources consumes ht hm hf, ?_⟩
    refine ⟨by rw [frames], by rw [frames], by rw [frames], by rw [frames], by rw [frames], by rw [frames], by rw [frames], cm, ?_⟩
    intro d hd hn
    have same : (a.tickSent T frn).die d = a.die d := State.die_congr (by rw [a.tickSent_frames T frn]) d
    have length : d < (a.tickSent T frn).frames.dies.length := by rw [a.tickSent_frames T frn]; exact hdies.symm ▸ hd
    have taken := began.taken d (List.mem_range.mpr hd) length (by rw [State.FreshTick, same, a.tickSent_cm T frn]; exact hn)
    rw [same, a.tickSent_cm T frn] at taken
    exact (State.die_congr (by rw [frames]) d).trans taken
  case message =>
    have started := (a.acceptTick die frn token).startSegs_foldl_law (dieCores die)
    have taken : OnlyCores (a.onDie die (DieSeq.accepting frn token)) _ := State.acceptTick_onlyCores hn
    have frames := started.frames.trans taken.frames
    have dies (d : Nat) := State.die_congr (congrArg Frames.dies frames) d
    have cm := started.cm.trans taken.cm
    refine ⟨_, exec_tickMessage s t die frn token, (dies die).trans (a.die_onDie_same _ (hdies.symm ▸ hd)),
      cm, fun d hne => (dies d).trans (a.die_onDie_other _ hne)⟩
  case stale =>
    have started := (a.acceptTick die frn token).startSegs_foldl_law (dieCores die)
    have stale : a.acceptTick die frn token = a := State.acceptTick_stale fun h => absurd h.2 (Nat.not_le.mpr hn)
    exact ⟨_, exec_tickMessage s t die frn token, started.frames.trans (by rw [stale])⟩
  case watchdog =>
    have only := OnlyCores.foldl_onCore (f := fun _ k => { k with guard := true }) (dieCores die)
      (a.onDie die fun x => { x with hold := true })
    refine ⟨_, exec_tickWatchdog ht hl hn, ?_, fun c hc hlt => State.core_guard_foldl (.inl hc) hlt, fun d hne => ?_, ?_, ?_⟩
    all_goals rw [OnlyCores] at only
    · rw [only]
      exact congrArg DieSeq.hold (a.die_onDie_same _ (hdies.symm ▸ hd))
    · rw [only]
      exact a.die_onDie_other _ hne
    · rw [only]; rfl
    · rw [only]; rfl
  case guard =>
    obtain ⟨frames, stopped⟩ := a.guardOpened_spec
    obtain ⟨planned, guard, frn, tick, cores⟩ := a.guardOpened.guardPlans_spec
    exact ⟨_, exec_guardOpen ht hg hl, by rw [guard, frames], by rw [cores]; exact stopped, planned,
      by rw [frn, frames], by rw [tick, frames]⟩
  case expired =>
    have ends := (State.expireWait_last hff ha he hw).trans (if_neg (by rw [hk]; exact Bool.false_ne_true))
    refine ⟨_, (exec_waitWindowExpired ho hg).trans (congrArg Host.Outcome.next ends), ?_, rfl, rfl⟩
    rw [State.asn_of_op? ho, a.op_onOp_same asn OpRec.expire fun _ => rfl, ho]
    rfl
  case open_ =>
    exact (exec_waitWindowExpired ho hg).trans (congrArg Host.Outcome.next ((State.expireWait_last hff ha he hw).trans (if_pos hk)))

end Sys2Proof.Machine
end

section
/-! PROOFS. The initiator of remote transfers (chapters 3 and 15): what the answers, deadlines, votes and settlements of
its targets change. -/

namespace Sys2Proof.Machine

/-! ### Answers to a transfer (R496) -/

/-- Transfer x of an engine, to the remote region r of operation o, has messages without an answer. -/
structure State.Awaits (a : State) (core eng id : Nat) (x : Xfer) (o : OpRec) (r : Region) : Prop where
  xfer : (a.core core).xfer? eng id = some x
  remote : x.kind = .remote
  unanswered : x.acks ≠ 0
  region : a.xferRegion core eng x = some (o, r)

/-- The record of an operation one of whose targets counts as NO. -/
abbrev OpRec.withNo (tgt : Nat) (o : OpRec) : OpRec :=
  { o with remoteNo := if o.remoteNo.contains tgt then o.remoteNo else tgt :: o.remoteNo }

theorem OpRec.mem_withNo (tgt : Nat) (o : OpRec) : tgt ∈ (o.withNo tgt).remoteNo := by
  dsimp only
  split
  · next h => exact List.contains_iff_mem.mp h
  · exact List.mem_cons_self ..

/-- A failed transfer awaits nothing more, and its target counts as NO for its operation. -/
theorem State.failXfer_spec (a : State) (core eng id : Nat) (o : OpRec) (r : Region) :
    let u := a.failXfer core eng id o r
    u.cores = (a.onCore core fun k => k.onXfer eng id fun x => { x with acks := 0, failed := true }).cores
    ∧ (a.op? o.ctx.asn = some o →
      ∃ o', u.op? o.ctx.asn = some o' ∧ a.targetOf o r ∈ o'.remoteNo ∧ o'.ctx = o.ctx ∧ o'.stage = o.stage) := by
  refine ⟨rfl, fun ho => ⟨o.withNo (a.targetOf o r), ?_, o.mem_withNo _, rfl, rfl⟩⟩
  have read := State.op_onOp_same (a.onCore core fun k => k.onXfer eng id fun x => { x with acks := 0, failed := true })
    o.ctx.asn (OpRec.withNo (a.targetOf o r)) fun _ => rfl
  exact read.trans (congrArg (Option.map _) ho)

section
variable {s : State} {t core eng id asn status : Nat} {x : Xfer} {o : OpRec} {r : Region}

/-- An answer in time with status OK is counted down; any other fails the transfer. -/
theorem exec_ack_engine (he : eng < 6) (h : (s.stamped t).Awaits core eng id x o r) :
    exec (.ack t core eng id asn status) s = .next
      (if status = 0 && t ≤ x.at_ + (s.stamped t).ackNs r then
        (s.stamped t).onCore core fun k => k.onXfer eng id fun y => { y with acks := y.acks - 1 }
      else (s.stamped t).failXfer core eng id o r) := by
  change execAck t core eng id asn status s = _
  simp only [execAck, Nat.not_le.mpr he, h.xfer, h.remote, h.unanswered, h.region, if_false, bne_self_eq_false,
    decide_false, Bool.or_false, Bool.false_eq_true]

/-- An answer of the output channel is counted on its operation. -/
theorem exec_ack_output (he : 6 ≤ eng) (ho : (s.stamped t).op? asn = some o) :
    exec (.ack t core eng id asn 0) s = .next ((s.stamped t).onOp asn fun o => { o with acks := o.acks - 1 }) := by
  change execAck t core eng id asn 0 s = _
  simp only [execAck, he, if_true, ho]

/-- The deadline of a transfer passes 32 ns after the time its import entry allows. -/
theorem exec_ackDeadline (h : (s.stamped t).Awaits core eng id x o r) :
    exec (.ackDeadline t core eng id asn) s = .next
      (if (((s.stamped t).core core).engine eng).asn ≠ asn then s.stamped t
      else if x.at_ + (s.stamped t).ackNs r + 32 ≤ t then (s.stamped t).failXfer core eng id o r else s.stamped t) := by
  change execAckDeadline t core eng id asn s = _
  simp only [execAckDeadline, h.xfer, h.remote, h.unanswered, h.region, bne_self_eq_false, decide_false, Bool.false_or,
    decide_eq_true_eq]

end

/-! ### PREP and votes (R85, R497) -/

/-- The operations of a scope that sent to a target, with their message counts. -/
abbrev prepList (scope : List OpRec) (g : RTarget) : List (List Nat) :=
  scope.filterMap fun o => (o.sent.lookup (o.targets.findIdx (· = g))).map fun n => [o.ctx.asn, n]

section
variable {s : State} {t sub : Nat}

theorem exec_prepSend_early (h : (s.stamped t).frames.ticking = false ∨ (sub = 0 ∧ t < (s.stamped t).guardAt + 400)) :
    exec (.prepSend t sub) s = .next (s.stamped t) := by
  change execPrepSend t sub s = _
  exact congrArg Host.Outcome.next (if_pos (by simpa using h))

/-- To its only target, over a QL3 link that is up, a scope sends one PREP. -/
theorem exec_prepSend_target {g : RTarget} (ht : (s.stamped t).frames.ticking = true)
    (hl : sub ≠ 0 ∨ (s.stamped t).guardAt + 400 ≤ t) (hg : targetsOf ((s.stamped t).scopeAt sub) = [g])
    (h3 : (s.stamped t).overQl3 ((s.stamped t).qlNow g.port) = true)
    (hu : (s.stamped t).fieldOf (qlStatReg ((s.stamped t).qlNow g.port)) 0 2 = 2) :
    exec (.prepSend t sub) s = .next ((s.stamped t).say (.ql ((s.stamped t).qlNow g.port) 0x10
      ([(s.stamped t).initId, g.rwin, (s.stamped t).frames.frn, sub, (s.stamped t).cm.token]
        ++ (prepList ((s.stamped t).scopeAt sub) g).flatten) [])) := by
  change execPrepSend t sub s = _
  have due : ¬ ((!(s.stamped t).frames.ticking || (decide (sub = 0) && decide (t < (s.stamped t).guardAt + 400))) = true) := by
    rw [ht]
    simpa [Nat.not_lt, imp_iff_not_or] using hl
  rw [execPrepSend, if_neg due, hg]
  exact congrArg Host.Outcome.next (if_pos (by simp only [h3, hu, decide_true, Bool.and_self]))

/-- What a target's vote adds to an operation that sent to it. -/
abbrev OpRec.withVote (epid rwin : Nat) (yes : Bool) (targets : List RTarget) (sent : List (Nat × Nat)) (o : OpRec) : OpRec :=
  { o with votes := o.votes ++ (targets.zipIdx.filter fun x =>
      x.1.epid = epid && x.1.rwin = rwin && sent.any (·.1 = x.2)).map fun x => (x.2, yes) }

variable {epid rwin frn : Nat} {yes : Bool}

/-- When votes of a decision point are due (R85). -/
abbrev State.voteDue (a : State) (sub : Nat) : Stamp := if sub = 0 then a.voteAt else a.subAt sub

theorem exec_vote_late (h : frn ≠ (s.stamped t).frames.frn ∨ (s.stamped t).voteDue sub < t) :
    exec (.vote t epid rwin frn sub yes) s = .next (s.stamped t) := by
  change execVote t epid rwin frn sub yes s = _
  exact congrArg Host.Outcome.next (if_pos (by simpa using h))

theorem exec_vote_only {o : OpRec} (hf : frn = (s.stamped t).frames.frn) (hd : t ≤ (s.stamped t).voteDue sub)
    (ho : (s.stamped t).scopeAt sub = [o]) : exec (.vote t epid rwin frn sub yes) s =
      .next ((s.stamped t).onOp o.ctx.asn (OpRec.withVote epid rwin yes o.targets o.sent)) := by
  change execVote t epid rwin frn sub yes s = _
  rw [execVote, if_neg (by simpa [hf] using hd), ho]
  rfl

/-! ### Settled decisions (R89, R501) -/

theorem exec_cack_known {d : Decision} (hd : (s.stamped t).dec? frn sub = some d) :
    exec (.cack t epid rwin frn sub true) s = .next ((s.stamped t).putDec { d with
      remote := d.remote.map fun x => if x.1.epid = epid && x.1.rwin = rwin then (x.1, true) else x }) := by
  change execCack t epid rwin frn sub true s = _
  rw [execCack, hd]
  rfl

theorem exec_cack_unknown {ok : Bool} (hd : (s.stamped t).dec? frn sub = none) :
    exec (.cack t epid rwin frn sub ok) s = .next (if ok then s.stamped t else (s.stamped t).remoteLate epid rwin frn) := by
  change execCack t epid rwin frn sub ok s = _
  rw [execCack, hd]

end

/-- REMOTE_LATE names the first import entry of its target and window. -/
theorem State.remoteLate_eq {a : State} {epid rwin w : Nat} (frn : Nat) {b : List Byte} (hw : w < 256)
    (hb : a.import w = some b) (he : fld b 2 2 = epid) (hr : fld b 4 4 = rwin)
    (first : ∀ w', w' < w → ∀ b', a.import w' = some b' → ¬ (fld b' 2 2 = epid ∧ fld b' 4 4 = rwin)) :
    a.remoteLate epid rwin frn = a.event { code := 0x20, kind := 10, index := w, detail := rwin, frn := frn } := by
  unfold State.remoteLate
  rw [(List.find?_range_eq_some (i := w)).mpr ?_]
  · rfl
  · refine ⟨by simp [hb, he, hr], List.mem_range.mpr hw, fun w' h' => ?_⟩
    cases hi : a.import w' with
    | none => rfl
    | some b' => simpa [imp_iff_not_or] using first w' h' b' hi

/-- Settles O44. Each command is one equation; the reads after it are those of a changed operation or decision. -/
theorem initiatorCountsAnswersAndVotes : Obligations.InitiatorCountsAnswersAndVotes := by
  unfold Obligations.InitiatorCountsAnswersAndVotes
  intro s t core eng id asn status sub epid rwin frn yes ok a k fails hit
  refine ⟨fun x o r he hx hk hn hr => ?transfer, fun o he ho => ?output, fun h => ⟨_, exec_prepSend_early h, rfl⟩,
    fun g ht hl hg h3 hu => ⟨_, exec_prepSend_target ht hl hg h3 hu, rfl⟩,
    ⟨fun h => ⟨_, exec_vote_late h, rfl⟩, fun o hf hd hs ho => ?vote⟩, fun d hd => ?settled,
    fun hd => ⟨_, exec_cack_unknown hd, rfl⟩, ⟨_, rfl, rfl⟩, fun w b hw hb he hr => State.remoteLate_eq frn hw hb he hr⟩
  case transfer =>
    have waits : a.Awaits core eng id x o r := ⟨hx, hk, hn, hr⟩
    have failed := a.failXfer_spec core eng id o r
    refine ⟨fun h0 hl => ⟨_, exec_ack_engine he waits, if_pos (by rw [h0]; simpa using hl)⟩, fun hb => ⟨_, exec_ack_engine he waits, ?_⟩,
      fun ha hl => ⟨_, exec_ackDeadline waits, ?_⟩, fun hl => ⟨_, exec_ackDeadline waits, ?_⟩⟩
    · rw [if_neg (by simpa [imp_iff_not_or] using hb)]
      exact failed
    · rw [if_neg (not_not.mpr ha), if_pos hl]
      exact failed
    · rw [if_neg (Nat.not_le.mpr hl), ite_self]
  case output =>
    refine ⟨_, exec_ack_output he ho, ?_, rfl, rfl⟩
    rw [State.op_onOp_same a asn (fun o => { o with acks := o.acks - 1 }) fun _ => rfl, ho]
    rfl
  case vote =>
    refine ⟨_, exec_vote_only hf hd hs, ?_, rfl, rfl, rfl⟩
    rw [State.op_onOp_same a o.ctx.asn (OpRec.withVote epid rwin yes o.targets o.sent) fun _ => rfl, ho]
    simp [hit]
  case settled =>
    obtain ⟨rfl, rfl⟩ := State.key_of_dec? hd
    refine ⟨_, exec_cack_known hd, (State.dec?_putDec a _).trans ?_, rfl⟩
    simp [hit]

end Sys2Proof.Machine
end

section
/-! PROOFS. Full reset (chapters 3, 4, 13, 18-20): what a full reset keeps of the registers, the stacks and the retained
package state, and the commands that start one. -/

namespace Sys2Proof.Machine

/-! ### Registers that outlive a reset (R643) -/

/-- Reading a register file of which only some registers are kept. -/
theorem RegFile.get_filter (f : RegFile) (keep : Reg → Bool) (r : Reg) :
    RegFile.get (f.filter fun p => keep p.1) r = if keep r then f.get r else r.reset := by
  have lookup : List.lookup r (f.filter fun p => keep p.1) = if keep r then List.lookup r f else none := by
    induction f with
    | nil => simp
    | cons p f ih =>
      obtain ⟨q, v⟩ := p
      by_cases hq : r = q
      · subst hq
        by_cases hk : keep r = true <;> simp [hk, ih]
      · have hb : (r == q) = false := beq_eq_false_iff_ne.mpr hq
        by_cases hk : keep q = true <;> simp [hk, List.lookup_cons, hb, ih]
  rw [RegFile.get_eq, RegFile.get_eq, lookup]
  split <;> rfl

/-- The registers that a full reset keeps. -/
def Reg.outlivesReset (r : Reg) : Bool :=
  r.name = .ftFailed || r.name = .ftQlfail || r.name = .plFmCtl || r.name = .gxPwrStat || r.name = .scBootStat

theorem State.keptRegs_eq (s : State) : s.keptRegs = RegFile.set (s.regs.filter fun p => p.1.outlivesReset) rPwrStat
    (BitVec.ofNat 32 (putBits (s.reg rPwrStat) 8 9 256)) := rfl

/-- A register outside the list of R643 reads its reset value. -/
theorem State.keptRegs_reset (s : State) {r : Reg}
    (h : r.name ∉ [.ftFailed, .ftQlfail, .plFmCtl, .gxPwrStat, .scBootStat]) : s.keptRegs.get r = r.reset := by
  have ne : r ≠ rPwrStat := fun e => h (by rw [e]; decide)
  rw [State.keptRegs_eq, RegFile.get_set_other _ _ _ _ ne]
  refine (RegFile.get_filter s.regs Reg.outlivesReset r).trans (if_neg ?_)
  simpa [Reg.outlivesReset, and_assoc] using h

/-- GX_PWR_STAT apart, whose theta goes back to 256 (R591), a register of that list keeps its value. -/
theorem State.keptRegs_kept (s : State) {r : Reg}
    (h : r.name ∈ ([.ftFailed, .ftQlfail, .plFmCtl, .scBootStat] : List RegName)) : s.keptRegs.get r = s.regs.get r := by
  have ne : r ≠ rPwrStat := fun e => absurd h (by rw [e]; decide)
  rw [State.keptRegs_eq, RegFile.get_set_other _ _ _ _ ne]
  refine (RegFile.get_filter s.regs Reg.outlivesReset r).trans (if_pos ?_)
  rcases (by simpa using h) with h | h | h | h <;> simp [Reg.outlivesReset, h]

/-! ### Memory (R442) -/

/-- Making ranges undefined changes no byte that a stack holds. -/
theorem State.makeUndef_foldl (l : List (Nat × Nat)) (s : State) : ∃ undef free,
    l.foldl (fun acc r => acc.makeUndef r.1 r.2) s
      = { s with mem := { s.mem with hbm := { s.mem.hbm with undef := undef } }, free := free } := by
  induction l generalizing s with
  | nil => exact ⟨_, _, rfl⟩
  | cons r l ih => exact ih (s.makeUndef r.1 r.2)

/-- The stacks keep their bytes; the rest of the memory system resets. -/
theorem State.memAfterReset_eq (s : State) : ∃ undef free, s.memAfterReset
    = { s with mem := { MemSys.reset with hbm := { s.mem.hbm with undef := undef } }, free := free } := by
  obtain ⟨undef, free, h⟩ := State.makeUndef_foldl (s.mem.hbm.scratch ++ (List.range 256).filterMap fun w =>
    (s.window w).bind fun b => if expKind b = 1 then some (expBase b, expSize b) else none) s
  refine ⟨undef, free, ?_⟩
  rw [State.memAfterReset]
  dsimp only
  rw [h]

/-! ### Ports (R136) -/

/-- A reset takes the links down and leaves fundamental reset as it is. -/
theorem State.perst_afterReset {a u : State} {t : Stamp} (h : u.ports = a.ports.map fun x => x.afterReset t) (p : Nat) :
    (u.port p).perst = (a.port p).perst := by
  rw [State.port, State.port, h, List.getD_eq_getElem?_getD, List.getD_eq_getElem?_getD, List.getElem?_map]
  cases a.ports[p]? <;> rfl

/-! ### What a full reset leaves -/

/-- A full reset trigger resets the dies: the package is on, and was READY or is in a full reset already. -/
def State.TakesReset (a : State) : Prop :=
  a.pwr.pwrOk = true ∧ a.pwr.pwrDn = false ∧ a.pwr.coldLow = false ∧ a.pwr.inReset = false
    ∧ (a.boot.ready = true ∨ a.boot.resetAt.isSome = true)

/-- The fencing token after a reset: raised by one, or kept where a reset restarts one. -/
def State.resetToken (a : State) : Nat := if a.boot.resetAt.isSome then a.cm.token else a.cm.token + 1

/-- u is a after a full reset, but for the ports and what left the package. -/
def State.ResetTo (a u : State) : Prop :=
  u.cores = List.replicate 36 Core.reset ∧ u.boot.ready = false ∧ u.boot.done = false
    ∧ u.boot.resetAt = some a.now ∧ u.cm.token = a.resetToken
    ∧ u.ops.list = a.ops.list ∧ u.ops.decs = a.ops.decs ∧ u.ops.votes = [] ∧ u.md = a.md ∧ u.now = a.now
    ∧ u.frames.frn = a.frames.frn ∧ u.frames.lastFrn = a.frames.lastFrn ∧ u.frames.ticking = false
    ∧ u.rings.sq = a.rings.sq.map Ring.afterReset ∧ u.rings.cq = []
    ∧ (∀ h, u.mem.hbm.dram.getD h [] = a.mem.hbm.dram.getD h [])
    ∧ (∀ r : Reg, r.name ∉ [.ftFailed, .ftQlfail, .plFmCtl, .gxPwrStat, .scBootStat] → u.reg r = r.reset.toNat)
    ∧ ∀ r : Reg, r.name ∈ ([.ftFailed, .ftQlfail, .plFmCtl, .scBootStat] : List RegName) → u.reg r = a.reg r

theorem State.resetDies_ports (a : State) (token : Nat) :
    (a.resetDies token).ports = a.ports.map fun h => h.afterReset a.now := by
  obtain ⟨undef, free, mem⟩ := a.memAfterReset_eq
  rw [State.resetDies, mem]

theorem State.resetDies_reg (a : State) (token : Nat) (r : Reg) : (a.resetDies token).reg r = (a.keptRegs.get r).toNat := by
  have regs : (a.resetDies token).regs = a.keptRegs := by rw [State.resetDies]
  rw [State.reg, regs]

theorem State.resetDies_resetTo (a : State) : a.ResetTo (a.resetDies a.resetToken) := by
  have reset {r : Reg} (h : r.name ∉ [.ftFailed, .ftQlfail, .plFmCtl, .gxPwrStat, .scBootStat]) :
      (a.resetDies a.resetToken).reg r = r.reset.toNat := by rw [a.resetDies_reg, a.keptRegs_reset h]
  have kept {r : Reg} (h : r.name ∈ ([.ftFailed, .ftQlfail, .plFmCtl, .scBootStat] : List RegName)) :
      (a.resetDies a.resetToken).reg r = a.reg r := by rw [a.resetDies_reg, a.keptRegs_kept h, State.reg]
  refine ⟨rfl, rfl, rfl, ?_, rfl, ?_, ?_, rfl, ?_, ?_, ?_, ?_, rfl, ?_, rfl, ?_, fun _ => reset, fun _ => kept⟩
  all_goals
    obtain ⟨undef, free, mem⟩ := a.memAfterReset_eq
    rw [State.resetDies, mem]
  exact fun _ => rfl

/-- THERM_ALERT_N and what left the package are all that the pin's update changes. -/
theorem State.thermPin_eq (s : State) : ∃ pwr out, s.thermPin = { s with pwr := pwr, out := out } := by
  unfold State.thermPin
  dsimp only
  split
  · exact ⟨_, _, rfl⟩
  · exact ⟨_, _, rfl⟩

theorem State.TakesReset.fullReset_eq {a : State} (h : a.TakesReset) : a.fullReset = (a.resetDies a.resetToken).thermPin := by
  obtain ⟨on, down, cold, inReset, ready⟩ := h
  have first : ¬ ((a.boot.resetAt.isNone && !a.boot.ready) = true) := by
    rcases ready with h | h
    · simp [h]
    · simp [Option.isNone_iff_eq_none, Option.isSome_iff_ne_none.mp h]
  rw [State.fullReset, if_neg (by simp [on, down, cold, inReset]), if_neg first]
  rfl

theorem State.ResetTo.thermPin {a u : State} (h : a.ResetTo u) : a.ResetTo u.thermPin := by
  obtain ⟨pwr, out, pin⟩ := u.thermPin_eq
  rw [pin]
  exact h

theorem State.thermPin_ports (s : State) : s.thermPin.ports = s.ports := by
  obtain ⟨pwr, out, pin⟩ := s.thermPin_eq
  rw [pin]

theorem State.TakesReset.resetTo {a : State} (h : a.TakesReset) : a.ResetTo a.fullReset := by
  rw [h.fullReset_eq]
  exact a.resetDies_resetTo.thermPin

theorem State.TakesReset.perst {a : State} (h : a.TakesReset) (p : Nat) : (a.fullReset.port p).perst = (a.port p).perst := by
  refine State.perst_afterReset (t := a.now) ?_ p
  rw [h.fullReset_eq, State.thermPin_ports, State.resetDies_ports]

/-! ### The commands -/

theorem exec_perstN {s : State} {t port : Nat} (h : (s.arrive t).TakesReset) :
    exec (.perstN t port) s = .next ((s.arrive t).onPort port fun x => { x with perst := true }).fullReset := by
  obtain ⟨-, down, cold, -⟩ := h
  change execPerstN t port s = _
  rw [execPerstN, down, cold]
  rfl

theorem exec_fullReset {s b : State} {t port : Nat} {be : BitVec 4} {v : Word} {r : Reg}
    (hw : (s.arrive t).wrFront port none offGxCtl be = (b, some r)) (hr : r.name = .gxCtl)
    (hv : bitf v.toNat 0 16 = 0x0A5A) : exec (.fullReset t port be v) s = .next b.fullReset := by
  change execFullReset t port be v s = _
  rw [execFullReset, hw]
  exact congrArg Host.Outcome.next (if_pos ⟨hr, hv⟩)

/-- With the package off a trigger does nothing. -/
theorem State.fullReset_off {a : State} (h : a.pwr.pwrOk = false) : a.fullReset = a := if_pos (by simp [h])

/-- Settles O54. Each trigger comes to the same reset of a state that takes it; a port's PERST_N outlives it. -/
theorem fullResetsKeepWhatOutlivesThem : Obligations.FullResetsKeepWhatOutlivesThem := by
  unfold Obligations.FullResetsKeepWhatOutlivesThem
  intro s t port be v a live after
  refine ⟨fun (h : a.TakesReset) => ⟨⟨_, rfl, h.resetTo⟩, _, exec_perstN h, ?perst⟩,
    fun b r hw hr hv (h : b.TakesReset) => ⟨_, exec_fullReset hw hr hv, h.resetTo⟩,
    fun h => congrArg Host.Outcome.next (State.fullReset_off h)⟩
  case perst =>
    have held : (a.onPort port fun x => { x with perst := true }).TakesReset := h
    refine ⟨held.resetTo, fun hp => ?_, fun p hp => ?_⟩
    · rw [held.perst, State.port_onPort_same _ _ hp]
    · rw [held.perst, State.port_onPort_other _ _ hp]

end Sys2Proof.Machine
end

section
/-! PROOFS. Commit mastership (chapters 3 and 16): leases and fences, a fabric die declared failed, and what the standby
does when it takes over. -/

namespace Sys2Proof.Machine

/-! ### Declaring a fabric die failed (R529-R531) -/

/-- Time, frames, mastership, operations and power are the same, and so is which dies and stacks have failed. -/
structure SameDuty (s t : State) : Prop where
  now : t.now = s.now
  frames : t.frames = s.frames
  cm : t.cm = s.cm
  ops : t.ops = s.ops
  pwr : t.pwr = s.pwr
  failed : ∀ i, i < 20 → t.bitOf rFtFailed i = s.bitOf rFtFailed i

theorem SameDuty.refl (s : State) : SameDuty s s := ⟨rfl, rfl, rfl, rfl, rfl, fun _ _ => rfl⟩

theorem SameDuty.trans {s t u : State} (h : SameDuty s t) (g : SameDuty t u) : SameDuty s u where
  now := g.now.trans h.now
  frames := g.frames.trans h.frames
  cm := g.cm.trans h.cm
  ops := g.ops.trans h.ops
  pwr := g.pwr.trans h.pwr
  failed i hi := (g.failed i hi).trans (h.failed i hi)

theorem SameDuty.foldl {α : Type} {f : State → α → State} (h : ∀ s x, SameDuty s (f s x)) (l : List α) (s : State) :
    SameDuty s (l.foldl f s) := by
  induction l generalizing s with
  | nil => exact .refl s
  | cons x l ih => exact (h s x).trans (ih _)

theorem SameBut.sameDuty {s t : State} (h : SameBut s t) : SameDuty s t :=
  ⟨h.now, h.frames, h.cm, h.ops, h.pwr, fun i _ => h.bitOf rFtFailed i⟩

/-- A change of another register than FT_FAILED. -/
theorem SameDuty.setField (s : State) {r : Reg} (lo len x : Nat) (h : rFtFailed ≠ r) : SameDuty s (s.setField r lo len x) :=
  ⟨rfl, rfl, rfl, rfl, rfl, fun i _ => by rw [State.bitOf, State.reg_setField_other _ _ _ _ _ _ h, State.bitOf]⟩

/-- The bits of FT_FAILED from 20 on are about ports and counts. -/
theorem SameDuty.setFailed (s : State) {i : Nat} (b : Bool) (h : 20 ≤ i) : SameDuty s (s.setBit rFtFailed i b) :=
  ⟨rfl, rfl, rfl, rfl, rfl, fun _ hj => s.bitOf_setBit_other _ _ _ _ (by omega) (by omega)⟩

theorem State.countFailure_duty (s : State) (kind index : Nat) : SameDuty s (s.countFailure kind index) := by
  have counted (n : Nat) : SameDuty s { s with flt := { s.flt with count := n } } := ⟨rfl, rfl, rfl, rfl, rfl, fun _ _ => rfl⟩
  unfold State.countFailure
  dsimp only
  split
  · exact counted _
  · exact ((counted _).trans (.setFailed _ true (by decide))).trans (State.event_same _ _).sameDuty

theorem State.losePort_duty (s : State) (p : Nat) (counted : Bool) : SameDuty s (s.losePort p counted) := by
  have lstat (v : State) (lo len x : Nat) : SameDuty v (v.setField { name := .hlLstat, dev := p } lo len x) :=
    .setField v lo len x (by simp [rFtFailed])
  have onPort (v : State) (f : HostPort → HostPort) : SameDuty v (v.onPort p f) := ⟨rfl, rfl, rfl, rfl, rfl, fun _ _ => rfl⟩
  unfold State.losePort
  extract_lets s1 s2 s3
  have shown : SameDuty s s1 := ((lstat s _ _ _).trans (.setFailed _ true (by omega))).trans (State.event_same _ _).sameDuty
  have down : SameDuty s s3 := (shown.trans (lstat s1 _ _ _)).trans (onPort s2 _)
  split
  · exact .refl s
  · split
    · exact down.trans (s3.countFailure_duty 5 p)
    · exact down

theorem State.loseQl_duty (s : State) (p : Nat) (counted : Bool) : SameDuty s (s.loseQl p counted) := by
  have stat (v : State) (lo len x : Nat) : SameDuty v (v.setField (qlStatReg p) lo len x) :=
    .setField v lo len x (by simp [rFtFailed, qlStatReg])
  have fail (v : State) (lo len x : Nat) : SameDuty v (v.setField rFtQlfail lo len x) :=
    .setField v lo len x (by simp [rFtFailed, rFtQlfail])
  unfold State.loseQl
  extract_lets s1
  have shown : SameDuty s s1 := (((stat s _ _ _).trans (stat _ _ _ _)).trans (fail _ _ _ _)).trans (State.event_same _ _).sameDuty
  split
  · exact .refl s
  · split
    · exact shown.trans (s1.countFailure_duty 6 p)
    · exact shown

/-- Declaring fabric die f failed: its bit is set, its ports go with it, and there is no standby any longer. -/
theorem State.declareFd_eq {s : State} {f : Nat} (reason : Nat) (hf : f < 2) (alive : s.fdAlive f = true) :
    ∃ v, SameDuty (s.setBit rFtFailed (18 + f) true) v
      ∧ s.declareFd f reason = { v with cm := { v.cm with standby := false }, fab := { v.fab with changed := true } } := by
  have clear : s.bitOf rFtFailed (18 + f) = false := (Bool.not_eq_true' _).mp alive
  unfold State.declareFd
  rw [if_neg (by simp [clear, Nat.not_le.mpr hf])]
  refine ⟨_, ?_, rfl⟩
  exact (((State.event_same _ _).sameDuty.trans (State.countFailure_duty _ _ _)).trans (State.losePort_duty _ _ _)).trans
    (.foldl (fun v i => v.loseQl_duty (8 * f + i) false) _ _)

/-- A fabric die whose failure is declared is out of service. -/
theorem SameDuty.failed_declared {s v : State} {f : Nat} (h : SameDuty (s.setBit rFtFailed (18 + f) true) v) (hf : f < 2) :
    v.fdAlive f = false := by
  rw [State.fdAlive, h.failed _ (by omega), State.bitOf_setBit_same _ _ _ _ (by omega)]
  rfl

theorem State.declareFd_spec {s : State} {f : Nat} (reason : Nat) (hf : f < 2) (alive : s.fdAlive f = true) :
    let u := s.declareFd f reason
    u.fdAlive f = false ∧ u.cm = { s.cm with standby := false } ∧ u.ops = s.ops ∧ u.pwr = s.pwr ∧ u.fab.changed = true := by
  obtain ⟨v, duty, eq⟩ := State.declareFd_eq reason hf alive
  rw [eq]
  exact ⟨duty.failed_declared hf, congrArg (fun c : Masters => { c with standby := false }) duty.cm, duty.ops, duty.pwr, rfl⟩

/-- With no declaration waiting, settling them changes nothing. -/
theorem State.settleWaits_none {s : State} (h : s.pwr.waits = []) : s.settleWaits = s := by
  unfold State.settleWaits
  rw [h, List.foldl_nil, ← h]

/-! ### Leases and fences (R93-R95, R530) -/

/-- A recipient is done while another is still awaited. -/
theorem State.fenceDone_waits {s : State} {who w : Nat} (hw : w ∈ s.cm.waiting) (ne : w ≠ who) :
    s.fenceDone who = { s with cm := { s.cm with waiting := s.cm.waiting.filter (· != who) } } := by
  have left : w ∈ s.cm.waiting.filter (· != who) := List.mem_filter.mpr ⟨hw, bne_iff_ne.mpr ne⟩
  unfold State.fenceDone
  exact if_neg fun h => List.ne_nil_of_mem left (List.isEmpty_iff.mp h)

section
variable {s : State} {t frn token who : Nat}

theorem exec_lease (hs : (s.arrive t).cm.standby = true) (hk : (s.arrive t).cm.token ≤ token)
    (hl : t ≤ (s.arrive t).frames.tick + (frn - (s.arrive t).frames.frn) * (s.arrive t).lenF) :
    exec (.lease t frn token) s = .next { s.arrive t with
      cm := { (s.arrive t).cm with leaseFrn := some frn, missed := 0, ackMiss := 0 } } := by
  change execLease t frn token s = _
  exact congrArg Host.Outcome.next (if_neg (by simp [hs, hk, hl]))

theorem exec_lease_stale (hs : (s.arrive t).cm.standby = true) (hk : token < (s.arrive t).cm.token) :
    exec (.lease t frn token) s = .next (s.arrive t) := by
  change execLease t frn token s = _
  exact congrArg Host.Outcome.next (if_pos (by simp [hs, hk]))

theorem exec_leaseRenewalMissed (hs : (s.arrive t).cm.standby = true) (ht : (s.arrive t).frames.ticking = true)
    (hn : (s.arrive t).cm.leaseFrn = none) : exec (.leaseRenewalMissed t) s = .next { s.arrive t with
      cm := { (s.arrive t).cm with missed := (s.arrive t).cm.missed + 1 } } := by
  change execLeaseRenewalMissed t s = _
  exact congrArg Host.Outcome.next (if_neg (by simp [hs, ht, hn]))

theorem exec_fenceTokenMessage (hw : who < 11) : exec (.fenceTokenMessage t who token) s = .next
    (if token < ((s.arrive t).die who).token then s.arrive t
    else ((s.arrive t).onDie who fun x => { x with token := token }).say (.fenceAck who)) := by
  change execFenceTokenMessage t who token s = _
  simp [execFenceTokenMessage, Nat.not_le.mpr hw]

theorem exec_fenceAcknowledgement {x : Stamp} (hx : (s.arrive t).cm.fenceAt = some x) (hw : who ∈ (s.arrive t).cm.waiting) :
    exec (.fenceAcknowledgement t who) s = .next ((s.arrive t).fenceDone who) := by
  change execFenceAcknowledgement t who s = _
  exact congrArg Host.Outcome.next (if_pos (by simp [hx, hw]))

/-- A remote endpoint that does not acknowledge in time is no longer awaited (R94). -/
theorem exec_fenceAckTimeout_far {x : Stamp} (hx : (s.arrive t).cm.fenceAt = some x) (hw : who ∈ (s.arrive t).cm.waiting)
    (hf : 11 ≤ who) (hl : x + 10032 ≤ t) : exec (.fenceAckTimeout t who) s = .next ((s.arrive t).fenceDone who) := by
  change execFenceAckTimeout t who s = _
  have late : ¬ ((!(s.arrive t).cm.waiting.contains who || decide (t < x + 10000 + 32)) = true) := by
    simpa [hw] using hl
  rw [execFenceAckTimeout, hx]
  dsimp only
  rw [if_neg late, if_neg (by omega), if_neg (by omega)]

theorem exec_fenceAckTimeout_early {x : Stamp} (hx : (s.arrive t).cm.fenceAt = some x) (hl : t < x + 10032) :
    exec (.fenceAckTimeout t who) s = .next (s.arrive t) := by
  change execFenceAckTimeout t who s = _
  rw [execFenceAckTimeout, hx]
  exact congrArg Host.Outcome.next (if_pos (by simp [hl]))

/-- The standby has missed one more lease acknowledgement. -/
def State.ackMissed (a : State) : State := { a with cm := { a.cm with ackMiss := a.cm.ackMiss + 1 } }

theorem exec_standbyLeaseAckMissed (hs : (s.arrive t).cm.standby = true) : exec (.standbyLeaseAckMissed t) s = .next
    (if (s.arrive t).cm.ackMiss = 0 then (s.arrive t).ackMissed
     else (s.arrive t).ackMissed.declareFd (1 - (s.arrive t).cm.master) 2) := by
  change execStandbyLeaseAckMissed t s = _
  have first : (s.arrive t).cm.ackMiss + 1 < 2 ↔ (s.arrive t).cm.ackMiss = 0 := by omega
  exact congrArg Host.Outcome.next ((if_neg (by simp [hs])).trans (if_congr first rfl rfl))

end

/-! ### Decisions found durable (R94) -/

/-- A decision point has a decision that is durable. -/
def State.DecidedDurably (s : State) (frn sub : Nat) : Prop := ∃ e ∈ s.ops.decs, e.frn = frn ∧ e.sub = sub ∧ e.durable = true

theorem State.mem_putDec (s : State) (d : Decision) : d ∈ (s.putDec d).ops.decs :=
  List.mem_append_right _ (List.mem_singleton_self d)

/-- A durable decision put in the list leaves every point decided that was. -/
theorem State.DecidedDurably.putDec {s : State} {frn sub : Nat} {d : Decision} (hd : d.durable = true)
    (h : s.DecidedDurably frn sub) : (s.putDec d).DecidedDurably frn sub := by
  obtain ⟨e, he, rfl, rfl, dur⟩ := h
  by_cases same : e.frn = d.frn ∧ e.sub = d.sub
  · exact ⟨d, s.mem_putDec d, same.1.symm, same.2.symm, hd⟩
  · refine ⟨e, List.mem_append_left _ (List.mem_filter.mpr ⟨he, ?_⟩), rfl, rfl, dur⟩
    simpa [imp_iff_not_or] using same

/-- Decisions marked durable one after the other. -/
def State.markDurable (s : State) (l : List Decision) : State := l.foldl (fun acc d => acc.putDec { d with durable := true }) s

theorem State.markDurable_cm (s : State) (l : List Decision) : (s.markDurable l).cm = s.cm :=
  foldl_keeps State.cm (by intros; rfl) l s

theorem State.markDurable_regs (s : State) (l : List Decision) : (s.markDurable l).regs = s.regs :=
  foldl_keeps State.regs (by intros; rfl) l s

theorem State.DecidedDurably.markDurable {s : State} {frn sub : Nat} (h : s.DecidedDurably frn sub) (l : List Decision) :
    (s.markDurable l).DecidedDurably frn sub := by
  unfold State.markDurable
  induction l generalizing s with
  | nil => exact h
  | cons d l ih => exact ih (h.putDec rfl)

theorem State.markDurable_decided (s : State) {l : List Decision} {d : Decision} (hd : d ∈ l) :
    (s.markDurable l).DecidedDurably d.frn d.sub := by
  induction l generalizing s with
  | nil => exact absurd hd List.not_mem_nil
  | cons e l ih =>
    rcases List.mem_cons.mp hd with rfl | hd
    · exact State.DecidedDurably.markDurable ⟨_, s.mem_putDec { d with durable := true }, rfl, rfl, rfl⟩ l
    · exact ih (s.putDec { e with durable := true }) hd

/-! ### Fences sent (R94) -/

theorem State.mem_out_toMeter {s : State} {m : Msg} (bs : List Byte) (h : m ∈ s.out) : m ∈ (s.toMeter bs).out := by
  unfold State.toMeter
  dsimp only
  split
  · exact List.mem_cons_of_mem _ (List.mem_cons_of_mem _ h)
  · exact List.mem_cons_of_mem _ h

theorem OnlyOut.withCm {s t : State} (h : OnlyOut s t) (c : Masters) :
    ({ t with cm := c } : State) = { s with cm := c, out := t.out } := by
  rw [OnlyOut] at h
  rw [h]

/-- The dies in service that a new master sends its token to. -/
def State.fencedDies (s : State) : List Nat :=
  (List.range 9).filter s.votes ++ ([0, 1].filter fun f => f ≠ s.cm.master && s.fdAlive f).map (9 + ·)

/-- FENCE has gone to the dies, the remote targets and the meter. -/
def State.fencesSaid (s : State) : State :=
  let u := s.sayAll (s.fencedDies.map fun d => .fence d s.cm.token)
  (u.sayAll (s.openTargets.map fun x => .ql (u.qlNow x.port) 0x15 [u.initId, u.cm.token] [])).fenceMeter

theorem OnlyOut.sayAll (s : State) (ms : List Msg) : OnlyOut s (s.sayAll ms) := rfl

theorem State.fencesSaid_onlyOut (s : State) : OnlyOut s s.fencesSaid :=
  ((OnlyOut.sayAll s _).trans (.sayAll _ _)).trans (State.toMeter_onlyOut _ _)

theorem State.sendFences_eq (s : State) : s.sendFences = { s.fencesSaid with cm := { s.cm with
    waiting := s.fencedDies ++ (s.openTargets.map fun x => farBase + x.epid).eraseDups, fenceAt := some s.now } } := by
  rw [State.sendFences, State.fencesSaid, State.fencedDies]
  rfl

theorem State.mem_fencedDies {s : State} {d : Nat} (hd : d < 9) (hv : s.votes d = true) : d ∈ s.fencedDies :=
  List.mem_append_left _ (List.mem_filter.mpr ⟨List.mem_range.mpr hd, hv⟩)

theorem State.fence_mem_fencesSaid {s : State} {d : Nat} (h : d ∈ s.fencedDies) : .fence d s.cm.token ∈ s.fencesSaid.out := by
  have said : .fence d s.cm.token ∈ (s.sayAll (s.fencedDies.map fun d => .fence d s.cm.token)).out :=
    List.mem_append_left _ (List.mem_reverse.mpr (List.mem_map_of_mem h))
  exact State.mem_out_toMeter _ (List.mem_append_right _ said)

/-- The new master awaits every die in service, and has sent each its token. -/
theorem State.sendFences_spec (s : State) : ∃ waiting out,
    s.sendFences = { s with cm := { s.cm with waiting := waiting, fenceAt := some s.now }, out := out }
    ∧ ∀ d, d < 9 → s.votes d = true → d ∈ waiting ∧ .fence d s.cm.token ∈ out := by
  refine ⟨_, _, s.sendFences_eq.trans (s.fencesSaid_onlyOut.withCm _), fun d hd hv => ?_⟩
  exact ⟨List.mem_append_left _ (State.mem_fencedDies hd hv), State.fence_mem_fencesSaid (State.mem_fencedDies hd hv)⟩

/-! ### Takeover (R93, R94, R529) -/

theorem le_foldl_max (l : List Nat) (n : Nat) : n ≤ l.foldl max n ∧ ∀ x ∈ l, x ≤ l.foldl max n := by
  induction l generalizing n with
  | nil => exact ⟨le_rfl, fun _ h => absurd h List.not_mem_nil⟩
  | cons y l ih =>
    obtain ⟨above, all⟩ := ih (max n y)
    refine ⟨(le_max_left n y).trans above, fun x hx => ?_⟩
    rcases List.mem_cons.mp hx with rfl | hx
    · exact (le_max_right n x).trans above
    · exact all x hx

/-- The token of a new master. -/
def State.nextToken (a : State) : Nat := (a.frames.dies.map (·.token)).foldl max a.cm.token + 1

theorem State.lt_nextToken (a : State) : a.cm.token < a.nextToken ∧ ∀ x ∈ a.frames.dies, x.token < a.nextToken := by
  obtain ⟨above, all⟩ := le_foldl_max (a.frames.dies.map (·.token)) a.cm.token
  exact ⟨Nat.lt_succ_of_le above, fun x hx => Nat.lt_succ_of_le (all _ (List.mem_map_of_mem hx))⟩

/-- The standby has become master under the next token. -/
def State.seated (a : State) : State :=
  { a with cm := { a.cm with master := 1 - a.cm.master, token := a.nextToken, missed := 0, leaseFrn := none } }

/-- It has declared the old master failed. -/
def State.takenOver (a : State) : State :=
  (a.seated.declareFd a.cm.master (if a.seated.fdTripped a.cm.master then 4 else 1)).settleWaits.event
    { code := 0x04, kind := 4, index := 1 - a.cm.master, detail2 := a.nextToken }

theorem State.takenOver_spec {a : State} (hm : a.cm.master < 2) (alive : a.fdAlive a.cm.master = true) (hw : a.pwr.waits = []) :
    a.takenOver.cm = { a.seated.cm with standby := false } ∧ a.takenOver.ops = a.ops
    ∧ a.takenOver.fdAlive a.cm.master = false := by
  unfold State.takenOver
  obtain ⟨failed, cm, ops, pwr, -⟩ := State.declareFd_spec (s := a.seated)
    (if a.seated.fdTripped a.cm.master then 4 else 1) hm alive
  rw [State.settleWaits_none ((congrArg Power.waits pwr).trans hw)]
  have told := State.event_same (a.seated.declareFd a.cm.master (if a.seated.fdTripped a.cm.master then 4 else 1))
    { code := 0x04, kind := 4, index := 1 - a.cm.master, detail2 := a.nextToken }
  refine ⟨told.cm.trans cm, told.ops.trans ops, ?_⟩
  rw [State.fdAlive, told.bitOf rFtFailed (18 + a.cm.master)]
  exact failed

/-- The decisions not yet durable whose record is found durable in the logs. -/
def State.foundDurable (s : State) (durable : List (Nat × Nat)) : List Decision :=
  s.ops.decs.filter fun d => !d.durable && !d.late && durable.contains (d.frn, d.sub)

theorem State.mem_foundDurable {s : State} {durable : List (Nat × Nat)} {d : Decision} (h : d ∈ s.ops.decs)
    (hd : d.durable = false) (hl : d.late = false) (hr : (d.frn, d.sub) ∈ durable) : d ∈ s.foundDurable durable :=
  List.mem_filter.mpr ⟨h, by simp [hd, hl, hr]⟩

/-- The logs are read, and the new master holds its own token. -/
def State.logsRead (a : State) (durable : List (Nat × Nat)) : State :=
  (a.takenOver.markDurable (a.takenOver.foundDurable durable)).onDie (9 + (1 - a.cm.master)) fun x => { x with token := a.nextToken }

theorem State.logsRead_spec {a : State} (durable : List (Nat × Nat)) (hm : a.cm.master < 2)
    (alive : a.fdAlive a.cm.master = true) (hw : a.pwr.waits = []) :
    (a.logsRead durable).cm = { a.seated.cm with standby := false } ∧ (a.logsRead durable).fdAlive a.cm.master = false
    ∧ ∀ d ∈ a.ops.decs, d.durable = false → d.late = false → (d.frn, d.sub) ∈ durable →
      (a.logsRead durable).DecidedDurably d.frn d.sub := by
  obtain ⟨cm, ops, failed⟩ := State.takenOver_spec hm alive hw
  have regs : (a.logsRead durable).regs = a.takenOver.regs := State.markDurable_regs ..
  refine ⟨(State.markDurable_cm ..).trans cm, ?_, fun d h hd hl hr => ?_⟩
  · rw [State.fdAlive, State.bitOf, State.reg_congr regs]
    exact failed
  · exact State.markDurable_decided _ (State.mem_foundDurable (ops ▸ h) hd hl hr)

theorem exec_takeover {s : State} {t : Nat} {durable : List (Nat × Nat)} (hs : (s.arrive t).cm.standby = true)
    (hn : 2 ≤ (s.arrive t).cm.missed) (alive : (s.arrive t).fdAlive (1 - (s.arrive t).cm.master) = true) :
    exec (.takeover t durable) s = .next ((s.arrive t).logsRead durable).sendFences := by
  change execTakeover t durable s = _
  rw [execTakeover]
  exact if_neg (by simp [hs, alive, Nat.not_lt.mpr hn])

/-- Settles O29. The commands of leases and fences are one equation each; a takeover is the declaration of the old master,
the decisions found durable, and the fences sent. -/
theorem leasesFencesAndTakeoverKeepOneMaster : Obligations.LeasesFencesAndTakeoverKeepOneMaster := by
  unfold Obligations.LeasesFencesAndTakeoverKeepOneMaster
  refine ⟨fun s t frn token who => ?leases, fun s t durable => ?takeover⟩
  case leases =>
    intro a
    refine ⟨fun hs hk hl => ⟨_, exec_lease hs hk hl, rfl⟩, exec_lease_stale,
      fun hs ht hn => ⟨_, exec_leaseRenewalMissed hs ht hn, rfl⟩, fun hw hk hd => ?fence,
      fun hw hk => (exec_fenceTokenMessage hw).trans (congrArg Host.Outcome.next (if_pos hk)),
      fun x w hx hw hl ne => ⟨_, exec_fenceAcknowledgement hx hw, State.fenceDone_waits hl ne⟩,
      fun x w hx hw hl ne hf ht => ⟨_, exec_fenceAckTimeout_far hx hw hf ht, State.fenceDone_waits hl ne⟩,
      fun x hx hl => exec_fenceAckTimeout_early hx hl, fun hs h0 => ⟨_, exec_standbyLeaseAckMissed hs, ?first⟩,
      fun hs h1 hm alive => ⟨_, exec_standbyLeaseAckMissed hs, ?second⟩⟩
    case fence =>
      refine ⟨_, (exec_fenceTokenMessage hw).trans (congrArg Host.Outcome.next (if_neg (Nat.not_lt.mpr hk))), ?_, rfl, rfl, ?_⟩
      · exact a.die_onDie_same _ (hd.symm ▸ hw)
      · exact fun d ne => a.die_onDie_other _ ne
    case first =>
      exact (if_pos h0).trans (by rw [State.ackMissed, h0])
    case second =>
      obtain ⟨failed, cm, -, -, changed⟩ :=
        State.declareFd_spec (s := a.ackMissed) (f := 1 - a.cm.master) 2 (by omega) alive
      rw [if_neg (Nat.ne_of_gt h1)]
      exact ⟨failed, (congrArg Masters.standby cm :), (congrArg Masters.master cm :), (congrArg Masters.token cm :), changed⟩
  case takeover =>
    intro a m hs hn hm alive old hw
    have ran : exec (.takeover t durable) s = .next (a.logsRead durable).sendFences := exec_takeover hs hn alive
    obtain ⟨cm, failed, decided⟩ := State.logsRead_spec durable hm old hw
    obtain ⟨above, all⟩ := a.lt_nextToken
    generalize a.logsRead durable = b at ran cm failed decided
    obtain ⟨waiting, out, sent, fences⟩ := b.sendFences_spec
    have token : b.cm.token = a.nextToken := (congrArg Masters.token cm :)
    refine ⟨_, ran, ?_⟩
    rw [sent]
    exact ⟨(congrArg Masters.master cm :), token.symm ▸ above, token.symm ▸ all, failed, (congrArg Masters.standby cm :), rfl,
      fences, decided⟩

end Sys2Proof.Machine
end

section
/-! PROOFS. Host links (chapter 4): what a change of watching leaves, what the end of virtual functions leaves, and how
links come up, go down and reset their port. -/

namespace Sys2Proof.Machine

/-! ### Watching leaves ports, links and messages (R113, R114, R130) -/

/-- A host port but for its doorbell lines. -/
def HostPort.withoutLines (h : HostPort) : HostPort := { h with lines := [] }

/-- What a change of a port keeps of every port, it keeps after it. -/
theorem State.port_onPort_keeps {α : Type} (s : State) (p q : Nat) {f : HostPort → HostPort} {k : HostPort → α}
    (h : ∀ x, k (f x) = k x) : k ((s.onPort p f).port q) = k (s.port q) := by
  simp only [State.port, State.onPort_ports, List.getD_eq_getElem?_getD, List.getElem?_modify]
  cases s.ports[q]? with
  | none => rfl
  | some x => by_cases e : p = q <;> simp [e, h]

/-- The work is the same, and every port but for its doorbell lines. -/
structure SameButLines (s t : State) : Prop extends SameWork s t where
  ports : t.ports.length = s.ports.length
  port : ∀ p, (t.port p).withoutLines = (s.port p).withoutLines

theorem SameButLines.refl (s : State) : SameButLines s s := ⟨.refl s, rfl, fun _ => rfl⟩

theorem SameButLines.trans {s t u : State} (h : SameButLines s t) (g : SameButLines t u) : SameButLines s u :=
  ⟨h.toSameWork.trans g.toSameWork, g.ports.trans h.ports, fun p => (g.port p).trans (h.port p)⟩

theorem SameButLines.foldl {α : Type} {f : State → α → State} (h : ∀ s x, SameButLines s (f s x)) (l : List α) (s : State) :
    SameButLines s (l.foldl f s) := by
  induction l generalizing s with
  | nil => exact .refl s
  | cons x l ih => exact (h s x).trans (ih _)

theorem SameButLines.onPort (s : State) (p : Nat) {f : HostPort → HostPort} (h : ∀ x, (f x).withoutLines = x.withoutLines) :
    SameButLines s (s.onPort p f) :=
  ⟨⟨rfl, rfl, rfl, rfl, rfl⟩, List.length_modify .., fun q => s.port_onPort_keeps p q h⟩

theorem SameButLines.funcs {s t : State} (h : SameButLines s t) (p : Nat) : (t.port p).funcs = (s.port p).funcs :=
  (congrArg HostPort.funcs (h.port p) :)

theorem SameButLines.up {s t : State} (h : SameButLines s t) (p : Nat) : (t.port p).up = (s.port p).up :=
  (congrArg HostPort.up (h.port p) :)

theorem SameButLines.vfEn {s t : State} (h : SameButLines s t) (p : Nat) : (t.port p).vfEn = (s.port p).vfEn :=
  (congrArg HostPort.vfEn (h.port p) :)

theorem SameButLines.numVfs {s t : State} (h : SameButLines s t) (p : Nat) : (t.port p).numVfs = (s.port p).numVfs :=
  (congrArg HostPort.numVfs (h.port p) :)

theorem SameButLines.func {s t : State} (h : SameButLines s t) (p f : Nat) : t.func p f = s.func p f := by
  rw [State.func, State.func, h.funcs]

/-- The work and the ports are the same but for doorbell lines, so are the registers but for HL_LSTAT, of which bits 0-9
are the same, and nothing said is taken back. -/
structure Rewatched (s t : State) : Prop extends SameButLines s t where
  regs : ∀ r : Reg, r.name ≠ .hlLstat → t.reg r = s.reg r
  shown : ∀ d lo n, lo + n ≤ 10 → t.fieldOf (hlLstat d) lo n = s.fieldOf (hlLstat d) lo n
  said : ∀ m ∈ s.out, m ∈ t.out

theorem Rewatched.refl (s : State) : Rewatched s s := ⟨.refl s, fun _ _ => rfl, fun _ _ _ _ => rfl, fun _ h => h⟩

theorem Rewatched.trans {s t u : State} (h : Rewatched s t) (g : Rewatched t u) : Rewatched s u :=
  ⟨h.toSameButLines.trans g.toSameButLines, fun r hr => (g.regs r hr).trans (h.regs r hr),
    fun d lo n hn => (g.shown d lo n hn).trans (h.shown d lo n hn), fun m hm => g.said m (h.said m hm)⟩

theorem Rewatched.foldl {α : Type} {f : State → α → State} (h : ∀ s x, Rewatched s (f s x)) (l : List α) (s : State) :
    Rewatched s (l.foldl f s) := by
  induction l generalizing s with
  | nil => exact .refl s
  | cons x l ih => exact (h s x).trans (ih _)

theorem Rewatched.bitOf {s t : State} (h : Rewatched s t) (d i : Nat) (hi : i < 10) :
    t.bitOf (hlLstat d) i = s.bitOf (hlLstat d) i := by
  have shown := h.shown d i 1 hi
  rw [State.fieldOf, State.fieldOf] at shown
  rw [State.bitOf, State.bitOf, bit_eq_bitf, bit_eq_bitf, shown]

theorem Rewatched.onPort (s : State) (p : Nat) {f : HostPort → HostPort} (h : ∀ x, (f x).withoutLines = x.withoutLines) :
    Rewatched s (s.onPort p f) := ⟨.onPort s p h, fun _ _ => rfl, fun _ _ _ _ => rfl, fun _ hm => hm⟩

/-- A field of HL_LSTAT from bit 10 on is about watching. -/
theorem Rewatched.setField (s : State) (p lo len x : Nat) (h : 10 ≤ lo) : Rewatched s (s.setField (hlLstat p) lo len x) where
  toSameButLines := ⟨.setField s _ _ _ _, rfl, fun _ => rfl⟩
  regs r hr := s.reg_setField_other _ r _ _ _ fun e => hr (by rw [e]; rfl)
  shown d a n hn := by
    by_cases e : hlLstat d = hlLstat p
    · rw [e]
      exact s.fieldOf_setField_other _ _ _ _ _ _ (by omega) (by omega)
    · exact s.fieldOf_setField_reg _ _ _ _ _ _ _ e
  said _ hm := hm

theorem State.stretch_rewatched (s : State) (p : Nat) : Rewatched s (s.stretch p) :=
  (Rewatched.setField s p 10 1 _ (by decide)).trans (.setField _ p 16 16 _ (by decide))

theorem State.mpCheck_rewatched (s : State) : Rewatched s s.mpCheck :=
  (Rewatched.setField s 0 12 1 _ (by decide)).trans (.setField _ 1 12 1 _ (by decide))

theorem State.pruneLines_rewatched (s : State) (p : Nat) : Rewatched s (s.pruneLines p) := .onPort s p fun _ => rfl

theorem Rewatched.say (s : State) (m : Msg) : Rewatched s (s.say m) :=
  ⟨⟨⟨rfl, rfl, rfl, rfl, rfl⟩, rfl, fun _ => rfl⟩, fun _ _ => rfl, fun _ _ _ _ => rfl, fun _ hm => List.mem_cons_of_mem _ hm⟩

theorem State.putLine_rewatched (s : State) (p : Nat) (l : DbLine) : Rewatched s (s.putLine p l) := .onPort s p fun _ => rfl

theorem State.readLine_rewatched (s : State) (p addr : Nat) : Rewatched s (s.readLine p addr) :=
  (s.putLine_rewatched p _).trans (.say _ _)

theorem State.readLines_rewatched (s : State) (p : Nat) : Rewatched s (s.readLines p) :=
  .foldl (fun v a => v.readLine_rewatched p a) _ s

theorem State.rewatch_rewatched (old new : State) (p : Nat) : Rewatched new (State.rewatch old new p) := by
  unfold State.rewatch
  refine Rewatched.trans ?_ (State.stretch_rewatched _ p)
  split
  · exact new.readLines_rewatched p
  · split
    · exact .onPort new p fun _ => rfl
    · exact .refl new

theorem State.rewatchRings_rewatched (old new : State) : Rewatched new (State.rewatchRings old new) := by
  have readNew (v : State) (x : Nat × Nat) : Rewatched v (if v.watches x.1 x.2 && !old.watches x.1 x.2 then
      v.readLine (v.watchPort x.1 x.2) (v.dbWord x.1 x.2) else v) := by
    split
    · exact v.readLine_rewatched _ _
    · exact .refl v
  exact ((((new.pruneLines_rewatched 0).trans (State.pruneLines_rewatched _ 1)).trans (.foldl readNew _ _)).trans
    (State.stretch_rewatched _ 0)).trans (State.stretch_rewatched _ 1)

/-! ### Virtual functions end (R126, R134) -/

theorem State.putRing_same (s : State) (r : Ring) : SameButLines s (s.putRing r) := ⟨⟨rfl, rfl, rfl, rfl, rfl⟩, rfl, fun _ => rfl⟩

theorem State.setBit_same (s : State) (r : Reg) (i : Nat) (b : Bool) : SameButLines s (s.setBit r i b) :=
  ⟨.setField s r i 1 _, rfl, fun _ => rfl⟩

theorem State.stopRing_same (s : State) (pg n : Nat) : SameButLines s (s.stopRing pg n) :=
  (s.putRing_same _).trans (State.pruneLines_rewatched _ _).toSameButLines

/-- A port whose virtual functions have ended: function 0 keeps its configuration, the others lose theirs. -/
def HostPort.vfsEnded (h : HostPort) : HostPort :=
  { h with vfEn := false, funcs := h.funcs.zipIdx.map fun x => if x.2 = 0 then x.1 else x.1.unconfigured }

/-- The end of a port's virtual functions is a change of that port; the rings it stops are no work. -/
theorem State.endVfs_same (s : State) (p : Nat) : SameButLines (s.onPort p HostPort.vfsEnded) (s.endVfs p) := by
  unfold State.endVfs
  refine SameButLines.foldl (fun v x => ?_) _ (s.onPort p HostPort.vfsEnded)
  split
  · exact (v.setBit_same _ _ _).trans (State.stopRing_same _ _ _)
  · exact .refl v

theorem Func.unconfigured_unconfigured (x : Func) : x.unconfigured.unconfigured = x.unconfigured := rfl

/-- Once every function is at its power-on values, the end of the virtual functions before no longer shows (R126, R134). -/
theorem HostPort.funcs_vfsEnded (h : HostPort) : h.vfsEnded.funcs.map Func.unconfigured = h.funcs.map Func.unconfigured := by
  apply List.ext_getElem (by simp [HostPort.vfsEnded])
  intro i _ _
  simp only [HostPort.vfsEnded, List.getElem_map, List.getElem_zipIdx]
  split
  · rfl
  · exact Func.unconfigured_unconfigured _

/-! ### Links come up (R101, R102, R114) -/

theorem State.bitOf_eq_fieldOf (s : State) (r : Reg) (i : Nat) : s.bitOf r i = Decidable.decide (s.fieldOf r i 1 = 1) := bit_eq_bitf _ _

/-- A field's write leaves the bits outside the field. -/
theorem State.bitOf_setField_other (s : State) (r : Reg) (lo len x i : Nat) (h : i < 32) (hd : i < lo ∨ lo + len ≤ i) :
    (s.setField r lo len x).bitOf r i = s.bitOf r i := by
  rw [State.bitOf_eq_fieldOf, State.bitOf_eq_fieldOf, s.fieldOf_setField_other r lo len x i 1 h hd]

theorem State.onPort_bitOf (s : State) (p : Nat) (f : HostPort → HostPort) (r : Reg) (i : Nat) :
    (s.onPort p f).bitOf r i = s.bitOf r i := rfl

theorem State.onPort_fieldOf (s : State) (p : Nat) (f : HostPort → HostPort) (r : Reg) (lo n : Nat) :
    (s.onPort p f).fieldOf r lo n = s.fieldOf r lo n := rfl

/-- Ports depend on the list of ports alone. -/
theorem State.port_congr {s t : State} (h : s.ports = t.ports) (p : Nat) : s.port p = t.port p := by
  rw [State.port, State.port, h]

/-- The codes of an allowed mode fit their fields of HL_LSTAT. -/
theorem linkMode_fits {rate width proto : Nat} {flit : Bool} (h : linkMode rate width proto flit = true) :
    rate < 8 ∧ width < 4 ∧ proto < 4 := by
  unfold linkMode at h
  rw [Bool.and_eq_true, Bool.or_eq_true, decide_eq_true_eq, decide_eq_true_eq] at h
  obtain ⟨hw, h⟩ := h
  split at h <;> simp at h <;> omega

/-- A trained link's mode shown, and the port no longer as failed. -/
def State.showLink (s : State) (p rate width proto : Nat) (flit : Bool) : State :=
  (((((s.setField (hlLstat p) 0 3 rate).setField (hlLstat p) 3 2 width).setBit (hlLstat p) 5 flit).setField (hlLstat p) 6 2
    proto).setBit (hlLstat p) 11 false).setBit rFtFailed (20 + p) false

/-- A link that has trained: the port is up from here. -/
def State.trained (s : State) (t p rate width proto : Nat) (flit : Bool) : State :=
  (s.showLink p rate width proto flit).onPort p fun h => { h with up := true, downAt := none, fails := 0, steady := some t }

section
variable {s : State} {t p rate width proto : Nat} {flit : Bool}

theorem exec_linkUp (hp : p < 2) (mode : linkMode rate width proto flit = true) (down : ((s.arrive t).port p).up = false)
    (hr : ((s.arrive t).port p).perst = false) (hf : (s.arrive t).boot.perstFrom ≤ t) (hb : (s.arrive t).pwr.inReset = false)
    (alive : (s.arrive t).fdAlive p = true) : exec (.linkUp t p rate width proto flit) s = .next
      (((((s.arrive t).trained t p rate width proto flit).mpCheck.readLines p).stretch 0).stretch 1) :=
  congrArg Host.Outcome.next (if_neg (by simp [down, hr, hb, alive, mode, Nat.not_le.mpr hp, Nat.not_lt.mpr hf]))

theorem exec_linkUp_refused (mode : linkMode rate width proto flit = false) :
    exec (.linkUp t p rate width proto flit) s = .next (s.arrive t) :=
  congrArg Host.Outcome.next (if_pos (by simp [mode]))

/-- What HL_LSTAT and FT_FAILED show of a trained link. -/
theorem State.trained_shows (a : State) (t : Nat) (hp : p < 2) (mode : linkMode rate width proto flit = true) :
    let v := a.trained t p rate width proto flit
    v.fieldOf (hlLstat p) 0 3 = rate ∧ v.fieldOf (hlLstat p) 3 2 = width ∧ v.bitOf (hlLstat p) 5 = flit
    ∧ v.fieldOf (hlLstat p) 6 2 = proto ∧ v.bitOf rFtFailed (20 + p) = false := by
  obtain ⟨hr, hw, hq⟩ := linkMode_fits mode
  have ne : hlLstat p ≠ rFtFailed := by simp [hlLstat, rFtFailed]
  simp only [State.trained, State.onPort_bitOf, State.onPort_fieldOf]
  refine ⟨?_, ?_, ?_, ?_, State.bitOf_setBit_same _ _ _ _ (by omega)⟩
  all_goals simp (disch := first | omega | assumption) only [State.showLink, State.setBit, State.bitOf_eq_fieldOf,
    State.fieldOf_setField_reg, State.fieldOf_setField_same, State.fieldOf_setField_other]
  · exact Nat.mod_eq_of_lt hr
  · exact Nat.mod_eq_of_lt hw
  · cases flit <;> rfl
  · exact Nat.mod_eq_of_lt hq

theorem State.trained_work (a : State) (t p rate width proto : Nat) (flit : Bool) :
    SameWork a (a.trained t p rate width proto flit) := by
  constructor <;> simp [State.trained, State.showLink]

theorem State.showLink_ports (a : State) : (a.showLink p rate width proto flit).ports = a.ports := by
  simp [State.showLink]

theorem State.trained_port (a : State) (t : Nat) (h : p < a.ports.length) : (a.trained t p rate width proto flit).port p =
    { a.port p with up := true, downAt := none, fails := 0, steady := some t } := by
  rw [State.trained, State.port_onPort_same _ _ (by rwa [State.showLink_ports]), State.port_congr a.showLink_ports]

/-- What a link that trained leaves, once the doorbell lines have been read. -/
theorem State.trained_spec (a : State) (t : Nat) (hp : p < 2) (mode : linkMode rate width proto flit = true)
    (h : p < a.ports.length) :
    let u := (((a.trained t p rate width proto flit).mpCheck.readLines p).stretch 0).stretch 1
    (u.port p).up = true ∧ (u.port p).steady = some t ∧ (u.port p).fails = 0 ∧ (u.port p).downAt = none
    ∧ u.fieldOf (hlLstat p) 0 3 = rate ∧ u.fieldOf (hlLstat p) 3 2 = width ∧ u.bitOf (hlLstat p) 5 = flit
    ∧ u.fieldOf (hlLstat p) 6 2 = proto ∧ u.bitOf rFtFailed (20 + p) = false ∧ u.ops = a.ops ∧ u.cores = a.cores
    ∧ u.mem = a.mem := by
  intro u
  have kept : Rewatched (a.trained t p rate width proto flit) u :=
    (((State.mpCheck_rewatched _).trans (State.readLines_rewatched _ p)).trans (State.stretch_rewatched _ 0)).trans
      (State.stretch_rewatched _ 1)
  obtain ⟨hrate, hwidth, hflit, hproto, failed⟩ := a.trained_shows t hp mode
  have work := a.trained_work t p rate width proto flit
  have port := (kept.port p).trans (congrArg HostPort.withoutLines (a.trained_port t h))
  clear_value u
  exact ⟨(congrArg HostPort.up port :), (congrArg HostPort.steady port :), (congrArg HostPort.fails port :),
    (congrArg HostPort.downAt port :), (kept.shown p 0 3 (by decide)).trans hrate, (kept.shown p 3 2 (by decide)).trans hwidth,
    (kept.bitOf p 5 (by decide)).trans hflit, (kept.shown p 6 2 (by decide)).trans hproto,
    (congrArg (bit · (20 + p)) (kept.regs rFtFailed (by decide))).trans failed, kept.ops.trans work.ops, kept.cores.trans work.cores,
    kept.mem.trans work.mem⟩

end

/-! ### Links go down, are lost and return (R103, R132) -/

/-- A port whose link has gone down: no doorbell line is held or being read. -/
def HostPort.wentDown (h : HostPort) (now : Stamp) : HostPort :=
  { h with up := false, downAt := some now, steady := none, fails := 0,
           lines := h.lines.map fun l => { l with held := false, reading := false } }

section
variable {s : State} {t p : Nat}

theorem State.downLink_up {a : State} (up : (a.port p).up = true) :
    a.downLink p = (a.setField (hlLstat p) 0 3 0).onPort p fun h => h.wentDown a.now := if_neg (by simp [up])

theorem State.downLink_down {a : State} (down : (a.port p).up = false) :
    a.downLink p = a.onPort p fun h => { h with fails := h.fails + 1 } := if_pos (by simp [down])

theorem exec_linkDown (s : State) (t p : Nat) : exec (.linkDown t p) s = .next ((s.arrive t).downLink p) := rfl

theorem exec_hostPortLost (hp : p < 2) : exec (.hostPortLost t p) s = .next
    (if (s.arrive t).portDue p t then (s.arrive t).declareOrWait 5 p 0 else s.arrive t) := by
  change execHostPortLost t p s = _
  simp [execHostPortLost, hp]

theorem exec_portReturned {x : Stamp} (hx : ((s.arrive t).port p).steady = some x) (up : ((s.arrive t).port p).up = true)
    (kept : (s.arrive t).portLost p = false) (ht : x + 1000000000 ≤ t) :
    exec (.portReturned t p) s = .next ((s.arrive t).onPort p fun h => { h with returned := true }) := by
  change execPortReturned t p s = _
  simp [execPortReturned, hx, up, kept, ht]

/-! ### DL_Down (R134) -/

/-- A port's configuration space at its power-on values. -/
def State.dlReset (s : State) (p : Nat) : State :=
  (((s.endVfs p).onPort p fun h => { h with numVfs := 0, funcs := h.funcs.map Func.unconfigured }).setBit (hlLstat p) 8 false).setBit
    (hlLstat p) 9 false

/-- A port after DL_Down: reset, and its link down. -/
def State.dlDowned (s : State) (p : Nat) : State := if (s.port p).up then (s.dlReset p).downLink p else s.dlReset p

theorem exec_dlDown (hp : p < 2) : exec (.dlDown t p) s = .next
    ((s.arrive t).rewatchRings ((s.arrive t).rewatch ((s.arrive t).dlDowned p).mpCheck p)) :=
  congrArg Host.Outcome.next (if_neg (Nat.not_le.mpr hp))

/-- What a port's end of virtual functions leaves of it. -/
theorem State.endVfs_port {a : State} (h : p < a.ports.length) :
    ((a.endVfs p).port p).withoutLines = (a.port p).vfsEnded.withoutLines := by
  rw [(a.endVfs_same p).port, a.port_onPort_same _ h]

theorem State.dlReset_spec {a : State} (h : p < a.ports.length) :
    let v := a.dlReset p
    p < v.ports.length ∧ (v.port p).up = (a.port p).up ∧ (v.port p).vfEn = false ∧ (v.port p).numVfs = 0
    ∧ (v.port p).funcs = (a.port p).funcs.map Func.unconfigured
    ∧ v.bitOf (hlLstat p) 8 = false ∧ v.bitOf (hlLstat p) 9 = false ∧ v.ops = a.ops ∧ v.cores = a.cores := by
  have same := a.endVfs_same p
  have length : p < (a.endVfs p).ports.length := by rw [same.ports]; simpa using h
  have reset : (a.dlReset p).port p = { (a.endVfs p).port p with
      numVfs := 0, funcs := ((a.endVfs p).port p).funcs.map Func.unconfigured } := State.port_onPort_same _ _ length
  have ended := State.endVfs_port h
  intro v
  rw [reset]
  refine ⟨by simpa [v, State.dlReset, State.setBit] using length, (congrArg HostPort.up ended :),
    (congrArg HostPort.vfEn ended :), rfl, ?_, ?_, State.bitOf_setBit_same _ _ _ _ (by decide), same.ops, same.cores⟩
  · exact (congrArg (fun x : HostPort => x.funcs.map Func.unconfigured) ended :).trans (HostPort.funcs_vfsEnded _)
  · exact (State.bitOf_setBit_other _ _ _ _ _ (by decide) (by decide)).trans (State.bitOf_setBit_same _ _ _ _ (by decide))

theorem State.dlDowned_spec {a : State} (h : p < a.ports.length) :
    let v := a.dlDowned p
    (v.port p).up = false ∧ (v.port p).vfEn = false ∧ (v.port p).numVfs = 0
    ∧ (v.port p).funcs = (a.port p).funcs.map Func.unconfigured
    ∧ v.bitOf (hlLstat p) 8 = false ∧ v.bitOf (hlLstat p) 9 = false ∧ v.ops = a.ops ∧ v.cores = a.cores := by
  obtain ⟨length, up, vfs, num, funcs, cache, mem, ops, cores⟩ := State.dlReset_spec h
  unfold State.dlDowned
  split
  · next hu =>
    rw [State.downLink_up (up.trans hu)]
    have port : (((a.dlReset p).setField (hlLstat p) 0 3 0).onPort p fun h => h.wentDown (a.dlReset p).now).port p
        = ((a.dlReset p).port p).wentDown (a.dlReset p).now := State.port_onPort_same _ _ length
    dsimp only
    rw [port, State.onPort_bitOf, State.onPort_bitOf, State.bitOf_setField_other _ _ _ _ _ _ (by decide) (by decide),
      State.bitOf_setField_other _ _ _ _ _ _ (by decide) (by decide)]
    exact ⟨rfl, vfs, num, funcs, cache, mem, ops, cores⟩
  · next hu => exact ⟨up.trans (Bool.eq_false_iff.mpr hu), vfs, num, funcs, cache, mem, ops, cores⟩

theorem State.allWatching_rewatched (a v : State) (p : Nat) : Rewatched v (a.rewatchRings (a.rewatch v.mpCheck p)) :=
  (v.mpCheck_rewatched.trans (State.rewatch_rewatched a _ p)).trans (State.rewatchRings_rewatched a _)

/-- What DL_Down leaves, once the watching has been judged again. -/
theorem State.dlDown_spec {a : State} (h : p < a.ports.length) :
    let u := a.rewatchRings (a.rewatch (a.dlDowned p).mpCheck p)
    (u.port p).up = false ∧ (u.port p).vfEn = false ∧ (u.port p).numVfs = 0
    ∧ u.bitOf (hlLstat p) 8 = false ∧ u.bitOf (hlLstat p) 9 = false ∧ u.ops = a.ops ∧ u.cores = a.cores
    ∧ (u.port p).funcs = (a.port p).funcs.map Func.unconfigured := by
  intro u
  have kept : Rewatched (a.dlDowned p) u := State.allWatching_rewatched a _ p
  obtain ⟨down, vfs, num, funcs, cache, mem, ops, cores⟩ := State.dlDowned_spec h
  exact ⟨(kept.up p).trans down, (kept.vfEn p).trans vfs, (kept.numVfs p).trans num, (kept.bitOf p 8 (by decide)).trans cache,
    (kept.bitOf p 9 (by decide)).trans mem, kept.ops.trans ops, kept.cores.trans cores, (kept.funcs p).trans funcs⟩

/-! ### CXL.cache (R108, R114) -/

theorem exec_cxlCacheToggle {on : Bool} (hp : p < 2) (h : on = true → (s.arrive t).fieldOf (hlLstat p) 6 2 ≠ 0) :
    exec (.cxlCacheToggle t p on) s = .next ((s.arrive t).rewatch ((s.arrive t).setBit (hlLstat p) 8 on) p) :=
  congrArg Host.Outcome.next (if_neg (by simpa [Nat.not_le.mpr hp] using h))

theorem exec_cxlCacheToggle_refused {on : Bool} (hon : on = true) (h : (s.arrive t).fieldOf (hlLstat p) 6 2 = 0) :
    exec (.cxlCacheToggle t p on) s = .next (s.arrive t) :=
  congrArg Host.Outcome.next (if_pos (by simp [hon, h]))

end

/-- Settles O45. What shows of a link is written before its watching is judged again, and `Rewatched` says what that keeps. -/
theorem hostLinksComeAndGo : Obligations.HostLinksComeAndGo := by
  unfold Obligations.HostLinksComeAndGo
  intro s t p rate width proto flit on hp a st up
  refine ⟨fun mode down hr hf hb alive hl => ⟨_, exec_linkUp hp mode down hr hf hb alive, ?comes⟩,
    fun mode => ⟨_, exec_linkUp_refused mode, rfl⟩, fun hl hu => ⟨_, exec_linkDown s t p, ?goes⟩,
    fun hl hd => ⟨_, exec_linkDown s t p, ?fails⟩,
    fun due => ⟨_, exec_hostPortLost hp, if_pos due⟩, fun early => ⟨_, exec_hostPortLost hp, if_neg (Bool.eq_false_iff.mp early)⟩,
    fun x hx hu kept ht hl => ⟨_, exec_portReturned hx hu kept ht, a.port_onPort_same _ hl, rfl⟩,
    fun hl => ⟨_, exec_dlDown hp, ?reset⟩, fun h => ⟨_, exec_cxlCacheToggle hp h, ?toggles⟩,
    fun hon h => ⟨_, exec_cxlCacheToggle_refused hon h, rfl⟩⟩
  case comes => exact a.trained_spec t hp mode hl
  case goes =>
    rw [State.downLink_up hu]
    have port : ((a.setField st 0 3 0).onPort p fun h => h.wentDown a.now).port p = (a.port p).wentDown a.now :=
      State.port_onPort_same _ _ hl
    dsimp only
    rw [port]
    exact ⟨rfl, rfl, rfl, a.fieldOf_setField_same st 0 3 0 (by decide), fun r ne => a.reg_setField_other st r _ _ _ ne, rfl, rfl⟩
  case fails =>
    rw [State.downLink_down hd]
    exact ⟨a.port_onPort_same _ hl, rfl, rfl⟩
  case reset =>
    obtain ⟨down, vfs, num, cache, mem, ops, cores, funcs⟩ := State.dlDown_spec hl
    refine ⟨down, vfs, num, cache, mem, ops, cores, ?_, fun f x hx => ?_⟩
    · rw [funcs, List.length_map]
    · rw [funcs, List.getElem?_map, hx]
      rfl
  case toggles =>
    have kept := State.rewatch_rewatched a (a.setBit st 8 on) p
    exact ⟨(kept.bitOf p 8 (by decide)).trans (a.bitOf_setBit_same st 8 on (by decide)),
      fun r ne => (kept.regs r ne).trans (a.reg_setBit_other st r _ _ fun e => ne (by rw [e]; rfl)), kept.ops, kept.cores, kept.mem⟩

end Sys2Proof.Machine
end

section
/-! PROOFS. Functions of the host ports (chapter 4): configuration requests, held interrupts, requests in error, ATS, IDE
and DOE. -/

namespace Sys2Proof.Machine

/-! ### A function of a port -/

/-- The port and the function are there. -/
def State.HasFunc (s : State) (p f : Nat) : Prop := p < s.ports.length ∧ f < (s.port p).funcs.length

section
variable {s : State} {p f : Nat}

theorem State.func_onFunc_same (g : Func → Func) (h : s.HasFunc p f) : (s.onFunc p f g).func p f = g (s.func p f) := by
  rw [State.func, State.onFunc, State.port_onPort_same _ _ h.1]
  simp [State.func, List.getD, h.2]

theorem State.HasFunc.onFunc (h : s.HasFunc p f) (g : Func → Func) : (s.onFunc p f g).HasFunc p f := by
  refine ⟨by simpa [State.onFunc] using h.1, ?_⟩
  rw [State.onFunc, State.port_onPort_same _ _ h.1]
  simpa using h.2

theorem State.onFunc_onFunc (s : State) (p f : Nat) (g h : Func → Func) : (s.onFunc p f g).onFunc p f h = s.onFunc p f (h ∘ g) := by
  simp [State.onFunc, State.onPort, List.modify_modify_eq, Function.comp_def]

theorem State.onFunc_id (s : State) (p f : Nat) : (s.onFunc p f fun x => x) = s := by
  have funcs (h : HostPort) : (h.funcs.modify f fun x => x) = h.funcs := List.modify_id f _
  simp only [State.onFunc, funcs]
  exact congrArg (fun l => { s with ports := l }) (List.modify_id p s.ports)

end

/-! ### Held interrupts (R125) -/

/-- Pending bits with those of some vectors cleared. -/
def clearPend (l : List Nat) (v : Nat) : Nat := l.foldl (fun v w => putBits v w 1 0) v

theorem bit_putBits_zero (v i w : Nat) (h : i = w ∨ bit v i = false) : bit (putBits v w 1 0) i = false := by
  rw [bit_eq_bitf]
  by_cases e : i = w
  · rw [e, bitf_putBits_same]
    rfl
  · rw [bitf_putBits_other _ _ _ _ _ _ (by omega), ← bit_eq_bitf, h.resolve_left e]

theorem bit_clearPend (l : List Nat) {v i : Nat} (h : i ∈ l ∨ bit v i = false) : bit (clearPend l v) i = false := by
  induction l generalizing v with
  | nil => simpa [clearPend] using h
  | cons w l ih =>
    refine ih ?_
    rcases h with h | h
    · exact (List.mem_cons.mp h).elim (fun e => .inr (bit_putBits_zero v i w (.inl e))) .inl
    · exact .inr (bit_putBits_zero v i w (.inr h))

/-- Some of a function's pending vectors are sent. -/
def State.sendVectors (s : State) (p f : Nat) (l : List Nat) : State :=
  (s.onFunc p f fun x => { x with pend := clearPend l x.pend }).sayAll (l.map (.msix p f))

theorem State.foldl_sendVector (s : State) (p f : Nat) (l : List Nat) :
    l.foldl (fun acc v => (acc.onFunc p f fun y => { y with pend := putBits y.pend v 1 0 }).say (.msix p f v)) s
      = s.sendVectors p f l := by
  induction l generalizing s with
  | nil => exact (s.onFunc_id p f).symm
  | cons w l ih =>
    rw [List.foldl_cons, ih]
    have sent : ((s.onFunc p f fun y => { y with pend := putBits y.pend w 1 0 }).say (.msix p f w)).sendVectors p f l
        = (((s.onFunc p f fun y => { y with pend := putBits y.pend w 1 0 }).onFunc p f fun x =>
            { x with pend := clearPend l x.pend }).say (.msix p f w)).sayAll (l.map (.msix p f)) := rfl
    rw [sent, State.onFunc_onFunc]
    simp [State.sendVectors, State.say, State.sayAll, Function.comp_def, clearPend]

/-- A vector's message has left and is no longer pending. -/
def State.Sent (s : State) (p f w : Nat) : Prop := .msix p f w ∈ s.out ∧ bit (s.func p f).pend w = false

/-- What sending a function's held messages leaves: beside pending bits nothing but what was said, and every message that
may go has gone. -/
structure HeldSent (p f : Nat) (s u : State) : Prop where
  regs : u.regs = s.regs
  ops : u.ops = s.ops
  cores : u.cores = s.cores
  func : ∃ l, u.func p f = { s.func p f with pend := clearPend l (s.func p f).pend }
  sent : (s.func p f).msixEn = true → (s.func p f).fmask = false → (s.func p f).bme = true → (s.func p f).d3 = false →
    ∀ w, w < 32 → bit (s.func p f).pend w = true → s.bitOf { name := .msix, dev := 64 * p + f, n := 4 * w + 3 } 0 = false →
      u.Sent p f w

section
variable {s : State} {p f : Nat}

theorem State.sendVectors_func (l : List Nat) (h : s.HasFunc p f) :
    (s.sendVectors p f l).func p f = { s.func p f with pend := clearPend l (s.func p f).pend } := State.func_onFunc_same _ h

theorem State.sendVectors_sent {l : List Nat} (h : s.HasFunc p f) {w : Nat} (hw : w ∈ l) : (s.sendVectors p f l).Sent p f w := by
  refine ⟨?_, ?_⟩
  · rw [State.sendVectors, State.sayAll_out]
    exact List.mem_append_left _ (List.mem_reverse.mpr (List.mem_map_of_mem hw))
  · rw [State.sendVectors_func l h]
    exact bit_clearPend l (.inl hw)

theorem State.sendHeld_sent (h : s.HasFunc p f) : HeldSent p f s (s.sendHeld p f) := by
  unfold State.sendHeld
  extract_lets x ready
  split
  · next blocked =>
    refine ⟨rfl, rfl, rfl, ⟨[], rfl⟩, fun h1 h2 h3 h4 => ?_⟩
    simp [x, h1, h2, h3, h4] at blocked
  · rw [State.foldl_sendVector]
    refine ⟨rfl, rfl, rfl, ⟨_, State.sendVectors_func _ h⟩, fun _ _ _ _ w hw hp hm => State.sendVectors_sent h ?_⟩
    simp [ready, x, hw, hp, hm]

end

theorem Rewatched.sent {s t : State} (h : Rewatched s t) {p f w : Nat} (g : s.Sent p f w) : t.Sent p f w :=
  ⟨h.said _ g.1, by rw [h.func]; exact g.2⟩

/-! ### Configuration requests (R123, R125, R126, R586) -/

theorem State.ringsWatching_rewatched (a v : State) : Rewatched v (a.rewatchRings v.mpCheck) :=
  v.mpCheck_rewatched.trans (State.rewatchRings_rewatched a _)

section
variable {a : State} {p f : Nat}

theorem next_cfgGate_retry (h : (a.port p).cfgReady = false) (f : Nat) (k : State) :
    (.next (a.cfgGate p f k) : Out) = .next (a.say (.cfg p true)) := congrArg Host.Outcome.next (if_neg (by simp [h]))

theorem next_cfgGate_ready (hp : p < 2) (h : (a.port p).cfgReady = true) (hf : a.funcOn p f = true) (k : State) :
    (.next (a.cfgGate p f k) : Out) = .next k := congrArg Host.Outcome.next ((if_pos (by simp [hp, h])).trans (if_pos hf))

theorem State.busMaster_spec (h : a.HasFunc p f) (b d3 : Bool) :
    let u := a.rewatchRings ((a.onFunc p f fun x => { x with bme := b, d3 := d3 }).sendHeld p f)
    (u.func p f).bme = b ∧ (u.func p f).d3 = d3 ∧ u.ops = a.ops ∧ u.cores = a.cores
    ∧ ((a.func p f).msixEn = true → (a.func p f).fmask = false → b = true → d3 = false → ∀ w, w < 32 →
        bit (a.func p f).pend w = true → a.bitOf { name := .msix, dev := 64 * p + f, n := 4 * w + 3 } 0 = false → u.Sent p f w) := by
  have set := State.func_onFunc_same (fun x => { x with bme := b, d3 := d3 }) h
  obtain ⟨-, ops, cores, ⟨l, func⟩, sent⟩ := State.sendHeld_sent (h.onFunc fun x => { x with bme := b, d3 := d3 })
  have kept := State.rewatchRings_rewatched a ((a.onFunc p f fun x => { x with bme := b, d3 := d3 }).sendHeld p f)
  rw [set] at func sent
  intro u
  rw [kept.func, func]
  exact ⟨rfl, rfl, kept.ops.trans ops, kept.cores.trans cores,
    fun h1 h2 h3 h4 w hw hp hm => kept.sent (sent h1 h2 h3 h4 w hw hp hm)⟩

theorem State.msixControl_spec (h : a.HasFunc p f) (en mk : Bool) :
    let u := ((a.onFunc p f fun x => { x with msixEn := en, fmask := mk }).sendHeld p f).say (.cfg p false)
    (u.func p f).msixEn = en ∧ (u.func p f).fmask = mk ∧ u.out.head? = some (.cfg p false) ∧ u.regs = a.regs
    ∧ (en = true → mk = false → (a.func p f).bme = true → (a.func p f).d3 = false → ∀ w, w < 32 →
        bit (a.func p f).pend w = true → a.bitOf { name := .msix, dev := 64 * p + f, n := 4 * w + 3 } 0 = false → u.Sent p f w) := by
  have set := State.func_onFunc_same (fun x => { x with msixEn := en, fmask := mk }) h
  obtain ⟨regs, -, -, ⟨l, func⟩, sent⟩ := State.sendHeld_sent (h.onFunc fun x => { x with msixEn := en, fmask := mk })
  have kept := Rewatched.say ((a.onFunc p f fun x => { x with msixEn := en, fmask := mk }).sendHeld p f) (.cfg p false)
  rw [set] at func sent
  intro u
  rw [kept.func, func]
  exact ⟨rfl, rfl, rfl, regs, fun h1 h2 h3 h4 w hw hp hm => kept.sent (sent h1 h2 h3 h4 w hw hp hm)⟩

/-- Logged errors with those of a mask cleared. -/
def aerLeft (clear log : Nat) : Nat := (List.range 32).foldl (fun v i => if bit clear i then putBits v i 1 0 else v) log

theorem exec_aerClear {s : State} {t cl : Nat} (hp : p < 2) (ready : ((s.arrive t).port p).cfgReady = true)
    (hf : (s.arrive t).funcOn p f = true) : exec (.configurationRequest t p f (.aer cl)) s = .next
      ((((s.arrive t).onFunc p f fun x => { x with aer := aerLeft cl ((s.arrive t).func p f).aer }).say
        (.regValue p (BitVec.ofNat 32 ((s.arrive t).func p f).aer))).say (.cfg p false)) := next_cfgGate_ready hp ready hf _

/-- CXL.mem is enabled by the physical function, on a CXL 3.1 link (R119). -/
theorem exec_memEnable {s : State} {t : Nat} {on : Bool} (hp : p < 2) (ready : ((s.arrive t).port p).cfgReady = true)
    (h : on = false ∨ (s.arrive t).fieldOf (hlLstat p) 6 2 = 2) : exec (.configurationRequest t p 0 (.mem on)) s = .next
      (((s.arrive t).setBit (hlLstat p) 9 on).say (.cfg p false)) := by
  refine (next_cfgGate_ready hp ready rfl _).trans (congrArg Host.Outcome.next (if_pos ?_))
  simpa using h

theorem exec_msixUnmask {s : State} {t v : Nat} (hp : p < 2) (hv : v < 32) (hf : (s.arrive t).funcOn p f = true) :
    exec (.msixUnmask t p f v) s = .next
      (((s.arrive t).setBit { name := .msix, dev := 64 * p + f, n := 4 * v + 3 } 0 false).sendHeld p f) :=
  congrArg Host.Outcome.next (if_neg (by simp [hf, Nat.not_le.mpr hp, Nat.not_le.mpr hv]))

/-- A vector unmasked: its mask bit is clear and its held message goes. -/
theorem State.unmask_spec (h : a.HasFunc p f) {v : Nat} (hv : v < 32) :
    let mask : Reg := { name := .msix, dev := 64 * p + f, n := 4 * v + 3 }
    let u := (a.setBit mask 0 false).sendHeld p f
    u.bitOf mask 0 = false ∧ (∀ r, r ≠ mask → u.reg r = a.reg r) ∧ u.ops = a.ops
    ∧ ((a.func p f).msixEn = true → (a.func p f).fmask = false → (a.func p f).bme = true → (a.func p f).d3 = false →
        bit (a.func p f).pend v = true → u.Sent p f v) := by
  intro mask
  have clear : (a.setBit mask 0 false).bitOf mask 0 = false := a.bitOf_setBit_same mask 0 false (by decide)
  have held : HeldSent p f (a.setBit mask 0 false) ((a.setBit mask 0 false).sendHeld p f) := State.sendHeld_sent h
  refine ⟨?_, fun r ne => (State.reg_congr held.regs r).trans (a.reg_setBit_other mask r 0 false ne), held.ops,
    fun h1 h2 h3 h4 hp => held.sent h1 h2 h3 h4 v hv hp clear⟩
  rw [State.bitOf, State.reg_congr held.regs]
  exact clear

end

/-! ### Virtual functions (R123, R126, R131) -/

section
variable {s : State} {t p num : Nat}

theorem exec_vfEnable_off {on : Bool} (hp : p < 2) (ready : ((s.arrive t).port p).cfgReady = true) (hn : num ≤ 63)
    (off : ((s.arrive t).port p).vfEn = false) : exec (.vfEnable t p num on) s = .next ((s.arrive t).rewatchRings
      (if on then (s.arrive t).onPort p fun h => { h with vfEn := true, numVfs := num }
        else (s.arrive t).onPort p fun h => { h with numVfs := num }).mpCheck) := by
  refine (next_cfgGate_ready hp ready rfl _).trans ?_
  rw [if_neg (by simp [off, Nat.not_lt.mpr hn])]
  simp only [off, Bool.false_eq_true, if_false]

theorem exec_vfEnable_end (hp : p < 2) (ready : ((s.arrive t).port p).cfgReady = true) (hn : num ≤ 63)
    (on : ((s.arrive t).port p).vfEn = true) :
    exec (.vfEnable t p num false) s = .next ((s.arrive t).rewatchRings ((s.arrive t).endVfs p).mpCheck) := by
  refine (next_cfgGate_ready hp ready rfl _).trans ?_
  rw [if_neg (by simp [Nat.not_lt.mpr hn])]
  simp only [on, Bool.false_eq_true, if_false, if_true]

theorem exec_vfEnable_on (hp : p < 2) (ready : ((s.arrive t).port p).cfgReady = true)
    (on : ((s.arrive t).port p).vfEn = true) : exec (.vfEnable t p num true) s = .next (s.arrive t) := by
  refine (next_cfgGate_ready hp ready rfl _).trans ?_
  rw [if_pos (by simp [on])]

theorem State.vfsSet_spec {a : State} (h : p < a.ports.length) (off : (a.port p).vfEn = false) (num : Nat) (on : Bool) :
    let u := a.rewatchRings (if on then a.onPort p fun h => { h with vfEn := true, numVfs := num }
        else a.onPort p fun h => { h with numVfs := num }).mpCheck
    (u.port p).vfEn = on ∧ (u.port p).numVfs = num ∧ u.ops = a.ops ∧ u.cores = a.cores := by
  intro u
  have kept := a.ringsWatching_rewatched (if on then a.onPort p fun h => { h with vfEn := true, numVfs := num }
        else a.onPort p fun h => { h with numVfs := num })
  cases on
  all_goals
    rw [kept.vfEn, kept.numVfs, kept.ops, kept.cores]
    simp only [Bool.false_eq_true, if_true, if_false]
    rw [State.port_onPort_same _ _ h]
  · exact ⟨off, rfl, rfl, rfl⟩
  · exact ⟨rfl, rfl, rfl, rfl⟩

theorem State.vfsEnded_spec {a : State} (h : p < a.ports.length) :
    let u := a.rewatchRings (a.endVfs p).mpCheck
    (u.port p).vfEn = false ∧ u.ops = a.ops := by
  have kept := a.ringsWatching_rewatched (a.endVfs p)
  exact ⟨(kept.vfEn p).trans (congrArg HostPort.vfEn (State.endVfs_port h) :), kept.ops.trans (a.endVfs_same p).ops⟩

end

/-! ### Requests in error and completion timeouts (R105, R137) -/

section
variable {s : State} {t p f : Nat}

theorem exec_requestError (hp : p < 2) (on : (s.arrive t).funcOn p f = true) (k : Nat) :
    exec (.requestError t p f k) s = .next (((s.arrive t).logAer p f (aerBit k)).requestEnds p f false) :=
  congrArg Host.Outcome.next (if_neg (by simp [on, Nat.not_le.mpr hp]))

/-- A function with one more error logged and counted. -/
def State.erred (s : State) (p f i : Nat) : State := (s.logAer p f i).onFunc p f fun x => { x with errs := x.errs + 1 }

theorem State.erred_func {a : State} (h : a.HasFunc p f) (i : Nat) :
    (a.erred p f i).func p f = { a.func p f with aer := (a.func p f).aer ||| 2 ^ i, errs := (a.func p f).errs + 1 } := by
  rw [State.erred, State.logAer, State.func_onFunc_same _ (h.onFunc _), State.func_onFunc_same _ h]

/-- The third error in a row wedges the function (R137). -/
theorem State.requestEnds_erred {a : State} (h : a.HasFunc p f) (i : Nat) : (a.logAer p f i).requestEnds p f false =
    if 2 ≤ (a.func p f).errs then (a.erred p f i).wedge (a.page p f) 1 else a.erred p f i := by
  have ends : (a.logAer p f i).requestEnds p f false =
      if 3 ≤ ((a.erred p f i).func p f).errs then (a.erred p f i).wedge (a.page p f) 1 else a.erred p f i := rfl
  rw [ends, State.erred_func h]
  simp only [Nat.succ_le_succ_iff]

/-- Doorbell lines of a function that are being read. -/
def State.stuckLines (s : State) (p f : Nat) : List DbLine :=
  (s.port p).lines.filter fun l => l.reading && (s.watchedLines p).contains l.addr && s.lineFunc p l.addr = f

theorem State.mem_stuckLines {a : State} {l : DbLine} : l ∈ a.stuckLines p f ↔
    l ∈ (a.port p).lines ∧ l.reading = true ∧ l.addr ∈ a.watchedLines p ∧ a.lineFunc p l.addr = f := by
  simp [State.stuckLines, and_assoc]

/-- Lines are read again. -/
def State.readAgain (s : State) (p : Nat) (ls : List DbLine) : State := ls.foldl (fun acc l => acc.readLine p l.addr) s

theorem exec_completionTimeout (hp : p < 2) (on : (s.arrive t).funcOn p f = true) {l : DbLine}
    (h : l ∈ (s.arrive t).stuckLines p f) : exec (.completionTimeout t p f) s = .next
      (((s.arrive t).logAer p f 14).readAgain p ((s.arrive t).stuckLines p f)) := by
  have found : ((s.arrive t).stuckLines p f).isEmpty = false := List.isEmpty_eq_false_iff.mpr (List.ne_nil_of_mem h)
  exact congrArg Host.Outcome.next ((if_neg (by simp [on, Nat.not_le.mpr hp])).trans (if_neg (Bool.eq_false_iff.mp found)))

theorem State.readAgain_rewatched (v : State) (p : Nat) (ls : List DbLine) : Rewatched v (v.readAgain p ls) := by
  unfold State.readAgain
  refine .foldl (fun v l => ?_) ls v
  exact v.readLine_rewatched p l.addr

theorem State.readAgain_regs (v : State) (p : Nat) (ls : List DbLine) : (v.readAgain p ls).regs = v.regs := by
  unfold State.readAgain
  refine foldl_keeps State.regs (fun v l => ?_) ls v
  rfl

/-- Every line that is read again has its read sent. -/
theorem State.readAgain_said (v : State) (p : Nat) {ls : List DbLine} {l : DbLine} (h : l ∈ ls) :
    ∃ g, .hostRead p g (lineAddr l.addr) 64 ∈ (v.readAgain p ls).out := by
  induction ls generalizing v with
  | nil => exact absurd h List.not_mem_nil
  | cons x ls ih =>
    rcases List.mem_cons.mp h with rfl | h
    · exact ⟨_, (State.readAgain_rewatched (v.readLine p l.addr) p ls).said _ List.mem_cons_self⟩
    · exact ih (v.readLine p x.addr) h

end

/-! ### ATS (R104, R137) -/

section
variable {s : State} {t p f : Nat}

theorem exec_atsInvalidation (hp : p < 2) (on : (s.arrive t).funcOn p f = true) : exec (.atsInvalidation t p f false) s = .next
    ((s.arrive t).onPort p fun h => { h with ats := h.ats ++ [(f, t)] }) :=
  congrArg Host.Outcome.next (if_neg (by simp [on, Nat.not_le.mpr hp]))

theorem exec_atsInvalidation_done (hp : p < 2) (on : (s.arrive t).funcOn p f = true) {y : Nat × Stamp}
    (hy : y ∈ ((s.arrive t).port p).ats) (hf : y.1 = f) : exec (.atsInvalidation t p f true) s = .next
      (((s.arrive t).onPort p fun h => { h with ats := h.ats.eraseP fun y => y.1 = f }).say (.ats p f)) := by
  have asked : ((s.arrive t).port p).ats.any (·.1 = f) = true := List.any_eq_true.mpr ⟨y, hy, by simpa using hf⟩
  exact congrArg Host.Outcome.next ((if_neg (by simp [on, Nat.not_le.mpr hp])).trans (if_pos asked))

theorem exec_atsInvalidationTimeout {y : Nat × Stamp} (hy : y ∈ ((s.arrive t).port p).ats) (hf : y.1 = f)
    (ht : y.2 + 100000 + 32 ≤ t) : exec (.atsInvalidationTimeout t p f) s = .next
      (((s.arrive t).onPort p fun h => { h with ats := h.ats.filter fun y => !(y.1 = f && y.2 + 100000 + 32 ≤ t) }).wedge
        ((s.arrive t).page p f) 2) :=
  congrArg Host.Outcome.next (if_pos (List.any_eq_true.mpr ⟨y, hy, by simp [hf, ht]⟩))

end

/-! ### IDE and DOE (R127-R129) -/

section
variable {s : State} {t p i : Nat}

theorem State.ide_onIde {a : State} (h : p < a.ports.length) (g : Ide → Ide) :
    ((a.onIde p i g).port p).ide[i]? = ((a.port p).ide[i]?).map g := by
  rw [State.onIde, State.port_onPort_same _ _ h]
  simp

/-- An IDE_KM request over an established session. -/
theorem ideKm_open (hp : p < 2) (hi : i < 3) {fin : Bool} (h : fin = true) : ¬ (2 ≤ p || 3 ≤ i || !fin) = true := by
  simp [h, Nat.not_le.mpr hp, Nat.not_le.mpr hi]

theorem exec_doeDiscovery (hp : p < 2) (hi : i < (s.arrive t).doeCount p) : exec (.doeDiscovery t p i) s = .next
    ((s.arrive t).say (.doe p i (leBytes 1 (if i + 1 < (s.arrive t).doeCount p then i + 1 else 0)))) :=
  congrArg Host.Outcome.next (if_neg (by simp [Nat.not_le.mpr hp, Nat.not_le.mpr hi]))

theorem exec_cdatTableAccess (hp : p < 2) (h : (s.arrive t).fieldOf (hlLstat p) 6 2 ≠ 0) :
    exec (.cdatTableAccess t p i) s = .next ((s.arrive t).say (.doe p 4 (Config.cdat i))) :=
  congrArg Host.Outcome.next (if_neg (by simp [h, Nat.not_le.mpr hp]))

end

/-- Settles O46, request by request: each is the change of its function or port, and `Rewatched` and `HeldSent` say what the
watching and the held messages that follow it keep. -/
theorem functionsAreConfiguredAndReport : Obligations.FunctionsAreConfiguredAndReport := by
  unfold Obligations.FunctionsAreConfiguredAndReport
  intro s t p f num v k i b d3 on en mk cl a x st mask sends hp hl hf
  have has : a.HasFunc p f := ⟨hl, hf⟩
  refine ⟨fun early => ?retry, fun ready hon => ⟨?busMaster, ?other, ?msix, ?mem, ?aer⟩, fun ready hn => ?vfs, ⟨_, rfl, rfl⟩,
    fun hv hon => ?unmask, fun hon => ⟨?ats, ?atsDone, ?error, ?wedged, ?timeout⟩, ?atsTimeout, fun e he => ⟨?ideFails, ?ideKm⟩,
    fun hi => ⟨_, exec_doeDiscovery hp hi, rfl⟩, fun h => ⟨_, exec_cdatTableAccess hp h, rfl⟩⟩
  case retry =>
    have retry := next_cfgGate_retry early
    simp only [List.forall_mem_cons]
    exact ⟨⟨_, retry f _, rfl⟩, ⟨_, retry 0 _, rfl⟩, ⟨_, retry f _, rfl⟩, ⟨_, retry f _, rfl⟩,
      ⟨_, retry f _, rfl⟩, ⟨_, retry f _, rfl⟩, nofun⟩
  case busMaster => exact ⟨_, next_cfgGate_ready hp ready hon _, State.busMaster_spec has b d3⟩
  case other => exact ⟨_, next_cfgGate_ready hp ready hon _, rfl⟩
  case msix => exact ⟨_, next_cfgGate_ready hp ready hon _, State.msixControl_spec has en mk⟩
  case mem =>
    rintro rfl h
    exact ⟨_, exec_memEnable hp ready h, a.bitOf_setBit_same st 9 on (by decide), rfl,
      fun r ne => a.reg_setBit_other st r 9 on ne⟩
  case aer =>
    refine ⟨_, exec_aerClear hp ready hon, rfl, rfl, ?_⟩
    have func := State.func_onFunc_same (fun y => { y with aer := aerLeft cl x.aer }) has
    exact ⟨(congrArg Func.errs func :), (congrArg Func.pend func :)⟩
  case vfs =>
    exact ⟨fun off => ⟨_, exec_vfEnable_off hp ready hn off, State.vfsSet_spec hl off num on⟩,
      fun on => ⟨_, exec_vfEnable_end hp ready hn on, State.vfsEnded_spec hl⟩,
      fun on => ⟨_, exec_vfEnable_on hp ready on, on, rfl, rfl, rfl⟩⟩
  case unmask => exact ⟨_, exec_msixUnmask hp hv hon, State.unmask_spec has hv⟩
  case ats => exact ⟨_, exec_atsInvalidation hp hon, a.port_onPort_same _ hl⟩
  case atsDone =>
    rintro ⟨y, hy, hyf⟩
    exact ⟨_, exec_atsInvalidation_done hp hon hy hyf, a.port_onPort_same _ hl, rfl⟩
  case error =>
    intro few
    refine ⟨_, exec_requestError hp hon k, ?_⟩
    rw [State.requestEnds_erred has, if_neg (Nat.not_le.mpr few)]
    exact ⟨State.erred_func has _, rfl, rfl⟩
  case wedged => exact fun many => ⟨_, exec_requestError hp hon k, (State.requestEnds_erred has _).trans (if_pos many)⟩
  case timeout =>
    rintro ⟨l, hin, reading, watched, owned⟩
    have again := State.readAgain_rewatched (a.logAer p f 14) p (a.stuckLines p f)
    refine ⟨_, exec_completionTimeout hp hon (State.mem_stuckLines.mpr ⟨hin, reading, watched, owned⟩),
      State.readAgain_regs _ _ _, again.ops, ?_,
      fun l h1 h2 h3 h4 => State.readAgain_said _ _ (State.mem_stuckLines.mpr ⟨h1, h2, h3, h4⟩)⟩
    rw [again.func, State.logAer, State.func_onFunc_same _ has]
  case atsTimeout =>
    rintro ⟨y, hy, hyf, ht⟩
    exact ⟨_, exec_atsInvalidationTimeout hy hyf ht, rfl⟩
  case ideFails =>
    refine fun secure => ⟨_, rfl, ?_, rfl⟩
    rw [State.ide_onIde hl, he]
    simp [secure]
  case ideKm =>
    intro hi fin
    have ide (g : Ide → Ide) : ((a.onIde p i g).port p).ide[i]? = some (g e) := by rw [State.ide_onIde hl, he]; rfl
    have opened := ideKm_open hp hi fin
    have known (keyed : e.keyed = true) : ((a.port p).ide.getD i { keyed := false, secure := false, insecure := false }).keyed = true := by
      rw [List.getD_eq_getElem?_getD, he]
      exact keyed
    exact ⟨⟨_, congrArg Host.Outcome.next (if_neg opened), rfl, rfl⟩, ⟨_, congrArg Host.Outcome.next (if_neg opened), ide _⟩,
      fun keyed => ⟨_, congrArg Host.Outcome.next ((if_neg opened).trans (if_pos (known keyed))), ide _⟩,
      ⟨_, congrArg Host.Outcome.next (if_neg opened), ide _⟩⟩

end Sys2Proof.Machine
end

section
/-! PROOFS. Rings and flags (chapter 5): what a start, a stop and a refused write leave, and the states in which the setting
up of rings, completion rings and flags ends. -/

namespace Sys2Proof.Machine

/-! ### Rings and the boot beside the work -/

/-- The work, the rings and the boot are the same. -/
structure SameRings (s t : State) : Prop extends SameWork s t where
  rings : t.rings = s.rings
  boot : t.boot = s.boot

theorem SameRings.refl (s : State) : SameRings s s := ⟨.refl s, rfl, rfl⟩

theorem SameRings.trans {s t u : State} (h : SameRings s t) (g : SameRings t u) : SameRings s u :=
  ⟨h.toSameWork.trans g.toSameWork, g.rings.trans h.rings, g.boot.trans h.boot⟩

theorem SameRings.ring {s t : State} (h : SameRings s t) (pg n : Nat) : t.ring pg n = s.ring pg n :=
  State.ring_congr (congrArg _ h.rings) pg n

theorem SameRings.setReg (s : State) (r : Reg) (v : Nat) : SameRings s (s.setReg r v) := ⟨.setReg s r v, rfl, rfl⟩

theorem SameRings.setBit (s : State) (r : Reg) (i : Nat) (b : Bool) : SameRings s (s.setBit r i b) := .setReg s r _

theorem State.cfgErr_sameRings (s : State) (pg : Option Nat) (cause off port : Nat) : SameRings s (s.cfgErr pg cause off port) := by
  rw [State.cfgErr_eq, State.cfgErrAt]
  split
  · exact (SameRings.setReg s _ _).trans (.setBit _ _ _ _)
  · exact .setBit s _ _ _

/-- RG_SQn_CFG and RG_CQn_CFG lie in the register file. -/
theorem State.store_config (s : State) {r : Reg} (h : r.name = .sqCfg ∨ r.name = .cqCfg) (v : Nat) :
    ∃ w, s.store r v = s.setReg r w := by
  rcases h with e | e <;> exact ⟨_, by rw [State.store, e]⟩

theorem State.releaseInfo_config (s : State) {r : Reg} (h : r.name = .sqCfg ∨ r.name = .cqCfg) : s.releaseInfo r = s := by
  rcases h with e | e <;> rw [State.releaseInfo, e]

/-- A write of a ring's configuration, taken or refused, leaves what the ring had fetched. -/
theorem State.applyWrite_sameRings (s : State) {r : Reg} (h : r.name = .sqCfg ∨ r.name = .cqCfg) (port : Nat) (vf : Option Nat)
    (off v : Nat) : SameRings s (s.applyWrite port vf off r v) := by
  have stored (w : Nat) : SameRings s ((s.store r w).releaseInfo r) := by
    obtain ⟨x, hx⟩ := s.store_config h w
    rw [hx, State.releaseInfo_config _ h]
    exact .setReg s r x
  unfold State.applyWrite
  split
  · exact s.cfgErr_sameRings ..
  · extract_lets j u
    have written : SameRings s u := stored j.1
    split
    · exact written.trans (State.cfgErr_sameRings ..)
    · exact written

/-! ### Refused writes (R640, R644) -/

/-- A write refused in part: busy shows where a held field would have changed. -/
def State.busyIf (s : State) (c : Bool) (r : Reg) (port : Nat) (vf : Option Nat) (off : Nat) : State :=
  if c then s.busy r port vf off else s

/-- BUSY shows in the page's error register. -/
theorem State.bitOf_busy (s : State) {r : Reg} (h : r.name.inPage = true) (port : Nat) (vf : Option Nat) (off : Nat) :
    (s.busy r port vf off).bitOf { name := .pgErr, dev := r.dev } errBUSY = true := by
  rw [State.busy, show r.page = some r.dev from if_pos h]
  exact s.bitOf_cfgErr (some r.dev) _ _ (by decide)

theorem State.busy_sameRings (s : State) (r : Reg) (port : Nat) (vf : Option Nat) (off : Nat) : SameRings s (s.busy r port vf off) :=
  s.cfgErr_sameRings ..

theorem State.reg_busy (s : State) {r : Reg} (h : r.name ∉ errNames) (port : Nat) (vf : Option Nat) (off : Nat) :
    (s.busy r port vf off).reg r = s.reg r := s.reg_cfgErr _ _ _ _ h

theorem State.busyIf_sameRings (s : State) (c : Bool) (r : Reg) (port : Nat) (vf : Option Nat) (off : Nat) :
    SameRings s (s.busyIf c r port vf off) := by
  cases c
  · exact .refl s
  · exact s.busy_sameRings ..

theorem State.bitOf_busyIf (s : State) (c : Bool) {r : Reg} (h : r.name ∉ errNames) (port : Nat) (vf : Option Nat) (off i : Nat) :
    (s.busyIf c r port vf off).bitOf r i = s.bitOf r i := by
  cases c
  · rfl
  · exact congrArg (bit · i) (s.reg_busy h port vf off)

/-! ### Starting and stopping a ring (R144, R182) -/

/-- A ring as it starts: with what it had fetched, and no more to recover once the boot is done. -/
def Ring.started (r : Ring) (done : Bool) : Ring :=
  { r with produce := r.fetched, lastDb := none, pending := false, missed := 0, recover := r.recover && !done }

/-- A ring as it stops: nothing announced stays to be fetched. -/
def Ring.stopped (r : Ring) : Ring := { r with produce := r.fetched, pending := false }

theorem State.putRing_rewatched (s : State) (r : Ring) : Rewatched s (s.putRing r) :=
  ⟨s.putRing_same r, fun _ _ => rfl, fun _ _ _ _ => rfl, fun _ h => h⟩

theorem State.startRing_rewatched (s : State) (pg n : Nat) : Rewatched s (s.startRing pg n) := by
  unfold State.startRing
  dsimp only
  split
  · exact (s.putRing_rewatched _).trans (State.readLine_rewatched ..)
  · exact s.putRing_rewatched _

theorem State.stopRing_rewatched (s : State) (pg n : Nat) : Rewatched s (s.stopRing pg n) :=
  (s.putRing_rewatched _).trans (State.pruneLines_rewatched ..)

theorem State.readLine_rings (s : State) (p addr : Nat) : (s.readLine p addr).rings = s.rings := rfl

theorem State.stretch_rings (s : State) (p : Nat) : (s.stretch p).rings = s.rings := rfl

theorem State.pruneLines_rings (s : State) (p : Nat) : (s.pruneLines p).rings = s.rings := rfl

theorem State.ring_startRing (s : State) (pg n : Nat) : (s.startRing pg n).ring pg n = (s.ring pg n).started s.boot.done := by
  have put := s.ring_put ((s.ring pg n).started s.boot.done) pg n (s.ring_page pg n) (s.ring_n pg n)
  unfold State.startRing
  dsimp only
  split
  · exact (State.ring_congr (congrArg _ (State.readLine_rings ..)) pg n).trans put
  · exact put

theorem State.ring_stopRing (s : State) (pg n : Nat) : (s.stopRing pg n).ring pg n = (s.ring pg n).stopped :=
  (State.ring_congr (congrArg _ (State.pruneLines_rings ..)) pg n).trans
    (s.ring_put (s.ring pg n).stopped pg n (s.ring_page pg n) (s.ring_n pg n))

/-- Both ports poll at the pace their lines now need (R112). -/
def State.repaced (s : State) : State := (s.stretch 0).stretch 1

theorem State.repaced_rewatched (s : State) : Rewatched s s.repaced :=
  (s.stretch_rewatched 0).trans (State.stretch_rewatched _ 1)

theorem State.ring_repaced (s : State) (pg n : Nat) : s.repaced.ring pg n = s.ring pg n :=
  State.ring_congr (congrArg _ ((State.stretch_rings _ 1).trans (s.stretch_rings 0))) pg n

theorem Rewatched.bitOf_other {s t : State} (h : Rewatched s t) {r : Reg} (hr : r.name ≠ .hlLstat) (i : Nat) :
    t.bitOf r i = s.bitOf r i :=
  congrArg (bit · i) (h.regs r hr)

/-! ### The commands -/

section
variable {s : State} {t port off : Nat} {vf : Option Nat} {be : BitVec 4} {v : Word} {r : Reg}

/-- A ring whose completion ring is off is not enabled (R144). -/
theorem exec_ringEnable_refused (hw : (s.arrive t).wrFront port vf off be = (s.arrive t, some r)) (hr : r.name = .sqCfg)
    (hv : bit v.toNat 31 = true) (off31 : (s.arrive t).bitOf r 31 = false)
    (hc : (s.arrive t).cqEnabled r.dev (bitf v.toNat 8 6) = false) :
    exec (.ringEnable t port vf off be v) s = .next ((s.arrive t).busy r port vf off) := by
  change execRingEnable t port vf off be v s = _
  simp [execRingEnable, hw, hr, hv, off31, hc]

theorem exec_ringEnable (hw : (s.arrive t).wrFront port vf off be = (s.arrive t, some r)) (hr : r.name = .sqCfg)
    (hv : bit v.toNat 31 = true) (off31 : (s.arrive t).bitOf r 31 = false)
    (hc : (s.arrive t).cqEnabled r.dev (bitf v.toNat 8 6) = true)
    (taken : ((s.arrive t).applyWrite port vf off r v.toNat).bitOf r 31 = true) :
    exec (.ringEnable t port vf off be v) s
      = .next (((s.arrive t).applyWrite port vf off r v.toNat).startRing r.dev r.n).repaced := by
  change execRingEnable t port vf off be v s = _
  simp [execRingEnable, hw, hr, hv, off31, hc, taken, State.repaced]

theorem exec_ringDisable (hw : (s.arrive t).wrFront port vf off be = (s.arrive t, some r)) (hr : r.name = .sqCfg)
    (hv : bit v.toNat 31 = false) (on31 : (s.arrive t).bitOf r 31 = true) :
    exec (.ringDisable t port vf off be v) s
      = .next ((((s.arrive t).setBit r 31 false).stopRing r.dev r.n).repaced.busyIf
          ((s.arrive t).othersDiffer r v.toNat) r port vf off) := by
  change execRingDisable t port vf off be v s = _
  simp [execRingDisable, hw, hr, hv, on31, State.repaced, State.busyIf]

theorem exec_cqEnable (hw : (s.arrive t).wrFront port vf off be = (s.arrive t, some r)) (hr : r.name = .cqCfg)
    (hv : bit v.toNat 31 = true) (off31 : (s.arrive t).bitOf r 31 = false)
    (taken : ((s.arrive t).applyWrite port vf off r v.toNat).bitOf r 31 = true) :
    exec (.cqEnable t port vf off be v) s
      = .next (((s.arrive t).applyWrite port vf off r v.toNat).putCring { page := r.dev, n := r.n, tail := 0, head := 0, pend := [] }) := by
  change execCqEnable t port vf off be v s = _
  simp [execCqEnable, hw, hr, hv, off31, taken]

/-- Whether an enabled or active submission ring of the page names the completion ring (R182). -/
def State.cqUsed (s : State) (pg cq : Nat) : Bool := (List.range 64).any fun n => s.sqActive pg n && s.cqOf pg n = cq

theorem exec_cqDisable (hw : (s.arrive t).wrFront port vf off be = (s.arrive t, some r)) (hr : r.name = .cqCfg)
    (hv : bit v.toNat 31 = false) (on31 : (s.arrive t).bitOf r 31 = true) :
    exec (.cqDisable t port vf off be v) s = .next (if (s.arrive t).cqUsed r.dev r.n then (s.arrive t).busy r port vf off
      else ((s.arrive t).setBit r 31 false).busyIf ((s.arrive t).othersDiffer r v.toNat) r port vf off) := by
  change execCqDisable t port vf off be v s = _
  simp [execCqDisable, hw, hr, hv, on31, State.cqUsed, State.busyIf]

theorem exec_flagCfgWrite (hw : (s.stamped t).wrFront port vf off be = (s.stamped t, some r)) (hr : r.name = .rgFlagCfg) :
    exec (.flagCfgWrite t port vf off be v) s = .next ((s.stamped t).setFlag r.dev ((s.stamped t).flagSel r.dev)
      { (s.stamped t).flag r.dev ((s.stamped t).flagSel r.dev) with level := bitf v.toNat 0 8, valid := bit v.toNat 8 }) := by
  change execFlagCfgWrite t port vf off be v s = _
  simp [execFlagCfgWrite, hw, hr]

/-- A flag's value with one half of RG_FLAG_VAL written (R169). -/
def Flag.withHalf (f : Flag) (hi : Bool) (v : Nat) : Flag :=
  { f with value := if hi then f.value % 2 ^ 32 + bitf v 0 16 * 2 ^ 32 else f.value / 2 ^ 32 * 2 ^ 32 + v }

theorem exec_flagValWrite (hw : (s.stamped t).wrFront port vf off be = (s.stamped t, some r)) (hr : r.name = .rgFlagVal) :
    exec (.flagValWrite t port vf off be v) s = .next (
      if ((s.stamped t).flag r.dev ((s.stamped t).flagSel r.dev)).valid then (s.stamped t).busy r port vf off
      else (s.stamped t).setFlag r.dev ((s.stamped t).flagSel r.dev)
        (((s.stamped t).flag r.dev ((s.stamped t).flagSel r.dev)).withHalf r.hi v.toNat)) := by
  change execFlagValWrite t port vf off be v s = _
  simp [execFlagValWrite, hw, hr, Flag.withHalf]

end

/-- Settles O34, command by command: `SameRings` carries the work and the rings over the write of the configuration register,
`Rewatched` over the change of watching that follows it. -/
theorem ringsAndFlagsAreSetUp : Obligations.RingsAndFlagsAreSetUp := by
  unfold Obligations.RingsAndFlagsAreSetUp
  intro s t port off vf be v r a b kept busy
  refine ⟨fun hw hr hv off31 => ⟨fun hc => ?cqOff, fun hc taken => ?enable⟩, fun hw hr hv on31 => ?disable,
    fun hw hr hv off31 taken => ?cqEnable, fun hw hr hv on31 => ⟨fun hu => ?cqUsed, fun hu => ?cqDisable⟩,
    fun hw hr => ⟨_, exec_flagCfgWrite hw hr, rfl⟩, fun hw hr => ⟨fun hf => ?flagHeld, fun hf => ?flagVal⟩⟩
  case cqOff =>
    exact ⟨_, exec_ringEnable_refused hw hr hv off31 hc, a.bitOf_busy (by rw [hr]; rfl) .., (a.busy_sameRings ..).all,
      a.reg_busy (by rw [hr]; decide) ..⟩
  case enable =>
    have written := a.applyWrite_sameRings (.inl hr) port vf off v.toNat
    have started := (State.startRing_rewatched (a.applyWrite port vf off r v.toNat) r.dev r.n).trans (State.repaced_rewatched _)
    refine ⟨_, exec_ringEnable hw hr hv off31 hc taken, (started.bitOf_other (by rw [hr]; decide) 31).trans taken,
      (written.toSameWork.trans started.toSameWork).all, ?_⟩
    rw [State.ring_repaced, State.ring_startRing, written.ring, written.boot]
    rfl
  case disable =>
    have cleared := SameRings.setBit a r 31 false
    have stopped := (State.stopRing_rewatched (a.setBit r 31 false) r.dev r.n).trans (State.repaced_rewatched _)
    have judged := State.busyIf_sameRings ((a.setBit r 31 false).stopRing r.dev r.n).repaced (a.othersDiffer r v.toNat) r port vf off
    refine ⟨_, exec_ringDisable hw hr hv on31, ?_, ((cleared.toSameWork.trans stopped.toSameWork).trans judged.toSameWork).all, ?_,
      fun hd => ?_⟩
    · rw [State.bitOf_busyIf _ _ (by rw [hr]; decide), stopped.bitOf_other (by rw [hr]; decide)]
      exact a.bitOf_setBit_same r 31 false (by decide)
    · rw [judged.ring, State.ring_repaced, State.ring_stopRing, cleared.ring]
      rfl
    · rw [hd]
      exact State.bitOf_busy _ (by rw [hr]; rfl) ..
  case cqEnable =>
    exact ⟨_, exec_cqEnable hw hr hv off31 taken, taken, State.cring_put _ _ _ _ rfl rfl,
      (a.applyWrite_sameRings (.inr hr) port vf off v.toNat).all⟩
  case cqUsed =>
    refine ⟨_, (exec_cqDisable hw hr hv on31).trans (congrArg Host.Outcome.next (if_pos hu)), a.bitOf_busy (by rw [hr]; rfl) .., ?_,
      (a.busy_sameRings ..).all⟩
    exact (congrArg (bit · 31) (a.reg_busy (by rw [hr]; decide) ..)).trans on31
  case cqDisable =>
    refine ⟨_, (exec_cqDisable hw hr hv on31).trans (congrArg Host.Outcome.next (if_neg (Bool.eq_false_iff.mp hu))), ?_,
      ((SameRings.setBit a r 31 false).trans (State.busyIf_sameRings ..)).all, fun hd => ?_⟩
    · rw [State.bitOf_busyIf _ _ (by rw [hr]; decide)]
      exact a.bitOf_setBit_same r 31 false (by decide)
    · rw [hd]
      exact State.bitOf_busy _ (by rw [hr]; rfl) ..
  case flagHeld =>
    have same := b.busy_sameRings r port vf off
    exact ⟨_, (exec_flagValWrite hw hr).trans (congrArg Host.Outcome.next (if_pos hf)), b.bitOf_busy (by rw [hr]; rfl) ..,
      same.mem, same.ops⟩
  case flagVal =>
    exact ⟨_, (exec_flagValWrite hw hr).trans (congrArg Host.Outcome.next (if_neg (Bool.eq_false_iff.mp hf))), rfl⟩

end Sys2Proof.Machine
end

section
/-! PROOFS. Built-in operations (chapters 8 to 10): what an operation's writes leave, which items a command marks done, and
the outcomes of the command. -/

namespace Sys2Proof.Machine

/-! ### What the writes of an operation leave -/

/-- Only memory, the records of operations and what left the package differ. -/
def OnlyWrites (s t : State) : Prop := t = { s with mem := t.mem, ops := t.ops, out := t.out }

theorem OnlyWrites.refl (s : State) : OnlyWrites s s := rfl

theorem OnlyWrites.trans {s t u : State} (h : OnlyWrites s t) (g : OnlyWrites t u) : OnlyWrites s u := by
  rw [OnlyWrites] at h g ⊢
  rw [g, h]

theorem OnlyWrites.cores {s t : State} (h : OnlyWrites s t) : t.cores = s.cores := by rw [h]

theorem OnlyWrites.ite {s t u : State} {c : Prop} [Decidable c] (ht : OnlyWrites s t) (hu : OnlyWrites s u) :
    OnlyWrites s (if c then t else u) := by
  split
  · exact ht
  · exact hu

theorem OnlyWrites.foldl {α : Type} {f : State → α → State} (h : ∀ s x, OnlyWrites s (f s x)) (l : List α) (s : State) :
    OnlyWrites s (l.foldl f s) :=
  List.foldlRecOn l f (.refl s) fun u hu x _ => hu.trans (h u x)

theorem OnlyWrites.onOp (s : State) (asn : Nat) (f : OpRec → OpRec) : OnlyWrites s (s.onOp asn f) := rfl

theorem OnlyOut.onlyWrites {s t : State} (h : OnlyOut s t) : OnlyWrites s t := by
  rw [h]
  rfl

theorem State.writeRange_onlyWrites {s t : State} {m : Bool} {a : Nat} {bs : List Byte} (h : s.writeRange m a bs = some t) :
    OnlyWrites s t := by
  have served (u : State) (dead : Bool) (b : Nat) : OnlyWrites u (if dead then u else u.devWrite b bs) := .ite (.refl u) rfl
  unfold State.writeRange at h
  split at h
  case isTrue =>
    cases h
    exact (served s _ a).trans (served _ _ _)
  case isFalse =>
    split at h
    · cases h
    · cases h
      rfl

theorem State.sysWrite_onlyWrites (s : State) (off n v : Nat) : OnlyWrites s (s.sysWrite off n v) := by
  unfold State.sysWrite
  cases h : s.writeRange true (s.sysBase + off) (leBytes n v) with
  | none => exact .refl s
  | some t => exact State.writeRange_onlyWrites h

theorem State.setPageEntry_onlyWrites (s : State) (i : Nat) (e : PageEntry) : OnlyWrites s (s.setPageEntry i e) :=
  (s.sysWrite_onlyWrites ..).trans (State.sysWrite_onlyWrites ..)

theorem State.forkPage_onlyWrites {s t : State} {owner page : Nat} {p : Place} {whole : Bool}
    (h : s.forkPage owner p page whole = some t) : OnlyWrites s t := by
  obtain ⟨u, hu, rfl⟩ := Option.map_eq_some_iff.mp h
  have copied : OnlyWrites s u := by
    split at hu
    · cases hu
      exact .refl s
    · split at hu
      · cases hu
      · exact State.writeRange_onlyWrites hu
  exact copied.trans (u.setPageEntry_onlyWrites ..)

theorem State.opWritePage_onlyWrites {s t : State} {o : OpRec} {p : Place} {off : Nat} {bs : List Byte}
    (h : s.opWritePage o p off bs = .ok t) : OnlyWrites s t := by
  unfold State.opWritePage at h
  dsimp only at h
  split at h
  case isTrue =>
    split at h
    · next hw =>
      cases h
      exact State.writeRange_onlyWrites hw
    · cases h
  case isFalse =>
    split at h
    · cases h
    · split at h
      · cases h
      · next u hu =>
        have forked : OnlyWrites s u := by
          split at hu
          · cases hu
            exact .refl s
          · exact State.forkPage_onlyWrites hu
        split at h
        · next v hv =>
          cases h
          obtain ⟨w, hw, rfl⟩ := Option.map_eq_some_iff.mp hv
          exact (forked.trans (State.writeRange_onlyWrites hw)).trans (.onOp ..)
        · cases h

theorem State.opWriteFrom_onlyWrites {s t : State} {o : OpRec} {p : Place} {fuel off : Nat} {bs : List Byte}
    (h : s.opWriteFrom o p fuel off bs = .ok t) : OnlyWrites s t := by
  induction fuel generalizing s off bs with
  | zero =>
    cases h
    exact .refl _
  | succ fuel ih =>
    rw [State.opWriteFrom] at h
    split at h
    · cases h
      exact .refl _
    · dsimp only at h
      split at h
      · next hu => exact (State.opWritePage_onlyWrites hu).trans (ih h)
      · cases h
      · cases h

theorem State.accumLine_onlyWrites (s : State) (asn : Nat) (r : Region) (b line : List Byte) :
    OnlyWrites s (s.accumLine asn r b line) :=
  .ite (.refl s) (.onOp ..)

theorem State.opWrite_onlyWrites {s t : State} {o : OpRec} {r : Region} {off : Nat} {bs : List Byte}
    (h : s.opWrite o r off bs = .ok t) : OnlyWrites s t := by
  unfold State.opWrite at h
  split at h
  · cases h
    exact .foldl (fun v l => v.accumLine_onlyWrites ..) _ s
  · split at h
    · cases h
    · split at h
      · split at h
        · next hu =>
          cases h
          exact (State.opWriteFrom_onlyWrites hu).trans (.onOp ..)
        · next hx => exact (hx _ h).elim
      · exact State.opWriteFrom_onlyWrites h

theorem State.remoteLine_onlyOut (s : State) (o : OpRec) (r : Region) (lock off : Nat) (line : List Byte) :
    OnlyOut s (s.remoteLine o r lock off line) := by
  unfold State.remoteLine
  dsimp only
  split <;> exact .say s _

theorem State.remoteWrite_onlyWrites (s : State) (o : OpRec) (r : Region) (lock off : Nat) (bs : List Byte) :
    OnlyWrites s (s.remoteWrite o r lock off bs).1 := by
  have sent := OnlyOut.foldl (fun v (l : List Byte × Nat) => v.remoteLine_onlyOut o r lock (r.base + off + 64 * l.2) l.1)
    (chunks 64 bs.length bs).zipIdx s
  exact .ite (sent.onlyWrites.trans (.onOp ..)) sent.onlyWrites

theorem State.writePieces_onlyWrites {s t : State} {o : OpRec} {r : Region} {ps : List (Nat × List Byte)}
    (h : s.writePieces o r ps = .ok t) : OnlyWrites s t := by
  induction ps generalizing s with
  | nil =>
    cases h
    exact .refl _
  | cons p ps ih =>
    rw [State.writePieces] at h
    split at h
    · exact ((s.remoteWrite_onlyWrites ..).trans (.onOp ..)).trans (ih h)
    · split at h
      · next hu => exact (State.opWrite_onlyWrites hu).trans (ih h)
      · next hx => exact (hx _ h).elim

theorem State.writeItems_onlyWrites {s t : State} {o : OpRec} {ctx : OpCtx} {ws : List (Nat × List (Nat × List Byte))}
    (h : s.writeItems o ctx ws = .ok t) : OnlyWrites s t := by
  induction ws generalizing s with
  | nil =>
    cases h
    exact .refl _
  | cons w ws ih =>
    rw [State.writeItems] at h
    split at h
    · cases h
    · split at h
      · next hu => exact (State.writePieces_onlyWrites hu).trans (ih h)
      · next hx => exact (hx _ h).elim

/-! ### Items marked done -/

/-- Every split of the list that an operation holds on the core is done. -/
def Core.HasDone (k : Core) (asn : Nat) (l : List Item) : Prop :=
  ∀ h ∈ k.segs, h.ctx.asn = asn → ∀ i ∈ h.items, (∃ j ∈ l, i.num = j.num ∧ i.split = j.split) → i.done = true

theorem Core.hasDone_nil (k : Core) (asn : Nat) : k.HasDone asn [] := fun _ _ _ _ _ ⟨_, hj, _⟩ => (List.not_mem_nil hj).elim

/-- Marking a split keeps what is done and adds that split. -/
theorem Core.HasDone.splitDone {k : Core} {asn : Nat} {l : List Item} (h : k.HasDone asn l) (x : Item) :
    (k.splitDone asn x.num x.split).HasDone asn (l ++ [x]) := by
  intro g' hg' ha i' hi' ⟨j, hj, same⟩
  obtain ⟨g, hg, rfl⟩ := List.mem_map.mp hg'
  have owner : g.ctx.asn = asn := by
    split at ha
    · assumption
    · exact ha
  rw [if_pos owner] at hi'
  obtain ⟨i, hi, rfl⟩ := List.mem_map.mp hi'
  by_cases marked : i.num = x.num ∧ i.split = x.split
  · rw [if_pos marked]
  · rw [if_neg marked] at same ⊢
    rcases List.mem_append.mp hj with hj | hj
    · exact h g hg owner i hi ⟨j, hj, same⟩
    · exact (marked (List.mem_singleton.mp hj ▸ same)).elim

theorem Core.HasDone.foldl_splitDone {k : Core} {asn : Nat} {l : List Item} (h : k.HasDone asn l) (items : List Item) :
    (items.foldl (fun k i => k.splitDone asn i.num i.split) k).HasDone asn (l ++ items) := by
  induction items generalizing k l with
  | nil => rwa [List.append_nil]
  | cons x items ih =>
    have := ih (h.splitDone x)
    rwa [List.append_assoc] at this

/-- Marking splits ends no operation. -/
theorem Core.foldl_splitDone_endings (k : Core) (asn : Nat) (items : List Item) :
    (items.foldl (fun k i => k.splitDone asn i.num i.split) k).endings = k.endings :=
  List.foldlRecOn (motive := fun x : Core => x.endings = k.endings) items _ rfl fun _ h _ _ => h

/-- What an ending adds depends on the endings recorded before it. -/
theorem Core.recordEnd_congr {k x : Core} (h : x.endings = k.endings) (asn status info : Nat) :
    x.recordEnd asn status info = k.recordEnd asn status info := by
  rw [Core.recordEnd, Core.recordEnd, h]

section
variable (s : State) (c asn : Nat) (items : List Item) (out : ItemOut)

@[simp] theorem State.itemsDone_length : (s.itemsDone c asn items out).cores.length = s.cores.length := List.length_modify ..

theorem State.core_itemsDone_other {d : Nat} (hd : d ≠ c) : (s.itemsDone c asn items out).core d = s.core d :=
  s.core_onCore_other _ hd

theorem State.op_itemsDone : ((s.itemsDone c asn items out).op? asn).map (·.units) = (s.op? asn).map (·.units + out.work) := by
  rw [State.itemsDone, State.op_onOp_same]
  · exact Option.map_map ..
  · exact fun _ => rfl

variable {s c asn} (hc : c < s.cores.length)
include hc

theorem State.core_itemsDone_same : (s.itemsDone c asn items out).core c =
    { items.foldl (fun k i => k.splitDone asn i.num i.split) (s.core c) with notes := (s.core c).note asn out.info } :=
  s.core_onCore_same _ hc

theorem State.itemsDone_endings : ((s.itemsDone c asn items out).core c).endings = (s.core c).endings := by
  rw [State.core_itemsDone_same items out hc]
  exact Core.foldl_splitDone_endings ..

theorem State.itemsDone_hasDone {l : List Item} (h : (s.core c).HasDone asn l) :
    ((s.itemsDone c asn items out).core c).HasDone asn (l ++ items) := by
  rw [State.core_itemsDone_same items out hc]
  exact h.foldl_splitDone items

end

/-! ### The items of a segment (R281) -/

/-- Split items still to run whose partial another core receives. -/
def Seg.sends (g : Seg) : List Item := g.todo.filter fun i => i.split + 1 < i.splits

/-- Items still to run that are computed here. -/
def Seg.computes (g : Seg) : List Item := g.todo.filter fun i => !(i.split + 1 < i.splits)

/-- The partials of a segment's split items are sent. -/
def State.sendItems (a : State) (core asn : Nat) (g : Seg) : State :=
  (a.itemsDone core asn g.sends {}).sayAll (g.sends.map fun i => .chain core asn i.num 0 0)

/-- Every other split of the items computed here is done. -/
def State.splitsIn (b : State) (core asn : Nat) (g : Seg) : Bool :=
  g.computes.all fun i => i.splits ≤ 1 || b.splitsDone core asn i

/-- A segment of a built-in operation that its core may run. -/
structure State.RunsSeg (a : State) (op : Op) (asn core : Nat) (g : Seg) (o : OpRec) : Prop where
  present : core < a.cores.length
  seg : (a.core core).segOf asn = some g
  record : a.op? asn = some o
  unfinished : g.finished = false
  started : g.started = true
  code : g.ctx.desc.op = some op
  noGuard : (a.core core).guard = false

/-- How a command ends on the outcome of its items: their bytes are written, or it waits, or the operation ends. -/
def State.concludeItems (b : State) (asn core : Nat) (g : Seg) (o : OpRec) : Get (List ItemOut) → State
  | .error .wait => b
  | .error .lost => b.onCore core fun k => k.endOp asn 0x13 0
  | .error (.fault c) => b.onCore core fun k => k.endOp asn 0x23 c
  | .ok outs =>
    match b.writeItems o g.ctx (ItemOut.join outs).writes with
    | .wait => b
    | .lost => b.onCore core fun k => k.endOp asn 0x13 0
    | .ok w => { w.itemsDone core asn g.computes (ItemOut.join outs) with free := w.free + 2 ^ 32 }

section
variable {a : State} {op : Op} {asn core : Nat} {g : Seg} {o : OpRec} (h : a.RunsSeg op asn core g o)
include h

/-- A command that may run sends first, and computes once the other splits are done. -/
theorem State.RunsSeg.runItems_eq (remote : List (List Byte)) (f : Job → Nat → Get ItemOut) :
    let b := a.sendItems core asn g
    a.runItems op asn core remote f = if !b.splitsIn core asn g then b else b.concludeItems asn core g o
      (g.computes.mapM fun i => Job.bounded f { s := b, o := o, ctx := g.ctx, remote := remote } i.num) := by
  rw [State.runItems, h.seg, h.record]
  dsimp only
  rw [if_neg (by simp [h.unfinished, h.started, h.code, h.noGuard])]
  rfl

theorem State.RunsSeg.sendItems_present : core < (a.sendItems core asn g).cores.length := by
  rw [State.sendItems, State.sayAll_cores, State.itemsDone_length]
  exact h.present

theorem State.RunsSeg.sendItems_hasDone : ((a.sendItems core asn g).core core).HasDone asn g.sends :=
  State.itemsDone_hasDone g.sends {} h.present (Core.hasDone_nil _ _)

/-- An operation that ends after its partials were sent ends as it would have before. -/
theorem State.RunsSeg.endings_endOp (status info : Nat) :
    (((a.sendItems core asn g).onCore core fun k => k.endOp asn status info).core core).endings
      = (a.core core).recordEnd asn status info := by
  rw [State.core_onCore_same _ _ h.sendItems_present]
  exact Core.recordEnd_congr (State.itemsDone_endings g.sends {} h.present) ..

/-- Once its bytes are written, every item of the segment is done here, no other core changed and the work is counted. -/
theorem State.RunsSeg.itemsDone_written {ws : List (Nat × List (Nat × List Byte))} {w : State}
    (hw : (a.sendItems core asn g).writeItems o g.ctx ws = .ok w) (out : ItemOut) :
    let u := w.itemsDone core asn g.computes out
    (u.core core).HasDone asn (g.sends ++ g.computes) ∧ ∀ d, d ≠ core → u.core d = a.core d := by
  have kept := (State.writeItems_onlyWrites hw).cores
  refine ⟨State.itemsDone_hasDone _ _ (kept ▸ h.sendItems_present) ?_, fun d hd => ?_⟩
  · rw [State.core_congr kept]
    exact h.sendItems_hasDone
  · rw [State.core_itemsDone_other _ _ _ _ _ hd, State.core_congr kept]
    exact a.core_itemsDone_other core asn g.sends {} hd

end

/-- Settles O24. Each of the ten commands is `State.runItems` of its own job (the `rfl` of `arm`), and its outcomes are the
branches of `State.concludeItems`. -/
theorem builtinOperationsRunTheirItems : Obligations.BuiltinOperationsRunTheirItems := by
  unfold Obligations.BuiltinOperationsRunTheirItems
  intro s t asn core remote g o x hx a k send recv b done run hc hseg hop hfin hstart hcode hguard
  have runs : a.RunsSeg x.2.1 asn core g o := ⟨hc, hseg, hop, hfin, hstart, hcode, hguard⟩
  have arm : exec (x.1 t asn core remote) s = .next (a.runItems x.2.1 asn core remote x.2.2) := by
    simp only [List.mem_cons, List.not_mem_nil, or_false] at hx
    rcases hx with rfl | rfl | rfl | rfl | rfl | rfl | rfl | rfl | rfl | rfl <;> rfl
  rw [runs.runItems_eq remote x.2.2] at arm
  refine ⟨fun hwait => ⟨_, arm.trans (congrArg Host.Outcome.next (if_pos (congrArg not hwait))),
    runs.sendItems_hasDone, rfl, rfl⟩, fun hin => ?_⟩
  have arm : exec (x.1 t asn core remote) s = .next (b.concludeItems asn core g o run) :=
    arm.trans (congrArg Host.Outcome.next (if_neg (Bool.eq_false_iff.mp (congrArg not hin))))
  refine ⟨fun hrun => ?wait, fun e hrun he => ?halt, fun outs w hrun hw => ?written⟩ <;> rw [hrun] at arm
  case wait => exact ⟨_, arm, runs.sendItems_hasDone, rfl, rfl⟩
  case halt =>
    cases e with
    | wait => exact (he rfl).elim
    | lost => exact ⟨_, arm, runs.endings_endOp 0x13 0, rfl, rfl⟩
    | fault n => exact ⟨_, arm, runs.endings_endOp 0x23 n, rfl, rfl⟩
  case written =>
    rw [State.concludeItems, hw] at arm
    obtain ⟨marked, others⟩ := runs.itemsDone_written hw (ItemOut.join outs)
    refine ⟨_, arm, marked, rfl, rfl, others, fun y hy => ?_⟩
    exact (w.op_itemsDone core asn g.computes _).trans (congrArg (Option.map _) hy)

end Sys2Proof.Machine
end

section
/-! PROOFS. Trips, hot dies and error reports (chapters 7, 16, 17 and 18): a stack and a retired compute die declared
failed, THERM_ALERT_N, counted checksum reports and the owner of a core store line in error. -/

namespace Sys2Proof.Machine

/-! ### What declaring a part failed leaves (R516-R518) -/

/-- Duty, cores and the counts and notes of failures are the same. -/
structure SameStanding (s t : State) : Prop extends SameDuty s t where
  cores : t.cores = s.cores
  flt : t.flt = s.flt

theorem SameStanding.trans {s t u : State} (h : SameStanding s t) (g : SameStanding t u) : SameStanding s u :=
  ⟨h.toSameDuty.trans g.toSameDuty, g.cores.trans h.cores, g.flt.trans h.flt⟩

theorem SameBut.sameStanding {s t : State} (h : SameBut s t) : SameStanding s t := ⟨h.sameDuty, h.cores, h.flt⟩

theorem OnlyOut.sameStanding {s t : State} (h : OnlyOut s t) : SameStanding s t := by
  rw [h]
  exact ⟨⟨rfl, rfl, rfl, rfl, rfl, fun _ _ => rfl⟩, rfl, rfl⟩

theorem State.onSlice_standing (s : State) (h : Nat) (f : L2Slice → L2Slice) : SameStanding s (s.onSlice h f) :=
  ⟨⟨rfl, rfl, rfl, rfl, rfl, fun _ _ => rfl⟩, rfl, rfl⟩

theorem State.countFailure_flt (s : State) (kind index : Nat) :
    (s.countFailure kind index).flt = { s.flt with count := s.flt.count + 1 } := by
  unfold State.countFailure
  dsimp only
  split
  · rfl
  · rw [(State.event_same _ _).flt, State.setBit_flt]

theorem State.countFailure_cores (s : State) (kind index : Nat) : (s.countFailure kind index).cores = s.cores := by
  unfold State.countFailure
  dsimp only
  split
  · rfl
  · rw [(State.event_same _ _).cores, State.setBit_cores]

/-! ### Stacks (R501, R517, R528) -/

theorem State.windowsLost_onlyOut (s : State) (h : Nat) : OnlyOut s (s.windowsLost h) := by
  refine OnlyOut.foldl (fun v w => ?_) _ s
  split
  · extract_lets size
    split
    · exact .sayAll v _
    · exact .refl v
  · exact .refl v

/-- A stack declared failed on its own: its bit is set, its die withholds and the failure is counted. -/
theorem State.declareStackAs_eq {s : State} {h reason : Nat} (detail : Nat) (hh : h < 9) (alive : s.stackDead h = false)
    (own : reason ≠ 3) : ∃ v, SameStanding (s.setBit rFtFailed (9 + h) true) v
      ∧ s.declareStackAs h reason detail = (v.withhold h).countFailure 3 h := by
  unfold State.declareStackAs
  rw [if_neg (by simp [alive, hh])]
  dsimp only
  rw [if_neg own]
  exact ⟨_, ((State.event_same _ _).sameStanding.trans (State.onSlice_standing _ _ _)).trans
    (State.windowsLost_onlyOut _ _).sameStanding, rfl⟩

/-- What a failed stack shows, from the state it failed in. -/
def State.StackLost (a : State) (h : Nat) (u : State) : Prop :=
  u.stackDead h = true ∧ u.flt.count = a.flt.count + 1 ∧ (u.die h).withhold = true ∧ u.cores = a.cores ∧ u.ops = a.ops

theorem State.tripStack_lost {a : State} {h : Nat} (hh : h < 9) (alive : a.stackDead h = false)
    (present : h < a.frames.dies.length) : a.StackLost h (a.tripStack h) := by
  obtain ⟨v, same, eq⟩ := State.declareStackAs_eq (reason := 4) ((Config.freeValue a.free).toNat % 2 ^ 32) hh alive (by decide)
  have duty := (v.withhold h).countFailure_duty 3 h
  have noted := (v.withhold h).countFailure_flt 3 h
  rw [State.tripStack, eq]
  refine ⟨?dead, ?count, ?withhold, ((v.withhold h).countFailure_cores 3 h).trans same.cores, duty.ops.trans same.ops⟩
  case dead =>
    calc (((v.withhold h).countFailure 3 h).takeFree).stackDead h
      _ = v.stackDead h := duty.failed (9 + h) (by omega)
      _ = (a.setBit rFtFailed (9 + h) true).bitOf rFtFailed (9 + h) := same.failed (9 + h) (by omega)
      _ = true := a.bitOf_setBit_same _ _ _ (by omega)
  case count => exact (congrArg Faults.count noted).trans (congrArg (·.count + 1) same.flt)
  case withhold =>
    have here : h < v.frames.dies.length := same.frames ▸ present
    have held : (v.withhold h).die h = { v.die h with withhold := true } := v.die_onDie_same _ here
    exact congrArg DieSeq.withhold ((State.die_congr (congrArg Frames.dies duty.frames) h).trans held)

/-! ### Compute dies retired for checksums (R516-R520, R539) -/

theorem SameDuty.withFlt (s : State) (f : Faults) : SameDuty s { s with flt := f } := ⟨rfl, rfl, rfl, rfl, rfl, fun _ _ => rfl⟩

/-- The fields of FT_FAILED from bit 20 on say nothing of dies and stacks. -/
theorem SameDuty.setFailedField (s : State) (lo len x : Nat) (h : 20 ≤ lo) : SameDuty s (s.setField rFtFailed lo len x) :=
  ⟨rfl, rfl, rfl, rfl, rfl, fun _ _ => s.bitOf_setField_other _ _ _ _ _ (by omega) (by omega)⟩

theorem State.noteRole_duty (s : State) (d : Nat) : SameDuty s (s.noteRole d) := by
  unfold State.noteRole
  split
  · exact (SameDuty.withFlt s _).trans (.setFailedField _ 24 4 0xF (by decide))
  · exact .withFlt s _

theorem State.noteRole_shunned (s : State) (d : Nat) : (s.noteRole d).flt.shunned = s.flt.shunned := by
  unfold State.noteRole
  split
  · rw [State.setField_flt]
  · rfl

/-- A failure that a link already counted is not counted again (R457). -/
theorem State.countUnless_keeps (s : State) (c : Prop) [Decidable c] (kind index : Nat) :
    let u := if c then s else s.countFailure kind index
    SameDuty s u ∧ u.flt.shunned = s.flt.shunned := by
  intro u
  by_cases h : c
  · rw [show u = s from if_pos h]
    exact ⟨.refl s, rfl⟩
  · rw [show u = s.countFailure kind index from if_neg h, State.countFailure_flt]
    exact ⟨s.countFailure_duty kind index, rfl⟩

/-- Note a die retired: it is in the list, and RETIRED is set. -/
def State.noteRetired (s : State) (d : Nat) : State :=
  { s with flt := { s.flt with retired := d :: s.flt.retired } }.setBit rFtFailed 23 true

@[simp] theorem State.noteRetired_flt (s : State) (d : Nat) :
    (s.noteRetired d).flt = { s.flt with retired := d :: s.flt.retired } := State.setBit_flt ..

theorem State.noteRetired_duty (s : State) (d : Nat) : SameDuty s (s.noteRetired d) :=
  (SameDuty.withFlt s _).trans (.setFailed _ true (by decide))

/-- A die in service declared failed for its checksums: its bit is set, and it is noted as retired. -/
theorem State.declareDie_checksum {s : State} {d : Nat} (hd : d < 9) (alive : s.dieDead d = false) :
    ∃ v, SameDuty (s.setBit rFtFailed d true) v ∧ v.flt.shunned = s.flt.shunned ∧ s.declareDie d 5 = v.noteRetired d := by
  unfold State.declareDie
  rw [if_neg (by simp [alive, hd]), if_neg (by simp [alive])]
  extract_lets s1 s2 s3
  have roleDuty : SameDuty (s.setBit rFtFailed d true) s2 := (State.event_same _ _).sameDuty.trans (s1.noteRole_duty d)
  have roleShunned : s2.flt.shunned = s.flt.shunned :=
    (s1.noteRole_shunned d).trans (congrArg Faults.shunned (State.event_same _ _).flt)
  obtain ⟨countDuty, countShunned⟩ := s2.countUnless_keeps (s2.flt.linkDies.contains d) 2 d
  exact ⟨s3, roleDuty.trans countDuty, countShunned.trans roleShunned, if_pos rfl⟩

theorem State.declareDie_checksum_spec (s : State) {d : Nat} (hd : d < 9) (alive : s.dieDead d = false) :
    let u := s.declareDie d 5
    u.flt.shunned = s.flt.shunned ∧ u.dieDead d = true ∧ d ∈ u.flt.retired ∧ u.bitOf rFtFailed 23 = true
      ∧ ∀ h, h < 9 → u.stackDead h = s.stackDead h := by
  obtain ⟨v, duty, shunned, eq⟩ := State.declareDie_checksum hd alive
  have bits (i : Nat) (hi : i < 20) := (duty.trans (v.noteRetired_duty d)).failed i hi
  intro u
  rw [show u = v.noteRetired d from eq, State.noteRetired_flt]
  refine ⟨shunned, ?dead, List.mem_cons_self, State.bitOf_setBit_same _ _ _ _ (by decide), fun h hh => ?stack⟩
  case dead => exact (bits d (by omega)).trans (s.bitOf_setBit_same _ _ _ (by omega))
  case stack => exact (bits (9 + h) (by omega)).trans (s.bitOf_setBit_other _ _ _ _ (by omega) (by omega))

/-! ### Checksum reports (R539) -/

/-- The reports still within FT_CFG's window once one of this core arrives. -/
def State.recentReports (b : State) (core : Nat) : List (Nat × Nat) :=
  ((core, b.frames.frn) :: b.flt.reports).filter fun r => b.frames.frn < r.2 + b.fieldOf { name := .ftCfg } 4 8

/-- How many of them are of this core. -/
def State.reportCount (b : State) (core : Nat) : Nat := ((b.recentReports core).filter (·.1 = core)).length

def State.reported (b : State) (core : Nat) : State := { b with flt := { b.flt with reports := b.recentReports core } }

def State.reportedShunned (b : State) (core : Nat) : State :=
  { b with flt := { b.flt with reports := b.recentReports core, shunned := core :: b.flt.shunned } }

section
variable {s : State} {t core : Nat}

theorem exec_checksumReport_few (h : (s.stamped t).reportCount core < (s.stamped t).fieldOf { name := .ftCfg } 0 4) :
    exec (.checksumReport t core) s = .next ((s.stamped t).reported core) := by
  change execChecksumReport t core s = _
  exact congrArg Host.Outcome.next (if_pos (Bool.or_eq_true_iff.mpr (.inr (decide_eq_true h))))

theorem exec_checksumReport_retires (hc : core < 36) (enabled : 0 < (s.stamped t).fieldOf { name := .ftCfg } 0 4)
    (many : (s.stamped t).fieldOf { name := .ftCfg } 0 4 ≤ (s.stamped t).reportCount core)
    (master : (s.stamped t).hasMaster = true) (alive : (s.stamped t).dieDead (core / 4) = false) :
    exec (.checksumReport t core) s = .next (((s.stamped t).reportedShunned core).declareDie (core / 4) 5) := by
  change execChecksumReport t core s = _
  have declared : ((s.stamped t).reportedShunned core).declareOrWait 2 (core / 4) 5
      = ((s.stamped t).reportedShunned core).declareDie (core / 4) 5 := if_pos master
  rw [← declared]
  have due : (decide (36 ≤ core) || decide ((s.stamped t).fieldOf { name := .ftCfg } 0 4 = 0)
      || decide ((s.stamped t).reportCount core < (s.stamped t).fieldOf { name := .ftCfg } 0 4)) = false := by
    simp [hc, enabled.ne', many]
  exact congrArg Host.Outcome.next ((if_neg (Bool.eq_false_iff.mp due)).trans (if_neg (Bool.eq_false_iff.mp alive)))

end

/-! ### Trips (R563, R584, R593) -/

theorem State.mdChange_onlyOut (s : State) (f : Meter → Meter) : OnlyOut (s.onMd f) (s.mdChange f) := by
  unfold State.mdChange State.ibi
  dsimp only
  split
  · exact .refl _
  · split
    · exact .say _ _
    · exact .refl _

theorem State.mdSet_spec {s : State} (on : s.md.on = true) (f : Meter → Meter) :
    (s.mdSet f).md = f s.md ∧ (s.mdSet f).ops = s.ops ∧ (s.mdSet f).regs = s.regs := by
  rw [State.mdSet, if_pos on, s.mdChange_onlyOut f]
  exact ⟨rfl, rfl, rfl⟩

/-- Either trip of a part of the package does the same. -/
theorem exec_trips {s : State} {t kind i : Nat} (hk : kind ≠ 0) {p : State → Prop} (h : p ((s.arrive t).tripPart kind i)) :
    Does (.supplyTrip t kind i) s p ∧ Does (.thermalTrip t kind i) s p :=
  ⟨⟨_, congrArg Host.Outcome.next (if_neg hk), h⟩, ⟨_, congrArg Host.Outcome.next (if_neg hk), h⟩⟩

section
variable {a : State} (inService : a.pwr.inReset = false) (master : a.hasMaster = true)
include inService master

theorem State.tripPart_stack (h : Nat) : a.tripPart 3 h = a.tripStack h := by
  rw [State.tripPart, if_neg (by simp [inService]), if_neg (by simp)]
  exact if_pos master

theorem State.tripPart_master : a.tripPart 4 a.cm.master =
    { a with pwr := { a.pwr with waits := a.pwr.waits ++ [(4, a.cm.master, 4)] } } := by
  rw [State.tripPart, if_neg (by simp [inService]), if_pos (by simp [master])]

end

/-! ### Hot dies (R591, R593) -/

/-- A die's hottest sensor has risen to the threshold, or fallen below it. -/
def State.sensed (a : State) (die : Nat) (rising : Bool) : State :=
  let rest := a.pwr.hotDies.filter (· != die)
  { a with pwr := { a.pwr with hotDies := if rising then die :: rest else rest },
           frames := { a.frames with hot := a.frames.hot || rising } }

theorem exec_throttleThreshold {s : State} {t die : Nat} (rising : Bool) (h : (s.arrive t).pwr.inReset = false) :
    exec (.throttleThreshold t die rising) s = .next ((s.arrive t).sensed die rising).thermPin := by
  change execThrottleThreshold t die rising s = _
  exact congrArg Host.Outcome.next (if_neg (by simp [h]))

theorem State.thermPin_hotDies (s : State) : s.thermPin.pwr.hotDies = s.pwr.hotDies := by
  unfold State.thermPin
  dsimp only
  split
  · rfl
  · rfl

/-- With a hot die the alert is asserted, which is low. -/
theorem State.thermPin_hot {s : State} (hot : s.pwr.hotDies ≠ []) : s.thermPin.pwr.thermN = false := by
  have low (x y : Bool) : (x || !s.pwr.hotDies.isEmpty || y) = true := by simp [hot]
  unfold State.thermPin
  rw [low]
  dsimp only
  split
  · assumption
  · rfl

/-- THERM_ALERT_N is no register, and its change touches no operation. -/
theorem State.thermPin_ops_regs (s : State) : s.thermPin.ops = s.ops ∧ s.thermPin.regs = s.regs := by
  obtain ⟨pwr, out, eq⟩ := s.thermPin_eq
  rw [eq]
  exact ⟨rfl, rfl⟩

theorem State.not_mem_hotDies_cooled (a : State) (die : Nat) : die ∉ (a.sensed die false).pwr.hotDies :=
  fun h => bne_iff_ne.mp (List.mem_filter.mp h).2 rfl

/-! ### Core store errors (R249, R541) -/

theorem Core.mem_aborts_failCheck (k : Core) (asn : Nat) : ∃ c, (asn, c) ∈ (k.failCheck asn).aborts := by
  unfold Core.failCheck
  dsimp only
  split
  · next listed =>
    obtain ⟨⟨x, c⟩, hx, same⟩ := List.any_eq_true.mp listed
    exact ⟨c, of_decide_eq_true same ▸ hx⟩
  · exact ⟨6, List.mem_append_right _ List.mem_cons_self⟩

/-- The core's uncorrectable error is recorded. -/
def Core.countUe (k : Core) : Core := { k with ft := { k.ft with csUe := true } }

/-- An error in a line an operation owns changes that core alone. -/
theorem exec_coreStoreUe_owned {s : State} {t core addr asn : Nat} (hc : core < s.cores.length)
    (owner : (s.core core).countUe.lineOwner addr = some asn) :
    exec (.coreStoreUe t core addr) s = .next ((s.stamped t).onCore core fun k => k.countUe.failCheck asn) := by
  change execCoreStoreUe t core addr s = _
  have here : ((s.stamped t).onCore core Core.countUe).core core = (s.core core).countUe :=
    State.core_onCore_same _ _ hc
  have found : (((s.stamped t).onCore core Core.countUe).core core).lineOwner addr = some asn := by rw [here, owner]
  have both : ((s.stamped t).onCore core Core.countUe).onCore core (·.failCheck asn)
      = (s.stamped t).onCore core fun k => k.countUe.failCheck asn :=
    congrArg (fun l => { s.stamped t with cores := l }) (List.modify_modify_eq ..)
  rw [← both]
  unfold execCoreStoreUe
  dsimp only
  unfold Core.countUe at found
  rw [found]
  rfl

/-! ### The obligation -/

/-- Settles O51. A stack's trip is `State.tripStack_lost`, the retirement of a core's die `State.declareDie_checksum_spec`, and
the master's own trip only waits (`State.tripPart_master`). -/
theorem otherTripsAndReportsActOnTheirPart : Obligations.OtherTripsAndReportsActOnTheirPart := by
  unfold Obligations.OtherTripsAndReportsActOnTheirPart
  intro s t i a
  refine ⟨fun on => ?meter, ?stack, ?master, fun up => ⟨?rises, ?falls⟩, ?checksum, fun addr asn hi owner => ?coreStore⟩
  case meter =>
    exact ⟨⟨_, congrArg Host.Outcome.next (if_pos rfl), State.mdSet_spec on _⟩,
      ⟨_, congrArg Host.Outcome.next (if_pos rfl), State.mdSet_spec on _⟩⟩
  case stack =>
    intro hi up master alive lost hlen
    refine exec_trips (by decide) ?_
    rw [State.tripPart_stack up master]
    exact State.tripStack_lost hi alive (by omega)
  case master =>
    intro up master hi waits
    subst hi
    exact exec_trips (by decide) (State.tripPart_master up master)
  case rises =>
    let b := a.sensed i true
    obtain ⟨ops, regs⟩ := b.thermPin_ops_regs
    have hot : b.frames.hot = true := Bool.or_true _
    exact ⟨_, exec_throttleThreshold true up, b.thermPin_hotDies ▸ List.mem_cons_self, State.thermPin_hot (List.cons_ne_nil _ _),
      (congrArg Frames.hot b.thermPin_law.frames).trans hot, ops, regs⟩
  case falls =>
    let b := a.sensed i false
    have hot : b.frames.hot = a.frames.hot := Bool.or_false _
    exact ⟨_, exec_throttleThreshold false up, b.thermPin_hotDies ▸ a.not_mem_hotDies_cooled i,
      (congrArg Frames.hot b.thermPin_law.frames).trans hot⟩
  case checksum =>
    intro hi b frames mine n
    refine ⟨fun few => ⟨_, exec_checksumReport_few few, rfl, rfl⟩, fun enabled many master alive => ?_⟩
    obtain ⟨shunned, retired⟩ := (b.reportedShunned i).declareDie_checksum_spec (d := i / 4) (by omega) alive
    exact ⟨_, exec_checksumReport_retires hi enabled many master alive, shunned ▸ List.mem_cons_self, retired⟩
  case coreStore =>
    have changed : ((s.stamped t).onCore i fun k => k.countUe.failCheck asn).core i = (s.core i).countUe.failCheck asn :=
      State.core_onCore_same _ _ hi
    refine ⟨_, exec_coreStoreUe_owned hi owner, ?_⟩
    dsimp only
    rw [changed]
    exact ⟨rfl, Core.mem_aborts_failCheck _ asn, rfl, fun j hj => State.core_onCore_other _ _ hj⟩

end Sys2Proof.Machine
end

section
/-! PROOFS. The end of a tile entry's work (8.6, 12.2, 12.5): what retirement, the end of a CLOSE drain, the end of an item and a
received chain partial change on their core, and what each leaves. -/

namespace Sys2Proof.Machine

section
variable {k : Core} {id j p asn item : Nat}

/-! ### Retirement (R402, R414) -/

/-- The core once entry `id` has left its tile queue. -/
def Core.withoutEntry (k : Core) (id : Nat) : Core := { k with queue := k.queue.filter (·.id != id) }

theorem Core.retire_closed {q : TileEntry} (found : k.entry? id = some q) (issued : q.issued = true)
    (closed : k.drainOpen q = false) :
    k.retire id = if q.sen then (k.withoutEntry id).signal q.asn q.seng q.sctr else k.withoutEntry id := by
  rw [Core.retire, found]
  exact if_pos (by simp [issued, closed])

/-- An entry that has not issued, or a CLOSE whose drain is open, stays in the queue. -/
theorem Core.retire_waits {q : TileEntry} (found : k.entry? id = some q) (waits : q.issued = false ∨ k.drainOpen q = true) :
    k.retire id = k := by
  rw [Core.retire, found]
  refine if_neg ?_
  rcases waits with h | h
  · simp [h]
  · simp [h]

/-- A counter below 255 of the operation's running program counts one more token (R347). -/
theorem Core.signal_counts {e : StreamEng} {eng ctr n : Nat} (he : k.engines[eng]? = some e) (running : e.running = true)
    (owner : e.asn = asn) (count : e.tok[ctr]? = some n) (room : n < 255) :
    k.signal asn eng ctr = k.putEngine eng { e with tok := e.tok.set ctr (n + 1) } := by
  have held : e.tok.getD ctr 0 = n := by simp [List.getD, count]
  rw [Core.signal, he]
  dsimp only
  rw [if_neg (by simp [running, owner]), held, if_neg (by omega)]
  rfl

theorem Core.engines_putEngine_same {e : Nat} (x : StreamEng) (h : e < k.engines.length) :
    (k.putEngine e x).engines[e]? = some x := List.getElem?_set_self h

/-! ### Tiles -/

theorem Core.array_putTile_same (t : AccTile) (hj : j < k.arrays.length) :
    (k.putTile j p t).array j = { k.array j with tiles := (k.array j).tiles.set p t } := by
  simp [Core.putTile, Core.putArray, Core.array, List.getD, hj]

theorem Core.array_putTile_other (t : AccTile) {i : Nat} (hi : i ≠ j) : (k.putTile j p t).array i = k.array i := by
  simp [Core.putTile, Core.putArray, Core.array, List.getD, Ne.symm hi]

theorem Core.tile_putTile_same (t : AccTile) (hj : j < k.arrays.length) (hp : p < (k.array j).tiles.length) :
    ((k.putTile j p t).array j).tile p = t := by
  rw [Core.array_putTile_same t hj]
  simp [ArrayUnit.tile, List.getD, hp]

theorem Core.tile_putTile_other (t : AccTile) {r : Nat} (hj : j < k.arrays.length) (hr : r ≠ p) :
    ((k.putTile j p t).array j).tile r = (k.array j).tile r := by
  rw [Core.array_putTile_same t hj]
  simp [ArrayUnit.tile, List.getD, Ne.symm hr]

@[simp] theorem Core.store_putTile (t : AccTile) : (k.putTile j p t).store = k.store := rfl

/-! ### The end of a CLOSE drain and of an item (R414) -/

theorem Core.drainEnd_closed (closed : ((k.array j).tile p).closed = true) :
    k.drainEnd j p = k.putTile j p AccTile.free := if_pos closed

/-- A tile at the end of an item: free if it is still mapped to the item alone and its CLOSE has not swapped it. -/
def AccTile.atItemEnd (asn item : Nat) (t : AccTile) : AccTile :=
  match t.owner with
  | some o => if o.asn = asn && o.item = item && o.group.isNone && !t.closed then AccTile.free else t
  | none => t

/-- A tile no CLOSE has swapped and no group shares belongs to another item once the item has ended. -/
theorem AccTile.atItemEnd_owner {t : AccTile} {o : TileOwner} (owned : (t.atItemEnd asn item).owner = some o)
    (alone : o.group = none) (swapped : (t.atItemEnd asn item).closed = false) (same : o.asn = asn) : o.item ≠ item := by
  intro here
  unfold AccTile.atItemEnd at owned swapped
  split at owned
  case h_1 o' owner =>
    rw [owner] at swapped
    dsimp only at swapped
    split at owned
    case isTrue => cases owned
    case isFalse kept =>
      rw [if_neg kept] at swapped
      obtain rfl : o' = o := Option.some.inj (owner.symm.trans owned)
      exact kept (by simp [same, here, alone, swapped])
  case h_2 free => exact Option.some_ne_none _ (owned.symm.trans free)

theorem Core.endItem_ended (ended : k.itemEnded asn item = true) :
    k.endItem asn item = { k with
      recs := k.recs.filter fun r => !(r.asn = asn && r.item = item),
      arrays := k.arrays.map fun a => { a with tiles := a.tiles.map (AccTile.atItemEnd asn item) } } := if_pos ended

theorem Core.endItem_recs (ended : k.itemEnded asn item = true) :
    ∀ r ∈ (k.endItem asn item).recs, r.asn = asn → r.item ≠ item := by
  rw [Core.endItem_ended ended]
  intro r hr same here
  obtain ⟨-, other⟩ := List.mem_filter.mp hr
  simp [same, here] at other

theorem Core.endItem_tiles (ended : k.itemEnded asn item = true) :
    ∀ a ∈ (k.endItem asn item).arrays, ∀ x ∈ a.tiles, ∀ o, x.owner = some o → o.group = none → x.closed = false →
      o.asn = asn → o.item ≠ item := by
  rw [Core.endItem_ended ended]
  intro a ha x hx o
  obtain ⟨b, -, rfl⟩ := List.mem_map.mp ha
  obtain ⟨t, -, rfl⟩ := List.mem_map.mp hx
  exact AccTile.atItemEnd_owner

/-! ### A received chain partial (R281, R282) -/

/-- Tile `y` is tile `x` after a chain partial of `terms` terms was added to its spill tile: still its owner's, its front
set untouched, one partial fewer to come, and the partial's ISAT in its own (R263). -/
structure AccTile.TookPartial (x : AccTile) (terms : Nat) (isat : Bool) (y : AccTile) : Prop where
  owner : y.owner = x.owner
  spilled : y.spilled = true
  partials : y.partials = x.partials - 1
  terms : y.terms = min 65535 (x.terms + terms)
  isat : isat = true → y.isat = true
  front : y.front = x.front

theorem AccTile.ite_spilled (x : AccTile) :
    (if x.spilled then x else { x with spilled := true }) = { x with spilled := true } := by
  split
  case isTrue spilled => rw [← spilled]
  case isFalse => rfl

/-- A partial whose tile is allocated changes that tile alone. -/
theorem Core.addChain_mapped {ltile : Nat} (rows : List (List SpillE)) (terms : Nat) (isat xovf xinx : Bool)
    (mapped : k.physOf j asn item ltile none = some p) :
    ∃ y, k.addChain asn item j ltile rows terms isat xovf xinx = k.putTile j p y
      ∧ ((k.array j).tile p).TookPartial terms isat y := by
  rw [Core.addChain, mapped]
  dsimp only
  rw [AccTile.ite_spilled]
  exact ⟨_, rfl, rfl, rfl, rfl, rfl, fun h => by simp [h], rfl⟩

theorem bit_zero_of_odd {v : Nat} (h : v % 2 = 1) : bit v 0 = true := by simp [bit, h]

end

/-- A retirement that leaves its core as it is leaves the state as it is. -/
theorem exec_tileEntryRetire_waits {s : State} {c id : Nat} (hc : c < s.cores.length)
    (waits : (s.core c).retire id = s.core c) : exec (.tileEntryRetire c id) s = .next s := by
  change Host.Outcome.next (s.onCore c (·.retire id)) = _
  rw [State.onCore_const, waits, State.onCore_same hc]

/-! ### The obligation -/

/-- Settles O23. Each command changes its core alone, by one operation of the core: a retirement takes the entry out of the
queue (`Core.retire_closed`) and may count a token (`Core.signal_counts`), the end of a drain and a chain partial replace
one tile (`Core.drainEnd_closed`, `Core.addChain_mapped`), and the end of an item releases its record and its tiles. -/
theorem tileEntriesRetireAndReleaseTiles : Obligations.TileEntriesRetireAndReleaseTiles := by
  unfold Obligations.TileEntriesRetireAndReleaseTiles
  intro s c id j p asn item ltile terms flags rows hc k
  refine ⟨fun q found issued closed => ?retires, fun q found waits => ?waits, fun hj hp closed => ?drainEnds,
    fun ended => ?itemEnds, fun hj hp mapped => ?chains⟩
  case retires =>
    refine .of_onCore hc rfl fun t after only => ?_
    rw [Core.retire_closed found issued closed] at after
    refine ⟨fun e n sends he running owner count room => ?_, fun silent => ?_, only⟩
    · have here : q.seng < k.engines.length := (List.getElem?_eq_some_iff.mp he).1
      rw [if_pos sends, Core.signal_counts (k := k.withoutEntry id) he running owner count room] at after
      rw [after]
      exact ⟨Core.engines_putEngine_same _ here, rfl⟩
    · rw [after, if_neg (by simp [silent])]
      rfl
  case waits => exact exec_tileEntryRetire_waits hc (Core.retire_waits found waits)
  case drainEnds =>
    refine .of_onCore hc rfl fun t after only => ?_
    rw [Core.drainEnd_closed closed] at after
    refine ⟨?_, ?_, ?_, ?_, only⟩ <;> rw [after]
    · exact Core.tile_putTile_same _ hj hp
    · exact fun i hi => Core.array_putTile_other _ hi
    · exact fun r hr => Core.tile_putTile_other _ hj hr
    · exact Core.store_putTile _
  case itemEnds =>
    refine .of_onCore hc rfl fun t after only => ?_
    refine ⟨?_, ?_, ?_, ?_, only⟩ <;> rw [after]
    · exact Core.endItem_recs ended
    · exact Core.endItem_tiles ended
    · rw [Core.endItem_ended ended]
    · rw [Core.endItem_ended ended]
  case chains =>
    refine .of_onCore hc rfl fun t after only => ?_
    obtain ⟨y, added, took⟩ := Core.addChain_mapped rows terms (bit flags 0) (bit flags 1) (bit flags 2) mapped
    have left : ((t.core c).array j).tile p = y := by
      rw [after, added]
      exact Core.tile_putTile_same _ hj hp
    dsimp only
    rw [left]
    exact ⟨took.owner, took.spilled, took.partials, took.terms, fun odd => took.isat (bit_zero_of_odd odd), took.front, only⟩

end Sys2Proof.Machine
end

section
/-! PROOFS. Segments (chapters 9, 11 and 12): what loading a program, starting its next item, the end of URGENT work and
a steal change on their cores, and what each leaves. -/

namespace Sys2Proof.Machine

/-! ### Items of a program (R369, R370) -/

/-- The segment whose item a core starts next. -/
def Core.nextSeg (k : Core) : Option Seg :=
  k.segs.find? fun g => g.urgent = k.urgent && g.started && !g.finished && g.prog.isSome && g.nextItem.isSome

/-- An idle core enters the next item; its workspace is forgotten. -/
theorem Core.startItem_enters {k : Core} {g : Seg} {p : Prog} {i : Item} (idle : k.bank.active = false)
    (noGuard : k.guard = false) (next : k.nextSeg = some g) (prog : g.prog = some p) (item : g.nextItem = some i) (epoch : Nat) :
    (k.startItem epoch).bank = SeqBank.entry g.ctx p i.num g.urgent
      ∧ (k.startItem epoch).store = k.store.forget p.wbase p.work epoch := by
  rw [Core.nextSeg] at next
  rw [Core.startItem, if_neg (by simp [idle, noGuard]), next]
  dsimp only
  rw [prog, item]
  exact ⟨k.bank_setBank _, rfl⟩

/-! ### The end of URGENT work (R397, R423, R424) -/

/-- Tiles put back change the arrays alone. -/
theorem Core.foldl_putTile (k : Core) (l : List SavedTile) :
    ∃ arrays, l.foldl (fun acc v => acc.putTile v.array v.phys v.tile) k = { k with arrays := arrays } := by
  refine List.foldlRecOn (motive := fun x : Core => ∃ arrays, x = { k with arrays := arrays }) l _ ⟨_, rfl⟩ ?_
  rintro _ ⟨arrays, rfl⟩ v -
  exact ⟨_, rfl⟩

/-- Bank N goes on with an empty fetch buffer; weight sets and tiles are restored, nothing stays saved. -/
theorem Core.resumeN_eq (k : Core) : ∃ arrays, k.resumeN = { k with
    urgent := false, bankN := { k.bankN with tags := [] }, wsaved := List.replicate 4 none, saves := [], arrays := arrays } := by
  obtain ⟨arrays, restored⟩ := Core.foldl_putTile _ k.saves
  exact ⟨arrays, restored⟩

/-! ### Starting a segment (R366, R368) -/

/-- Changing a segment that stays its operation's changes what the core reads as that operation's segment. -/
theorem Core.segOf_onSeg (k : Core) (asn : Nat) {f : Seg → Seg} (keeps : ∀ g, (f g).ctx = g.ctx) :
    (k.onSeg asn f).segOf asn = (k.segOf asn).map f := by
  have same : ((fun g : Seg => decide (g.ctx.asn = asn)) ∘ fun g => if g.ctx.asn = asn then f g else g)
      = fun g => decide (g.ctx.asn = asn) := by
    funext g
    dsimp only [Function.comp_apply]
    split
    · rw [keeps]
    · rfl
  rw [Core.segOf, Core.segOf, Core.onSeg, List.find?_map, same]
  cases found : k.segs.find? fun g => decide (g.ctx.asn = asn) with
  | none => rfl
  | some g =>
    have owner : g.ctx.asn = asn := by simpa using List.find?_some found
    exact congrArg some (if_pos owner)

/-- A core with a program's image in its store and its segment started. -/
def Core.loadImage (k : Core) (asn : Nat) (p : Prog) (n : Nat) (img : List Byte) : Core :=
  { (k.onSeg asn fun g => { g with started := true, prog := some p }) with store := k.store.writeBytes n img }

theorem Core.segOf_loadImage (k : Core) (asn : Nat) (p : Prog) (n : Nat) (img : List Byte) :
    (k.loadImage asn p n img).segOf asn = (k.segOf asn).map fun g => { g with started := true, prog := some p } :=
  k.segOf_onSeg asn fun _ => rfl

/-- A core loads the program of a header at n, its reads charged. -/
def State.loadProgram (s : State) (c asn : Nat) (h : Head) (n w : Nat) (img : List Byte) : State :=
  (s.chargeOn c .read 0 (cdiv h.image 64)).onCore c fun k => k.loadImage asn (s.progOf h n w) n img

/-- A segment that is to start waits, ends its operation on the core, starts as it is, or loads its program. -/
theorem State.startSeg_cases (s : State) (c asn : Nat) :
    s.startSeg c asn = s
    ∨ (∃ status info, s.startSeg c asn = s.onCore c fun k => k.endOp asn status info)
    ∨ (s.startSeg c asn = s.onCore c fun k => k.onSeg asn fun g => { g with started := true })
    ∨ ∃ h n w img, s.startSeg c asn = s.loadProgram c asn h n w img := by
  unfold State.startSeg
  split
  case h_2 => exact .inl rfl
  split
  case isTrue => exact .inl rfl
  split
  case isTrue => exact .inr (.inr (.inl rfl))
  split
  case h_1 => exact .inr (.inl ⟨_, _, rfl⟩)
  split
  case h_1 => exact .inl rfl
  case h_2 => exact .inr (.inl ⟨_, _, rfl⟩)
  split
  case h_1 => exact .inr (.inl ⟨_, _, rfl⟩)
  split
  case h_1 => exact .inl rfl
  case h_2 => exact .inl rfl
  case h_3 => exact .inr (.inl ⟨_, _, rfl⟩)
  case h_4 => exact .inr (.inr (.inr ⟨_, _, _, _, rfl⟩))

/-- How the segment of a PROGRAM operation whose header was read starts: an invalid header ends the operation, a valid
one's image is copied once it has a place and can be read. -/
def State.startProgram (s : State) (c asn : Nat) (o : OpRec) (r : Region) : Option Head → State
  | none => s.onCore c fun k => k.endOp asn 0x20 (seqInfo 9 0 0)
  | some h =>
    match s.placeProgram c h o.ctx.desc.isUrgent, s.opRead o r false (o.ctx.desc.arg1 + 64) h.image with
    | none, _ => s
    | _, .wait => s
    | _, .lost => s.onCore c fun k => k.endOp asn 0x13 0
    | some (n, w), .ok img => s.loadProgram c asn h n w img

/-- A PROGRAM operation's segment that its core may start, and the header bytes its operation reads. -/
structure State.MayLoad (a : State) (c asn : Nat) (g : Seg) (o : OpRec) (r : Region) (b : List Byte) : Prop where
  record : a.op? asn = some o
  code : o.ctx.desc.op = some .program
  seg : (a.core c).segOf asn = some g
  segCode : g.ctx.desc.op = some .program
  unstarted : g.started = false
  unfinished : g.finished = false
  noGuard : (a.core c).guard = false
  region : o.ctx.regions.getD 6 none = some r
  read : a.opRead o r false o.ctx.desc.arg1 (min 64 (r.size - o.ctx.desc.arg1)) = .ok b

section
variable {a : State} {c asn : Nat} {g : Seg} {o : OpRec} {r : Region} {b : List Byte} (m : a.MayLoad c asn g o r b)
include m

/-- What the segment does turns on its header. -/
theorem State.MayLoad.startSeg_eq :
    a.startSeg c asn = a.startProgram c asn o r (Head.parse b o.ctx.desc.isUrgent o.headRoom) := by
  rw [State.startSeg, m.seg, m.record]
  dsimp only
  rw [if_neg (by simp [m.unstarted, m.unfinished, m.noGuard]), if_neg (by simp [m.segCode]), m.region]
  dsimp only
  rw [m.read]
  rfl

/-- An invalid header ends the operation on the core (R366). -/
theorem State.MayLoad.startSeg_invalid (header : Head.parse b o.ctx.desc.isUrgent o.headRoom = none) :
    a.startSeg c asn = a.onCore c fun k => k.endOp asn 0x20 (seqInfo 9 0 0) := by
  rw [m.startSeg_eq, header]
  rfl

/-- A valid header's image is copied where it was placed (R368). -/
theorem State.MayLoad.startSeg_valid {h : Head} {n w : Nat} {img : List Byte}
    (header : Head.parse b o.ctx.desc.isUrgent o.headRoom = some h)
    (placed : a.placeProgram c h o.ctx.desc.isUrgent = some (n, w))
    (image : a.opRead o r false (o.ctx.desc.arg1 + 64) h.image = .ok img) :
    a.startSeg c asn = a.loadProgram c asn h n w img := by
  rw [m.startSeg_eq, header, State.startProgram, placed, image]

end

/-- PROGRAM starts the operation's segment. -/
theorem exec_program {s : State} {t asn c : Nat} {o : OpRec} (record : (s.arrive t).op? asn = some o)
    (code : o.ctx.desc.op = some .program) : exec (.program t asn c) s = .next ((s.arrive t).startSeg c asn) := by
  change execProgram t asn c s = _
  rw [execProgram, record]
  exact congrArg _ (if_pos code)

/-- Loading a program charges the core's reads and changes nothing else of it but the segment and the store. -/
theorem State.core_loadProgram {s : State} {c : Nat} (hc : c < s.cores.length) (asn : Nat) (h : Head) (n w : Nat)
    (img : List Byte) : ∃ tokens, (s.loadProgram c asn h n w img).core c
      = ({ s.core c with bucketR := tokens } : Core).loadImage asn (s.progOf h n w) n img := by
  refine ⟨_, (State.core_onCore_same _ _ ?_).trans (congrArg (Core.loadImage · ..) (s.core_onCore_same _ hc))⟩
  simpa [State.chargeOn] using hc

/-! ### Items a core holds -/

/-- The core holds an item of an operation. -/
def Core.Holds (k : Core) (asn : Nat) (i : Item) : Prop := ∃ h ∈ k.segs, h.ctx.asn = asn ∧ i ∈ h.items

/-- A change of segments that takes none of their items loses none. -/
theorem Core.Holds.map {k x : Core} {asn : Nat} {i : Item} (held : k.Holds asn i) {f : Seg → Seg}
    (segs : x.segs = k.segs.map f) (ctx : ∀ g, (f g).ctx = g.ctx) (items : ∀ g, (f g).items = g.items) : x.Holds asn i := by
  obtain ⟨h, hh, owner, hi⟩ := held
  exact ⟨f h, segs ▸ List.mem_map_of_mem hh, by rw [ctx, owner], by rwa [items]⟩

theorem Core.Holds.onSeg {k x : Core} {asn : Nat} {i : Item} (held : k.Holds asn i) {a : Nat} {f : Seg → Seg}
    (segs : x.segs = (k.onSeg a f).segs) (ctx : ∀ g, (f g).ctx = g.ctx) (items : ∀ g, (f g).items = g.items) :
    x.Holds asn i :=
  held.map segs (fun g => by split <;> simp [ctx]) fun g => by split <;> simp [items]

/-- Starting a segment takes no item from its core. -/
theorem State.startSeg_holds {s : State} {c asn : Nat} {i : Item} (hc : c < s.cores.length) (held : (s.core c).Holds asn i)
    (a : Nat) : ((s.startSeg c a).core c).Holds asn i := by
  rcases s.startSeg_cases c a with waits | ⟨status, info, ends⟩ | starts | ⟨h, n, w, img, loads⟩
  · rwa [waits]
  · rw [ends, State.core_onCore_same _ _ hc]
    exact held.onSeg (f := fun g => { g with finished := true }) rfl (fun _ => rfl) fun _ => rfl
  · rw [starts, State.core_onCore_same _ _ hc]
    exact held.onSeg rfl (fun _ => rfl) fun _ => rfl
  · obtain ⟨tokens, loaded⟩ := State.core_loadProgram hc a h n w img
    rw [loads, loaded]
    exact held.onSeg (f := fun g => { g with started := true, prog := some (s.progOf h n w) }) rfl (fun _ => rfl) fun _ => rfl

/-! ### Stealing (R331) -/

/-- The victim without an item of an operation. -/
def Core.dropItem (k : Core) (asn : Nat) (i : Item) : Core :=
  k.onSeg asn fun g => { g with items := g.items.filter fun y => !(y.num = i.num && y.split = i.split) }

/-- The thief with an item: in its segment of the operation, or in a new one that has not started. -/
def Core.takeOn (k : Core) (x : Seg × Item) : Core :=
  match k.segOf x.1.ctx.asn with
  | some _ => k.onSeg x.1.ctx.asn fun g => { g with items := g.items ++ [x.2] }
  | none => { k with segs := k.segs ++ [{ x.1 with items := [x.2], prog := none, started := false }] }

/-- An operation's record once core c runs some of it too. -/
def OpRec.alsoOn (c : Nat) (o : OpRec) : OpRec :=
  { o with cores := if o.cores.contains c then o.cores else ascending (c :: o.cores) }

/-- An item moves: the victim gives it up, the thief takes it on and starts the segment. -/
theorem State.moveItem_eq (s : State) (v c : Nat) (x : Seg × Item) : s.moveItem v c x =
    (((s.onCore v (·.dropItem x.1.ctx.asn x.2)).onCore c (·.takeOn x)).onOp x.1.ctx.asn (OpRec.alsoOn c)).startSeg c
      x.1.ctx.asn := by
  rw [State.moveItem]
  dsimp only
  split <;> next found =>
    exact congrArg (fun u : State => (u.onOp x.1.ctx.asn (OpRec.alsoOn c)).startSeg c x.1.ctx.asn)
      (State.onCore_congr _ (by rw [Core.takeOn, found]))

theorem Core.dropItem_gone (k : Core) (asn : Nat) (i : Item) : ∀ h ∈ (k.dropItem asn i).segs, h.ctx.asn = asn →
    ∀ y ∈ h.items, ¬(y.num = i.num ∧ y.split = i.split) := by
  intro h' hh owner y hy
  obtain ⟨h, -, rfl⟩ := List.mem_map.mp hh
  have owner : h.ctx.asn = asn := by
    split at owner
    · assumption
    · exact owner
  rw [if_pos owner] at hy
  rintro ⟨num, split⟩
  simpa [num, split] using (List.mem_filter.mp hy).2

theorem Core.takeOn_holds (k : Core) (x : Seg × Item) : (k.takeOn x).Holds x.1.ctx.asn x.2 := by
  rw [Core.takeOn]
  split
  case h_1 h found =>
    have owner : h.ctx.asn = x.1.ctx.asn := by simpa using List.find?_some found
    refine ⟨_, List.mem_map_of_mem (List.mem_of_find?_eq_some found), ?_⟩
    rw [if_pos owner]
    exact ⟨owner, by simp⟩
  case h_2 => exact ⟨_, List.mem_append_right _ (List.mem_singleton_self _), rfl, List.mem_singleton_self _⟩

/-- A thief that may steal, its victim and the item it takes. -/
structure State.MaySteal (a : State) (c v : Nat) (x : Seg × Item) : Prop where
  enabled : a.bitOf { name := .frSplitCfg } 8 = true
  noGuard : a.frames.guard = false
  scheduled : c ∈ a.schedCores
  notShunned : a.shunned c = false
  notBanked : a.flt.banked ≠ some (c / 4)
  idle : (a.core c).mayThieve = true
  victim : a.victim c = some v
  item : (a.core v).unstarted.reverse.find? (stealable c) = some x
  room : a.inFlight c < 64

theorem exec_steal {s : State} {t c v : Nat} {x : Seg × Item} (m : (s.arrive t).MaySteal c v x) :
    exec (.steal t c) s = .next ((s.arrive t).moveItem v c x) := by
  change execSteal t c s = _
  rw [execSteal, if_neg (by simp [m.enabled, m.noGuard, m.scheduled, m.notShunned, m.notBanked, m.idle]), m.victim]
  dsimp only
  rw [m.item]
  exact if_neg (by simp [m.room])

/-- A moved item is the thief's and no longer the victim's; no other core, memory, register or frame changes. -/
theorem State.moveItem_spec {s : State} {v c : Nat} (x : Seg × Item) (hc : c < s.cores.length) (apart : v ≠ c) :
    let u := s.moveItem v c x
    (u.core c).Holds x.1.ctx.asn x.2
    ∧ (v < s.cores.length → u.core v = (s.core v).dropItem x.1.ctx.asn x.2)
    ∧ (∀ d, d ≠ c → d ≠ v → u.core d = s.core d) ∧ u.mem = s.mem ∧ u.regs = s.regs ∧ u.frames = s.frames := by
  have started := State.startSeg_onlyCore (((s.onCore v (·.dropItem x.1.ctx.asn x.2)).onCore c (·.takeOn x)).onOp x.1.ctx.asn
    (OpRec.alsoOn c)) c x.1.ctx.asn
  have present : c < (s.onCore v (·.dropItem x.1.ctx.asn x.2)).cores.length := by simpa using hc
  dsimp only
  rw [State.moveItem_eq]
  refine ⟨State.startSeg_holds (by simpa [State.onOp] using hc) ?_ _, fun hv => ?_, fun d hd hdv => ?_,
    started.mem, started.regs, by rw [started.eq]; rfl⟩
  · exact (State.core_onCore_same _ (·.takeOn x) present) ▸ Core.takeOn_holds ..
  · exact (started.other v apart).trans ((State.core_onCore_other _ _ apart).trans (s.core_onCore_same _ hv))
  · exact (started.other d hd).trans ((State.core_onCore_other _ _ hd).trans (s.core_onCore_other _ hdv))

/-! ### The obligation -/

/-- Settles O26. Each command changes cores by one operation of its own: the next item enters its bank
(`Core.startItem_enters`), bank N goes on (`Core.resumeN_eq`), an item moves (`State.moveItem_spec`), a segment loads its
program or ends its operation (`State.MayLoad`). -/
theorem segmentsLoadStartMoveAndResume : Obligations.SegmentsLoadStartMoveAndResume := by
  unfold Obligations.SegmentsLoadStartMoveAndResume
  intro s t c v asn g x p i a k hc
  refine ⟨fun idle noGuard prog item next => ?starts, fun done => ?resumes,
    fun enabled noGuard scheduled notShunned notBanked thief victim apart item room => ?steals,
    fun o r b img record code seg segCode unstarted unfinished noGuard region read => ?loads⟩
  case starts =>
    have entered : (a.onCore c fun k => k.startItem a.free).core c = k.startItem a.free := a.core_onCore_same _ hc
    obtain ⟨bank, store⟩ := Core.startItem_enters idle noGuard next prog item a.free
    exact ⟨_, rfl, (congrArg Core.bank entered).trans bank, (congrArg Core.store entered).trans store, rfl,
      fun d hd => a.core_onCore_other _ hd, rfl, rfl, rfl⟩
  case resumes =>
    obtain ⟨arrays, resumed⟩ := k.resumeN_eq
    have after : (a.onCore c fun k => if k.urgentOver then k.resumeN else k).core c = _ :=
      (a.core_onCore_same _ hc).trans ((if_pos done).trans resumed)
    refine ⟨_, rfl, ?_, ?_, ?_, ?_, fun d hd => a.core_onCore_other _ hd, rfl, rfl, rfl⟩ <;> rw [after]
  case steals =>
    have may : a.MaySteal c v x :=
      ⟨enabled, noGuard, List.contains_iff_mem.mp scheduled, notShunned, notBanked, thief, victim, item, room⟩
    obtain ⟨held, given, kept⟩ := State.moveItem_spec x hc apart
    exact ⟨_, exec_steal may, held, fun hv => by rw [given hv]; exact Core.dropItem_gone _ _ _, kept⟩
  case loads =>
    have may : a.MayLoad c asn g o r b := ⟨record, code, seg, segCode, unstarted, unfinished, noGuard, region, read⟩
    have only := a.startSeg_onlyCore c asn
    refine ⟨fun header => ⟨_, exec_program record code, ?_, only.other, only.ops⟩,
      fun h w n header placed image => ⟨_, exec_program record code, ?_⟩⟩
    · rw [may.startSeg_invalid header, a.core_onCore_same _ hc]
      rfl
    · obtain ⟨tokens, loaded⟩ := State.core_loadProgram hc asn h n w img
      rw [← may.startSeg_valid header placed image] at loaded
      rw [loaded]
      exact ⟨rfl, (Core.segOf_loadImage ..).trans (congrArg _ seg), only.other, only.ops, only.mem, only.regs⟩

end Sys2Proof.Machine
end

section
/-! PROOFS. The instructions of a stream program (chapter 10): what an address register, a loop, a token counter, FENCE and END
make of the engine that executes them, and how the next program starts on it. -/

namespace Sys2Proof.Machine

/-! ### Commands that change one core -/

section
variable {i : Instr} {s : State} {c : Nat} {f : Core → Core}

/-- A command that changes one core may be told by any change that does the same to the core that is there. -/
theorem exec_onCore_of_core {g : Core → Core} (arm : exec i s = .next (s.onCore c f)) (same : f (s.core c) = g (s.core c)) :
    exec i s = .next (s.onCore c g) := by
  rw [arm, State.onCore_congr s same]

/-- A command that waits on its core leaves the state. -/
theorem exec_onCore_waits (hc : c < s.cores.length) (arm : exec i s = .next (s.onCore c f)) (waits : f (s.core c) = s.core c) :
    exec i s = .next s := by
  rw [arm, State.onCore_const, waits, State.onCore_same hc]

end

/-! ### Instructions of a running program (R339, R340, R347, R352) -/

section
variable {k : Core} {eng : Nat} {e : StreamEng} (runs : Streaming k eng) (here : k.engine eng = e)
include runs here

/-- A program that runs executes its instruction on the engine as it is. -/
theorem Core.seStep_here (f : StreamEng → Core) : k.seStep eng f = f e := here ▸ Core.seStep_runs runs f

theorem Core.sePut_runs (d : BitVec 4) (f : StreamEng → DWord) :
    k.sePut eng d f = k.putEngine eng (e.setS d (f e)).next := Core.seStep_here runs here _

section
variable {d a : BitVec 4} {imm : BitVec 14} {n addr : Nat} (place : (e.sreg a + imm.signExtend 64).toNat = addr)
include place

theorem Core.seLoad_reads (aligned : addr % n = 0) (inside : addr < 0x800000) :
    k.seLoad eng d a imm n = k.putEngine eng (e.setS d (BitVec.ofNat 64 (k.store.readLe addr n))).next := by
  subst place
  rw [Core.seLoad, Core.seStep_here runs here]
  exact (if_neg (not_not.mpr aligned)).trans (if_neg (by omega))

/-- The alignment is judged before the range. -/
theorem Core.seLoad_misaligned (odd : addr % n ≠ 0) : k.seLoad eng d a imm n = k.seFault eng seALIGN := by
  subst place
  rw [Core.seLoad, Core.seStep_here runs here]
  exact if_pos odd

theorem Core.seLoad_outside (aligned : addr % n = 0) (outside : 0x800000 ≤ addr) :
    k.seLoad eng d a imm n = k.seFault eng seCSTORE := by
  subst place
  rw [Core.seLoad, Core.seStep_here runs here]
  exact (if_neg (not_not.mpr aligned)).trans (if_pos outside)

end

section
variable {lvl : BitVec 2} {l : LoopLevel} {count : StreamEng → Nat}

theorem Core.seLoop_opens (closed : e.loops.getD lvl.toNat none = none) (more : count e ≠ 0) :
    k.seLoop eng lvl count = k.putEngine eng
      { e.next with loops := e.loops.set lvl.toNat (some ⟨e.index + 1, count e⟩) } := by
  rw [Core.seLoop, Core.seStep_here runs here, closed]
  exact if_neg more

/-- A LOOP of count 0 goes on after the NEXT of its level. -/
theorem Core.seLoop_skips (closed : e.loops.getD lvl.toNat none = none) (zero : count e = 0) :
    k.seLoop eng lvl count = k.putEngine eng { e with index := afterNext e.code lvl.toNat (e.index + 1) } := by
  rw [Core.seLoop, Core.seStep_here runs here, closed]
  exact if_pos zero

theorem Core.seLoop_faults (isOpen : e.loops.getD lvl.toNat none = some l) :
    k.seLoop eng lvl count = k.seFault eng seLOOP := by
  rw [Core.seLoop, Core.seStep_here runs here, isOpen]

/-- A NEXT is judged by its own level alone, whatever other level is open (log entry 130). -/
theorem Core.seNext_last (isOpen : e.loops.getD lvl.toNat none = some l) (last : l.left = 1) :
    k.seNext eng lvl = k.putEngine eng { e.next with loops := e.loops.set lvl.toNat none } := by
  rw [Core.seNext, Core.seStep_here runs here, isOpen]
  exact if_pos last

theorem Core.seNext_repeats (isOpen : e.loops.getD lvl.toNat none = some l) (more : l.left ≠ 1) :
    k.seNext eng lvl = k.putEngine eng { e with
      index := l.start, loops := e.loops.set lvl.toNat (some ⟨l.start, l.left - 1⟩) } := by
  rw [Core.seNext, Core.seStep_here runs here, isOpen]
  exact if_neg more

theorem Core.seNext_faults (closed : e.loops.getD lvl.toNat none = none) :
    k.seNext eng lvl = k.seFault eng seLOOP := by
  rw [Core.seNext, Core.seStep_here runs here, closed]

end

theorem Core.seFence_passes (idle : e.xfers = []) : k.seFence eng = k.putEngine eng e.next := by
  rw [Core.seFence, Core.seStep_here runs here, idle]
  rfl

theorem Core.seFence_waits (busy : e.xfers ≠ []) : k.seFence eng = k := by
  rw [Core.seFence, Core.seStep_here runs here]
  exact if_neg (by simpa using busy)

theorem Core.seEnd_ends (idle : e.xfers = []) (closed : ∀ l ∈ e.loops, l = none) :
    k.seEnd eng = k.putEngine eng { e with running := false, puts := [] } := by
  rw [Core.seEnd, Core.seStep_here runs here]
  exact (if_neg (by simpa using closed)).trans (if_neg (by simp [idle]))

theorem Core.seEnd_waits (busy : e.xfers ≠ []) (closed : ∀ l ∈ e.loops, l = none) :
    k.seEnd eng = k := by
  rw [Core.seEnd, Core.seStep_here runs here]
  exact (if_neg (by simpa using closed)).trans (if_pos (by simpa using busy))

theorem Core.seEnd_faults (isOpen : ∃ l ∈ e.loops, l ≠ none) : k.seEnd eng = k.seFault eng seLOOP := by
  rw [Core.seEnd, Core.seStep_here runs here]
  exact if_pos (by simpa [Option.ne_none_iff_isSome] using isOpen)

section
variable {d : BitVec 4}

theorem Core.seGetTok_takes (ctr : d.toNat ≤ 3) (token : 0 < e.tok.getD d.toNat 0) :
    k.seGetTok eng d = k.putEngine eng { e.next with tok := e.tok.set d.toNat (e.tok.getD d.toNat 0 - 1) } := by
  rw [Core.seGetTok, Core.seStep_here runs here]
  exact (if_neg (by omega)).trans (if_neg (by omega))

theorem Core.seGetTok_waits (ctr : d.toNat ≤ 3) (empty : e.tok.getD d.toNat 0 = 0) : k.seGetTok eng d = k := by
  rw [Core.seGetTok, Core.seStep_here runs here]
  exact (if_neg (by omega)).trans (if_pos empty)

theorem Core.seGetTok_faults (bad : 3 < d.toNat) : k.seGetTok eng d = k.seFault eng seOPCODE := by
  rw [Core.seGetTok, Core.seStep_here runs here]
  exact if_pos bad

omit runs in
theorem Core.seIncr_counts {t : Nat} (room : e.tok.getD t 0 < 255) :
    k.seIncr eng t = k.putEngine eng { e with tok := e.tok.set t (e.tok.getD t 0 + 1) } := by
  subst here
  exact if_neg (by omega)

theorem Core.sePutTok_counts (ctr : d.toNat ≤ 3) (idle : e.xfers = []) (room : e.tok.getD d.toNat 0 < 255) :
    k.sePutTok eng d = k.putEngine eng { e.next with tok := e.tok.set d.toNat (e.tok.getD d.toNat 0 + 1) } := by
  rw [Core.sePutTok, Core.seStep_here runs here]
  refine (if_neg (by omega)).trans ((if_pos (by simp [idle])).trans ?_)
  dsimp only
  rw [Core.seIncr_counts here room, Core.engine_putEngine_same _ runs.1, Core.putEngine_putEngine]
  rfl

/-- Behind transfers that have not retired the increment waits, the engine does not. -/
theorem Core.sePutTok_queues (ctr : d.toNat ≤ 3) (busy : e.xfers ≠ []) :
    k.sePutTok eng d = k.putEngine eng { e.next with puts := e.puts ++ [⟨d.toNat, e.nextXfer⟩] } := by
  rw [Core.sePutTok, Core.seStep_here runs here]
  exact (if_neg (by omega)).trans (if_neg (by simpa using busy))

theorem Core.sePutTok_faults (bad : 3 < d.toNat) : k.sePutTok eng d = k.seFault eng seOPCODE := by
  rw [Core.sePutTok, Core.seStep_here runs here]
  exact if_pos bad

end
end

/-! ### The next program (R336, R338) -/

section
variable {k : Core} {eng asn : Nat} {img : List Byte}

theorem Core.takeStart_queued (queued : (k.engine eng).queued = some (asn, img)) : k.takeStart eng = k :=
  if_pos (by simp [queued])

theorem Core.startStream_starts (noGuard : k.guard = false) (idle : (k.engine eng).running = false)
    (queued : (k.engine eng).queued = some (asn, img)) (code : 0 < fld img 0x80 2) (fits : fld img 0x80 2 ≤ 256)
    (zero : zeroBytes img 0x82 62 = true) : k.startStream eng = k.putEngine eng ((k.engine eng).started asn img) := by
  have good : (fld img 0x80 2 = 0 || 256 < fld img 0x80 2 || !zeroBytes img 0x82 62) = false := by
    simp [zero, fits, Nat.pos_iff_ne_zero.mp code]
  simp [Core.startStream, noGuard, Core.takeStart_queued queued, idle, queued, good]

theorem StreamEng.started_sreg (e : StreamEng) (n : BitVec 4) :
    (e.started asn img).sreg n = BitVec.ofNat 64 (fld img (8 * n.toNat) 8) := Vector.getElem_ofFn ..

theorem StreamEng.started_code_length (e : StreamEng) : (e.started asn img).code.length = fld img 0x80 2 := by
  simp [StreamEng.started]

theorem StreamEng.started_code (e : StreamEng) {i : Nat} (h : i < fld img 0x80 2) :
    (e.started asn img).code[i]? = some (BitVec.ofNat 32 (fld img (0xC0 + 4 * i) 4)) := by
  simp [StreamEng.started, h]

end

/-! ### SETW (R339) -/

theorem getLsbD_ones16 (i : Nat) : (0xFFFF#64).getLsbD i = decide (i < 16) := by
  rw [show 0xFFFF#64 = (BitVec.allOnes 16).setWidth 64 by decide, BitVec.getLsbD_setWidth, BitVec.getLsbD_allOnes,
    ← Bool.decide_and]
  exact decide_eq_decide.mpr (by omega)

/-- A doubleword whose 16 bits from bit `n` on are replaced. -/
theorem getLsbD_replaced16 (x : DWord) (h : BitVec 16) (n : Nat) {i : Nat} (hi : i < 64) :
    ((x &&& ~~~(0xFFFF#64 <<< n)) ||| (h.setWidth 64 <<< n)).getLsbD i =
      if n ≤ i ∧ i < n + 16 then h.getLsbD (i - n) else x.getLsbD i := by
  simp only [BitVec.getLsbD_or, BitVec.getLsbD_and, BitVec.getLsbD_not, BitVec.getLsbD_shiftLeft, BitVec.getLsbD_setWidth,
    getLsbD_ones16, hi]
  rcases lt_or_ge i n with before | reached
  · simp [before, Nat.not_le.mpr before]
  · rcases lt_or_ge (i - n) 16 with inside | past
    · have bound : i < n + 16 := by omega
      have low : i - n < 64 := by omega
      simp [inside, reached, Nat.not_lt.mpr reached, bound, low]
    · have bound : ¬ i < n + 16 := by omega
      simp [past, Nat.not_lt.mpr past, bound]

/-! ### The obligations -/

/-- Settles O17. A result goes to its register by `Core.sePut_runs`; a load reads, or faults for its alignment and then for its
range. -/
theorem streamRegisterInstructions : Obligations.StreamRegisterInstructions := by
  unfold Obligations.StreamRegisterInstructions
  refine ⟨StreamEng.sreg_setS, fun s c eng d a b pos i16 imm sh hc runs => ?_⟩
  have result := Core.sePut_runs runs rfl d
  refine ⟨exec_onCore_of_core rfl (result _), exec_onCore_of_core rfl (result _), exec_onCore_of_core rfl (result _),
    exec_onCore_of_core rfl (result _), exec_onCore_of_core rfl (result _), exec_onCore_of_core rfl (result _),
    fun upper => ⟨_, exec_onCore_of_core rfl (result _), fun i hi => ?setw⟩,
    fun aligned inside => exec_onCore_of_core rfl (Core.seLoad_reads runs rfl rfl aligned inside),
    fun aligned inside => exec_onCore_of_core rfl (Core.seLoad_reads runs rfl rfl aligned inside),
    fun odd => exec_onCore_of_core rfl (Core.seLoad_misaligned runs rfl rfl odd),
    fun odd => exec_onCore_of_core rfl (Core.seLoad_misaligned runs rfl rfl odd),
    fun aligned outside => exec_onCore_of_core rfl (Core.seLoad_outside runs rfl rfl aligned outside),
    fun aligned outside => exec_onCore_of_core rfl (Core.seLoad_outside runs rfl rfl aligned outside)⟩
  case setw =>
    rw [if_neg upper]
    exact getLsbD_replaced16 _ _ _ hi

/-- Settles O18. Each instruction of a running program is one equation of the core for each state its level, its counter or its
transfers may be in; the next program is `Core.startStream_starts`. -/
theorem streamControlAndTokens : Obligations.StreamControlAndTokens := by
  unfold Obligations.StreamControlAndTokens
  intro s c eng d a lvl imm hc k e becomes fault count
  refine ⟨fun runs => ⟨fun r closed more => exec_onCore_of_core rfl (Core.seLoop_opens runs rfl closed more),
    fun r closed zero => exec_onCore_of_core rfl (Core.seLoop_skips runs rfl closed zero),
    fun r l isOpen => exec_onCore_of_core rfl (Core.seLoop_faults runs rfl isOpen),
    fun l isOpen last => exec_onCore_of_core rfl (Core.seNext_last runs rfl isOpen last),
    fun l isOpen more => exec_onCore_of_core rfl (Core.seNext_repeats runs rfl isOpen more),
    fun closed => exec_onCore_of_core rfl (Core.seNext_faults runs rfl closed),
    fun idle => exec_onCore_of_core rfl (Core.seFence_passes runs rfl idle),
    fun busy => exec_onCore_waits hc rfl (Core.seFence_waits runs rfl busy),
    fun idle closed => exec_onCore_of_core rfl (Core.seEnd_ends runs rfl idle closed),
    fun busy closed => exec_onCore_waits hc rfl (Core.seEnd_waits runs rfl busy closed),
    fun isOpen => exec_onCore_of_core rfl (Core.seEnd_faults runs rfl isOpen),
    fun ctr token => exec_onCore_of_core rfl (Core.seGetTok_takes runs rfl ctr token),
    fun ctr empty => exec_onCore_waits hc rfl (Core.seGetTok_waits runs rfl ctr empty),
    fun ctr idle room => exec_onCore_of_core rfl (Core.sePutTok_counts runs rfl ctr idle room),
    fun ctr busy => exec_onCore_of_core rfl (Core.sePutTok_queues runs rfl ctr busy),
    fun bad => ⟨exec_onCore_of_core rfl (Core.seGetTok_faults runs rfl bad),
      exec_onCore_of_core rfl (Core.sePutTok_faults runs rfl bad)⟩⟩,
    fun noGuard present idle asn img queued code fits zero => ?starts⟩
  case starts =>
    refine .of_onCore hc rfl fun t after only => ?_
    have started : (t.core c).engine eng = e.started asn img := by
      rw [after, Core.startStream_starts noGuard idle queued code fits zero]
      exact Core.engine_putEngine_same _ present
    dsimp only
    rw [started]
    exact ⟨rfl, rfl, rfl, rfl, rfl, rfl, StreamEng.started_code_length _, StreamEng.started_sreg _,
      fun i hi => StreamEng.started_code _ hi, only⟩

end Sys2Proof.Machine
end

section
/-! PROOFS. The instructions of the core sequencer (chapter 11): results that go to a register and what they leave, loads and
stores, branches and calls. -/

namespace Sys2Proof

theorem CStore.readLe_lt (m : CStore) (a n : Nat) : m.readLe a n < 256 ^ n := by
  simpa [CStore.readLe, CStore.readBytes] using leNat_lt (m.readBytes a n)

theorem fld_lt (bs : List Byte) (off n : Nat) : fld bs off n < 256 ^ n :=
  (leNat_lt _).trans_le (Nat.pow_le_pow_right (by decide) (List.length_take_le ..))

end Sys2Proof

namespace Sys2Proof.Machine

/-! ### A sequencer that fetches (R375, R396) -/

section
variable {i : Instr} {s : State} {c : Nat} (fetches : Fetches s c)
include fetches

/-- An instruction that fetches may be told by any change that does the same to the core that is there. -/
theorem exec_seqOn {f g : Core → Core} (arm : exec i s = .next (s.seqOn c f)) (same : f (s.core c) = g (s.core c)) :
    exec i s = .next (s.onCore c g) := by
  rw [arm, State.seqOn_fetches fetches, same]
  exact congrArg _ (State.onCore_congr s rfl)

/-- An instruction that waits leaves the state. -/
theorem exec_seqOn_waits {f : Core → Core} (arm : exec i s = .next (s.seqOn c f)) (waits : f (s.core c) = s.core c) :
    exec i s = .next s := by
  rw [arm, State.seqOn_fetches fetches, waits, State.onCore_same fetches.1]

/-- An instruction that writes a result to g[rd]. -/
theorem exec_result {f : Core → Core} {rd : BitVec 5} {v w : Word} (arm : exec i s = .next (s.seqOn c f))
    (result : f (s.core c) = (s.core c).putReg rd v) (value : v = w) :
    exec i s = .next (s.onCore c fun k => k.putReg rd w) :=
  exec_seqOn fetches arm (value ▸ result)

/-- A row of the ALU writes its result of g[ra] and g[rb]. -/
theorem exec_alu {rd ra rb : BitVec 5} {f : Word → Word → Word} {w : Word} (arm : exec i s = .next (s.aluOn c rd ra rb f))
    (value : f ((s.core c).bank.reg ra) ((s.core c).bank.reg rb) = w) :
    exec i s = .next (s.onCore c fun k => k.putReg rd w) := exec_result fetches arm rfl value

/-- A .K form writes its result of g[ra]. -/
theorem exec_imm {rd ra : BitVec 5} {f : Word → Word} {w : Word} (arm : exec i s = .next (s.immOn c rd ra f))
    (value : f ((s.core c).bank.reg ra) = w) :
    exec i s = .next (s.onCore c fun k => k.putReg rd w) := exec_result fetches arm rfl value

end

/-! ### Integer results (R380, R382) -/

theorem flag_decide (p : Prop) [Decidable p] : flag (decide p) = if p then 1 else 0 := by simp [flag]

/-- The one quotient that 32 bits cannot hold. -/
theorem lowest_over_minusOne_iff (a b : Word) :
    (a = 0x80000000#32 && b = 0xFFFFFFFF#32) = true ↔ a.toInt = -2 ^ 31 ∧ b.toInt = -1 := by
  have lowest : (0x80000000#32).toInt = -2 ^ 31 := by decide
  have minusOne : (0xFFFFFFFF#32).toInt = -1 := by decide
  rw [Bool.and_eq_true, decide_eq_true_eq, decide_eq_true_eq, ← BitVec.toInt_inj, ← BitVec.toInt_inj, lowest, minusOne]

section
variable {a b : Word}

theorem quo_zero_of_nonneg (nonneg : 0 ≤ a.toInt) : quo a 0 = 0x7FFFFFFF#32 := if_neg (Int.not_lt.mpr nonneg)

theorem quo_zero_of_neg (neg : a.toInt < 0) : quo a 0 = 0x80000000#32 := if_pos neg

theorem quo_saturates (ha : a.toInt = -2 ^ 31) (hb : b.toInt = -1) : quo a b = 0x7FFFFFFF#32 := by
  have nonzero : b ≠ 0 := by rintro rfl; exact absurd hb (by decide)
  rw [quo, if_neg nonzero, if_pos ((lowest_over_minusOne_iff a b).mpr ⟨ha, hb⟩)]

theorem quo_eq_tdiv (nonzero : b ≠ 0) (fits : ¬(a.toInt = -2 ^ 31 ∧ b.toInt = -1)) :
    quo a b = BitVec.ofInt 32 (a.toInt.tdiv b.toInt) := by
  rw [quo, if_neg nonzero, if_neg (mt (lowest_over_minusOne_iff a b).mp fits)]

theorem modS_eq_tmod (nonzero : b ≠ 0) : modS a b = BitVec.ofInt 32 (a.toInt.tmod b.toInt) := if_neg nonzero

theorem modS_minusOne (hb : b.toInt = -1) : modS a b = 0 := by
  have nonzero : b ≠ 0 := by rintro rfl; exact absurd hb (by decide)
  rw [modS_eq_tmod nonzero, hb, Int.tmod_neg, Int.tmod_one]
  rfl

end

theorem abs_tmod_lt (a : Int) {b : Int} (nonzero : b ≠ 0) : |a.tmod b| < |b| := by
  rw [Int.abs_eq_natAbs, Int.abs_eq_natAbs, Int.natAbs_tmod]
  exact_mod_cast Nat.mod_lt _ (Int.natAbs_pos.mpr nonzero)

theorem tmod_nonpos {a : Int} (b : Int) (nonpos : a ≤ 0) : a.tmod b ≤ 0 := by
  have := Int.tmod_nonneg b (Int.neg_nonneg.mpr nonpos)
  rw [Int.neg_tmod] at this
  omega

theorem toInt_ne_zero {b : Word} (nonzero : b ≠ 0) : b.toInt ≠ 0 := fun h => nonzero (BitVec.toInt_inj.mp h)

theorem ite_lt_eq_ite_le {α β : Type} [LinearOrder α] (x y : α) (p q : β) [Decidable (x < y)] [Decidable (y ≤ x)] :
    (if x < y then p else q) = if y ≤ x then q else p := by
  rcases lt_or_ge x y with h | h
  · rw [if_pos h, if_neg (not_le.mpr h)]
  · rw [if_neg (not_lt.mpr h), if_pos h]

theorem and_lowHalf (a : Word) : a &&& 0xFFFF#32 = (a.extractLsb' 0 16).setWidth 32 := by
  have low : a.toNat &&& 65535 = a.toNat % 65536 := Nat.and_two_pow_sub_one_eq_mod a.toNat 16
  apply BitVec.eq_of_toNat_eq
  simp [low]
  omega

/-- HI.K puts the immediate above the register's low half. -/
theorem hiK_eq_append (a : Word) (imm : BitVec 16) :
    (imm.zeroExtend 32 <<< 16) ||| (a &&& 0xFFFF#32) = imm ++ a.extractLsb' 0 16 := by
  have joined := BitVec.append_def imm (a.extractLsb' 0 16)
  rw [BitVec.shiftLeftZeroExtend_eq] at joined
  rw [and_lowHalf]
  exact joined.symm

theorem shiftLeft_two (x : Word) : x <<< 2 = x * 4 := BitVec.shiftLeft_eq_mul_twoPow x 2

/-- Settles O6. Each row writes the model's result (`exec_alu`, `exec_imm`); a quotient and a remainder are those of truncated
division but for the cases R382 decides. -/
theorem integerInstructionsSaturateAndRaiseNothing : Obligations.IntegerInstructionsSaturateAndRaiseNothing := by
  unfold Obligations.IntegerInstructionsSaturateAndRaiseNothing
  refine ⟨fun s c rd ra rb fetches => ?alu, fun s c rd ra k imm fetches => ?immediate,
    fun s c rd ra rb fetches => ?division, fun k rd v => ?kept⟩
  case alu =>
    intro a b put
    exact ⟨exec_alu fetches rfl rfl, exec_alu fetches rfl rfl, exec_alu fetches rfl rfl, exec_alu fetches rfl rfl,
      exec_alu fetches rfl rfl, exec_alu fetches rfl rfl, exec_alu fetches rfl rfl, exec_alu fetches rfl rfl,
      exec_alu fetches rfl (flag_decide _), exec_alu fetches rfl (flag_decide _),
      exec_alu fetches rfl rfl, exec_alu fetches rfl rfl, exec_alu fetches rfl rfl,
      exec_alu fetches rfl (ite_lt_eq_ite_le ..), exec_alu fetches rfl (ite_lt_eq_ite_le ..),
      exec_alu fetches rfl (ite_lt_eq_ite_le ..), exec_alu fetches rfl (ite_lt_eq_ite_le ..)⟩
  case immediate =>
    intro a put
    refine ⟨exec_imm fetches rfl rfl, exec_imm fetches rfl rfl, exec_imm fetches rfl rfl, exec_imm fetches rfl rfl,
      exec_imm fetches rfl ?signed, exec_imm fetches rfl (flag_decide _), exec_imm fetches rfl (hiK_eq_append ..),
      exec_imm fetches rfl rfl, exec_imm fetches rfl rfl, exec_imm fetches rfl rfl⟩
    case signed => exact (flag_decide _).trans (by rw [BitVec.toInt_signExtend_of_le (by decide)])
  case division =>
    intro a b put
    exact ⟨fun zero nonneg => exec_alu fetches rfl ((congrArg (quo a) zero).trans (quo_zero_of_nonneg nonneg)),
      fun zero neg => exec_alu fetches rfl ((congrArg (quo a) zero).trans (quo_zero_of_neg neg)),
      fun zero => exec_alu fetches rfl (if_pos zero), fun zero => exec_alu fetches rfl (if_pos zero),
      fun zero => exec_alu fetches rfl (if_pos zero),
      fun lowest minusOne => ⟨exec_alu fetches rfl (quo_saturates lowest minusOne),
        exec_alu fetches rfl (modS_minusOne minusOne)⟩,
      fun nonzero fits => ⟨a.toInt.tdiv b.toInt, a.toInt.tmod b.toInt, (Int.mul_tdiv_add_tmod ..).symm,
        abs_tmod_lt _ (toInt_ne_zero nonzero), Int.tmod_nonneg _, tmod_nonpos _,
        exec_alu fetches rfl (quo_eq_tdiv nonzero fits), exec_alu fetches rfl (modS_eq_tmod nonzero)⟩,
      fun nonzero => ⟨exec_alu fetches rfl (if_neg nonzero), exec_alu fetches rfl (if_neg nonzero)⟩⟩
  case kept => simp [Core.putReg]

/-! ### Binary32 results, PCREL and DEC (R379, R383, R385) -/

section
variable {x y : Val}

theorem lt_of_nan (nan : x.isNan || y.isNan) : Val.lt x y = false := by
  rcases Bool.or_eq_true_iff.mp nan with h | h
  · cases x <;> simp [Val.isNan] at h
    rfl
  · cases y <;> simp [Val.isNan] at h
    cases x <;> rfl

theorem eqv_of_nan (nan : x.isNan || y.isNan) : Val.eqv x y = false := by
  rcases Bool.or_eq_true_iff.mp nan with h | h <;> simp [Val.eqv, h]

theorem eqv_of_ordered (hx : x.isNan = false) (hy : y.isNan = false) :
    Val.eqv x y = (!Val.lt x y && !Val.lt y x) := by simp [Val.eqv, hx, hy]

end

theorem fmin_of_ordered {a b : Word} (ha : (f32 a).isNan = false) (hb : (f32 b).isNan = false) :
    fmin a b = if fbelow b a then b else a := if_neg (by simp [ha, hb])

theorem fmax_of_ordered {a b : Word} (ha : (f32 a).isNan = false) (hb : (f32 b).isNan = false) :
    fmax a b = if fbelow a b then b else a := if_neg (by simp [ha, hb])

section
variable {k : Core} {src : BitVec 4} (rd ra : BitVec 5)

theorem Core.decode_defined {f : Elem} (defined : decSrcDefined src.toNat = true) (format : cvtFormat src.toNat = some f) :
    k.decode rd ra src = k.putReg rd (rne32 (f.decode ((k.bank.reg ra).toNat % 2 ^ f.bits))) := by
  rw [Core.decode, format]
  exact if_pos defined

theorem Core.decode_reserved (reserved : decSrcDefined src.toNat = false) :
    k.decode rd ra src = k.raiseAt 3 (wordI 0x35 rd ra (src.zeroExtend 16 <<< 12)) := by
  rw [Core.decode]
  split
  · rfl
  · exact if_neg (by simp [reserved])

end

/-- Settles O7. The rows differ by whether an operand is a NaN (`lt_of_nan`, `fmin_of_ordered`), DEC by whether its source code is
defined. -/
theorem binaryFloatAndDecodeResults : Obligations.BinaryFloatAndDecodeResults := by
  unfold Obligations.BinaryFloatAndDecodeResults
  intro s c rd ra rb imm src fetches a b put less
  refine ⟨exec_alu fetches rfl rfl, exec_alu fetches rfl rfl, exec_alu fetches rfl rfl, fun nan => ?nan, fun ha hb => ?ordered,
    exec_result fetches rfl rfl (congrArg (_ + ·) (shiftLeft_two _)),
    fun f defined format => exec_seqOn fetches rfl (Core.decode_defined rd ra defined format),
    fun reserved => exec_seqOn fetches rfl (Core.decode_reserved rd ra reserved)⟩
  case nan =>
    exact ⟨exec_alu fetches rfl (if_pos nan), exec_alu fetches rfl (if_pos nan),
      exec_alu fetches rfl (congrArg flag (lt_of_nan nan)), exec_alu fetches rfl (congrArg flag (eqv_of_nan nan))⟩
  case ordered =>
    exact ⟨exec_alu fetches rfl (fmin_of_ordered ha hb), exec_alu fetches rfl (fmax_of_ordered ha hb),
      exec_alu fetches rfl rfl, exec_alu fetches rfl (congrArg flag (eqv_of_ordered ha hb))⟩

/-! ### What a result leaves (R372, R374, R377) -/

/-- The instructions with a destination register write it and do nothing else to their core (R379, R380). -/
theorem seqOn_of_regDest {i : Instr} {c : Nat} {rd : BitVec 5} (dest : regDest i = some (c, rd)) (s : State) :
    ∃ f, exec i s = .next (s.seqOn c f) ∧ ∀ k, ∃ v, f k = Core.putReg k rd v := by
  unfold regDest at dest
  split at dest <;> cases dest <;> exact ⟨_, rfl, fun _ => ⟨_, rfl⟩⟩

theorem exec_of_regDest {i : Instr} {s : State} {c : Nat} {rd : BitVec 5} (dest : regDest i = some (c, rd))
    (fetches : Fetches s c) : ∃ v, exec i s = .next (s.onCore c fun k => k.putReg rd v) := by
  obtain ⟨f, arm, writes⟩ := seqOn_of_regDest dest s
  obtain ⟨v, result⟩ := writes (s.core c)
  exact ⟨v, exec_result fetches arm result rfl⟩

/-- A sequencer instruction changes its core alone, whatever its state (R377). -/
theorem seqOn_of_seqCore {i : Instr} {c : Nat} (own : seqCore i = some c) (s : State) :
    ∃ f, exec i s = .next (s.seqOn c f) := by
  unfold seqCore at own
  split at own
  case h_31 =>
    obtain ⟨⟨d, rd⟩, dest, rfl⟩ := Option.map_eq_some_iff.mp own
    obtain ⟨f, arm, -⟩ := seqOn_of_regDest dest s
    exact ⟨f, arm⟩
  all_goals cases own; exact ⟨_, rfl⟩

@[simp] theorem SeqBank.special_next (b : SeqBank) (n : Nat) : b.next.special n = b.special n := rfl

@[simp] theorem SeqBank.next_active (b : SeqBank) : b.next.active = b.active := rfl

@[simp] theorem SeqBank.special_setReg (b : SeqBank) (r : BitVec 5) (v : Word) (n : Nat) :
    (b.setReg r v).special n = b.special n := by
  unfold SeqBank.setReg
  split <;> rfl

/-- The bank that does not run stays when the other one is replaced. -/
theorem Core.setBank_idle (k : Core) (b : SeqBank) :
    if k.urgent then (k.setBank b).bankN = k.bankN else (k.setBank b).bankU = k.bankU := by
  split
  case isTrue urgent => exact if_pos urgent
  case isFalse normal => exact if_neg normal

/-- A core is changed alone, also where none is present. -/
theorem State.onCore_eq_core (s : State) (c : Nat) (f : Core → Core) :
    s.onCore c f = s.onCore c fun _ => (s.onCore c f).core c := by
  rcases Nat.lt_or_ge c s.cores.length with present | absent
  · rw [s.core_onCore_same f present]
    exact s.onCore_const c f
  · rw [State.onCore, State.onCore, List.modify_eq_self absent, List.modify_eq_self absent]

/-- Settles O8. A register write leaves what `Core.putReg` leaves (`exec_of_regDest`); any other instruction of the sequencer
changes its own core (`seqOn_of_seqCore`). -/
theorem sequencerInstructionsKeepTheRest : Obligations.SequencerInstructionsKeepTheRest := by
  unfold Obligations.SequencerInstructionsKeepTheRest
  refine ⟨fun i s t c rd dest fetches _ done => ?result, fun i s c own => ?sequencer⟩
  case result =>
    obtain ⟨v, arm⟩ := exec_of_regDest dest fetches
    obtain rfl : s.onCore c (·.putReg rd v) = t := Host.Outcome.next.inj (arm.symm.trans done)
    have after : (s.onCore c (·.putReg rd v)).core c = (s.core c).putReg rd v := s.core_onCore_same _ fetches.1
    have only := s.onCore_eq_core c (·.putReg rd v)
    dsimp only
    rw [after] at only ⊢
    exact ⟨fun r other => (Core.reg_putReg ..).trans (if_neg fun h => other h.1), rfl, by simp [Core.putReg],
      fun n => by simp [Core.putReg], by simp [Core.putReg], rfl, Core.setBank_idle .., fun _ => rfl, rfl, rfl, rfl, rfl, rfl,
      rfl, only⟩
  case sequencer =>
    obtain ⟨f, arm⟩ := seqOn_of_seqCore own s
    exact ⟨_, arm, s.onCore_eq_core c _⟩

/-! ### Loads (R375, R379, R388) -/

theorem Core.loadNat_lt (k : Core) (a n : Nat) : k.loadNat a n < 256 ^ n := by
  rw [Core.loadNat]
  split
  · exact fld_lt ..
  · exact k.store.readLe_lt ..

section
variable {k : Core} {rd ra : BitVec 5} {imm : BitVec 16} {n : Nat} {ext : Nat → Word} {a : Word}
  (place : k.bank.reg ra + imm.signExtend 32 = a)
include place

theorem Core.load_reads (aligned : a.toNat % n = 0) (reach : k.bank.inProgram a.toNat n || inWindow a.toNat n) :
    k.load rd ra imm n ext = k.putReg rd (ext (k.loadNat a.toNat n)) := by
  subst place
  exact (if_neg (not_not.mpr aligned)).trans (if_neg (by rw [reach]; decide))

/-- The alignment is judged before the range (log entry 23). -/
theorem Core.load_misaligned (odd : a.toNat % n ≠ 0) : k.load rd ra imm n ext = k.raiseAt 4 a := by
  subst place
  exact if_pos odd

theorem Core.load_outside (aligned : a.toNat % n = 0)
    (outside : (k.bank.inProgram a.toNat n || inWindow a.toNat n) = false) : k.load rd ra imm n ext = k.raiseAt 5 a := by
  subst place
  exact (if_neg (not_not.mpr aligned)).trans (if_pos (by rw [outside]; decide))

end

/-- A number that fits in w bits is widened with zeros. -/
theorem ofNat_eq_zeroExtend {w v : Nat} (fits : v < 2 ^ w) : BitVec.ofNat 32 v = (BitVec.ofNat w v).zeroExtend 32 := by
  apply BitVec.eq_of_toNat_eq
  simp [Nat.mod_eq_of_lt fits]

/-- Settles O9. A load is one of three: it reads, or its address is misaligned, or aligned and out of reach. -/
theorem loadsExtendAndCheckTheirAddress : Obligations.LoadsExtendAndCheckTheirAddress := by
  unfold Obligations.LoadsExtendAndCheckTheirAddress
  intro s c rd ra imm fetches k a put raised reach
  have byte : a.toNat % 1 = 0 := Nat.mod_one _
  have half : BitVec.ofNat 32 (k.loadNat a.toNat 2) = _ := ofNat_eq_zeroExtend (w := 16) (k.loadNat_lt a.toNat 2)
  have low : BitVec.ofNat 32 (k.loadNat a.toNat 1) = _ := ofNat_eq_zeroExtend (w := 8) (k.loadNat_lt a.toNat 1)
  have reads {i : Instr} {n : Nat} {ext : Nat → Word} {w : Word} (arm : exec i s = .next (s.seqOn c (·.load rd ra imm n ext)))
      (aligned : a.toNat % n = 0) (reached : reach n) (value : ext (k.loadNat a.toNat n) = w) : exec i s = put w :=
    exec_result fetches arm (Core.load_reads rfl aligned reached) value
  have odd {i : Instr} {n : Nat} {ext : Nat → Word} (arm : exec i s = .next (s.seqOn c (·.load rd ra imm n ext)))
      (misaligned : a.toNat % n ≠ 0) : exec i s = raised 4 := exec_seqOn fetches arm (Core.load_misaligned rfl misaligned)
  have out {i : Instr} {n : Nat} {ext : Nat → Word} (arm : exec i s = .next (s.seqOn c (·.load rd ra imm n ext)))
      (aligned : a.toNat % n = 0) (outside : reach n = false) : exec i s = raised 5 :=
    exec_seqOn fetches arm (Core.load_outside rfl aligned outside)
  exact ⟨fun aligned reached => reads rfl aligned reached rfl,
    fun aligned reached => ⟨reads rfl aligned reached rfl, reads rfl aligned reached half⟩,
    fun reached => ⟨reads rfl byte reached rfl, reads rfl byte reached low⟩,
    fun misaligned => odd rfl misaligned, fun misaligned => ⟨odd rfl misaligned, odd rfl misaligned⟩,
    fun aligned outside => out rfl aligned outside, fun aligned outside => ⟨out rfl aligned outside, out rfl aligned outside⟩,
    fun outside => ⟨out rfl byte outside, out rfl byte outside⟩⟩

/-! ### Stores (R375, R379, R388) -/

section
variable {k : Core} {rd ra : BitVec 5} {imm : BitVec 16} {n : Nat} {a : Word}
  (place : k.bank.reg ra + imm.signExtend 32 = a)
include place

theorem Core.storeReg_writes (aligned : a.toNat % n = 0) (inside : k.bank.inProgram a.toNat n = true) :
    k.storeReg rd ra imm n
      = { k.setBank k.bank.next with store := k.store.writeLe a.toNat n (k.bank.reg rd).toNat } := by
  subst place
  exact (if_neg (not_not.mpr aligned)).trans (if_neg (by rw [inside]; decide))

/-- The alignment is judged before the range (log entry 23). -/
theorem Core.storeReg_misaligned (odd : a.toNat % n ≠ 0) : k.storeReg rd ra imm n = k.raiseAt 4 a := by
  subst place
  exact if_pos odd

theorem Core.storeReg_outside (aligned : a.toNat % n = 0) (outside : k.bank.inProgram a.toNat n = false) :
    k.storeReg rd ra imm n = k.raiseAt 5 a := by
  subst place
  exact (if_neg (not_not.mpr aligned)).trans (if_pos (by rw [outside]; decide))

end

/-- Settles O10. As for loads; what a store writes reads back by the laws of core store. -/
theorem storesWriteExactlyTheirBytes : Obligations.StoresWriteExactlyTheirBytes := by
  unfold Obligations.StoresWriteExactlyTheirBytes
  intro s c rd ra imm fetches wf k a wrote raised
  have byte : a.toNat % 1 = 0 := Nat.mod_one _
  have writes {i : Instr} {n : Nat} (arm : exec i s = .next (s.seqOn c (·.storeReg rd ra imm n)))
      (aligned : a.toNat % n = 0) (inside : k.bank.inProgram a.toNat n) : wrote n i := by
    refine .of_fetches fetches arm fun t after only => ?_
    rw [Core.storeReg_writes rfl aligned inside] at after
    have bank : (t.core c).bank = k.bank.next := after ▸ k.bank_setBank _
    have store : (t.core c).store = k.store.writeLe a.toNat n (k.bank.reg rd).toNat := after ▸ rfl
    rw [bank, store]
    exact ⟨CStore.readLe_writeLe wf .., fun x beyond => CStore.read_writeBytes_outside wf (by rwa [length_leBytes]),
      CStore.wf_writeBytes wf .., fun _ => rfl, fun _ => rfl, rfl, only⟩
  have odd {i : Instr} {n : Nat} (arm : exec i s = .next (s.seqOn c (·.storeReg rd ra imm n)))
      (misaligned : a.toNat % n ≠ 0) : exec i s = raised 4 := exec_seqOn fetches arm (Core.storeReg_misaligned rfl misaligned)
  have out {i : Instr} {n : Nat} (arm : exec i s = .next (s.seqOn c (·.storeReg rd ra imm n)))
      (aligned : a.toNat % n = 0) (outside : k.bank.inProgram a.toNat n = false) : exec i s = raised 5 :=
    exec_seqOn fetches arm (Core.storeReg_outside rfl aligned outside)
  exact ⟨writes rfl, writes rfl, writes rfl byte, odd rfl, odd rfl, out rfl, out rfl, out rfl byte⟩

/-! ### Branches and calls (R379) -/

theorem Core.branch_goes (k : Core) (off : BitVec 16) {taken : Bool} {p : Prop} [Decidable p] (same : taken = true ↔ p) :
    k.branch taken off = k.setBank (k.bank.jump (if p then k.bank.pc + off.signExtend 32 * 4 else k.bank.pc + 4)) := by
  rw [Core.branch, shiftLeft_two]
  by_cases h : p
  · rw [if_pos (same.mpr h), if_pos h]
  · rw [if_neg (mt same.mp h), if_neg h]
    rfl

theorem SeqBank.target_eq (b : SeqBank) (far : BitVec 26) : b.target far = b.pc + far.signExtend 32 * 4 :=
  congrArg (b.pc + ·) (shiftLeft_two _)

section
variable {k : Core} {rd ra : BitVec 5} {imm : BitVec 16} {t : Word} (place : k.bank.reg ra + imm.signExtend 32 = t)
include place

theorem Core.callr_goes (aligned : t.toNat % 4 = 0) :
    k.callr rd ra imm = k.setBank ((k.bank.setReg rd (k.bank.pc + 4)).jump t) := by
  subst place
  exact if_neg (not_not.mpr aligned)

/-- A misaligned target is ALIGN with the instruction word in EADDR (R387, R388, log entry 23). -/
theorem Core.callr_misaligned (odd : t.toNat % 4 ≠ 0) : k.callr rd ra imm = k.raiseAt 4 (wordI 0x20 rd ra imm) := by
  subst place
  exact if_pos odd

end

/-- Settles O11. A branch turns on its test (`Core.branch_goes`), CALLR on its target's alignment. -/
theorem branchesAndCallsContinueAtTheirTargets : Obligations.BranchesAndCallsContinueAtTheirTargets := by
  unfold Obligations.BranchesAndCallsContinueAtTheirTargets
  intro s c rd ra rb off far fetches k a b goes br t
  have row {i : Instr} {p : Prop} [Decidable p] {test : Word → Word → Bool} (arm : exec i s = .next (s.brOn c ra rb off test))
      (same : test a b = true ↔ p) : exec i s = br p := exec_seqOn fetches arm (Core.branch_goes _ off same)
  exact ⟨row rfl beq_iff_eq, row rfl bne_iff_ne, row rfl decide_eq_true_iff, row rfl decide_eq_true_iff,
    row rfl decide_eq_true_iff, row rfl decide_eq_true_iff,
    exec_seqOn fetches rfl (congrArg (fun x => k.setBank (k.bank.jump x)) (k.bank.target_eq far)),
    exec_seqOn fetches rfl (congrArg (fun x => k.setBank ((k.bank.setReg 30 (k.bank.pc + 4)).jump x)) (k.bank.target_eq far)),
    fun aligned => exec_seqOn fetches rfl (Core.callr_goes rfl aligned),
    fun odd => exec_seqOn fetches rfl (Core.callr_misaligned rfl odd)⟩

end Sys2Proof.Machine
end

section
/-! PROOFS. The exceptions and the system instructions of the core sequencer (chapter 11): what an entry saves and leaves, how a
program ends, and the instructions that reach the tile queue and the token counters. -/

namespace Sys2Proof

/-- A field of a block of bytes that was just written reads back as its number. -/
theorem CStore.readLe_writeBytes_field {m : CStore} (wf : Memory.wf m.mem = true) (a : Nat) {bs : List Byte} {i n v : Nat}
    (fits : i + n ≤ bs.length) (field : (bs.drop i).take n = leBytes n v) (small : v < 256 ^ n) :
    (m.writeBytes a bs).readLe (a + i) n = v := by
  rw [CStore.readLe_writeBytes_part wf a i n bs fits, field, leNat_leBytes, Nat.mod_eq_of_lt small]

end Sys2Proof

namespace Sys2Proof.Machine

/-! ### The end of a program (R392, R395) -/

section
variable (k : Core) (status info : Nat)

@[simp] theorem Core.bank_endProgram : (k.endProgram status info).bank = SeqBank.reset := Core.bank_setBank ..

@[simp] theorem Core.store_endProgram : (k.endProgram status info).store = k.store := by
  rw [Core.endProgram]
  split <;> rfl

variable {k} (running : k.bank.active = true)
include running

theorem Core.endProgram_running : k.endProgram status info = (k.endOp k.bank.ctx.asn status info).setBank SeqBank.reset := by
  rw [Core.endProgram, if_pos running]

/-- The first ending of a core's operation is recorded. -/
theorem Core.endings_endProgram (first : k.endings = []) :
    (k.endProgram status info).endings = [⟨k.bank.ctx.asn, status, info⟩] := by
  rw [Core.endProgram_running _ _ running]
  simp [Core.endOp, Core.recordEnd, first]

/-- The operation's stream programs stop at their next instruction. -/
theorem Core.stopped_of_mem_endProgram {e : StreamEng} (mem : e ∈ (k.endProgram status info).engines)
    (runs : e.running = true) (owner : e.asn = k.bank.ctx.asn) : e.stopped = true := by
  rw [Core.endProgram_running _ _ running] at mem
  obtain ⟨e', -, rfl⟩ := List.mem_map.mp mem
  simp [show e'.running = true from runs, show e'.asn = k.bank.ctx.asn from owner]

/-- Of the operation's tile entries those in flight stay. -/
theorem Core.issued_of_mem_endProgram {q : TileEntry} (mem : q ∈ (k.endProgram status info).queue)
    (owner : q.asn = k.bank.ctx.asn) : q.issued = true := by
  rw [Core.endProgram_running _ _ running] at mem
  simpa [owner] using (List.mem_filter.mp mem).2

end

/-! ### Entries (R389, R390) -/

theorem SeqBank.stackFits_iff (b : SeqBank) : b.stackFits = true ↔ (b.reg 31 - 16).toNat % 16 = 0
    ∧ b.slo.toNat ≤ (b.reg 31 - 16).toNat ∧ (b.reg 31 - 16).toNat + 16 ≤ b.shi.toNat := by
  simp only [SeqBank.stackFits, Bool.and_eq_true, decide_eq_true_eq, and_assoc]

theorem toNat_cause {n : Nat} (small : n < 32) : (BitVec.ofNat 32 n).toNat = n := by
  rw [BitVec.toNat_ofNat]
  omega

/-- A field of the frame of a first-level entry. -/
theorem Core.readLe_enterFirst {k : Core} (wf : Memory.wf k.store.mem = true) (x : Exc) {i v : Nat} (fits : i + 4 ≤ 16)
    (field : ((excFrame k.bank x).drop i).take 4 = leBytes 4 v) (small : v < 256 ^ 4) :
    (k.enterFirst x).store.readLe ((k.bank.reg 31 - 16).toNat + i) 4 = v :=
  CStore.readLe_writeBytes_field wf _ (by rwa [length_excFrame]) field small

/-- A field of the fault save block of a second-level entry. -/
theorem Core.readLe_enterSecond {k : Core} (wf : Memory.wf k.store.mem = true) (valid : k.bank.fsbValid = true) (x : Exc)
    (reason : Nat) {i n v : Nat} (fits : i + n ≤ 64) (field : ((fsbBlock k.bank x reason).drop i).take n = leBytes n v)
    (small : v < 256 ^ n) : (k.enterSecond x reason).store.readLe (k.bank.fsb.toNat + i) n = v := by
  rw [Core.enterSecond_store valid]
  exact CStore.readLe_writeBytes_field wf _ (by rwa [length_fsbBlock]) field small

/-- An HRET that returns restores STA, g31 and the pc, and leaves the rest. -/
theorem exec_hret_returns {s : State} {c : Nat} (fetches : Fetches s c) {sp sta : Word}
    (returns : (s.core c).hret = (s.core c).setBank { (s.core c).bank.setReg 31 sp with
      sta := sta, pc := (s.core c).bank.era, tags := (s.core c).bank.touched }) :
    Does (.hret c) s fun t => (t.core c).bank.sta = sta ∧ (t.core c).bank.reg 31 = sp
      ∧ (∀ r, r ≠ 31 → (t.core c).bank.reg r = (s.core c).bank.reg r) ∧ (t.core c).bank.pc = (s.core c).bank.era
      ∧ (t.core c).store = (s.core c).store ∧ t = s.onCore c fun _ => t.core c := by
  refine .of_fetches fetches rfl fun t after only => ?_
  rw [returns] at after
  have bank := (congrArg Core.bank after).trans (Core.bank_setBank ..)
  rw [bank]
  exact ⟨rfl, (SeqBank.reg_setReg ..).trans (if_pos ⟨rfl, by decide⟩),
    fun r other => (SeqBank.reg_setReg ..).trans (if_neg fun h => other h.1), rfl, after ▸ rfl, only⟩

/-- Settles O12. The row that applies is one of the laws `Core.raise_…`; a first-level entry writes its frame and its bank,
and HRET reads the frame back. -/
theorem firstLevelEntryAndReturn : Obligations.FirstLevelEntryAndReturn := by
  unfold Obligations.FirstLevelEntryAndReturn
  refine ⟨fun k x wf cause => ?rows, fun s c fetches level => ?hret⟩
  case rows =>
    intro b handled sp fits
    refine ⟨fun unhandled running first => ?ends, fun ⟨notHeader, vector⟩ level => Core.raise_double notHeader vector level,
      fun ⟨notHeader, vector⟩ level => Core.raise_nested notHeader vector level,
      fun ⟨notHeader, vector⟩ level full => Core.raise_stack notHeader vector (level.trans_ne (by decide))
        (level.trans_ne (by decide)) (Bool.eq_false_iff.mpr (mt b.stackFits_iff.mp full)),
      fun ⟨notHeader, vector⟩ level room => ?enters⟩
    case ends =>
      rw [Core.raise_none ((not_and_or.mp unhandled).imp not_not.mp Bool.eq_false_iff.mpr)]
      exact ⟨Core.endings_endProgram _ _ running first, Core.store_endProgram ..,
        congrArg SeqBank.active (Core.bank_endProgram ..)⟩
    case enters =>
      rw [Core.raise_first notHeader vector (level.trans_ne (by decide)) (level.trans_ne (by decide))
        (b.stackFits_iff.mpr room)]
      dsimp only
      rw [Core.enterFirst_bank]
      exact ⟨Core.readLe_enterFirst (i := 0) wf x (by decide) rfl b.era.isLt,
        Core.readLe_enterFirst wf x (by decide) rfl b.sta.isLt, Core.readLe_enterFirst wf x (by decide) rfl b.ecause.isLt,
        Core.readLe_enterFirst wf x (by decide) rfl x.eaddr.isLt,
        fun a outside => CStore.read_writeBytes_outside wf (by rwa [length_excFrame]),
        (b.reg_setReg ..).trans (if_pos ⟨rfl, by decide⟩), fun r other => (b.reg_setReg ..).trans (if_neg fun h => other h.1),
        rfl, toNat_cause cause, rfl, rfl, b.setReg_evb .., b.setReg_slo .., b.setReg_shi .., b.setReg_fsb ..⟩
  case hret => exact exec_hret_returns fetches (Core.hret_first level)

/-- Settles O13. A valid FSB_BASE lets the save block be written (`Core.readLe_enterSecond`); a double fault is the end of
the program with the halt recorded. -/
theorem secondLevelEntryAndDoubleFault : Obligations.SecondLevelEntryAndDoubleFault := by
  unfold Obligations.SecondLevelEntryAndDoubleFault
  intro k x reason wf cause small b f
  refine ⟨fun valid => ?enters, fun invalid => if_pos (by rw [invalid]; rfl), fun kind running first => ?halts⟩
  case enters =>
    have saved {i n v : Nat} := Core.readLe_enterSecond wf valid x reason (i := i) (n := n) (v := v)
    dsimp only
    rw [Core.enterSecond_bank valid]
    exact ⟨saved (i := 0) (by decide) rfl b.era.isLt, saved (by decide) rfl b.sta.isLt, saved (by decide) rfl b.ecause.isLt,
      saved (by decide) rfl x.eaddr.isLt, saved (by decide) rfl (b.reg 31).isLt, saved (by decide) rfl (b.reg 30).isLt,
      saved (by decide) rfl (by omega), saved (by decide) rfl x.addr.isLt, saved (by decide) rfl (by omega),
      saved (by decide) rfl (by decide),
      fun a outside => Core.enterSecond_store valid x reason ▸ CStore.read_writeBytes_outside wf (by rwa [length_fsbBlock]),
      fun _ => rfl, rfl, toNat_cause cause, rfl, rfl⟩
  case halts =>
    exact ⟨Core.store_endProgram .., congrArg SeqBank.active (Core.bank_endProgram ..), rfl, rfl,
      Core.endings_endProgram _ _ running first,
      fun e mem runs owner => Core.stopped_of_mem_endProgram _ _ running mem runs owner,
      fun q mem owner => Core.issued_of_mem_endProgram _ _ running mem owner⟩

/-! ### System instructions (R373, R381, R395) -/

theorem SeqBank.special_reserved (b : SeqBank) {n : Nat} (reserved : 7 ≤ n) : b.special n = none := by
  obtain ⟨m, rfl⟩ := Nat.exists_eq_add_of_le' reserved
  rfl

theorem SeqBank.setSpecial_reserved (b : SeqBank) (v : Word) {n : Nat} (reserved : 7 ≤ n) : b.setSpecial n v = none := by
  obtain ⟨m, rfl⟩ := Nat.exists_eq_add_of_le' reserved
  rfl

section
variable (k : Core) (rd ra : BitVec 5) {n code : BitVec 5}

theorem Core.sget_reads {v : Word} (read : k.bank.special n.toNat = some v) : k.sget rd n = k.putReg rd v := by
  rw [Core.sget, read]

theorem Core.sget_reserved (reserved : 7 ≤ n.toNat) : k.sget rd n = k.raiseAt 6 (wordR 0x28 rd 0 n 0) := by
  rw [Core.sget, SeqBank.special_reserved _ reserved]
  rfl

theorem Core.sput_writes {b : SeqBank} (written : k.bank.setSpecial n.toNat (k.bank.reg ra) = some b) :
    k.sput ra n = k.setBank b.next := by
  rw [Core.sput, written]

theorem Core.sput_reserved (reserved : 7 ≤ n.toNat) : k.sput ra n = k.raiseAt 6 (wordR 0x28 0 ra n 1) := by
  rw [Core.sput, SeqBank.setSpecial_reserved _ _ reserved]
  rfl

theorem Core.trap_raises (small : code.toNat < 16) :
    k.trap code = k.raise ⟨0x10 + code.toNat, wordR 0x28 0 0 code 3, k.bank.pc, k.bank.pc + 4⟩ :=
  if_neg (Nat.not_le.mpr small)

theorem Core.done_reserved (reserved : 2 ≤ code.toNat) : k.done code = k.raiseAt 3 (wordR 0x28 0 0 code 4) := if_pos reserved

theorem Core.done_one : k.done 1 =
    k.endProgram 0x20 (seqInfo (if k.bank.hlv = 0 then 0x0F else k.bank.ecause.toNat % 256) k.bank.pc 0) := rfl

variable {k}

theorem Core.done_zero_waits (busy : k.streaming k.bank.ctx.asn = true) : k.done 0 = k := if_pos busy

theorem Core.done_zero_ends (idle : k.streaming k.bank.ctx.asn = false) :
    k.done 0 = (k.itemDone k.bank.ctx.asn k.bank.item).setBank SeqBank.reset := if_neg (by simp [idle])

/-- Every copy of an item on a core is done once one is marked. -/
theorem Core.done_of_mem_itemDone {asn item : Nat} {g : Seg} (mem : g ∈ (k.itemDone asn item).segs) (owner : g.ctx.asn = asn)
    {i : Item} (held : i ∈ g.items) (num : i.num = item) : i.done = true := by
  obtain ⟨h, -, rfl⟩ := List.mem_map.mp mem
  have mine : h.ctx.asn = asn := by
    split at owner
    · assumption
    · exact owner
  rw [if_pos mine] at held
  obtain ⟨j, -, rfl⟩ := List.mem_map.mp held
  split
  case isTrue => rfl
  case isFalse other => exact absurd num (by rwa [if_neg other])

end

/-- Settles O14. Each instruction is one equation of the core for each number or code its row names; a DONE 0 that waits leaves
the state (log entry 78). -/
theorem systemInstructionsAct : Obligations.SystemInstructionsAct := by
  unfold Obligations.SystemInstructionsAct
  intro s c rd ra n code fetches k b a becomes put spec w
  have acts {i : Instr} {f : Core → Core} {k' : Core} (arm : exec i s = .next (s.seqOn c f)) (meaning : f k = k') :
      exec i s = becomes k' := exec_seqOn fetches arm meaning
  have reads {v : Word} (read : b.special n.toNat = some v) : exec (.sget c rd n) s = put v := acts rfl (k.sget_reads rd read)
  have writes {b' : SeqBank} (written : b.setSpecial n.toNat a = some b') : exec (.sput c ra n) s = spec b' :=
    acts rfl (k.sput_writes ra written)
  refine ⟨fun h => ⟨reads (h ▸ rfl), writes (h ▸ rfl)⟩, fun h => ⟨reads (h ▸ rfl), writes (h ▸ rfl)⟩,
    fun h => ⟨reads (h ▸ rfl), writes (h ▸ rfl)⟩, fun h => ⟨reads (h ▸ rfl), writes (h ▸ rfl)⟩,
    fun h => ⟨reads (h ▸ rfl), writes (h ▸ rfl)⟩, fun h => ⟨reads (h ▸ rfl), writes (h ▸ rfl)⟩,
    fun h => ⟨reads (h ▸ rfl), writes (h ▸ rfl)⟩,
    fun reserved => ⟨acts rfl (k.sget_reserved rd reserved), acts rfl (k.sput_reserved ra reserved)⟩,
    fun outside => acts rfl (if_pos outside), fun second => ?hret, fun small => acts rfl (k.trap_raises small),
    fun large => acts rfl (if_pos large), acts rfl rfl, fun reserved => acts rfl (k.done_reserved reserved),
    fun one => one ▸ acts rfl k.done_one, fun zero busy => ?waits, fun zero idle => ?ends⟩
  case hret =>
    obtain ⟨t, done, sta, sp, reg, pc, store, -⟩ := exec_hret_returns fetches (Core.hret_second second)
    exact ⟨t, done, sta, sp, reg, pc, store⟩
  case waits =>
    subst zero
    exact exec_seqOn_waits fetches rfl (Core.done_zero_waits busy)
  case ends =>
    subst zero
    refine .of_fetches fetches rfl fun t after _ => ?_
    rw [after, Core.done_zero_ends idle, Core.bank_setBank]
    exact ⟨rfl, rfl, fun g mem owner i held num => Core.done_of_mem_itemDone mem owner held num⟩

/-! ### The tile queue, token counters and conversions (R384, R386, R398) -/

section
variable {k : Core}

/-- QT puts its words behind the entries of the queue. -/
theorem Core.queueTile_appends {rs : Resident} {w0 w1 w2 : Word} (room : k.shareFull k.urgent = false)
    (legal : firstFault (k.tileFaults rs (k.newEntry w0 w1 w2)) = none) :
    ∃ bound recs, k.queueTile rs w0 w1 w2 = { k.setBank { k.bank.next with qts := k.bank.qts + 1 } with
      queue := k.queue ++ [{ k.newEntry w0 w1 w2 with bound := bound }], nextId := k.nextId + 1, recs := recs } := by
  rw [Core.queueTile, if_neg (by simp [room])]
  dsimp only
  rw [legal]
  exact ⟨_, _, rfl⟩

/-- The start request SEST puts into the tile queue. -/
def Core.startEntry (k : Core) (eng a : Nat) : TileEntry :=
  { id := k.nextId, bankU := k.urgent, asn := k.bank.ctx.asn, item := k.bank.item, w0 := 0, w1 := 0, w2 := 0, block := [],
    start := some (eng, a), bound := [], issued := false }

theorem Core.sest_appends {ra : BitVec 5} {eng : BitVec 3} (present : eng.toNat < 6)
    (allowed : eng = 5 → k.bank.ctx.desc.isUrgent = true) (aligned : (k.bank.reg ra).toNat % 64 = 0)
    (inside : k.bank.inProgram (k.bank.reg ra).toNat 192 = true) (room : k.shareFull k.urgent = false) :
    k.sest ra eng = { k.setBank k.bank.next with
      queue := k.queue ++ [k.startEntry eng.toNat (k.bank.reg ra).toNat], nextId := k.nextId + 1 } := by
  rw [Core.sest, if_neg (Nat.not_le.mpr present), if_neg (by simpa using allowed), if_neg (not_not.mpr aligned),
    if_neg (by simp [inside]), if_neg (by simp [room])]
  rfl

/-- Engine 5 is URGENT work's. -/
theorem Core.sest_five (ra : BitVec 5) (plain : k.bank.ctx.desc.isUrgent = false) :
    k.sest ra 5 = k.raiseAt 8 (wordE 0x31 ra 5 0) := by
  rw [Core.sest, if_neg (by decide), if_pos (by simp [plain])]
  rfl

theorem Core.engineServes_of_running {asn eng : Nat} {e : StreamEng} (he : k.engines[eng]? = some e) (running : e.running = true)
    (owner : e.asn = asn) : k.engineServes asn eng = true := by
  simp [Core.engineServes, he, running, owner]

section
variable {eng : BitVec 3} {ctr : BitVec 2} (present : eng.toNat < 6)
include present

theorem Core.tget_foreign (foreign : k.engineServes k.bank.ctx.asn eng.toNat = false) :
    k.tget eng ctr = k.raiseAt 8 (wordE 0x32 0 eng ctr) :=
  (if_neg (Nat.not_le.mpr present)).trans (if_pos (by simp [foreign]))

theorem Core.tput_foreign (foreign : k.engineServes k.bank.ctx.asn eng.toNat = false) :
    k.tput eng ctr = k.raiseAt 8 (wordE 0x33 0 eng ctr) :=
  (if_neg (Nat.not_le.mpr present)).trans (if_pos (by simp [foreign]))

variable {e : StreamEng} {n : Nat} (he : k.engines[eng.toNat]? = some e) (running : e.running = true)
  (owner : e.asn = k.bank.ctx.asn) (count : e.tok[ctr.toNat]? = some n)
include he running owner count

/-- TGET on the operation's own running program turns on the counter alone. -/
theorem Core.tget_running : k.tget eng ctr = if n = 0 then k else
    (k.setBank k.bank.next).putEngine eng.toNat { e with tok := e.tok.set ctr.toNat (n - 1) } := by
  have engine : k.engines.getD eng.toNat StreamEng.reset = e := by simp [List.getD, he]
  have held : e.tok.getD ctr.toNat 0 = n := by simp [List.getD, count]
  have runs : k.engineRuns k.bank.ctx.asn eng.toNat = true := by simp [Core.engineRuns, he, running, owner]
  rw [Core.tget, if_neg (Nat.not_le.mpr present), if_neg (by simp [Core.engineServes_of_running he running owner])]
  simp only [engine, held, runs, Bool.not_true, Bool.false_or, decide_eq_true_eq]
  rfl

theorem Core.tput_running (room : n < 255) : k.tput eng ctr =
    (k.setBank k.bank.next).putEngine eng.toNat { e with tok := e.tok.set ctr.toNat (n + 1) } := by
  rw [Core.tput, if_neg (Nat.not_le.mpr present), if_neg (by simp [Core.engineServes_of_running he running owner])]
  exact Core.signal_counts he running owner count room

end

/-- CVT writes the converted code, and for a block that becomes NaN code 0 and STA.CBLK. -/
theorem Core.convert_writes {rd ra rb : BitVec 5} {site dst : BitVec 4} {src : Bool} {f : Elem}
    (format : cvtFormat dst.toNat = some f) (defined : 2 ≤ site.toNat) {v : Conv}
    (value : k.bank.cvt f site.toNat src (k.bank.reg ra) (k.bank.reg rb) = v) :
    k.convert rd ra rb site dst src = { k.setBank ({ k.bank with
        sta := if v.blockNan then k.bank.sta ||| 0x8#32 else k.bank.sta }.setReg rd
          (BitVec.ofNat 32 (if v.blockNan then 0 else v.code))).next with
      notes := k.note k.bank.ctx.asn (convInfo v) } := by
  subst value
  rw [Core.convert, format]
  exact if_neg (Nat.not_lt.mpr defined)

end

/-- Settles O16. QT and SEST append an entry, TGET and TPUT replace one engine, CVT replaces the bank; all else that they leave
is what the running bank's `next` leaves. -/
theorem queueTokenAndConversionInstructions : Obligations.QueueTokenAndConversionInstructions := by
  unfold Obligations.QueueTokenAndConversionInstructions
  intro s c rd ra rb rc eng ctr site dst src fetches k b onward
  have goes {t : State} {x : Core} {b' : SeqBank} (after : t.core c = x) (only : t = s.onCore c fun _ => t.core c)
      (bank : x.bank = b') (store : x.store = k.store) (pc : b'.pc = b.pc + 4) (reg : ∀ r, b'.reg r = b.reg r) : onward t := by
    subst after bank
    exact ⟨pc, reg, store, only⟩
  have counts {i : Instr} {f : Core → Core} {e e' : StreamEng} (arm : exec i s = .next (s.seqOn c f))
      (he : k.engines[eng.toNat]? = some e) (meaning : f k = (k.setBank b.next).putEngine eng.toNat e') :
      Does i s fun t => onward t ∧ (t.core c).engines[eng.toNat]? = some e'
        ∧ ∀ j, j ≠ eng.toNat → (t.core c).engines[j]? = k.engines[j]? := by
    refine .of_fetches fetches arm fun t after only => ?_
    rw [meaning] at after
    have engines : (t.core c).engines = k.engines.set eng.toNat e' := congrArg Core.engines after
    rw [engines]
    exact ⟨goes after only (k.bank_setBank _) rfl rfl fun _ => rfl,
      List.getElem?_set_self (List.getElem?_eq_some_iff.mp he).1, fun j other => List.getElem?_set_ne (Ne.symm other)⟩
  refine ⟨fun room legal => ?qt, fun full => exec_seqOn_waits fetches rfl (if_pos full),
    fun present allowed aligned inside room => ?sest, fun five plain => ?foreign,
    fun e n present he running owner count => ⟨fun more => ?takes, fun empty => ?waits, fun room => ?gives⟩,
    fun foreign present => ⟨exec_seqOn fetches rfl (Core.tget_foreign present foreign),
      exec_seqOn fetches rfl (Core.tput_foreign present foreign)⟩, fun f format defined => ?cvt⟩
  case qt =>
    refine .of_fetches fetches rfl fun t after only => ?_
    obtain ⟨bound, recs, queued⟩ := Core.queueTile_appends room legal
    replace after := after.trans queued
    exact ⟨goes after only (k.bank_setBank _) rfl rfl fun _ => rfl,
      _, congrArg Core.queue after, rfl, rfl, rfl, rfl, rfl, rfl, rfl, rfl, rfl⟩
  case sest =>
    refine .of_fetches fetches rfl fun t after only => ?_
    replace after := after.trans (Core.sest_appends present allowed aligned inside room)
    exact ⟨goes after only (k.bank_setBank _) rfl rfl fun _ => rfl,
      _, congrArg Core.queue after, rfl, rfl, rfl⟩
  case foreign =>
    subst five
    exact exec_seqOn fetches rfl (Core.sest_five ra plain)
  case takes =>
    exact counts rfl he ((Core.tget_running present he running owner count).trans (if_neg (by omega)))
  case waits =>
    exact exec_seqOn_waits fetches rfl ((Core.tget_running present he running owner count).trans (if_pos empty))
  case gives =>
    exact counts rfl he (Core.tput_running present he running owner count room)
  case cvt =>
    refine .of_fetches fetches rfl fun t after only => ?_
    replace after := after.trans (Core.convert_writes format defined rfl)
    have bank := (congrArg Core.bank after).trans (k.bank_setBank _)
    rw [bank]
    refine ⟨(SeqBank.reg_setReg ..).trans ?_, fun r other => (SeqBank.reg_setReg ..).trans (if_neg fun h => other h.1),
      congrArg (· + 4) (SeqBank.setReg_pc ..), SeqBank.setReg_sta .., after ▸ rfl, only⟩
    by_cases zero : rd = 0
    · subst zero
      rfl
    · rw [if_pos ⟨rfl, zero⟩, if_neg zero]
      rfl

end Sys2Proof.Machine
end

section
/-! PROOFS. Every command completes (chapter 0), and a command of the package leaves the queue and the metrology die. -/

namespace Sys2Proof

/-- Commands that reach the metrology die or its readout output (chapter 17), and the trips that may be the die's own. -/
def Instr.meterSide : Instr → Bool
  | .summary .. | .summaryApply .. | .mdFence .. | .read .. | .param .. | .clear .. | .fwBegin .. | .fwData ..
  | .fwEnd .. | .i3cPrivateRead .. | .entdaa .. | .setdasa .. | .rstdaa .. | .enec .. | .disec .. | .getpid ..
  | .getbcr .. | .getdcr .. | .getstatus .. | .getmwl .. | .getmrl .. | .rstact .. | .sealChange ..
  | .clockCheck .. | .fwHashCheck .. | .nvSnapshot .. | .mdBranchFall .. | .mdPowerOn .. | .statusWord ..
  | .statusWordTimeout .. | .mbxGo .. | .mbxTimeout .. | .supplyTrip .. | .thermalTrip .. | .energySample ..
  | .lidLoopOpen .. | .readoutRecord .. => true
  | _ => false

end Sys2Proof

namespace Sys2Proof.Machine

theorem exists_next_of_goesOn {o : Out} (h : goesOn o) : ∃ t, o = .next t := by
  cases o with
  | next t => exact ⟨t, rfl⟩
  | fault => exact h.elim
  | refused => exact h.elim

theorem goesOn_ite {c : Prop} [Decidable c] {a b : Out} (ha : goesOn a) (hb : goesOn b) : goesOn (if c then a else b) := by
  split
  · exact ha
  · exact hb

/-! ### Commands whose branches complete each on its own -/

theorem execFrameTick_goesOn (t power hottest : Nat) (sources : List (List Byte)) (consumes : List (Nat × Nat)) (s : State) :
    goesOn (execFrameTick t power hottest sources consumes s) := by
  unfold execFrameTick
  dsimp only
  split
  · trivial
  · exact goesOn_ite trivial trivial

theorem execGuardOpen_goesOn (t : Nat) (s : State) : goesOn (execGuardOpen t s) := goesOn_ite trivial trivial

theorem execPrepareVote_goesOn (t die sub : Nat) (s : State) : goesOn (execPrepareVote t die sub s) :=
  goesOn_ite trivial (goesOn_ite (goesOn_ite trivial trivial) (goesOn_ite trivial trivial))

theorem execVoteEvaluate_goesOn (t : Nat) (s : State) : goesOn (execVoteEvaluate t s) := goesOn_ite trivial trivial

theorem execSubTick_goesOn (t k : Nat) (s : State) : goesOn (execSubTick t k s) := goesOn_ite trivial trivial

theorem execTakeover_goesOn (t : Nat) (durable : List (Nat × Nat)) (s : State) : goesOn (execTakeover t durable s) :=
  goesOn_ite trivial trivial

theorem execPpsEdge_goesOn (t : Nat) (s : State) : goesOn (execPpsEdge t s) :=
  goesOn_ite trivial (goesOn_ite trivial (goesOn_ite trivial trivial))

theorem execPtpMessage_goesOn (t port domain : Nat) (offset : Int) (s : State) : goesOn (execPtpMessage t port domain offset s) :=
  goesOn_ite trivial (goesOn_ite trivial trivial)

theorem execDescriptorFetched_goesOn (t page ring : Nat) (desc : List Byte) (tensors regions : List (Nat × List Byte)) (s : State) :
    goesOn (execDescriptorFetched t page ring desc tensors regions s) := goesOn_ite trivial trivial

theorem execSteal_goesOn (t core : Nat) (s : State) : goesOn (execSteal t core s) := by
  refine goesOn_ite trivial ?_
  split
  · trivial
  · split
    · trivial
    · exact goesOn_ite trivial trivial

theorem execResidentShardFilled_goesOn (core set : Nat) (s : State) : goesOn (execResidentShardFilled core set s) :=
  goesOn_ite trivial trivial

/-! ### The commands of the package -/

/-- A command of the package completes and leaves the queue and the metrology die. -/
theorem exec_of_not_meterSide (c : Instr) (s : State) (h : c.meterSide = false) :
    goesOn (exec c s) ∧ ∀ t, exec c s = .next t → t.pending = s.pending ∧ t.md = s.md := by
  cases c with
  | registerWrite => exact ⟨trivial, fun _ h => ⟨execRegisterWrite_pending (h := h), execRegisterWrite_md (h := h)⟩⟩
  | wsFieldWrite => exact ⟨trivial, fun _ h => ⟨execWsFieldWrite_pending (h := h), execWsFieldWrite_md (h := h)⟩⟩
  | commitArm => exact ⟨trivial, fun _ h => ⟨execCommitArm_pending (h := h), execCommitArm_md (h := h)⟩⟩
  | loReadLatch => exact ⟨trivial, fun _ h => ⟨execLoReadLatch_pending (h := h), execLoReadLatch_md (h := h)⟩⟩
  | rcRead => exact ⟨trivial, fun _ h => ⟨execRcRead_pending (h := h), execRcRead_md (h := h)⟩⟩
  | run => exact ⟨trivial, fun _ h => ⟨execRun_pending (h := h), execRun_md (h := h)⟩⟩
  | frameTick => exact ⟨execFrameTick_goesOn .., fun _ h => ⟨execFrameTick_pending (h := h), execFrameTick_md (h := h)⟩⟩
  | tickMessage => exact ⟨trivial, fun _ h => ⟨execTickMessage_pending (h := h), execTickMessage_md (h := h)⟩⟩
  | tickWatchdog => exact ⟨trivial, fun _ h => ⟨execTickWatchdog_pending (h := h), execTickWatchdog_md (h := h)⟩⟩
  | subTick => exact ⟨execSubTick_goesOn .., fun _ h => ⟨execSubTick_pending (h := h), execSubTick_md (h := h)⟩⟩
  | guardOpen => exact ⟨execGuardOpen_goesOn .., fun _ h => ⟨execGuardOpen_pending (h := h), execGuardOpen_md (h := h)⟩⟩
  | waitWindowExpired => exact ⟨trivial, fun _ h => ⟨execWaitWindowExpired_pending (h := h), execWaitWindowExpired_md (h := h)⟩⟩
  | prepareVote => exact ⟨execPrepareVote_goesOn .., fun _ h => ⟨execPrepareVote_pending (h := h), execPrepareVote_md (h := h)⟩⟩
  | voteEvaluate => exact ⟨execVoteEvaluate_goesOn .., fun _ h => ⟨execVoteEvaluate_pending (h := h), execVoteEvaluate_md (h := h)⟩⟩
  | lease => exact ⟨trivial, fun _ h => ⟨execLease_pending (h := h), execLease_md (h := h)⟩⟩
  | decisionDurable => exact ⟨trivial, fun _ h => ⟨execDecisionDurable_pending (h := h), execDecisionDurable_md (h := h)⟩⟩
  | dieCommitApply => exact ⟨trivial, fun _ h => ⟨execDieCommitApply_pending (h := h), execDieCommitApply_md (h := h)⟩⟩
  | completionRecordPosted => exact ⟨trivial, fun _ h => ⟨execCompletionRecordPosted_pending (h := h), execCompletionRecordPosted_md (h := h)⟩⟩
  | moderationTimer => exact ⟨trivial, fun _ h => ⟨execModerationTimer_pending (h := h), execModerationTimer_md (h := h)⟩⟩
  | cqHeadRead => exact ⟨trivial, fun _ h => ⟨execCqHeadRead_pending (h := h), execCqHeadRead_md (h := h)⟩⟩
  | leaseRenewalMissed => exact ⟨trivial, fun _ h => ⟨execLeaseRenewalMissed_pending (h := h), execLeaseRenewalMissed_md (h := h)⟩⟩
  | takeover => exact ⟨execTakeover_goesOn .., fun _ h => ⟨execTakeover_pending (h := h), execTakeover_md (h := h)⟩⟩
  | fenceTokenMessage => exact ⟨trivial, fun _ h => ⟨execFenceTokenMessage_pending (h := h), execFenceTokenMessage_md (h := h)⟩⟩
  | fenceAckTimeout => exact ⟨trivial, fun _ h => ⟨execFenceAckTimeout_pending (h := h), execFenceAckTimeout_md (h := h)⟩⟩
  | perstN => exact ⟨trivial, fun _ h => ⟨execPerstN_pending (h := h), execPerstN_md (h := h)⟩⟩
  | hotReset t port => exact ⟨trivial, fun _ h => ⟨execHotReset_pending t port s h, execHotReset_md t port s h⟩⟩
  | fullReset => exact ⟨trivial, fun _ h => ⟨execFullReset_pending (h := h), execFullReset_md (h := h)⟩⟩
  | resetRebootReady => exact ⟨trivial, fun _ h => ⟨execResetRebootReady_pending (h := h), execResetRebootReady_md (h := h)⟩⟩
  | recoverGoFresh => exact ⟨trivial, fun _ h => ⟨execRecoverGoFresh_pending (h := h), execRecoverGoFresh_md (h := h)⟩⟩
  | recoverGoRecover => exact ⟨trivial, fun _ h => ⟨execRecoverGoRecover_pending (h := h), execRecoverGoRecover_md (h := h)⟩⟩
  | journalPassDone => exact ⟨trivial, fun _ h => ⟨execJournalPassDone_pending (h := h), execJournalPassDone_md (h := h)⟩⟩
  | ppsEdge => exact ⟨execPpsEdge_goesOn .., fun _ h => ⟨execPpsEdge_pending (h := h), execPpsEdge_md (h := h)⟩⟩
  | ppsTimeout => exact ⟨trivial, fun _ h => ⟨execPpsTimeout_pending (h := h), execPpsTimeout_md (h := h)⟩⟩
  | ptpMessage => exact ⟨execPtpMessage_goesOn .., fun _ h => ⟨execPtpMessage_pending (h := h), execPtpMessage_md (h := h)⟩⟩
  | timeHoldover => exact ⟨trivial, fun _ h => ⟨execTimeHoldover_pending (h := h), execTimeHoldover_md (h := h)⟩⟩
  | timeLocked => exact ⟨trivial, fun _ h => ⟨execTimeLocked_pending (h := h), execTimeLocked_md (h := h)⟩⟩
  | snpinv => exact ⟨trivial, fun _ h => ⟨execSnpinv_pending (h := h), execSnpinv_md (h := h)⟩⟩
  | snpdata => exact ⟨trivial, fun _ h => ⟨execSnpdata_pending (h := h), execSnpdata_md (h := h)⟩⟩
  | snpcur => exact ⟨trivial, fun _ h => ⟨execSnpcur_pending (h := h), execSnpcur_md (h := h)⟩⟩
  | pollInterval => exact ⟨trivial, fun _ h => ⟨execPollInterval_pending (h := h), execPollInterval_md (h := h)⟩⟩
  | doorbellLineReturn => exact ⟨trivial, fun _ h => ⟨execDoorbellLineReturn_pending (h := h), execDoorbellLineReturn_md (h := h)⟩⟩
  | descriptorFetched => exact ⟨execDescriptorFetched_goesOn .., fun _ h => ⟨execDescriptorFetched_pending (h := h), execDescriptorFetched_md (h := h)⟩⟩
  | journalEntryConfirmed => exact ⟨trivial, fun _ h => ⟨execJournalEntryConfirmed_pending (h := h), execJournalEntryConfirmed_md (h := h)⟩⟩
  | journalDeadlineMissed => exact ⟨trivial, fun _ h => ⟨execJournalDeadlineMissed_pending (h := h), execJournalDeadlineMissed_md (h := h)⟩⟩
  | rejectionConfirmed => exact ⟨trivial, fun _ h => ⟨execRejectionConfirmed_pending (h := h), execRejectionConfirmed_md (h := h)⟩⟩
  | urgentDispatch => exact ⟨trivial, fun _ h => ⟨execUrgentDispatch_pending (h := h), execUrgentDispatch_md (h := h)⟩⟩
  | urgentEndResume => exact ⟨trivial, fun _ h => ⟨execUrgentEndResume_pending (h := h), execUrgentEndResume_md (h := h)⟩⟩
  | itemStart => exact ⟨trivial, fun _ h => ⟨execItemStart_pending (h := h), execItemStart_md (h := h)⟩⟩
  | steal => exact ⟨execSteal_goesOn .., fun _ h => ⟨execSteal_pending (h := h), execSteal_md (h := h)⟩⟩
  | ringEnable => exact ⟨trivial, fun _ h => ⟨execRingEnable_pending (h := h), execRingEnable_md (h := h)⟩⟩
  | ringDisable => exact ⟨trivial, fun _ h => ⟨execRingDisable_pending (h := h), execRingDisable_md (h := h)⟩⟩
  | cqEnable => exact ⟨trivial, fun _ h => ⟨execCqEnable_pending (h := h), execCqEnable_md (h := h)⟩⟩
  | cqDisable => exact ⟨trivial, fun _ h => ⟨execCqDisable_pending (h := h), execCqDisable_md (h := h)⟩⟩
  | flagCfgWrite => exact ⟨trivial, fun _ h => ⟨execFlagCfgWrite_pending (h := h), execFlagCfgWrite_md (h := h)⟩⟩
  | flagValWrite => exact ⟨trivial, fun _ h => ⟨execFlagValWrite_pending (h := h), execFlagValWrite_md (h := h)⟩⟩
  | mark => exact ⟨trivial, fun _ h => ⟨execMark_pending (h := h), execMark_md (h := h)⟩⟩
  | program => exact ⟨trivial, fun _ h => ⟨execProgram_pending (h := h), execProgram_md (h := h)⟩⟩
  | spmm => exact ⟨trivial, fun _ h => ⟨execSpmm_pending (h := h), execSpmm_md (h := h)⟩⟩
  | spgemm => exact ⟨trivial, fun _ h => ⟨execSpgemm_pending (h := h), execSpgemm_md (h := h)⟩⟩
  | sddmm => exact ⟨trivial, fun _ h => ⟨execSddmm_pending (h := h), execSddmm_md (h := h)⟩⟩
  | gemm => exact ⟨trivial, fun _ h => ⟨execGemm_pending (h := h), execGemm_md (h := h)⟩⟩
  | spattn => exact ⟨trivial, fun _ h => ⟨execSpattn_pending (h := h), execSpattn_md (h := h)⟩⟩
  | aggr => exact ⟨trivial, fun _ h => ⟨execAggr_pending (h := h), execAggr_md (h := h)⟩⟩
  | moeRoute => exact ⟨trivial, fun _ h => ⟨execMoeRoute_pending (h := h), execMoeRoute_md (h := h)⟩⟩
  | embReduce => exact ⟨trivial, fun _ h => ⟨execEmbReduce_pending (h := h), execEmbReduce_md (h := h)⟩⟩
  | copy => exact ⟨trivial, fun _ h => ⟨execCopy_pending (h := h), execCopy_md (h := h)⟩⟩
  | convert => exact ⟨trivial, fun _ h => ⟨execConvert_pending (h := h), execConvert_md (h := h)⟩⟩
  | streamProgramStart => exact ⟨trivial, fun _ h => ⟨execStreamProgramStart_pending (h := h), execStreamProgramStart_md (h := h)⟩⟩
  | seEnd => exact ⟨trivial, fun _ h => ⟨execSeEnd_pending (h := h), execSeEnd_md (h := h)⟩⟩
  | seSetw => exact ⟨trivial, fun _ h => ⟨execSeSetw_pending (h := h), execSeSetw_md (h := h)⟩⟩
  | seAddi => exact ⟨trivial, fun _ h => ⟨execSeAddi_pending (h := h), execSeAddi_md (h := h)⟩⟩
  | seAdd => exact ⟨trivial, fun _ h => ⟨execSeAdd_pending (h := h), execSeAdd_md (h := h)⟩⟩
  | seSub => exact ⟨trivial, fun _ h => ⟨execSeSub_pending (h := h), execSeSub_md (h := h)⟩⟩
  | seMuli => exact ⟨trivial, fun _ h => ⟨execSeMuli_pending (h := h), execSeMuli_md (h := h)⟩⟩
  | seShli => exact ⟨trivial, fun _ h => ⟨execSeShli_pending (h := h), execSeShli_md (h := h)⟩⟩
  | seLdw => exact ⟨trivial, fun _ h => ⟨execSeLdw_pending (h := h), execSeLdw_md (h := h)⟩⟩
  | seLdh => exact ⟨trivial, fun _ h => ⟨execSeLdh_pending (h := h), execSeLdh_md (h := h)⟩⟩
  | seLoop => exact ⟨trivial, fun _ h => ⟨execSeLoop_pending (h := h), execSeLoop_md (h := h)⟩⟩
  | seNext => exact ⟨trivial, fun _ h => ⟨execSeNext_pending (h := h), execSeNext_md (h := h)⟩⟩
  | seRdl => exact ⟨trivial, fun _ h => ⟨execSeRdl_pending (h := h), execSeRdl_md (h := h)⟩⟩
  | seWrl => exact ⟨trivial, fun _ h => ⟨execSeWrl_pending (h := h), execSeWrl_md (h := h)⟩⟩
  | seRda => exact ⟨trivial, fun _ h => ⟨execSeRda_pending (h := h), execSeRda_md (h := h)⟩⟩
  | seRdw => exact ⟨trivial, fun _ h => ⟨execSeRdw_pending (h := h), execSeRdw_md (h := h)⟩⟩
  | seRdb => exact ⟨trivial, fun _ h => ⟨execSeRdb_pending (h := h), execSeRdb_md (h := h)⟩⟩
  | seGet => exact ⟨trivial, fun _ h => ⟨execSeGet_pending (h := h), execSeGet_md (h := h)⟩⟩
  | sePut => exact ⟨trivial, fun _ h => ⟨execSePut_pending (h := h), execSePut_md (h := h)⟩⟩
  | seFence => exact ⟨trivial, fun _ h => ⟨execSeFence_pending (h := h), execSeFence_md (h := h)⟩⟩
  | seRstep => exact ⟨trivial, fun _ h => ⟨execSeRstep_pending (h := h), execSeRstep_md (h := h)⟩⟩
  | transferRetire => exact ⟨trivial, fun _ h => ⟨execTransferRetire_pending (h := h), execTransferRetire_md (h := h)⟩⟩
  | residentShardFilled => exact ⟨execResidentShardFilled_goesOn .., fun _ h => ⟨execResidentShardFilled_pending (h := h), execResidentShardFilled_md (h := h)⟩⟩
  | add => exact ⟨trivial, fun _ h => ⟨execAdd_pending (h := h), execAdd_md (h := h)⟩⟩
  | sub => exact ⟨trivial, fun _ h => ⟨execSub_pending (h := h), execSub_md (h := h)⟩⟩
  | and => exact ⟨trivial, fun _ h => ⟨execAnd_pending (h := h), execAnd_md (h := h)⟩⟩
  | or => exact ⟨trivial, fun _ h => ⟨execOr_pending (h := h), execOr_md (h := h)⟩⟩
  | xor => exact ⟨trivial, fun _ h => ⟨execXor_pending (h := h), execXor_md (h := h)⟩⟩
  | shl => exact ⟨trivial, fun _ h => ⟨execShl_pending (h := h), execShl_md (h := h)⟩⟩
  | shr => exact ⟨trivial, fun _ h => ⟨execShr_pending (h := h), execShr_md (h := h)⟩⟩
  | sar => exact ⟨trivial, fun _ h => ⟨execSar_pending (h := h), execSar_md (h := h)⟩⟩
  | clt => exact ⟨trivial, fun _ h => ⟨execClt_pending (h := h), execClt_md (h := h)⟩⟩
  | cltu => exact ⟨trivial, fun _ h => ⟨execCltu_pending (h := h), execCltu_md (h := h)⟩⟩
  | mul => exact ⟨trivial, fun _ h => ⟨execMul_pending (h := h), execMul_md (h := h)⟩⟩
  | mulHi => exact ⟨trivial, fun _ h => ⟨execMulHi_pending (h := h), execMulHi_md (h := h)⟩⟩
  | mulHiu => exact ⟨trivial, fun _ h => ⟨execMulHiu_pending (h := h), execMulHiu_md (h := h)⟩⟩
  | quo => exact ⟨trivial, fun _ h => ⟨execQuo_pending (h := h), execQuo_md (h := h)⟩⟩
  | quou => exact ⟨trivial, fun _ h => ⟨execQuou_pending (h := h), execQuou_md (h := h)⟩⟩
  | mod => exact ⟨trivial, fun _ h => ⟨execMod_pending (h := h), execMod_md (h := h)⟩⟩
  | modu => exact ⟨trivial, fun _ h => ⟨execModu_pending (h := h), execModu_md (h := h)⟩⟩
  | min => exact ⟨trivial, fun _ h => ⟨execMin_pending (h := h), execMin_md (h := h)⟩⟩
  | max => exact ⟨trivial, fun _ h => ⟨execMax_pending (h := h), execMax_md (h := h)⟩⟩
  | minu => exact ⟨trivial, fun _ h => ⟨execMinu_pending (h := h), execMinu_md (h := h)⟩⟩
  | maxu => exact ⟨trivial, fun _ h => ⟨execMaxu_pending (h := h), execMaxu_md (h := h)⟩⟩
  | fadd => exact ⟨trivial, fun _ h => ⟨execFadd_pending (h := h), execFadd_md (h := h)⟩⟩
  | fsub => exact ⟨trivial, fun _ h => ⟨execFsub_pending (h := h), execFsub_md (h := h)⟩⟩
  | fmul => exact ⟨trivial, fun _ h => ⟨execFmul_pending (h := h), execFmul_md (h := h)⟩⟩
  | fmin => exact ⟨trivial, fun _ h => ⟨execFmin_pending (h := h), execFmin_md (h := h)⟩⟩
  | fmax => exact ⟨trivial, fun _ h => ⟨execFmax_pending (h := h), execFmax_md (h := h)⟩⟩
  | fclt => exact ⟨trivial, fun _ h => ⟨execFclt_pending (h := h), execFclt_md (h := h)⟩⟩
  | fceq => exact ⟨trivial, fun _ h => ⟨execFceq_pending (h := h), execFceq_md (h := h)⟩⟩
  | addK => exact ⟨trivial, fun _ h => ⟨execAddK_pending (h := h), execAddK_md (h := h)⟩⟩
  | andK => exact ⟨trivial, fun _ h => ⟨execAndK_pending (h := h), execAndK_md (h := h)⟩⟩
  | orK => exact ⟨trivial, fun _ h => ⟨execOrK_pending (h := h), execOrK_md (h := h)⟩⟩
  | xorK => exact ⟨trivial, fun _ h => ⟨execXorK_pending (h := h), execXorK_md (h := h)⟩⟩
  | cltK => exact ⟨trivial, fun _ h => ⟨execCltK_pending (h := h), execCltK_md (h := h)⟩⟩
  | cltuK => exact ⟨trivial, fun _ h => ⟨execCltuK_pending (h := h), execCltuK_md (h := h)⟩⟩
  | hiK => exact ⟨trivial, fun _ h => ⟨execHiK_pending (h := h), execHiK_md (h := h)⟩⟩
  | shlK => exact ⟨trivial, fun _ h => ⟨execShlK_pending (h := h), execShlK_md (h := h)⟩⟩
  | shrK => exact ⟨trivial, fun _ h => ⟨execShrK_pending (h := h), execShrK_md (h := h)⟩⟩
  | sarK => exact ⟨trivial, fun _ h => ⟨execSarK_pending (h := h), execSarK_md (h := h)⟩⟩
  | pcrel => exact ⟨trivial, fun _ h => ⟨execPcrel_pending (h := h), execPcrel_md (h := h)⟩⟩
  | ldW => exact ⟨trivial, fun _ h => ⟨execLdW_pending (h := h), execLdW_md (h := h)⟩⟩
  | ldHs => exact ⟨trivial, fun _ h => ⟨execLdHs_pending (h := h), execLdHs_md (h := h)⟩⟩
  | ldHu => exact ⟨trivial, fun _ h => ⟨execLdHu_pending (h := h), execLdHu_md (h := h)⟩⟩
  | ldBs => exact ⟨trivial, fun _ h => ⟨execLdBs_pending (h := h), execLdBs_md (h := h)⟩⟩
  | ldBu => exact ⟨trivial, fun _ h => ⟨execLdBu_pending (h := h), execLdBu_md (h := h)⟩⟩
  | stW => exact ⟨trivial, fun _ h => ⟨execStW_pending (h := h), execStW_md (h := h)⟩⟩
  | stH => exact ⟨trivial, fun _ h => ⟨execStH_pending (h := h), execStH_md (h := h)⟩⟩
  | stB => exact ⟨trivial, fun _ h => ⟨execStB_pending (h := h), execStB_md (h := h)⟩⟩
  | brEq => exact ⟨trivial, fun _ h => ⟨execBrEq_pending (h := h), execBrEq_md (h := h)⟩⟩
  | brNe => exact ⟨trivial, fun _ h => ⟨execBrNe_pending (h := h), execBrNe_md (h := h)⟩⟩
  | brLt => exact ⟨trivial, fun _ h => ⟨execBrLt_pending (h := h), execBrLt_md (h := h)⟩⟩
  | brGe => exact ⟨trivial, fun _ h => ⟨execBrGe_pending (h := h), execBrGe_md (h := h)⟩⟩
  | brLtu => exact ⟨trivial, fun _ h => ⟨execBrLtu_pending (h := h), execBrLtu_md (h := h)⟩⟩
  | brGeu => exact ⟨trivial, fun _ h => ⟨execBrGeu_pending (h := h), execBrGeu_md (h := h)⟩⟩
  | bra => exact ⟨trivial, fun _ h => ⟨execBra_pending (h := h), execBra_md (h := h)⟩⟩
  | call => exact ⟨trivial, fun _ h => ⟨execCall_pending (h := h), execCall_md (h := h)⟩⟩
  | callr => exact ⟨trivial, fun _ h => ⟨execCallr_pending (h := h), execCallr_md (h := h)⟩⟩
  | sget => exact ⟨trivial, fun _ h => ⟨execSget_pending (h := h), execSget_md (h := h)⟩⟩
  | sput => exact ⟨trivial, fun _ h => ⟨execSput_pending (h := h), execSput_md (h := h)⟩⟩
  | hret => exact ⟨trivial, fun _ h => ⟨execHret_pending (h := h), execHret_md (h := h)⟩⟩
  | trap => exact ⟨trivial, fun _ h => ⟨execTrap_pending (h := h), execTrap_md (h := h)⟩⟩
  | done => exact ⟨trivial, fun _ h => ⟨execDone_pending (h := h), execDone_md (h := h)⟩⟩
  | fence => exact ⟨trivial, fun _ h => ⟨execFence_pending (h := h), execFence_md (h := h)⟩⟩
  | qt => exact ⟨trivial, fun _ h => ⟨execQt_pending (h := h), execQt_md (h := h)⟩⟩
  | sest => exact ⟨trivial, fun _ h => ⟨execSest_pending (h := h), execSest_md (h := h)⟩⟩
  | tget => exact ⟨trivial, fun _ h => ⟨execTget_pending (h := h), execTget_md (h := h)⟩⟩
  | tput => exact ⟨trivial, fun _ h => ⟨execTput_pending (h := h), execTput_md (h := h)⟩⟩
  | cvt => exact ⟨trivial, fun _ h => ⟨execCvt_pending (h := h), execCvt_md (h := h)⟩⟩
  | dec => exact ⟨trivial, fun _ h => ⟨execDec_pending (h := h), execDec_md (h := h)⟩⟩
  | illegalInstruction => exact ⟨trivial, fun _ h => ⟨execIllegalInstruction_pending (h := h), execIllegalInstruction_md (h := h)⟩⟩
  | ldw => exact ⟨trivial, fun _ h => ⟨execLdw_pending (h := h), execLdw_md (h := h)⟩⟩
  | str => exact ⟨trivial, fun _ h => ⟨execStr_pending (h := h), execStr_md (h := h)⟩⟩
  | acc => exact ⟨trivial, fun _ h => ⟨execAcc_pending (h := h), execAcc_md (h := h)⟩⟩
  | mv => exact ⟨trivial, fun _ h => ⟨execMv_pending (h := h), execMv_md (h := h)⟩⟩
  | ew => exact ⟨trivial, fun _ h => ⟨execEw_pending (h := h), execEw_md (h := h)⟩⟩
  | close => exact ⟨trivial, fun _ h => ⟨execClose_pending (h := h), execClose_md (h := h)⟩⟩
  | drain => exact ⟨trivial, fun _ h => ⟨execDrain_pending (h := h), execDrain_md (h := h)⟩⟩
  | merge => exact ⟨trivial, fun _ h => ⟨execMerge_pending (h := h), execMerge_md (h := h)⟩⟩
  | gather => exact ⟨trivial, fun _ h => ⟨execGather_pending (h := h), execGather_md (h := h)⟩⟩
  | tileEntryRetire => exact ⟨trivial, fun _ h => ⟨execTileEntryRetire_pending (h := h), execTileEntryRetire_md (h := h)⟩⟩
  | closeDrainEnd => exact ⟨trivial, fun _ h => ⟨execCloseDrainEnd_pending (h := h), execCloseDrainEnd_md (h := h)⟩⟩
  | itemEnd => exact ⟨trivial, fun _ h => ⟨execItemEnd_pending (h := h), execItemEnd_md (h := h)⟩⟩
  | chainPartialReceived => exact ⟨trivial, fun _ h => ⟨execChainPartialReceived_pending (h := h), execChainPartialReceived_md (h := h)⟩⟩
  | l2Read => exact ⟨trivial, fun _ h => ⟨execL2Read_pending (h := h), execL2Read_md (h := h)⟩⟩
  | l2Write => exact ⟨trivial, fun _ h => ⟨execL2Write_pending (h := h), execL2Write_md (h := h)⟩⟩
  | l2FillReturn => exact ⟨trivial, fun _ h => ⟨execL2FillReturn_pending (h := h), execL2FillReturn_md (h := h)⟩⟩
  | patrolScrub => exact ⟨trivial, fun _ h => ⟨execPatrolScrub_pending (h := h), execPatrolScrub_md (h := h)⟩⟩
  | refresh => exact ⟨trivial, fun _ h => ⟨execRefresh_pending (h := h), execRefresh_md (h := h)⟩⟩
  | maintClean => exact ⟨trivial, fun _ h => ⟨execMaintClean_pending (h := h), execMaintClean_md (h := h)⟩⟩
  | maintInv => exact ⟨trivial, fun _ h => ⟨execMaintInv_pending (h := h), execMaintInv_md (h := h)⟩⟩
  | maintDone => exact ⟨trivial, fun _ h => ⟨execMaintDone_pending (h := h), execMaintDone_md (h := h)⟩⟩
  | ucieLinkDown => exact ⟨trivial, fun _ h => ⟨execUcieLinkDown_pending (h := h), execUcieLinkDown_md (h := h)⟩⟩
  | linkWatchdog => exact ⟨trivial, fun _ h => ⟨execLinkWatchdog_pending (h := h), execLinkWatchdog_md (h := h)⟩⟩
  | ucieModuleLost => exact ⟨trivial, fun _ h => ⟨execUcieModuleLost_pending (h := h), execUcieModuleLost_md (h := h)⟩⟩
  | routeChange => exact ⟨trivial, fun _ h => ⟨execRouteChange_pending (h := h), execRouteChange_md (h := h)⟩⟩
  | isolation => exact ⟨trivial, fun _ h => ⟨execIsolation_pending (h := h), execIsolation_md (h := h)⟩⟩
  | ageLimit => exact ⟨trivial, fun _ h => ⟨execAgeLimit_pending (h := h), execAgeLimit_md (h := h)⟩⟩
  | qlPortTrained => exact ⟨trivial, fun _ h => ⟨execQlPortTrained_pending (h := h), execQlPortTrained_md (h := h)⟩⟩
  | qlPortDegraded => exact ⟨trivial, fun _ h => ⟨execQlPortDegraded_pending (h := h), execQlPortDegraded_md (h := h)⟩⟩
  | qlPortLost => exact ⟨trivial, fun _ h => ⟨execQlPortLost_pending (h := h), execQlPortLost_md (h := h)⟩⟩
  | rd => exact ⟨trivial, fun _ h => ⟨execRd_pending (h := h), execRd_md (h := h)⟩⟩
  | rdr => exact ⟨trivial, fun _ h => ⟨execRdr_pending (h := h), execRdr_md (h := h)⟩⟩
  | wr => exact ⟨trivial, fun _ h => ⟨execWr_pending (h := h), execWr_md (h := h)⟩⟩
  | swr => exact ⟨trivial, fun _ h => ⟨execSwr_pending (h := h), execSwr_md (h := h)⟩⟩
  | sacc => exact ⟨trivial, fun _ h => ⟨execSacc_pending (h := h), execSacc_md (h := h)⟩⟩
  | ack => exact ⟨trivial, fun _ h => ⟨execAck_pending (h := h), execAck_md (h := h)⟩⟩
  | ackDeadline => exact ⟨trivial, fun _ h => ⟨execAckDeadline_pending (h := h), execAckDeadline_md (h := h)⟩⟩
  | prepSend => exact ⟨trivial, fun _ h => ⟨execPrepSend_pending (h := h), execPrepSend_md (h := h)⟩⟩
  | prep => exact ⟨trivial, fun _ h => ⟨execPrep_pending (h := h), execPrep_md (h := h)⟩⟩
  | vote => exact ⟨trivial, fun _ h => ⟨execVote_pending (h := h), execVote_md (h := h)⟩⟩
  | commit => exact ⟨trivial, fun _ h => ⟨execCommit_pending (h := h), execCommit_md (h := h)⟩⟩
  | abort => exact ⟨trivial, fun _ h => ⟨execAbort_pending (h := h), execAbort_md (h := h)⟩⟩
  | cack => exact ⟨trivial, fun _ h => ⟨execCack_pending (h := h), execCack_md (h := h)⟩⟩
  | qlFence => exact ⟨trivial, fun _ h => ⟨execQlFence_pending (h := h), execQlFence_md (h := h)⟩⟩
  | late => exact ⟨trivial, fun _ h => ⟨execLate_pending (h := h), execLate_md (h := h)⟩⟩
  | poolHoldExpired => exact ⟨trivial, fun _ h => ⟨execPoolHoldExpired_pending (h := h), execPoolHoldExpired_md (h := h)⟩⟩
  | cas64 => exact ⟨trivial, fun _ h => ⟨execCas64_pending (h := h), execCas64_md (h := h)⟩⟩
  | swap64 => exact ⟨trivial, fun _ h => ⟨execSwap64_pending (h := h), execSwap64_md (h := h)⟩⟩
  | add64 => exact ⟨trivial, fun _ h => ⟨execAdd64_pending (h := h), execAdd64_md (h := h)⟩⟩
  | add32 => exact ⟨trivial, fun _ h => ⟨execAdd32_pending (h := h), execAdd32_md (h := h)⟩⟩
  | lacq => exact ⟨trivial, fun _ h => ⟨execLacq_pending (h := h), execLacq_md (h := h)⟩⟩
  | lren => exact ⟨trivial, fun _ h => ⟨execLren_pending (h := h), execLren_md (h := h)⟩⟩
  | lrel => exact ⟨trivial, fun _ h => ⟨execLrel_pending (h := h), execLrel_md (h := h)⟩⟩
  | lockLeaseExpiry => exact ⟨trivial, fun _ h => ⟨execLockLeaseExpiry_pending (h := h), execLockLeaseExpiry_md (h := h)⟩⟩
  | linkDown => exact ⟨trivial, fun _ h => ⟨execLinkDown_pending (h := h), execLinkDown_md (h := h)⟩⟩
  | hostPortLost => exact ⟨trivial, fun _ h => ⟨execHostPortLost_pending (h := h), execHostPortLost_md (h := h)⟩⟩
  | portReturned => exact ⟨trivial, fun _ h => ⟨execPortReturned_pending (h := h), execPortReturned_md (h := h)⟩⟩
  | linkUp => exact ⟨trivial, fun _ h => ⟨execLinkUp_pending (h := h), execLinkUp_md (h := h)⟩⟩
  | dlDown => exact ⟨trivial, fun _ h => ⟨execDlDown_pending (h := h), execDlDown_md (h := h)⟩⟩
  | cxlCacheToggle => exact ⟨trivial, fun _ h => ⟨execCxlCacheToggle_pending (h := h), execCxlCacheToggle_md (h := h)⟩⟩
  | busMasterEnable => exact ⟨trivial, fun _ h => ⟨execBusMasterEnable_pending (h := h), execBusMasterEnable_md (h := h)⟩⟩
  | vfEnable => exact ⟨trivial, fun _ h => ⟨execVfEnable_pending (h := h), execVfEnable_md (h := h)⟩⟩
  | initiateFlr t port func =>
    exact ⟨trivial, fun _ h => ⟨execInitiateFlr_pending t port func s h, execInitiateFlr_md t port func s h⟩⟩
  | msixUnmask => exact ⟨trivial, fun _ h => ⟨execMsixUnmask_pending (h := h), execMsixUnmask_md (h := h)⟩⟩
  | hostHbmRead => exact ⟨trivial, fun _ h => ⟨execHostHbmRead_pending (h := h), execHostHbmRead_md (h := h)⟩⟩
  | hostHbmWrite => exact ⟨trivial, fun _ h => ⟨execHostHbmWrite_pending (h := h), execHostHbmWrite_md (h := h)⟩⟩
  | heldReadAnswer => exact ⟨trivial, fun _ h => ⟨execHeldReadAnswer_pending (h := h), execHeldReadAnswer_md (h := h)⟩⟩
  | atsInvalidation => exact ⟨trivial, fun _ h => ⟨execAtsInvalidation_pending (h := h), execAtsInvalidation_md (h := h)⟩⟩
  | atsInvalidationTimeout => exact ⟨trivial, fun _ h => ⟨execAtsInvalidationTimeout_pending (h := h), execAtsInvalidationTimeout_md (h := h)⟩⟩
  | requestError => exact ⟨trivial, fun _ h => ⟨execRequestError_pending (h := h), execRequestError_md (h := h)⟩⟩
  | ideIntegrityFailure => exact ⟨trivial, fun _ h => ⟨execIdeIntegrityFailure_pending (h := h), execIdeIntegrityFailure_md (h := h)⟩⟩
  | ideKm => exact ⟨trivial, fun _ h => ⟨execIdeKm_pending (h := h), execIdeKm_md (h := h)⟩⟩
  | getVersion => exact ⟨trivial, fun _ h => ⟨execGetVersion_pending (h := h), execGetVersion_md (h := h)⟩⟩
  | getCapabilities => exact ⟨trivial, fun _ h => ⟨execGetCapabilities_pending (h := h), execGetCapabilities_md (h := h)⟩⟩
  | negotiateAlgorithms => exact ⟨trivial, fun _ h => ⟨execNegotiateAlgorithms_pending (h := h), execNegotiateAlgorithms_md (h := h)⟩⟩
  | getDigests => exact ⟨trivial, fun _ h => ⟨execGetDigests_pending (h := h), execGetDigests_md (h := h)⟩⟩
  | getCertificate => exact ⟨trivial, fun _ h => ⟨execGetCertificate_pending (h := h), execGetCertificate_md (h := h)⟩⟩
  | challenge => exact ⟨trivial, fun _ h => ⟨execChallenge_pending (h := h), execChallenge_md (h := h)⟩⟩
  | getMeasurements => exact ⟨trivial, fun _ h => ⟨execGetMeasurements_pending (h := h), execGetMeasurements_md (h := h)⟩⟩
  | keyExchange => exact ⟨trivial, fun _ h => ⟨execKeyExchange_pending (h := h), execKeyExchange_md (h := h)⟩⟩
  | finish => exact ⟨trivial, fun _ h => ⟨execFinish_pending (h := h), execFinish_md (h := h)⟩⟩
  | heartbeat => exact ⟨trivial, fun _ h => ⟨execHeartbeat_pending (h := h), execHeartbeat_md (h := h)⟩⟩
  | keyUpdate => exact ⟨trivial, fun _ h => ⟨execKeyUpdate_pending (h := h), execKeyUpdate_md (h := h)⟩⟩
  | endSession => exact ⟨trivial, fun _ h => ⟨execEndSession_pending (h := h), execEndSession_md (h := h)⟩⟩
  | fatalErrorReport => exact ⟨trivial, fun _ h => ⟨execFatalErrorReport_pending (h := h), execFatalErrorReport_md (h := h)⟩⟩
  | standbyLeaseAckMissed => exact ⟨trivial, fun _ h => ⟨execStandbyLeaseAckMissed_pending (h := h), execStandbyLeaseAckMissed_md (h := h)⟩⟩
  | checksumReport => exact ⟨trivial, fun _ h => ⟨execChecksumReport_pending (h := h), execChecksumReport_md (h := h)⟩⟩
  | coreStoreUe => exact ⟨trivial, fun _ h => ⟨execCoreStoreUe_pending (h := h), execCoreStoreUe_md (h := h)⟩⟩
  | vinLoss => exact ⟨trivial, fun _ h => ⟨execVinLoss_pending (h := h), execVinLoss_md (h := h)⟩⟩
  | vinReconnect => exact ⟨trivial, fun _ h => ⟨execVinReconnect_pending (h := h), execVinReconnect_md (h := h)⟩⟩
  | vinOvervoltage => exact ⟨trivial, fun _ h => ⟨execVinOvervoltage_pending (h := h), execVinOvervoltage_md (h := h)⟩⟩
  | modfail => exact ⟨trivial, fun _ h => ⟨execModfail_pending (h := h), execModfail_md (h := h)⟩⟩
  | pwrOk t msel recov test cold => exact ⟨trivial, fun _ h =>
      ⟨execPwrOk_pending t msel recov test cold s h, execPwrOk_md t msel recov test cold s h⟩⟩
  | perstRelease => exact ⟨trivial, fun _ h => ⟨execPerstRelease_pending (h := h), execPerstRelease_md (h := h)⟩⟩
  | pwrDnN => exact ⟨trivial, fun _ h => ⟨execPwrDnN_pending (h := h), execPwrDnN_md (h := h)⟩⟩
  | pwrDnRelease => exact ⟨trivial, fun _ h => ⟨execPwrDnRelease_pending (h := h), execPwrDnRelease_md (h := h)⟩⟩
  | coldRstN => exact ⟨trivial, fun _ h => ⟨execColdRstN_pending (h := h), execColdRstN_md (h := h)⟩⟩
  | coldResetRelease => exact ⟨trivial, fun _ h => ⟨execColdResetRelease_pending (h := h), execColdResetRelease_md (h := h)⟩⟩
  | refclkLoss => exact ⟨trivial, fun _ h => ⟨execRefclkLoss_pending (h := h), execRefclkLoss_md (h := h)⟩⟩
  | refclkReturn => exact ⟨trivial, fun _ h => ⟨execRefclkReturn_pending (h := h), execRefclkReturn_md (h := h)⟩⟩
  | qlRefclkLoss => exact ⟨trivial, fun _ h => ⟨execQlRefclkLoss_pending (h := h), execQlRefclkLoss_md (h := h)⟩⟩
  | testPortAccess => exact ⟨trivial, fun _ h => ⟨execTestPortAccess_pending (h := h), execTestPortAccess_md (h := h)⟩⟩
  | slotVerified => exact ⟨trivial, fun _ h => ⟨execSlotVerified_pending (h := h), execSlotVerified_md (h := h)⟩⟩
  | imageCompare => exact ⟨trivial, fun _ h => ⟨execImageCompare_pending (h := h), execImageCompare_md (h := h)⟩⟩
  | recoveryGo => exact ⟨trivial, fun _ h => ⟨execRecoveryGo_pending (h := h), execRecoveryGo_md (h := h)⟩⟩
  | svnCommit => exact ⟨trivial, fun _ h => ⟨execSvnCommit_pending (h := h), execSvnCommit_md (h := h)⟩⟩
  | flashErase => exact ⟨trivial, fun _ h => ⟨execFlashErase_pending (h := h), execFlashErase_md (h := h)⟩⟩
  | flashProgram => exact ⟨trivial, fun _ h => ⟨execFlashProgram_pending (h := h), execFlashProgram_md (h := h)⟩⟩
  | flashCheck => exact ⟨trivial, fun _ h => ⟨execFlashCheck_pending (h := h), execFlashCheck_md (h := h)⟩⟩
  | flashDone => exact ⟨trivial, fun _ h => ⟨execFlashDone_pending (h := h), execFlashDone_md (h := h)⟩⟩
  | completionTimeout => exact ⟨trivial, fun _ h => ⟨execCompletionTimeout_pending (h := h), execCompletionTimeout_md (h := h)⟩⟩
  | throttleThreshold => exact ⟨trivial, fun _ h => ⟨execThrottleThreshold_pending (h := h), execThrottleThreshold_md (h := h)⟩⟩
  | fenceAcknowledgement => exact ⟨trivial, fun _ h => ⟨execFenceAcknowledgement_pending (h := h), execFenceAcknowledgement_md (h := h)⟩⟩
  | doeDiscovery => exact ⟨trivial, fun _ h => ⟨execDoeDiscovery_pending (h := h), execDoeDiscovery_md (h := h)⟩⟩
  | cdatTableAccess => exact ⟨trivial, fun _ h => ⟨execCdatTableAccess_pending (h := h), execCdatTableAccess_md (h := h)⟩⟩
  | configurationRequest => exact ⟨trivial, fun _ h => ⟨execConfigurationRequest_pending (h := h), execConfigurationRequest_md (h := h)⟩⟩
  | _ => exact nomatch h

end Sys2Proof.Machine
end

section
/-! PROOFS. Apportionment (R559): the shares of an interval's energy add up to that energy. -/

namespace Sys2Proof.Machine

/-! ### Ranks in a strict order -/

section
variable {α : Type} {b : α → α → Bool}

/-- How many of a list's elements stand before one of them. -/
def rankIn (b : α → α → Bool) (l : List α) (x : α) : Nat := l.countP fun y => b y x

theorem rankIn_lt_length {l : List α} {x : α} (hx : x ∈ l) (irrefl : b x x = false) : rankIn b l x < l.length :=
  List.countP_lt_length_iff.mpr ⟨x, hx, irrefl⟩

theorem rankIn_lt_rankIn {l : List α} {x y : α} (hx : x ∈ l) (trans : ∀ z, b z x = true → b z y = true) (irrefl : b x x = false)
    (before : b x y = true) : rankIn b l x < rankIn b l y := by
  induction l with
  | nil => exact absurd hx List.not_mem_nil
  | cons z l ih =>
    have le : rankIn b l x ≤ rankIn b l y := List.countP_mono_left fun z _ => trans z
    rw [rankIn, rankIn, List.countP_cons, List.countP_cons]
    rcases List.mem_cons.mp hx with rfl | hx
    · rw [irrefl, before]
      exact Nat.lt_succ_of_le le
    · have lt : l.countP (fun y => b y x) < l.countP (b · y) := ih hx
      by_cases hz : b z x = true
      · rw [if_pos hz, if_pos (trans z hz)]
        omega
      · rw [if_neg hz]
        omega

/-- In a strict order of distinct elements the ranks are all the numbers below the length: k elements have a rank below k. -/
theorem countP_rankIn_lt {l : List α} (nodup : l.Nodup) (irrefl : ∀ x ∈ l, b x x = false)
    (trans : ∀ x y z, b z x = true → b x y = true → b z y = true)
    (total : ∀ x ∈ l, ∀ y ∈ l, x ≠ y → b x y = true ∨ b y x = true) {k : Nat} (hk : k ≤ l.length) :
    l.countP (fun x => rankIn b l x < k) = k := by
  have inj : ∀ x ∈ l, ∀ y ∈ l, rankIn b l x = rankIn b l y → x = y := by
    intro x hx y hy same
    by_contra ne
    rcases total x hx y hy ne with h | h
    · exact absurd same (Nat.ne_of_lt (rankIn_lt_rankIn hx (fun z hz => trans x y z hz h) (irrefl x hx) h))
    · exact absurd same.symm (Nat.ne_of_lt (rankIn_lt_rankIn hy (fun z hz => trans y x z hz h) (irrefl y hy) h))
  have inside : l.map (rankIn b l) ⊆ List.range l.length := by
    intro r hr
    obtain ⟨x, hx, rfl⟩ := List.mem_map.mp hr
    exact List.mem_range.mpr (rankIn_lt_length hx (irrefl x hx))
  have perm := (List.subperm_of_subset (nodup.map_on inj) inside).perm_of_length_le (by simp)
  calc l.countP (fun x => rankIn b l x < k)
      = (l.map (rankIn b l)).countP (· < k) := by rw [List.countP_map]; rfl
    _ = (List.range l.length).countP (· < k) := perm.countP_eq _
    _ = k := by
      obtain ⟨d, hd⟩ := Nat.exists_eq_add_of_le hk
      rw [hd, List.range_add, List.countP_append, List.countP_eq_length.mpr (by simp), List.countP_eq_zero.mpr (by simp)]
      simp

end

/-! ### Sums -/

theorem sum_modify_add {l : List Nat} {i : Nat} (h : i < l.length) (n : Nat) : (l.modify i (· + n)).sum = l.sum + n := by
  induction l generalizing i with
  | nil => exact absurd h (Nat.not_lt_zero i)
  | cons x l ih =>
    cases i with
    | zero =>
      simp only [List.modify_zero_cons, List.sum_cons]
      omega
    | succ i =>
      simp only [List.modify_succ_cons, List.sum_cons, ih (Nat.lt_of_succ_lt_succ h)]
      omega

theorem sum_div_mod {α : Type} (f : α → Nat) (M : Nat) (l : List α) :
    (l.map fun x => f x / M).sum * M + (l.map fun x => f x % M).sum = (l.map f).sum := by
  induction l with
  | nil => simp
  | cons x l ih =>
    have := Nat.div_add_mod' (f x) M
    simp only [List.map_cons, List.sum_cons, Nat.add_mul]
    omega

theorem sum_map_ite_one {α : Type} (p : α → Prop) [DecidablePred p] (l : List α) :
    (l.map fun x => if p x then 1 else 0).sum = l.countP (fun x => p x) := by
  rw [List.sum_map_ite, List.countP_eq_length_filter]
  simp

theorem foldl_add_eq_sum {α : Type} (f : α → Nat) (l : List α) : l.foldl (fun a x => a + f x) 0 = (l.map f).sum := by
  rw [List.sum_eq_foldl, List.foldl_map]

namespace Meter

@[simp] theorem length_addAll (l : List Nat) (xs : List (Nat × Nat)) : (addAll l xs).length = l.length := by
  induction xs generalizing l with
  | nil => rfl
  | cons x xs ih => exact (ih _).trans (List.length_modify ..)

/-- Adding to accounts that exist adds to their sum. -/
theorem sum_addAll {l : List Nat} {xs : List (Nat × Nat)} (h : ∀ x ∈ xs, x.1 < l.length) :
    (addAll l xs).sum = l.sum + (xs.map Prod.snd).sum := by
  induction xs generalizing l with
  | nil => rfl
  | cons x xs ih =>
    have rest : ∀ y ∈ xs, y.1 < (l.modify x.1 (· + x.2)).length := fun y hy => by
      rw [List.length_modify]
      exact h y (List.mem_cons_of_mem x hy)
    calc (addAll l (x :: xs)).sum = (l.modify x.1 (· + x.2)).sum + (xs.map Prod.snd).sum := ih rest
      _ = l.sum + ((x :: xs).map Prod.snd).sum := by
        rw [sum_modify_add (h x List.mem_cons_self), List.map_cons, List.sum_cons, Nat.add_assoc]

/-! ### Shares (R559) -/

theorem Share.before_iff {x y : Share} : x.before y = true ↔ y.r < x.r ∨ x.r = y.r ∧ x.acc < y.acc := by
  simp [Share.before]

/-- The order of R559: a larger remainder first, ties to the lower account. -/
theorem Share.before_trans (x y z : Share) (h : z.before x = true) (g : x.before y = true) : z.before y = true := by
  rw [Share.before_iff] at *
  omega

theorem Share.before_irrefl (x : Share) : x.before x = false := by
  rw [← Bool.not_eq_true, Share.before_iff]
  omega

theorem Share.before_total {x y : Share} (h : x.acc ≠ y.acc) : x.before y = true ∨ y.before x = true := by
  rw [Share.before_iff, Share.before_iff]
  omega

section
variable {dE M : Nat} {es : List (Nat × Nat)}

theorem sharesOf_accs : (sharesOf dE M es).map Share.acc = es.map Prod.fst := by
  simp [sharesOf, Function.comp_def]

/-- Whole parts and remainders make up the energy, M-fold. -/
theorem sum_sharesOf (units : sumUnits es = M) :
    ((sharesOf dE M es).map Share.q).sum * M + ((sharesOf dE M es).map Share.r).sum = dE * M := by
  have total := sum_div_mod (fun e : Nat × Nat => dE * e.2) M es
  rw [List.sum_map_mul_left, ← foldl_add_eq_sum Prod.snd es, show es.foldl (fun a e => a + e.2) 0 = M from units] at total
  rw [← total]
  simp [sharesOf, Function.comp_def]

/-- The units left over are no more than the shares. -/
theorem left_le_length (units : sumUnits es = M) (some : 0 < M) :
    dE - ((sharesOf dE M es).map Share.q).sum ≤ (sharesOf dE M es).length := by
  have total := sum_sharesOf (dE := dE) units
  have small : ((sharesOf dE M es).map Share.r).sum ≤ ((sharesOf dE M es).map Share.r).length • M :=
    List.sum_le_card_nsmul _ _ fun r hr => by
      simp only [sharesOf, List.map_map, List.mem_map] at hr
      obtain ⟨e, -, rfl⟩ := hr
      exact (Nat.mod_lt _ some).le
  rw [List.length_map, smul_eq_mul] at small
  have bound : dE * M ≤ (((sharesOf dE M es).map Share.q).sum + (sharesOf dE M es).length) * M := by
    rw [Nat.add_mul]
    omega
  have := Nat.le_of_mul_le_mul_right bound some
  omega

/-- The whole parts are no more than the energy. -/
theorem sum_quotients_le (units : sumUnits es = M) (some : 0 < M) : ((sharesOf dE M es).map Share.q).sum ≤ dE :=
  Nat.le_of_mul_le_mul_right (Nat.le.intro (sum_sharesOf units)) some

theorem nodup_sharesOf (accounts : (es.map Prod.fst).Nodup) : (sharesOf dE M es).Nodup :=
  .of_map Share.acc (sharesOf_accs ▸ accounts)

/-- Each of the units left over goes to one of the first shares of the order, so the shares add up to the energy. -/
theorem sum_finalShares (units : sumUnits es = M) (some : 0 < M) (accounts : (es.map Prod.fst).Nodup) :
    ((finalShares dE M es).map Prod.snd).sum = dE := by
  have counted := countP_rankIn_lt (nodup_sharesOf accounts) (fun x _ => x.before_irrefl) Share.before_trans
    (fun x hx y hy ne => Share.before_total fun same =>
      ne (List.inj_on_of_nodup_map (sharesOf_accs (dE := dE) (M := M) ▸ accounts) hx hy same))
    (left_le_length (dE := dE) units some)
  have whole := sum_quotients_le (dE := dE) units some
  calc ((finalShares dE M es).map Prod.snd).sum
      = ((sharesOf dE M es).map fun x => x.q + if rankIn Share.before (sharesOf dE M es) x
          < dE - ((sharesOf dE M es).map Share.q).sum then 1 else 0).sum := by
        simp [finalShares, rankIn, List.countP_eq_length_filter, foldl_add_eq_sum, Function.comp_def]
    _ = dE := by
      rw [List.sum_map_add, sum_map_ite_one, counted]
      omega

theorem finalShares_accs : (finalShares dE M es).map Prod.fst = es.map Prod.fst := by
  simp [finalShares, sharesOf, Function.comp_def]

end

/-- Accounts in rising order are distinct. -/
theorem nodup_of_rising {es : List (Nat × Nat)} (h : risingAcc es = true) : (es.map Prod.fst).Nodup := by
  have chain : (es.map Prod.fst).Pairwise (· < ·) := by
    rw [← List.isChain_iff_pairwise]
    induction es with
    | nil => exact .nil
    | cons x es ih =>
      cases es with
      | nil => exact .singleton _
      | cons y es =>
        simp only [risingAcc, Bool.and_eq_true, decide_eq_true_eq] at h
        exact .cons_cons h.1 (ih h.2)
  exact chain.imp Nat.ne_of_lt

end Meter
end Sys2Proof.Machine
end

section
/-! PROOFS. What the operations of the meter leave: the log and the health flags apart from the registers, the meter apart
from the package, and the ledger of R549. -/

namespace Sys2Proof.Machine

namespace Meter

/-! ### The log and the health flags (R563, R565) -/

/-- Only the log, the health flags and their conditions may differ. -/
def OnlyHealth (m n : Meter) : Prop := n = { m with log := n.log, health := n.health, conds := n.conds }

theorem OnlyHealth.refl (m : Meter) : OnlyHealth m m := rfl

theorem OnlyHealth.trans {m n k : Meter} (h : OnlyHealth m n) (g : OnlyHealth n k) : OnlyHealth m k := by
  unfold OnlyHealth at *
  rw [g, h]

theorem note_onlyHealth (m : Meter) (t : Stamp) (typ id old new : Nat) : OnlyHealth m (m.note t typ id old new) := by
  unfold note
  split
  · exact .refl m
  · dsimp only
    split <;> rfl

theorem fault_onlyHealth (m : Meter) (t : Stamp) (i : Nat) : OnlyHealth m (m.fault t i) := by
  unfold fault
  split
  · exact .refl m
  · dsimp only
    split
    · exact .trans (n := { m with health := putBits m.health i 1 1 }) rfl (note_onlyHealth ..)
    · rfl

theorem cond_onlyHealth (m : Meter) (t : Stamp) (i : Nat) (present : Bool) : OnlyHealth m (m.cond t i present) := by
  unfold cond
  dsimp only
  split
  · exact .trans (n := { m with conds := putBits m.conds i 1 (if present then 1 else 0) }) rfl (fault_onlyHealth ..)
  · split <;> rfl

theorem clearFlag_onlyHealth (m : Meter) (t : Stamp) (mask i : Nat) : OnlyHealth m (m.clearFlag t mask i) := by
  unfold clearFlag
  split
  · exact .trans (n := { m with health := putBits m.health i 1 0 }) rfl (note_onlyHealth ..)
  · exact .refl m

theorem clearFlags_onlyHealth (m : Meter) (t : Stamp) (mask : Nat) (l : List Nat) :
    OnlyHealth m (l.foldl (fun a i => a.clearFlag t mask i) m) := by
  induction l generalizing m with
  | nil => exact .refl m
  | cons i l ih => exact (clearFlag_onlyHealth m t mask i).trans (ih _)

/-! ### What belongs to the ledger -/

/-- The legal registers, the snapshots and the held summaries are the same. -/
structure SameLedger (m n : Meter) : Prop where
  legal : n.legal = m.legal
  snaps : n.snaps = m.snaps
  held  : n.held = m.held

theorem SameLedger.refl (m : Meter) : SameLedger m m := ⟨rfl, rfl, rfl⟩

theorem SameLedger.trans {m n k : Meter} (h : SameLedger m n) (g : SameLedger n k) : SameLedger m k :=
  ⟨g.legal.trans h.legal, g.snaps.trans h.snaps, g.held.trans h.held⟩

theorem SameLedger.lawful {m n : Meter} (h : SameLedger m n) (w : m.lawful) : n.lawful := by
  unfold Meter.lawful at *
  rw [h.legal, h.snaps, h.held]
  exact w

theorem OnlyHealth.sameLedger {m n : Meter} (h : OnlyHealth m n) : SameLedger m n := by
  rw [h]
  exact ⟨rfl, rfl, rfl⟩

theorem setParam_sameLedger (m : Meter) (t : Stamp) (id v : Nat) : SameLedger m (m.setParam t id v) := by
  unfold setParam
  split <;> exact ⟨rfl, rfl, rfl⟩

/-! ### Energy, summaries and snapshots keep the ledger -/

theorem register_lawful {m : Meter} (h : m.lawful) : m.register.lawful := by
  obtain ⟨⟨parts, inputs, accounts⟩, snaps, held⟩ := h
  refine ⟨⟨?_, ?_, accounts⟩, snaps, held⟩
  · simp only [register]
    omega
  · simp only [register]
    omega

theorem closeWindow_sameLedger (m : Meter) : SameLedger m m.closeWindow := by
  unfold closeWindow
  split <;> exact ⟨rfl, rfl, rfl⟩

/-- What a sample adds to the running interval, before anything is registered. -/
def gather (m : Meter) (va ia vb ib : Int) : Meter :=
  let pA := m.samplePower 0 va ia
  let pB := m.samplePower 1 vb ib
  { m with winA := m.winA + pA.toNat, winB := m.winB + pB.toNat, winR := m.winR + ((-pA).toNat + (-pB).toNat),
           winN := m.winN + 1, winP := m.winP + (pA + pB), winOpen := m.winOpen || decide (noLoad ≤ m.winP + (pA + pB)),
           instant := [va, ia, vb, ib] }

theorem sample_eq (m : Meter) (va ia vb ib : Int) : m.sample va ia vb ib =
    (if (m.gather va ia vb ib).winOpen then (m.gather va ia vb ib).register else m.gather va ia vb ib).closeWindow := rfl

theorem sample_lawful {m : Meter} (h : m.lawful) (va ia vb ib : Int) : (m.sample va ia vb ib).lawful := by
  have gathered : (m.gather va ia vb ib).lawful := SameLedger.lawful ⟨rfl, rfl, rfl⟩ h
  rw [sample_eq]
  refine (closeWindow_sameLedger _).lawful ?_
  split
  · exact register_lawful gathered
  · exact gathered

/-- Held summaries come from a lawful meter's or name their accounts as R558 asks. -/
theorem lawful_of_held {m n : Meter} (h : m.lawful) (legal : n.legal = m.legal) (snaps : n.snaps = m.snaps)
    (held : ∀ x ∈ n.held, x ∈ m.held ∨ risingAcc x.entries = true ∧ ∀ e ∈ x.entries, e.1 < 128) : n.lawful :=
  ⟨legal ▸ h.1, snaps ▸ h.2.1, fun x hx => (held x hx).elim (h.2.2 x) id⟩

theorem takeFence_lawful {m : Meter} (h : m.lawful) (session token : Nat) : (m.takeFence session token).lawful := by
  unfold takeFence
  split
  · exact h
  · exact lawful_of_held h rfl rfl fun x hx => .inl (List.mem_of_mem_filter hx)

/-- The entries of a valid summary name accounts below 128 in rising order. -/
theorem entries_of_sumOk {b : List Byte} (h : sumOk b = true) :
    risingAcc (sumEntries b) = true ∧ ∀ e ∈ sumEntries b, e.1 < 128 := by
  simp only [sumOk, Bool.and_eq_true, List.all_eq_true, decide_eq_true_eq] at h
  obtain ⟨⟨-, rising⟩, all⟩ := h
  exact ⟨rising, fun e he => (all e he).1⟩

theorem takeSummary_lawful {m : Meter} (h : m.lawful) (t : Stamp) (b : List Byte) : (m.takeSummary t b).lawful := by
  unfold takeSummary
  split
  · exact SameLedger.lawful ⟨rfl, rfl, rfl⟩ h
  · next ok =>
    have entries := entries_of_sumOk (by simpa using ok : sumOk b = true)
    have opened : (if m.session = some (fld b 4 4) then m
        else { m with session := some (fld b 4 4), token := 0, lastFrn := 0, fresh := true }).lawful := by
      split
      · exact h
      · exact SameLedger.lawful ⟨rfl, rfl, rfl⟩ h
    dsimp only
    generalize (if m.session = some (fld b 4 4) then m
      else { m with session := some (fld b 4 4), token := 0, lastFrn := 0, fresh := true }) = n at opened ⊢
    split
    · exact opened
    · split
      · split
        · refine lawful_of_held opened rfl rfl fun x hx => ?_
          rcases List.mem_cons.mp hx with rfl | hx
          · exact .inr entries
          · exact .inl (List.mem_of_mem_filter hx)
        · exact SameLedger.lawful ⟨rfl, rfl, rfl⟩ opened
      · refine lawful_of_held opened rfl rfl fun x hx => ?_
        rcases List.mem_cons.mp hx with rfl | hx
        · exact .inr entries
        · exact .inl hx

/-- Closing an interval moves the pending energy to E_IDLE, or shares all of it out (R559). -/
theorem close_lawful {m : Meter} (h : m.lawful) (t : Stamp) {x : HeldSum} (hx : x ∈ m.held) : (m.close t x).lawful := by
  obtain ⟨⟨parts, inputs, accounts⟩, snaps, held⟩ := h
  obtain ⟨rising, small⟩ := held x hx
  refine ⟨?_, snaps, fun y hy => held y (List.mem_of_mem_filter hy)⟩
  have shared : sumUnits x.entries ≠ 0 → (addAll m.legal.eFn (finalShares m.legal.ePend (sumUnits x.entries) x.entries)).sum
      = m.legal.eFn.sum + m.legal.ePend := fun some => by
    rw [sum_addAll, sum_finalShares rfl (Nat.pos_of_ne_zero some) (nodup_of_rising rising)]
    intro y hy
    have : y.1 ∈ x.entries.map Prod.fst := finalShares_accs ▸ List.mem_map_of_mem hy
    obtain ⟨e, he, same⟩ := List.mem_map.mp this
    rw [← same, accounts]
    exact small e he
  unfold Legal.lawful close
  dsimp only
  split
  · exact ⟨by omega, inputs, accounts⟩
  · next counts =>
    have some : sumUnits x.entries ≠ 0 := fun zero => counts (by simp [zero])
    exact ⟨by rw [shared some]; omega, inputs, by rw [length_addAll, accounts]⟩

theorem mem_of_foldl_pick {α : Type} {f : Option α → α → Option α} (pick : ∀ b x, f b x = some x ∨ f b x = b) {l : List α}
    {b : Option α} {y : α} (h : l.foldl f b = some y) : y ∈ l ∨ b = some y := by
  induction l generalizing b with
  | nil => exact .inr h
  | cons x l ih =>
    rcases ih h with hl | hb
    · exact .inl (List.mem_cons_of_mem x hl)
    · rcases pick b x with e | e
      · rw [e, Option.some.injEq] at hb
        exact .inl (hb ▸ List.mem_cons_self)
      · exact .inr (e ▸ hb)

theorem mem_of_nextHeld {m : Meter} {x : HeldSum} (h : m.nextHeld = some x) : x ∈ m.held := by
  refine (mem_of_foldl_pick (fun b y => ?_) h).resolve_right nofun
  cases b with
  | none => exact .inl rfl
  | some z =>
    dsimp only
    split
    · exact .inl rfl
    · exact .inr rfl

theorem applyHeld_lawful (t : Stamp) (n : Nat) {m : Meter} (h : m.lawful) : (applyHeld t n m).lawful := by
  induction n generalizing m with
  | zero => exact h
  | succ n ih =>
    unfold applyHeld
    split
    · exact h
    · next x hx =>
      split
      · exact h
      · split
        · exact ih (lawful_of_held h rfl rfl fun y hy => .inl (List.mem_of_mem_filter hy))
        · exact ih (close_lawful h t (mem_of_nextHeld hx))

theorem snapshot_lawful {m : Meter} (h : m.lawful) (t : Stamp) (verified final : Bool) : (m.snapshot t verified final).lawful := by
  unfold snapshot
  refine (cond_onlyHealth ..).sameLedger.lawful ⟨h.1, fun x hx => ?_, h.2.2⟩
  rcases List.mem_or_eq_of_mem_set hx with old | rfl
  · exact h.2.1 x old
  · exact h.1

theorem lawful_zero : Legal.zero.lawful := by
  simp [Legal.lawful, Legal.zero]

/-- The newest valid snapshot is one of the two slots, or an empty one. -/
theorem newest_mem (m : Meter) : m.newest ∈ m.snaps ∨ m.newest = Snap.none := by
  unfold newest
  generalize Snap.none = b
  induction m.snaps generalizing b with
  | nil => exact .inr rfl
  | cons x l ih =>
    rcases ih (if x.valid && (!b.valid || b.seq < x.seq) then x else b) with hl | hb
    · exact .inl (List.mem_cons_of_mem x hl)
    · rw [List.foldl_cons, hb]
      split
      · exact .inl List.mem_cons_self
      · exact .inr rfl

theorem newest_lawful {m : Meter} (h : m.lawful) : m.newest.legal.lawful := by
  rcases m.newest_mem with hx | hx
  · exact h.2.1 _ hx
  · rw [hx]
    exact lawful_zero

theorem powerOn_lawful {m : Meter} (h : m.lawful) (t rtcNow : Nat) : (m.powerOn t rtcNow).lawful := by
  unfold powerOn
  have kept : ∀ x ∈ m.snaps.map fun x : Snap => { x with final := false }, x.legal.lawful := fun x hx => by
    obtain ⟨y, hy, rfl⟩ := List.mem_map.mp hx
    exact h.2.1 y hy
  dsimp only
  split
  · exact ⟨newest_lawful h, kept, nofun⟩
  · exact (note_onlyHealth ..).sameLedger.lawful ⟨newest_lawful h, kept, nofun⟩

end Meter

/-! ### The package leaves to the meter what is the meter's -/

/-- Only the metrology die, what left the package and the counter of free values may differ. -/
def OnlyMeter (s t : State) : Prop := t = { s with md := t.md, out := t.out, free := t.free }

theorem OnlyMeter.refl (s : State) : OnlyMeter s s := rfl

theorem OnlyMeter.trans {s t u : State} (h : OnlyMeter s t) (g : OnlyMeter t u) : OnlyMeter s u := by
  unfold OnlyMeter at *
  rw [g, h]

section
variable {s t : State} (h : OnlyMeter s t)
include h

theorem OnlyMeter.pending : t.pending = s.pending := by rw [h]
theorem OnlyMeter.regs : t.regs = s.regs := by rw [h]
theorem OnlyMeter.ops : t.ops = s.ops := by rw [h]
theorem OnlyMeter.cores : t.cores = s.cores := by rw [h]

end

variable (s : State)

@[simp] theorem State.onMd_md (f : Meter → Meter) : (s.onMd f).md = f s.md := rfl

theorem State.onMd_onlyMeter (f : Meter → Meter) : OnlyMeter s (s.onMd f) := rfl

theorem State.say_onlyMeter (m : Msg) : OnlyMeter s (s.say m) := rfl

@[simp] theorem State.ibi_md (code : Nat) : (s.ibi code).md = s.md := by
  unfold State.ibi
  split <;> rfl

theorem State.ibi_onlyMeter (code : Nat) : OnlyMeter s (s.ibi code) := by
  unfold State.ibi
  split <;> rfl

/-- A record is signed and counted. -/
@[simp] theorem State.record_md (t : Stamp) (sel arg status : Nat) (nonce pay : List Byte) :
    (s.record t sel arg status nonce pay).1.md = { s.md with rseq := s.md.rseq + 1 } := rfl

theorem State.record_onlyMeter (t : Stamp) (sel arg status : Nat) (nonce pay : List Byte) :
    OnlyMeter s (s.record t sel arg status nonce pay).1 := rfl

@[simp] theorem State.mdChange_md (f : Meter → Meter) : (s.mdChange f).md = f s.md := by
  unfold State.mdChange
  dsimp only
  split
  · rfl
  · exact State.ibi_md ..

theorem State.mdChange_onlyMeter (f : Meter → Meter) : OnlyMeter s (s.mdChange f) := by
  unfold State.mdChange
  dsimp only
  split
  · rfl
  · exact (s.onMd_onlyMeter f).trans (State.ibi_onlyMeter ..)

theorem State.mdSet_md {s : State} (on : s.md.on = true) (f : Meter → Meter) : (s.mdSet f).md = f s.md := by
  rw [State.mdSet, if_pos on, State.mdChange_md]

theorem State.mdSet_off {s : State} (off : s.md.on = false) (f : Meter → Meter) : s.mdSet f = s :=
  if_neg (by simp [off])

theorem State.mdSet_onlyMeter (f : Meter → Meter) : OnlyMeter s (s.mdSet f) := by
  unfold State.mdSet
  split
  · exact s.mdChange_onlyMeter f
  · exact .refl s

/-- The record the I3C port keeps of a command (log entry 54). -/
def State.cmdBytes (s : State) (t : Stamp) (code id status old new : Nat) : List Byte :=
  (s.record t 0xF0 0 status [] (leBytes 1 code ++ leBytes 1 id ++ List.replicate 6 0 ++ leBytes 8 old ++ leBytes 8 new)).2

@[simp] theorem State.cmdRecord_md (t : Stamp) (code id status old new : Nat) : (s.cmdRecord t code id status old new).md
    = { s.md with rseq := s.md.rseq + 1, lastRec := s.cmdBytes t code id status old new } := State.ibi_md ..

theorem State.cmdRecord_onlyMeter (t : Stamp) (code id status old new : Nat) :
    OnlyMeter s (s.cmdRecord t code id status old new) :=
  .trans (s.record_onlyMeter ..) (.trans (State.onMd_onlyMeter ..) (State.ibi_onlyMeter ..))

theorem State.cmdRecord_sameLedger (t : Stamp) (code id status old new : Nat) :
    s.md.SameLedger (s.cmdRecord t code id status old new).md := by
  rw [State.cmdRecord_md]
  exact ⟨rfl, rfl, rfl⟩

end Sys2Proof.Machine
end

section
/-! PROOFS. Every command completes and leaves the queue (chapter 0); every step keeps the meter's ledger (R549). -/

namespace Sys2Proof.Machine

/-! ### Requests the legal partition serves -/

variable (s : State)

theorem State.serveRead_onlyMeter (t : Stamp) (path sel arg : Nat) (nonce : List Byte) :
    OnlyMeter s (s.serveRead t path sel arg nonce) := by
  unfold State.serveRead
  dsimp only
  split
  · exact (s.record_onlyMeter ..).trans (State.say_onlyMeter ..)
  · exact (s.record_onlyMeter ..).trans (.trans (State.onMd_onlyMeter ..) (State.ibi_onlyMeter ..))

theorem State.serveRead_sameLedger (t : Stamp) (path sel arg : Nat) (nonce : List Byte) :
    s.md.SameLedger (s.serveRead t path sel arg nonce).md := by
  unfold State.serveRead
  dsimp only
  split
  · exact ⟨rfl, rfl, rfl⟩
  · rw [State.ibi_md]
    exact ⟨rfl, rfl, rfl⟩

theorem State.serveParam_keeps (t : Stamp) (id v : Nat) :
    OnlyMeter s (s.serveParam t id v) ∧ s.md.SameLedger (s.serveParam t id v).md := by
  unfold State.serveParam
  dsimp only
  split
  · exact ⟨s.cmdRecord_onlyMeter .., s.cmdRecord_sameLedger ..⟩
  · refine ⟨(s.mdChange_onlyMeter _).trans (State.cmdRecord_onlyMeter ..), .trans ?_ (State.cmdRecord_sameLedger ..)⟩
    rw [State.mdChange_md]
    exact (Meter.note_onlyHealth ..).sameLedger.trans (Meter.setParam_sameLedger ..)

theorem State.serveClear_keeps (t : Stamp) (mask : Nat) :
    OnlyMeter s (s.serveClear t mask) ∧ s.md.SameLedger (s.serveClear t mask).md := by
  unfold State.serveClear
  dsimp only
  split
  · exact ⟨s.cmdRecord_onlyMeter .., s.cmdRecord_sameLedger ..⟩
  · refine ⟨(s.mdChange_onlyMeter _).trans (State.cmdRecord_onlyMeter ..), .trans ?_ (State.cmdRecord_sameLedger ..)⟩
    rw [State.mdChange_md]
    exact (Meter.clearFlags_onlyHealth ..).sameLedger

/-- A load that begins or ends, with its record. -/
theorem State.load_keeps (f : Meter → Meter) (hf : s.md.SameLedger (f s.md)) (t : Stamp) (code id st old new : Nat) :
    OnlyMeter s ((s.onMd f).cmdRecord t code id st old new)
      ∧ s.md.SameLedger ((s.onMd f).cmdRecord t code id st old new).md :=
  ⟨(s.onMd_onlyMeter f).trans (State.cmdRecord_onlyMeter ..), hf.trans ((s.onMd f).cmdRecord_sameLedger ..)⟩

theorem State.serveFwBegin_keeps (t : Stamp) (target len : Nat) :
    OnlyMeter s (s.serveFwBegin t target len) ∧ s.md.SameLedger (s.serveFwBegin t target len).md := by
  unfold State.serveFwBegin
  dsimp only
  split
  · exact ⟨s.cmdRecord_onlyMeter .., s.cmdRecord_sameLedger ..⟩
  · exact s.load_keeps _ ⟨rfl, rfl, rfl⟩ ..

theorem State.serveFwData_keeps (off : Nat) (data : List Byte) :
    OnlyMeter s (s.serveFwData off data) ∧ s.md.SameLedger (s.serveFwData off data).md := by
  unfold State.serveFwData
  split
  · exact ⟨.refl s, .refl _⟩
  · split
    · exact ⟨.refl s, .refl _⟩
    · split
      · exact ⟨.refl s, .refl _⟩
      · exact ⟨s.onMd_onlyMeter _, rfl, rfl, rfl⟩

theorem State.serveFwEnd_keeps (t : Stamp) (version : Nat) (hash sig : List Byte) :
    OnlyMeter s (s.serveFwEnd t version hash sig) ∧ s.md.SameLedger (s.serveFwEnd t version hash sig).md := by
  unfold State.serveFwEnd
  dsimp only
  split
  · exact ⟨s.cmdRecord_onlyMeter .., s.cmdRecord_sameLedger ..⟩
  · split
    · exact s.load_keeps _ ⟨rfl, rfl, rfl⟩ ..
    · split
      · exact s.load_keeps _ ⟨rfl, rfl, rfl⟩ ..
      · have load := s.load_keeps (fun m => { m with fwTarget := none }) ⟨rfl, rfl, rfl⟩ t 0x22 0 0 s.md.fwVer
          (version % 2 ^ 32 + 2 ^ 32 * leNat (hash.take 4))
        refine ⟨load.1.trans (State.mdChange_onlyMeter ..), load.2.trans ?_⟩
        rw [State.mdChange_md]
        exact (Meter.note_onlyHealth ..).sameLedger.trans ⟨rfl, rfl, rfl⟩
  · split
    · exact s.load_keeps _ ⟨rfl, rfl, rfl⟩ ..
    · exact s.load_keeps (fun m => { m with fwTarget := none, ifVer := version % 2 ^ 32 }) ⟨rfl, rfl, rfl⟩ ..

theorem State.serveMd_keeps (q : Queued) : OnlyMeter s (s.serveMd q) ∧ (s.md.lawful → (s.serveMd q).md.lawful) := by
  unfold State.serveMd
  split
  · split
    · exact ⟨s.onMd_onlyMeter _, fun h => Meter.takeSummary_lawful h ..⟩
    · exact ⟨.refl s, id⟩
  · exact ⟨s.onMd_onlyMeter _, fun h => Meter.takeFence_lawful h ..⟩
  · exact ⟨s.serveRead_onlyMeter .., (s.serveRead_sameLedger ..).lawful⟩
  · exact ⟨(s.serveParam_keeps ..).1, (s.serveParam_keeps ..).2.lawful⟩
  · exact ⟨(s.serveClear_keeps ..).1, (s.serveClear_keeps ..).2.lawful⟩
  · exact ⟨(s.serveFwBegin_keeps ..).1, (s.serveFwBegin_keeps ..).2.lawful⟩
  · exact ⟨(s.serveFwData_keeps ..).1, (s.serveFwData_keeps ..).2.lawful⟩
  · exact ⟨(s.serveFwEnd_keeps ..).1, (s.serveFwEnd_keeps ..).2.lawful⟩

/-! ### What a command of the meter leaves -/

/-- The queue stays and the ledger holds where it held. -/
def KeepsLedger (s t : State) : Prop := t.pending = s.pending ∧ (s.md.lawful → t.md.lawful)

theorem KeepsLedger.refl : KeepsLedger s s := ⟨rfl, id⟩

theorem KeepsLedger.trans {s t u : State} (h : KeepsLedger s t) (g : KeepsLedger t u) : KeepsLedger s u :=
  ⟨g.1.trans h.1, g.2 ∘ h.2⟩

theorem KeepsLedger.of_same {s t : State} (pending : t.pending = s.pending) (md : t.md = s.md) : KeepsLedger s t :=
  ⟨pending, fun h => md ▸ h⟩

theorem KeepsLedger.ite {s a b : State} {c : Prop} [Decidable c] (ha : KeepsLedger s a) (hb : KeepsLedger s b) :
    KeepsLedger s (if c then a else b) := by
  split
  · exact ha
  · exact hb

theorem KeepsLedger.arrive (t : Stamp) : KeepsLedger s (s.arrive t) := .of_same (State.arrive_pending ..) (State.arrive_md ..)

theorem KeepsLedger.onMd {f : Meter → Meter} (h : s.md.lawful → (f s.md).lawful) : KeepsLedger s (s.onMd f) := ⟨rfl, h⟩

theorem KeepsLedger.mdSet {f : Meter → Meter} (h : s.md.lawful → (f s.md).lawful) : KeepsLedger s (s.mdSet f) := by
  refine ⟨(s.mdSet_onlyMeter f).pending, fun w => ?_⟩
  unfold State.mdSet
  split
  · rw [State.mdChange_md]
    exact h w
  · exact w

theorem KeepsLedger.i3cSet {f : Meter → Meter} (h : s.md.SameLedger (f s.md)) : KeepsLedger s (s.i3cSet f) :=
  .ite (.onMd s h.lawful) (.refl s)

theorem KeepsLedger.i3cAnswer (bs : List Byte) : KeepsLedger s (s.i3cAnswer bs) :=
  .ite (.refl s) (.of_same rfl rfl)

theorem State.reachMd_keeps (t link : Nat) (req : MdReq) : KeepsLedger s (s.reachMd t link req) := by
  unfold State.reachMd
  dsimp only
  split
  · exact .refl s
  · split
    · exact ⟨(s.serveMd_keeps _).1.pending, (s.serveMd_keeps _).2⟩
    · split
      · exact .onMd s (Meter.SameLedger.lawful ⟨rfl, rfl, rfl⟩)
      · exact .onMd s (Meter.SameLedger.lawful ⟨rfl, rfl, rfl⟩)

theorem State.i3cWrite_keeps (t : Nat) (req : MdReq) : KeepsLedger s (s.i3cWrite t req) :=
  .ite (.refl s) (s.reachMd_keeps ..)

theorem State.endRestart_keeps (t : Stamp) : KeepsLedger s (s.endRestart t) := by
  unfold State.endRestart
  dsimp only
  generalize s.md.queue = qs
  refine (KeepsLedger.onMd s (f := fun m => { m with restart := false, queue := [] })
    (Meter.SameLedger.lawful ⟨rfl, rfl, rfl⟩)).trans ?_
  generalize (s.onMd fun m => { m with restart := false, queue := [] }) = u
  induction qs generalizing u with
  | nil => exact .refl u
  | cons q qs ih => exact .trans ⟨(u.serveMd_keeps _).1.pending, (u.serveMd_keeps _).2⟩ (ih _)

/-- Registers of a fabric die are not the meter's. -/
theorem State.setMt_same (fd v : Nat) : (s.setMt fd v).pending = s.pending ∧ (s.setMt fd v).md = s.md := by
  unfold State.setMt
  dsimp only
  generalize putBits v 6 1 (if refuseOf v then 1 else 0) = new
  split
  · exact ⟨rfl, rfl⟩
  · exact ⟨State.event_pending .., State.event_md ..⟩

theorem State.fillRsp_same (fd : Nat) (bytes : List Byte) :
    (s.fillRsp fd bytes).pending = s.pending ∧ (s.fillRsp fd bytes).md = s.md :=
  ⟨foldl_pending' fun _ _ => rfl, foldl_md' fun _ _ => rfl⟩

theorem KeepsLedger.setMt (fd v : Nat) : KeepsLedger s (s.setMt fd v) := .of_same (s.setMt_same fd v).1 (s.setMt_same fd v).2

theorem KeepsLedger.fillRsp (fd : Nat) (bytes : List Byte) : KeepsLedger s (s.fillRsp fd bytes) :=
  .of_same (s.fillRsp_same fd bytes).1 (s.fillRsp_same fd bytes).2

theorem KeepsLedger.mbxDone (fd : Nat) (timeout : Bool) : KeepsLedger s (s.mbxDone fd timeout) :=
  .of_same (by simp [State.mbxDone, State.onFd]) (by simp [State.mbxDone, State.onFd])

theorem execMbxGo_keeps (t port : Nat) (be : BitVec 4) (v : Word) : ∃ u, execMbxGo t port be v s = .next u ∧ KeepsLedger s u := by
  refine ⟨_, rfl, ?_⟩
  generalize front : (s.arrive t).wrFront port none offMbxCtl be = z
  have written : KeepsLedger s z.1 := (KeepsLedger.arrive s t).trans
    (.of_same (State.wrFront_pending_eq front) (State.wrFront_md_eq front))
  obtain ⟨a, _ | r⟩ := z
  · exact written
  · exact .ite written (written.trans (.of_same (by simp [State.onFd]) (by simp [State.onFd])))

theorem execReadoutRecord_keeps (t fd : Nat) (bytes : List Byte) :
    ∃ u, execReadoutRecord t fd bytes s = .next u ∧ KeepsLedger s u := by
  have filled := (KeepsLedger.arrive s t).trans (.fillRsp _ fd bytes)
  refine ⟨_, rfl, .ite (.arrive s t) ?_⟩
  dsimp only
  generalize (s.arrive t).fillRsp fd bytes = u at filled ⊢
  have shown : KeepsLedger s (if fld bytes 1 1 = 1 && fld bytes 4 1 = 0 then
      { u with boot := { u.boot with ident := (bytes.drop 0x58).take 4 ++ (bytes.drop 0x70).take 48 } } else u) :=
    .ite (filled.trans (.of_same rfl rfl)) filled
  exact .ite (shown.trans (.mbxDone ..)) shown

/-- A command of the meter's side completes, leaves the queue and keeps the ledger. -/
theorem exec_of_meterSide (c : Instr) (h : c.meterSide = true) : ∃ t, exec c s = .next t ∧ KeepsLedger s t := by
  cases c with
  | summary | mdFence => exact ⟨_, rfl, s.reachMd_keeps ..⟩
  | summaryApply t => exact ⟨_, rfl, .ite (.refl s) (.onMd s (Meter.applyHeld_lawful t _))⟩
  | read t path sel arg nonce =>
    have refused : KeepsLedger s (s.cmdRecord t 0x01 0 7 0 0) :=
      ⟨(s.cmdRecord_onlyMeter ..).pending, (s.cmdRecord_sameLedger ..).lawful⟩
    exact ⟨_, rfl, .ite (.refl s) (.ite (.ite refused (.refl s)) (s.reachMd_keeps ..))⟩
  | param | clear | fwBegin | fwData | fwEnd => exact ⟨_, rfl, s.i3cWrite_keeps ..⟩
  | i3cPrivateRead | getpid | getbcr | getdcr | getmwl | getmrl => exact ⟨_, rfl, .i3cAnswer s _⟩
  | getstatus => exact ⟨_, rfl, (KeepsLedger.i3cAnswer s _).trans (.of_same rfl rfl)⟩
  | entdaa | setdasa =>
    refine ⟨_, rfl, .i3cSet s ?_⟩
    split <;> exact ⟨rfl, rfl, rfl⟩
  | rstdaa | enec | disec | rstact => exact ⟨_, rfl, .i3cSet s ⟨rfl, rfl, rfl⟩⟩
  | sealChange t closed =>
    refine ⟨_, rfl, .mdSet s fun w => ?_⟩
    split
    · exact w
    · exact (Meter.note_onlyHealth ..).sameLedger.lawful w
  | clockCheck | lidLoopOpen => exact ⟨_, rfl, .mdSet s (Meter.cond_onlyHealth ..).sameLedger.lawful⟩
  | fwHashCheck t good =>
    have checked : KeepsLedger s (s.mdSet fun m => m.cond t 3 (!good)) :=
      .mdSet s (Meter.cond_onlyHealth ..).sameLedger.lawful
    exact ⟨_, rfl, .ite (.refl s) (.ite (checked.trans (State.endRestart_keeps ..)) checked)⟩
  | energySample t va ia vb ib =>
    exact ⟨_, rfl, .mdSet s fun w => (Meter.cond_onlyHealth ..).sameLedger.lawful (Meter.sample_lawful w ..)⟩
  | nvSnapshot t verified => exact ⟨_, rfl, .mdSet s fun w => Meter.snapshot_lawful w ..⟩
  | mdBranchFall t verified =>
    exact ⟨_, rfl, .ite (.refl s) (.onMd s fun w => Meter.SameLedger.lawful ⟨rfl, rfl, rfl⟩
      (Meter.snapshot_lawful ((Meter.cond_onlyHealth s.md t 6 true).sameLedger.lawful w) t verified true))⟩
  | mdPowerOn t rtcNow => exact ⟨_, rfl, .ite (.refl s) (.onMd s fun w => Meter.powerOn_lawful w ..)⟩
  | statusWord t fd =>
    have arrived := KeepsLedger.arrive s t
    exact ⟨_, rfl, .ite arrived (arrived.trans (.trans (.of_same (by simp [State.onFd]) (by simp [State.onFd])) (.setMt ..)))⟩
  | statusWordTimeout t fd => exact ⟨_, rfl, .ite (.arrive s t) ((KeepsLedger.arrive s t).trans (.setMt ..))⟩
  | mbxGo t port be v => exact execMbxGo_keeps s t port be v
  | mbxTimeout t fd =>
    exact ⟨_, rfl, .ite (.arrive s t) ((KeepsLedger.arrive s t).trans (.trans (.fillRsp ..) (.mbxDone ..)))⟩
  | readoutRecord t fd bytes => exact execReadoutRecord_keeps s t fd bytes
  | supplyTrip | thermalTrip =>
    exact ⟨_, rfl, .ite (.mdSet s (Meter.cond_onlyHealth ..).sameLedger.lawful)
      ((KeepsLedger.arrive s _).trans (.of_same (State.tripPart_pending ..) (State.tripPart_md ..)))⟩
  | _ => exact nomatch h

/-- Every command completes, leaves the queue and keeps the ledger. -/
theorem exec_keepsLedger (c : Instr) : ∃ t, exec c s = .next t ∧ KeepsLedger s t := by
  cases side : c.meterSide with
  | true => exact exec_of_meterSide s c side
  | false =>
    obtain ⟨completes, keeps⟩ := exec_of_not_meterSide c s side
    obtain ⟨t, ht⟩ := exists_next_of_goesOn completes
    exact ⟨t, ht, .of_same (keeps t ht).1 (keeps t ht).2⟩

/-! ### The obligations -/

/-- Settles O1. -/
theorem stepRunsTheFrontCommand : Obligations.StepRunsTheFrontCommand := by
  unfold Obligations.StepRunsTheFrontCommand
  refine ⟨fun c s => rfl, fun s empty => ?_⟩
  rw [step, empty]

/-- Settles O2: the commands of the package keep the queue by their frame lemmas, those of the meter side as parts of what
they leave to the ledger. -/
theorem everyCommandCompletesAndLeavesTheQueue : Obligations.EveryCommandCompletesAndLeavesTheQueue := by
  unfold Obligations.EveryCommandCompletesAndLeavesTheQueue
  intro c s
  obtain ⟨t, ht, pending, -⟩ := exec_keepsLedger s c
  exact ⟨t, ht, pending⟩

/-- Settles O4: no energy has been registered, both snapshot slots are empty and no summary is held. -/
theorem meterLedgerHoldsAtReset : Obligations.MeterLedgerHoldsAtReset := by
  unfold Obligations.MeterLedgerHoldsAtReset State.meterLawful
  refine ⟨Meter.lawful_zero, fun x hx => ?_, nofun⟩
  rw [List.eq_of_mem_replicate (n := 2) hx]
  exact Meter.lawful_zero

/-- Settles O5: an idle step changes nothing, and every command keeps the ledger. -/
theorem meterLedgerIsKeptByEveryStep : Obligations.MeterLedgerIsKeptByEveryStep := by
  unfold Obligations.MeterLedgerIsKeptByEveryStep
  intro s t lawful stepped
  unfold step at stepped
  split at stepped
  · injection stepped with same
    exact same ▸ lawful
  · next c rest queue =>
    obtain ⟨u, hu, -, keeps⟩ := exec_keepsLedger { s with pending := rest } c
    rw [hu] at stepped
    injection stepped with same
    exact same ▸ keeps lawful

end Sys2Proof.Machine
end

section
/-! PROOFS. Samples, summaries and fences of the meter (chapter 17). -/

namespace Sys2Proof.Machine

/-! ### Bits of a number -/

theorem bit_putBits_same (v i x : Nat) : bit (putBits v i 1 x) i = decide (x % 2 = 1) := by
  rw [bit_eq_bitf, bitf_putBits_same, pow_one]

theorem bit_putBits_other (v x : Nat) {i j : Nat} (h : j ≠ i) : bit (putBits v i 1 x) j = bit v j := by
  rw [bit_eq_bitf, bit_eq_bitf, bitf_putBits_other _ _ _ _ _ _ (by omega)]

namespace Meter

/-! ### The log and the flags -/

/-- A log with room takes its entry and sets no flag. -/
theorem note_of_room {m : Meter} (room : m.log.length < 4095) (t : Stamp) (typ id old new : Nat) : m.note t typ id old new
    = { m with log := m.log ++ [{ evcnt := m.log.length + 1, typ, id, rtc := m.rtcNow t, old, new }] } := by
  unfold note
  rw [if_neg (by omega)]
  dsimp only
  rw [if_neg (by simp; omega)]

theorem length_note {m : Meter} (room : m.log.length < 4096) (t : Stamp) (typ id old new : Nat) :
    (m.note t typ id old new).log.length = m.log.length + 1 := by
  unfold note
  rw [if_neg (by omega)]
  dsimp only
  split <;> simp

/-- Logging clears no flag. -/
theorem bit_note {m : Meter} {i : Nat} (h : bit m.health i = true) (t : Stamp) (typ id old new : Nat) :
    bit (m.note t typ id old new).health i = true := by
  unfold note
  split
  · exact h
  · dsimp only
    split
    · by_cases same : i = 2
      · subst same
        exact bit_putBits_same ..
      · exact (bit_putBits_other _ _ same).trans h
    · exact h

theorem bit_fault (m : Meter) (t : Stamp) (i : Nat) : bit (m.fault t i).health i = true := by
  unfold fault
  split
  · assumption
  · have set : bit (putBits m.health i 1 1) i = true := bit_putBits_same ..
    dsimp only
    split
    · exact bit_note set ..
    · exact set

/-- A flag is set by its condition; only a latched one outlives it. -/
theorem bit_cond (m : Meter) (t : Stamp) (i : Nat) (present : Bool) :
    bit (m.cond t i present).health i = (present || latched i && bit m.health i) := by
  unfold cond
  dsimp only
  cases present with
  | true => exact bit_fault ..
  | false =>
    cases late : latched i with
    | true => exact (Bool.true_and _).symm
    | false => exact bit_putBits_same ..

/-! ### Samples (R548, R551) -/

theorem closeWindow_keeps (m : Meter) : m.closeWindow.fracA = m.fracA ∧ m.closeWindow.fracB = m.fracB
    ∧ m.closeWindow.fracR = m.fracR ∧ m.closeWindow.legal = m.legal := by
  unfold closeWindow
  split <;> exact ⟨rfl, rfl, rfl, rfl⟩

theorem closeWindow_winN (m : Meter) : m.closeWindow.winN = if m.winN < 100000 then m.winN else 0 := by
  unfold closeWindow
  split <;> rfl

/-- An interval below the no-load limit registers nothing. -/
theorem sample_unreached {m : Meter} {va ia vb ib : Int} (h : (m.gather va ia vb ib).winOpen = false) :
    m.sample va ia vb ib = (m.gather va ia vb ib).closeWindow := by
  rw [sample_eq, if_neg (by simp [h])]

theorem sample_reached {m : Meter} {va ia vb ib : Int} (h : (m.gather va ia vb ib).winOpen = true) :
    m.sample va ia vb ib = (m.gather va ia vb ib).register.closeWindow := by
  rw [sample_eq, if_pos h]

theorem sample_winN (m : Meter) (va ia vb ib : Int) :
    (m.sample va ia vb ib).winN = if m.winN + 1 < 100000 then m.winN + 1 else 0 := by
  rw [sample_eq, closeWindow_winN]
  split <;> rfl

/-! ### Summaries (R557-R559) -/

/-- The entry of a valid summary in the list of held ones. -/
def heldSum (b : List Byte) (t : Stamp) : HeldSum :=
  { frn := fld b 8 8, token := fld b 0x10 8, fus := fld b 0x18 4, nops := fld b 0x1C 4, entries := sumEntries b, arrived := t }

section
variable {m : Meter} {b : List Byte} (t : Stamp)

theorem takeSummary_invalid (bad : sumOk b = false) : m.takeSummary t b = { m with invalid := m.invalid + 1 } :=
  if_pos (by simp [bad])

/-- A summary behind the token or the frame last applied is dropped. -/
theorem takeSummary_stale (ok : sumOk b = true) (session : m.session = some (fld b 4 4))
    (stale : fld b 0x10 8 < m.token ∨ fld b 8 8 ≤ m.lastFrn) : m.takeSummary t b = m := by
  rw [takeSummary, if_neg (by simp [ok])]
  dsimp only
  rw [if_pos session, if_pos (by simpa using stale)]

theorem takeSummary_holds (ok : sumOk b = true) (session : m.session = some (fld b 4 4)) (token : m.token ≤ fld b 0x10 8)
    (newer : m.lastFrn < fld b 8 8) (new : ∀ x ∈ m.held, x.frn ≠ fld b 8 8) :
    m.takeSummary t b = { m with token := fld b 0x10 8, held := heldSum b t :: m.held } := by
  have none : m.held.find? (·.frn = fld b 8 8) = none := List.find?_eq_none.mpr fun x hx => by simpa using new x hx
  rw [takeSummary, if_neg (by simp [ok])]
  dsimp only
  rw [if_pos session, if_neg (by simp; omega), none, Nat.max_eq_right token]
  rfl

/-- A new session starts again: token and frame count from 0. -/
theorem takeSummary_opens (ok : sumOk b = true) (session : m.session ≠ some (fld b 4 4)) (newer : 0 < fld b 8 8)
    (new : ∀ x ∈ m.held, x.frn ≠ fld b 8 8) : m.takeSummary t b = { m with
      session := some (fld b 4 4), token := fld b 0x10 8, lastFrn := 0, fresh := true, held := heldSum b t :: m.held } := by
  have none : m.held.find? (·.frn = fld b 8 8) = none := List.find?_eq_none.mpr fun x hx => by simpa using new x hx
  rw [takeSummary, if_neg (by simp [ok])]
  dsimp only
  rw [if_neg session]
  dsimp only
  rw [if_neg (by simp; omega), none, Nat.zero_max]
  rfl

theorem lt_of_rising {es : List (Nat × Nat)} (rising : risingAcc es = true) {i : Nat} {x y : Nat × Nat} (hx : es[i]? = some x)
    (hy : es[i + 1]? = some y) : x.1 < y.1 := by
  induction es generalizing i with
  | nil => exact nomatch hx
  | cons e es ih =>
    cases es with
    | nil => exact nomatch hy
    | cons f es =>
      simp only [risingAcc, Bool.and_eq_true, decide_eq_true_eq] at rising
      cases i with
      | zero =>
        injection hx with hx
        injection hy with hy
        exact hx ▸ hy ▸ rising.1
      | succ i => exact ih rising.2 hx hy

/-- What R558 names makes a summary invalid. -/
theorem sumOk_of_bad_accounts (h : (∃ e ∈ sumEntries b, 127 < e.1)
    ∨ ∃ i x y, (sumEntries b)[i]? = some x ∧ (sumEntries b)[i + 1]? = some y ∧ y.1 ≤ x.1) : sumOk b = false := by
  rw [← Bool.not_eq_true]
  intro ok
  obtain ⟨rising, small⟩ := entries_of_sumOk ok
  rcases h with ⟨e, he, large⟩ | ⟨i, x, y, hx, hy, falling⟩
  · have := small e he
    omega
  · have := lt_of_rising rising hx hy
    omega

end

/-- A single held summary whose 50 us have run closes the interval. -/
theorem applyHeld_single {m : Meter} {h : HeldSum} {t : Nat} (held : m.held = [h]) (due : h.arrived + 50000 ≤ t)
    (newer : m.lastFrn < h.frn) : applyHeld t m.held.length m = m.close t h := by
  have next : m.nextHeld = some h := by rw [nextHeld, held]; rfl
  rw [held, List.length_singleton, applyHeld, next]
  dsimp only
  rw [if_neg (Nat.not_lt.mpr due), if_neg (Nat.not_le.mpr newer)]
  rfl

theorem applyHeld_early {m : Meter} {t : Nat} (early : ∀ x ∈ m.held, t < x.arrived + 50000) (n : Nat) :
    applyHeld t n m = m := by
  cases n with
  | zero => rfl
  | succ n =>
    unfold applyHeld
    split
    · rfl
    · next h hh => exact if_pos (early h (mem_of_nextHeld hh))

end Meter

/-! ### Requests that are served at once -/

theorem State.reachMd_served {s : State} (on : s.md.on = true) (runs : s.md.restart = false) (t link : Nat) (req : MdReq) :
    s.reachMd t link req = s.serveMd { link := link, stamp := t, req := req } := by
  rw [State.reachMd, if_neg (by simp [on]), if_pos (by simp [runs])]

section
variable {s : State} {t link : Nat} {b : List Byte}

theorem exec_summary (on : s.md.on = true) (runs : s.md.restart = false) (type : fld b 0 1 = 0x31) :
    exec (.summary t link b) s = .next { s with md := s.md.takeSummary t b } := by
  refine congrArg Host.Outcome.next ((State.reachMd_served on runs ..).trans ?_)
  exact if_pos type

theorem exec_summaryApply (on : s.md.on = true) (runs : s.md.restart = false) :
    exec (.summaryApply t) s = .next { s with md := s.md.applyHeld t s.md.held.length } :=
  congrArg Host.Outcome.next (if_neg (by simp [on, runs]))

theorem exec_mdFence (on : s.md.on = true) (runs : s.md.restart = false) (session token : Nat) :
    exec (.mdFence t session token) s = .next { s with md := s.md.takeFence session token } :=
  congrArg Host.Outcome.next (State.reachMd_served on runs ..)

end

/-- A change of the meter that the legal partition makes while the die runs. -/
theorem Does.mdSet {s : State} {f : Meter → Meter} {c : Instr} {p : State → Prop} (arm : exec c s = .next (s.mdSet f))
    (on : s.md.on = true) (h : ∀ u, u.md = f s.md → OnlyMeter s u → p u) : Does c s p :=
  ⟨_, arm, h _ (State.mdSet_md on f) (s.mdSet_onlyMeter f)⟩

/-- Settles O57. -/
theorem invalidSummariesHaveNoEffect : Obligations.InvalidSummariesHaveNoEffect := by
  unfold Obligations.InvalidSummariesHaveNoEffect
  intro s t link b on runs type bad
  rw [exec_summary on runs type, Meter.takeSummary_invalid t (Meter.sumOk_of_bad_accounts bad)]

/-- Settles O56. A sample is what it gathers, registered where the interval has reached the limit; then come the checks of a
summary in order, the close of one interval, and a fence. -/
theorem energyIsSampledAndApportioned : Obligations.EnergyIsSampledAndApportioned := by
  unfold Obligations.EnergyIsSampledAndApportioned
  intro s t link session token va ia vb ib b h on
  refine ⟨.mdSet rfl on fun u md only => ?sample, fun runs type => ⟨fun bad => ?invalid, fun ok same => ⟨fun stale => ?stale,
    fun tok newer new => ?holds⟩, fun ok other newer new => ?opens⟩, fun runs held due newer => ?closes,
    fun runs early => ?early, fun runs same => ?fence, fun runs other => ?stranger⟩
  case sample =>
    have flags := Meter.cond_onlyHealth (s.md.sample va ia vb ib) t 7 (Meter.outOfRange va ia || Meter.outOfRange vb ib)
    rw [← md] at flags
    refine ⟨fun reached => ?_, fun unreached => ?_, ?_, ?_, only.regs, only.ops, only.cores⟩
    · obtain ⟨fracA, fracB, fracR, legal⟩ := (s.md.gather va ia vb ib).register.closeWindow_keeps
      rw [flags, Meter.sample_reached reached]
      exact ⟨fracA, fracB, fracR, legal⟩
    · obtain ⟨fracA, fracB, fracR, legal⟩ := (s.md.gather va ia vb ib).closeWindow_keeps
      rw [flags, Meter.sample_unreached unreached]
      exact ⟨fracA, fracB, fracR, legal⟩
    · rw [flags]
      exact Meter.sample_winN ..
    · rw [md, Meter.bit_cond]
      exact Bool.or_false _
  case invalid => exact ⟨_, exec_summary on runs type, Meter.takeSummary_invalid t bad, rfl⟩
  case stale => exact ⟨_, exec_summary on runs type, Meter.takeSummary_stale t ok same stale, rfl⟩
  case holds => exact ⟨_, exec_summary on runs type, Meter.takeSummary_holds t ok same tok newer new, rfl, rfl⟩
  case opens => exact ⟨_, exec_summary on runs type, Meter.takeSummary_opens t ok other newer new, rfl⟩
  case closes =>
    refine ⟨_, exec_summaryApply on runs, ?_⟩
    dsimp only
    rw [Meter.applyHeld_single held due newer]
    refine ⟨?_, rfl, rfl, rfl, rfl, rfl, rfl, rfl, fun gap some => ?_, fun none => ?_, fun gap => ?_, rfl, rfl⟩
    · simp [Meter.close, held]
    · simp only [Meter.close, gap, some]
      exact ⟨rfl, rfl, rfl⟩
    · simp only [Meter.close]
      rcases none with gap | none
      · simp only [gap]
        exact ⟨rfl, rfl⟩
      · simp [none]
    · simp only [Meter.close, gap]
      rfl
  case early => exact ⟨_, exec_summaryApply on runs, by rw [Meter.applyHeld_early early]⟩
  case fence =>
    refine ⟨_, exec_mdFence on runs session token, ?_, rfl⟩
    exact if_neg (not_not.mpr same)
  case stranger =>
    refine ⟨_, exec_mdFence on runs session token, ?_⟩
    rw [Meter.takeFence, if_pos other]

end Sys2Proof.Machine
end

section
/-! PROOFS. READ and the service commands of the meter, firmware and the I3C target (R562-R573). -/

namespace Sys2Proof.Machine

/-! ### Records and refusals -/

theorem Meter.recordBody_head (m : Meter) (t : Stamp) (sel arg status : Nat) (nonce pay : List Byte) :
    ∃ rest, m.recordBody t sel arg status nonce pay
      = leBytes 1 0x4D ++ (leBytes 1 sel ++ (leBytes 2 arg ++ (leBytes 1 status ++ rest))) :=
  ⟨_, by simp only [Meter.recordBody, List.append_assoc]; rfl⟩

/-- The status of a record stands in its byte 4 (R568). -/
theorem State.record_status (s : State) (t : Stamp) (sel arg : Nat) {status : Nat} (small : status < 256) (nonce pay : List Byte) :
    ((s.record t sel arg status nonce pay).2.getD 4 0).toNat = status := by
  obtain ⟨rest, head⟩ := Meter.recordBody_head { s.md with rseq := s.md.rseq + 1 } t sel arg status nonce pay
  have bytes : ∃ sig, (s.record t sel arg status nonce pay).2
      = leBytes 1 0x4D ++ (leBytes 1 sel ++ (leBytes 2 arg ++ (leBytes 1 status ++ rest))) ++ sig := ⟨_, congrArg (· ++ _) head⟩
  obtain ⟨sig, bytes⟩ := bytes
  rw [bytes]
  exact (BitVec.toNat_ofNat ..).trans (Nat.mod_eq_of_lt small)

theorem State.cmdBytes_status (s : State) (t : Stamp) (code id : Nat) {status : Nat} (small : status < 256) (old new : Nat) :
    ((s.cmdBytes t code id status old new).getD 4 0).toNat = status := s.record_status _ _ _ small _ _

section
variable {m : Meter}

theorem Meter.refusal_sealed (closed : m.sealedIn = true) (argOk : Bool) : m.refusal argOk = some 4 := if_pos closed

theorem Meter.refusal_open (opened : m.sealedIn = false) (room : m.log.length < 4000) (argOk : Bool) :
    m.refusal argOk = if argOk then none else some 2 := by
  have space : m.logFull = false := by simpa [Meter.logFull] using room
  cases argOk <;> simp [Meter.refusal, opened, space]

/-! ### Flags cleared (R563) -/

/-- Clearing one flag of a log with room touches that flag alone, and logs at most one entry. -/
theorem Meter.clearFlag_of_room (room : m.log.length < 4095) (t : Stamp) (mask i : Nat) :
    (∀ j, bit (m.clearFlag t mask i).health j = (bit m.health j && !(decide (j = i) && bit mask i && !bit m.conds i)))
      ∧ (m.clearFlag t mask i).conds = m.conds ∧ (m.clearFlag t mask i).log.length ≤ m.log.length + 1 := by
  unfold Meter.clearFlag
  split
  · next clears =>
    rw [Meter.note_of_room (by exact room)]
    refine ⟨fun j => ?_, rfl, by simp⟩
    simp only [Bool.and_eq_true, Bool.not_eq_true'] at clears
    obtain ⟨⟨masked, -⟩, absent⟩ := clears
    by_cases same : j = i
    · subst same
      simp [bit_putBits_same, masked, absent]
    · simp [bit_putBits_other _ _ same, same]
  · next stays =>
    refine ⟨fun j => ?_, rfl, Nat.le_succ _⟩
    by_cases same : j = i
    · subst same
      revert stays
      cases bit mask j <;> cases bit m.health j <;> cases bit m.conds j <;> simp
    · simp [same]

/-- CLEAR takes the flags of its mask whose condition is absent. -/
theorem Meter.clearFlags_of_room (t : Stamp) (mask : Nat) (l : List Nat) {m : Meter} (room : m.log.length + l.length < 4096)
    (j : Nat) : bit (l.foldl (fun a i => a.clearFlag t mask i) m).health j
      = (bit m.health j && !(decide (j ∈ l) && bit mask j && !bit m.conds j)) := by
  induction l generalizing m with
  | nil => simp
  | cons i l ih =>
    rw [List.length_cons] at room
    obtain ⟨flags, conds, length⟩ := Meter.clearFlag_of_room (m := m) (by omega) t mask i
    rw [List.foldl_cons, ih (by omega), flags, conds]
    by_cases same : j = i
    · subst same
      cases decide (j ∈ l) <;> simp
    · simp [same]

end

/-! ### What a served command leaves -/

section
variable {s : State}

theorem State.i3cWrite_served (on : s.md.on = true) (runs : s.md.restart = false) (addr : s.md.addr ≠ none) (t : Nat)
    (req : MdReq) : s.i3cWrite t req = s.serveMd { link := 2, stamp := t, req := req } := by
  rw [State.i3cWrite, if_neg (by simpa using addr), State.reachMd_served on runs]

/-- A command that ends with a record of it: the record is counted and shows the command's status. -/
theorem Does.recorded {v : State} {c : Instr} {p : State → Prop} {t : Stamp} {code id st old new : Nat}
    (arm : exec c s = .next (v.cmdRecord t code id st old new)) (only : OnlyMeter s v) (small : st < 256)
    (h : ∀ u bytes, u.md = { v.md with rseq := v.md.rseq + 1, lastRec := bytes } → (bytes.getD 4 0).toNat = st →
      OnlyMeter s u → p u) : Does c s p :=
  ⟨_, arm, h _ _ (v.cmdRecord_md ..) (v.cmdBytes_status t code id small old new) (only.trans (v.cmdRecord_onlyMeter ..))⟩

/-! ### Service commands, case by case -/

theorem State.serveParam_refused {id v st : Nat} (h : s.md.refusal (paramOk id v) = some st) (t : Stamp) :
    s.serveParam t id v = s.cmdRecord t 0x10 id st (s.md.paramNow t id) (s.md.paramNow t id) := by
  rw [State.serveParam, h]

theorem State.serveParam_sets {id v : Nat} (h : s.md.refusal (paramOk id v) = none) (t : Stamp) : s.serveParam t id v
    = (s.mdChange fun m => (m.note t 3 id (s.md.paramNow t id) v).setParam t id v).cmdRecord t 0x10 id 0 (s.md.paramNow t id) v := by
  rw [State.serveParam, h]

theorem State.serveClear_refused {mask st : Nat} (h : s.md.refusal true = some st) (t : Stamp) :
    s.serveClear t mask = s.cmdRecord t 0x11 0 st s.md.health s.md.health := by
  rw [State.serveClear, h]

/-- The meter once CLEAR has run. -/
def Meter.cleared (m : Meter) (t : Stamp) (mask : Nat) : Meter := (List.range 6).foldl (fun a i => a.clearFlag t mask i) m

theorem State.serveClear_clears {mask : Nat} (h : s.md.refusal true = none) (t : Stamp) : s.serveClear t mask
    = (s.mdChange fun m => m.cleared t mask).cmdRecord t 0x11 0 0 s.md.health (s.mdChange fun m => m.cleared t mask).md.health := by
  rw [State.serveClear, h]
  rfl

theorem State.serveFwBegin_refused {target st : Nat} (other : target ≠ 1) (h : s.md.refusal (target = 0) = some st) (t : Stamp)
    (len : Nat) : s.serveFwBegin t target len = s.cmdRecord t 0x20 0 st 0 0 := by
  rw [State.serveFwBegin]
  rw [if_neg other, h]

theorem State.serveFwBegin_begins {target : Nat} (h : target = 1 ∨ s.md.refusal (target = 0) = none) (t : Stamp) (len : Nat) :
    s.serveFwBegin t target len
      = (s.onMd fun m => { m with fwTarget := some target, fwLen := len, fwBuf := Mem.empty }).cmdRecord t 0x20 0 0 0 0 := by
  have goes : (if target = 1 then none else s.md.refusal (target = 0)) = none := by
    rcases h with one | h
    · exact if_pos one
    · rw [h, ite_self]
  rw [State.serveFwBegin]
  rw [goes]

theorem State.serveFwData_writes {off target : Nat} {data : List Byte} (h : s.md.fwTarget = some target)
    (goes : target = 0 → s.md.refusal true = none) (some : data ≠ []) (short : data.length ≤ 1024)
    (inside : off + data.length ≤ s.md.fwLen) :
    s.serveFwData off data = s.onMd fun m => { m with fwBuf := m.fwBuf.writeBytes off data } := by
  rw [State.serveFwData, h]
  dsimp only
  rw [if_neg, if_neg]
  · simpa using ⟨⟨some, by omega⟩, by omega⟩
  · simp only [Bool.and_eq_true, decide_eq_true_eq, not_and, Bool.not_eq_true, Option.isSome_eq_false_iff, Option.isNone_iff_eq_none]
    exact goes

section
variable (t : Stamp) {ver : Nat} {hash sig : List Byte}

theorem State.serveFwEnd_none (h : s.md.fwTarget = none) : s.serveFwEnd t ver hash sig = s.cmdRecord t 0x22 0 7 0 0 := by
  rw [State.serveFwEnd]
  rw [h]

/-- The load is over. -/
def State.endLoad (s : State) : State := s.onMd fun m => { m with fwTarget := none }

theorem State.serveFwEnd_bad (h : s.md.fwTarget = some 0) (goes : s.md.refusal true = none)
    (bad : s.md.imageSigned ver hash sig = false ∨ ver ≤ s.md.fwVer) :
    s.serveFwEnd t ver hash sig = s.endLoad.cmdRecord t 0x22 0 6 s.md.fwVer s.md.fwVer := by
  rw [State.serveFwEnd]
  rw [h]
  dsimp only
  rw [goes]
  exact if_pos (by simpa using bad)

/-- The log entry of a legal image: the old version, and the new one with the start of its hash. -/
def fwLogged (ver : Nat) (hash : List Byte) : Nat := ver % 2 ^ 32 + 2 ^ 32 * leNat (hash.take 4)

theorem State.serveFwEnd_good (h : s.md.fwTarget = some 0) (goes : s.md.refusal true = none)
    (signed : s.md.imageSigned ver hash sig = true) (newer : s.md.fwVer < ver) : s.serveFwEnd t ver hash sig
      = (s.endLoad.cmdRecord t 0x22 0 0 s.md.fwVer (fwLogged ver hash)).mdChange fun m =>
        { m.note t 4 0 m.fwVer (fwLogged ver hash) with
          fwImage := m.fwBuf.readBytes 0 m.fwLen, fwVer := ver % 2 ^ 32, restart := true } := by
  rw [State.serveFwEnd]
  rw [h]
  dsimp only
  rw [goes]
  exact if_neg (by simpa using ⟨signed, newer⟩)

end

/-! ### The I3C target (R573) -/

theorem State.i3cAnswer_addressed (on : s.md.on = true) (addr : s.md.addr ≠ none) (bs : List Byte) :
    s.i3cAnswer bs = s.say (.i3c bs) := if_neg (by simpa [on] using addr)

theorem State.i3cAnswer_silent (addr : s.md.addr = none) (bs : List Byte) : s.i3cAnswer bs = s := if_pos (by simp [addr])

theorem State.i3cWrite_silent (addr : s.md.addr = none) (t : Nat) (req : MdReq) : s.i3cWrite t req = s :=
  if_pos (by simp [addr])

theorem State.i3cSet_on (on : s.md.on = true) (f : Meter → Meter) : s.i3cSet f = { s with md := f s.md } := if_pos on

end

/-! ### Commands served at once -/

section
variable {s : State} (on : s.md.on = true) (runs : s.md.restart = false)
include on runs

/-- A READ of a fabric die's mailbox is answered on its link, one of the I3C port in the port's record. -/
theorem exec_read {nonce : List Byte} (length : nonce.length = 32) {path : Nat} (t sel arg : Nat)
    (reached : path = 2 → s.md.addr ≠ none) :
    exec (.read t path sel arg nonce) s = .next (s.serveRead t path (sel % 256) (arg % 65536) nonce) := by
  refine congrArg Host.Outcome.next ?_
  rw [if_neg (by simpa using reached), if_neg (not_not.mpr length), State.reachMd_served on runs]
  rfl

variable (addr : s.md.addr ≠ none) {u : State}
include addr

theorem exec_param {t id v : Nat} (h : s.serveParam t (id % 256) (v % 2 ^ 64) = u) : exec (.param t id v) s = .next u :=
  congrArg Host.Outcome.next ((State.i3cWrite_served on runs addr ..).trans h)

theorem exec_clear {t mask : Nat} (h : s.serveClear t (mask % 65536) = u) : exec (.clear t mask) s = .next u :=
  congrArg Host.Outcome.next ((State.i3cWrite_served on runs addr ..).trans h)

theorem exec_fwBegin {t target len : Nat} (h : s.serveFwBegin t (target % 256) (len % 2 ^ 32) = u) :
    exec (.fwBegin t target len) s = .next u :=
  congrArg Host.Outcome.next ((State.i3cWrite_served on runs addr ..).trans h)

theorem exec_fwData {t off : Nat} {data : List Byte} (h : s.serveFwData (off % 2 ^ 32) data = u) :
    exec (.fwData t off data) s = .next u :=
  congrArg Host.Outcome.next ((State.i3cWrite_served on runs addr ..).trans h)

theorem exec_fwEnd {t ver : Nat} {hash sig : List Byte} (h : s.serveFwEnd t ver hash sig = u) :
    exec (.fwEnd t ver hash sig) s = .next u :=
  congrArg Host.Outcome.next ((State.i3cWrite_served on runs addr ..).trans h)

end

/-- Settles O58. Each command is served at once; what it leaves is read off the equation of its case. -/
theorem meterCommandsAreServedAndLogged : Obligations.MeterCommandsAreServedAndLogged := by
  unfold Obligations.MeterCommandsAreServedAndLogged
  intro s t path sel arg id v mask target len off ver ad st act nonce data hash sig on
  refine ⟨fun runs => ⟨fun mailbox length => ?mailbox, fun addr => ⟨fun length => ?port, fun closed => ?closed,
      fun opened room => ?opened, fun iface => ?interface, fun load some short inside => ?data, fun noLoad => ?noLoad⟩⟩,
    fun addr => ?answers, fun addr => ?unaddressed, ⟨_, rfl, State.i3cSet_on on _⟩, ⟨_, rfl, State.i3cSet_on on _⟩,
    ⟨_, rfl, State.i3cSet_on on _⟩, ⟨_, rfl, State.i3cSet_on on _⟩⟩
  case mailbox =>
    refine ⟨_, exec_read on runs length t sel arg fun two => absurd two (by omega), ?_⟩
    rw [State.serveRead]
    dsimp only
    rw [if_pos mailbox]
    exact ⟨rfl, rfl, rfl⟩
  case port =>
    refine ⟨_, exec_read on runs length t sel arg fun _ => addr, ?_, (s.serveRead_onlyMeter ..).regs⟩
    exact State.ibi_md ..
  case closed =>
    have sealed := Meter.refusal_sealed closed
    refine ⟨.recorded (exec_param on runs addr (State.serveParam_refused (sealed _) t)) (.refl s) (by decide) ?_,
      .recorded (exec_clear on runs addr (State.serveClear_refused (sealed _) t)) (.refl s) (by decide) ?_,
      fun other => .recorded (exec_fwBegin on runs addr (State.serveFwBegin_refused other (sealed _) t _)) (.refl s) (by decide) ?_⟩
    all_goals
      intro u bytes md status only
      dsimp only
      rw [md]
    · exact ⟨⟨rfl, rfl, only.regs, only.ops⟩, rfl, rfl, rfl, rfl, status⟩
    · exact ⟨⟨rfl, rfl, only.regs, only.ops⟩, rfl, rfl, status⟩
    · exact ⟨⟨rfl, rfl, only.regs, only.ops⟩, rfl, rfl⟩
  case opened =>
    have refusal := Meter.refusal_open opened room
    have goes : s.md.refusal true = none := refusal true
    refine ⟨fun ok => .recorded (exec_param on runs addr (State.serveParam_sets ((refusal _).trans (if_pos ok)) t))
        (s.mdChange_onlyMeter _) (by decide) ?_,
      fun bad => .recorded (exec_param on runs addr (State.serveParam_refused ((refusal _).trans (if_neg (by rw [bad]; decide))) t))
        (.refl s) (by decide) ?_,
      .recorded (exec_clear on runs addr (State.serveClear_clears goes t)) (s.mdChange_onlyMeter _) (by decide) ?_,
      fun legal => .recorded (exec_fwBegin on runs addr (State.serveFwBegin_begins (.inr ((refusal _).trans (if_pos (by simp [legal])))) t _))
        (s.onMd_onlyMeter _) (by decide) ?_,
      fun load signed newer => ⟨_, exec_fwEnd on runs addr (State.serveFwEnd_good t load goes signed newer), ?_⟩,
      fun load bad => .recorded (exec_fwEnd on runs addr (State.serveFwEnd_bad t load goes bad)) (s.onMd_onlyMeter _) (by decide) ?_⟩
    · intro u bytes md status only
      dsimp only
      rw [md, State.mdChange_md, Meter.note_of_room (by omega)]
      exact ⟨⟨rfl, rfl, only.regs, only.ops⟩, rfl, by simp [Meter.setParam], rfl, rfl, status⟩
    · intro u bytes md status only
      dsimp only
      rw [md]
      exact ⟨⟨rfl, rfl, only.regs, only.ops⟩, rfl, rfl, rfl, rfl, status⟩
    · intro u bytes md status only
      have kept := Meter.clearFlags_onlyHealth s.md t (mask % 65536) (List.range 6)
      dsimp only
      rw [md, State.mdChange_md]
      refine ⟨⟨congrArg (·.rseq + 1) kept, kept.sameLedger.legal, only.regs, only.ops⟩, fun i hi => ?_⟩
      refine (Meter.clearFlags_of_room t (mask % 65536) (List.range 6) (by simp; omega) i).trans ?_
      simp [hi]
    · intro u bytes md status only
      dsimp only
      rw [md]
      exact ⟨⟨rfl, rfl, only.regs, only.ops⟩, congrArg some legal, rfl, rfl⟩
    · have only := (s.serveFwEnd_keeps t ver hash sig).1
      rw [State.serveFwEnd_good t load goes signed newer] at only
      dsimp only
      rw [State.mdChange_md, State.cmdRecord_md, Meter.note_of_room (by exact Nat.lt_of_lt_of_le room (by decide))]
      exact ⟨⟨rfl, rfl, only.regs, only.ops⟩, rfl, rfl, rfl, by simp [State.endLoad], rfl⟩
    · intro u bytes md status only
      dsimp only
      rw [md]
      exact ⟨⟨rfl, rfl, only.regs, only.ops⟩, runs, rfl, rfl, status⟩
  case interface =>
    refine .recorded (exec_fwBegin on runs addr (State.serveFwBegin_begins (.inl iface) t _)) (s.onMd_onlyMeter _) (by decide) ?_
    intro u bytes md status only
    dsimp only
    rw [md]
    exact ⟨⟨rfl, rfl, only.regs, only.ops⟩, congrArg Option.some iface, rfl⟩
  case data =>
    exact ⟨_, exec_fwData on runs addr (State.serveFwData_writes load nofun some short inside), rfl, rfl⟩
  case noLoad =>
    refine .recorded (exec_fwEnd on runs addr (State.serveFwEnd_none t noLoad)) (.refl s) (by decide) ?_
    intro u bytes md status only
    dsimp only
    rw [md]
    exact ⟨⟨rfl, rfl, only.regs, only.ops⟩, status⟩
  case answers =>
    have answers := State.i3cAnswer_addressed on addr
    have taken : s.md.addr.isNone = false := Bool.eq_false_iff.mpr fun none => addr (Option.isNone_iff_eq_none.mp none)
    refine ⟨⟨_, rfl, answers _⟩, ⟨_, rfl, answers _⟩, ⟨_, rfl, answers _⟩, ⟨_, rfl, answers _⟩, ⟨_, rfl, answers _⟩,
      ⟨_, rfl, answers _⟩, ⟨_, rfl, congrArg State.takeFree (answers _)⟩, ⟨_, rfl, ?_⟩, ⟨_, rfl, ?_⟩⟩
    · rw [State.i3cSet_on on, taken]
      rfl
    · rw [State.i3cSet_on on, taken, Bool.and_false]
      rfl
  case unaddressed =>
    have silent := State.i3cAnswer_silent addr
    have deaf := State.i3cWrite_silent addr
    refine ⟨⟨_, rfl, ?_⟩, ⟨_, rfl, ?_⟩, fun c hc => ?_⟩
    · rw [State.i3cSet_on on, addr]
      rfl
    · rw [State.i3cSet_on on, addr]
      rfl
    · simp only [List.mem_cons, List.not_mem_nil, or_false] at hc
      rcases hc with rfl | rfl | rfl | rfl | rfl | rfl | rfl | rfl | rfl | rfl | rfl | rfl
      all_goals refine ⟨_, rfl, ?_⟩
      · exact silent _
      · exact silent _
      · exact silent _
      · exact silent _
      · exact silent _
      · exact silent _
      · exact deaf ..
      · exact deaf ..
      · exact deaf ..
      · exact deaf ..
      · exact deaf ..
      · exact if_pos (by simp [addr])

end Sys2Proof.Machine
end

section
/-! PROOFS. Fabric dies as parts of the state, and the meter's seal, checks, snapshots, power and readout output (R546-R577). -/

namespace Sys2Proof.Machine

variable (s : State)

/-! ### Fabric dies -/

theorem State.fd_onFd_same {fd : Nat} (f : FdBoot → FdBoot) (h : fd < s.boot.fds.length) : (s.onFd fd f).fd fd = f (s.fd fd) := by
  simp [State.fd, State.onFd, List.getD, h]

theorem State.fd_onFd_other {fd e : Nat} (f : FdBoot → FdBoot) (h : e ≠ fd) : (s.onFd fd f).fd e = s.fd e := by
  simp [State.fd, State.onFd, List.getD, Ne.symm h]

theorem State.fd_congr {s t : State} (h : t.boot = s.boot) (fd : Nat) : t.fd fd = s.fd fd := by rw [State.fd, State.fd, h]

@[simp] theorem State.onFd_reg (fd : Nat) (f : FdBoot → FdBoot) (r : Reg) : (s.onFd fd f).reg r = s.reg r := (rfl)
@[simp] theorem State.onFd_bitOf (fd : Nat) (f : FdBoot → FdBoot) (r : Reg) (i : Nat) :
    (s.onFd fd f).bitOf r i = s.bitOf r i := (rfl)
@[simp] theorem State.onFd_ops (fd : Nat) (f : FdBoot → FdBoot) : (s.onFd fd f).ops = s.ops := (rfl)
@[simp] theorem State.onFd_cores (fd : Nat) (f : FdBoot → FdBoot) : (s.onFd fd f).cores = s.cores := (rfl)

/-! ### What METER_STATE changes beside a register (R577) -/

/-- MT_STATE of a value, REFUSE with it. -/
def mtValue (v : Nat) : Nat := putBits v 6 1 (if refuseOf v then 1 else 0)

theorem State.setMt_sameBut (fd v : Nat) : SameBut (s.setReg (rMtState fd) (mtValue v)) (s.setMt fd v) := by
  unfold State.setMt
  dsimp only
  rw [← mtValue]
  split
  · exact .refl _
  · exact State.event_same ..

/-- REFUSE of a status word: TRADE stands and the seal or the health does not. -/
theorem refuseOf_mtWord (m : Meter) : refuseOf (mtWord m) = (m.trade && !(m.sealedIn && m.healthy)) := by
  unfold refuseOf mtWord Meter.stateBits
  generalize m.health = h
  cases m.trade <;> cases m.sealedIn <;> cases m.healthy <;> cases m.logFull <;> simp [bit] <;> omega

/-! ### The response registers (R546) -/

def mtRsp (fd i : Nat) : Reg := { name := .mtRsp, dev := fd, n := i }

theorem State.foldl_setReg_spec (g : Nat → Reg) (v : Nat → Nat) (inj : ∀ i j, g i = g j → i = j) (n : Nat) :
    let u := (List.range n).foldl (fun acc i => acc.setReg (g i) (v i)) s
    (∀ i, i < n → u.reg (g i) = v i % 2 ^ 32) ∧ ∀ r, (∀ i, r ≠ g i) → u.reg r = s.reg r := by
  induction n with
  | zero => exact ⟨nofun, fun _ _ => rfl⟩
  | succ n ih =>
    obtain ⟨written, others⟩ := ih
    rw [List.range_succ, List.foldl_append]
    refine ⟨fun i hi => ?_, fun r hr => (State.reg_setReg_other _ _ _ _ (hr n)).trans (others r hr)⟩
    by_cases last : i = n
    · subst last
      exact State.reg_setReg_same ..
    · exact (State.reg_setReg_other _ _ _ _ fun same => last (inj i n same)).trans (written i (by omega))

theorem State.reg_fillRsp (fd : Nat) (bytes : List Byte) {i : Nat} (h : i < 64) :
    (s.fillRsp fd bytes).reg (mtRsp fd i) = fld bytes (4 * i) 4 := by
  have := (s.foldl_setReg_spec (mtRsp fd) (fun i => fld bytes (4 * i) 4) (fun _ _ same => congrArg Reg.n same) 64).1 i h
  exact this.trans (Nat.mod_eq_of_lt (fld_lt bytes (4 * i) 4))

theorem State.reg_fillRsp_other (fd : Nat) (bytes : List Byte) {r : Reg} (h : r.name ≠ .mtRsp) :
    (s.fillRsp fd bytes).reg r = s.reg r :=
  (s.foldl_setReg_spec (mtRsp fd) (fun i => fld bytes (4 * i) 4) (fun _ _ same => congrArg Reg.n same) 64).2 r
    fun _ same => h (congrArg Reg.name same)

theorem State.fillRsp_keeps (fd : Nat) (bytes : List Byte) :
    (s.fillRsp fd bytes).ops = s.ops ∧ (s.fillRsp fd bytes).boot = s.boot := by
  refine ⟨?_, ?_⟩
  · exact foldl_keeps (fun t : State => t.ops) (fun t i => t.setReg_ops (mtRsp fd i) (fld bytes (4 * i) 4)) (List.range 64) s
  · exact foldl_keeps (fun t : State => t.boot) (fun t i => t.setReg_boot (mtRsp fd i) (fld bytes (4 * i) 4)) (List.range 64) s

theorem mtRsp_ne_mbxCtl (fd i : Nat) : mtRsp fd i ≠ rMbxCtl fd := fun same => nomatch congrArg Reg.name same

/-! ### The end of a mailbox request (R577) -/

theorem State.mbxDone_spec (fd : Nat) (timeout : Bool) : (s.mbxDone fd timeout).bitOf (rMbxCtl fd) 25 = false
    ∧ (s.mbxDone fd timeout).bitOf (rMbxCtl fd) 26 = true ∧ (s.mbxDone fd timeout).bitOf (rMbxCtl fd) 27 = timeout
    ∧ (∀ r, r ≠ rMbxCtl fd → (s.mbxDone fd timeout).reg r = s.reg r) ∧ (s.mbxDone fd timeout).ops = s.ops
    ∧ (s.mbxDone fd timeout).md = s.md := by
  unfold State.mbxDone
  refine ⟨?_, ?_, ?_, fun r hr => ?_, by simp, by simp⟩
  · rw [State.onFd_bitOf, State.bitOf_setBit_other _ _ _ _ _ (by decide) (by decide),
      State.bitOf_setBit_other _ _ _ _ _ (by decide) (by decide), State.bitOf_setBit_same _ _ _ _ (by decide)]
  · rw [State.onFd_bitOf, State.bitOf_setBit_other _ _ _ _ _ (by decide) (by decide), State.bitOf_setBit_same _ _ _ _ (by decide)]
  · rw [State.onFd_bitOf, State.bitOf_setBit_same _ _ _ _ (by decide)]
  · rw [State.onFd_reg, State.reg_setBit_other _ _ _ _ _ hr, State.reg_setBit_other _ _ _ _ _ hr, State.reg_setBit_other _ _ _ _ _ hr]

end Sys2Proof.Machine
end

section
/-! PROOFS. Seal, checks, snapshots and power of the meter, and the registers its readout output fills (R546-R577). -/

namespace Sys2Proof.Machine

namespace Meter

/-- A snapshot goes to the alternate slot; beside it only the flags may change (R574). -/
theorem snapshot_spec (m : Meter) (t : Stamp) (verified final : Bool) : ∃ x : Snap,
    x.legal = m.legal ∧ x.valid = verified ∧ x.final = final ∧ x.seq = m.snapSeq + 1
      ∧ OnlyHealth { m with snaps := m.snaps.set ((m.snapSeq + 1) % 2) x, snapSeq := m.snapSeq + 1 } (m.snapshot t verified final) :=
  ⟨_, rfl, rfl, rfl, rfl, cond_onlyHealth ..⟩

/-- The meter starts from its newest snapshot with an empty volatile state; a run that left no final snapshot is logged
(R574; log entry 57). -/
theorem powerOn_spec (m : Meter) (t rtcNow : Nat) : ∃ n : Meter,
    (m.powerOn t rtcNow = if m.newest.final then n else n.note t 7 0 m.newest.rtc rtcNow)
      ∧ n.on = true ∧ n.legal = m.newest.legal ∧ n.powerOns = m.powerOns + 1 ∧ n.rseq = 0 ∧ n.session = none ∧ n.held = []
      ∧ n.addr = none ∧ n.log = m.log :=
  ⟨_, rfl, rfl, rfl, rfl, rfl, rfl, rfl, rfl, rfl⟩

end Meter

variable {s : State}

theorem exec_mdPowerOn (off : s.md.on = false) (t rtcNow : Nat) :
    exec (.mdPowerOn t rtcNow) s = .next { s with md := s.md.powerOn t rtcNow } :=
  congrArg Host.Outcome.next (if_neg (by simp [off]))

theorem exec_mdBranchFall (on : s.md.on = true) (t : Nat) (verified : Bool) : exec (.mdBranchFall t verified) s
    = .next { s with md := { (s.md.cond t 6 true).snapshot t verified true with on := false } } :=
  congrArg Host.Outcome.next (if_neg (by simp [on]))

/-- The firmware's hash is checked; a restart of the legal partition ends with the check (R566, R567). -/
theorem exec_fwHashCheck (on : s.md.on = true) (t : Nat) (good : Bool) : exec (.fwHashCheck t good) s = .next (
    let v := s.mdSet fun m => m.cond t 3 (!good)
    if s.md.restart then v.endRestart t else v) := by
  have restart : (s.mdSet fun m => m.cond t 3 (!good)).md.restart = s.md.restart := by
    rw [State.mdSet_md on, Meter.cond_onlyHealth s.md t 3 (!good)]
  refine congrArg Host.Outcome.next ((if_neg (by simp [on])).trans ?_)
  dsimp only
  rw [restart]

/-- With nothing queued the restart just ends. -/
theorem State.endRestart_empty (empty : s.md.queue = []) (t : Stamp) :
    s.endRestart t = { s with md := { s.md with restart := false, queue := [] } } := by
  rw [State.endRestart]
  dsimp only
  rw [empty]
  rfl

/-- A check of the meter sets its flag and leaves the registers. -/
theorem Does.checked {c : Instr} {t i : Nat} {present : Bool} {p : State → Prop} (on : s.md.on = true)
    (arm : exec c s = .next (s.mdSet fun m => m.cond t i present))
    (h : ∀ u, bit u.md.health i = (present || Meter.latched i && bit s.md.health i) → u.md.legal = s.md.legal → u.regs = s.regs →
      u.ops = s.ops → p u) : Does c s p :=
  .mdSet arm on fun u md only => h u (md ▸ Meter.bit_cond ..)
    (md ▸ (Meter.cond_onlyHealth s.md t i present).sameLedger.legal) only.regs only.ops

/-- What a status word shows before MT_STATE: EVCNT, the last frame, and when it came (R564, R576). -/
def State.worded (a : State) (t : Stamp) (fd : Nat) : State :=
  ((a.setReg (rMtEvcnt fd) a.md.evcnt).setPair .mtLastFrn fd 0 a.md.lastFrn).onFd fd fun f => { f with statusAt := some t }

theorem State.worded_keeps (a : State) (t : Stamp) (fd : Nat) :
    (a.worded t fd).md = a.md ∧ (a.worded t fd).ops = a.ops ∧ (a.worded t fd).cores = a.cores := by
  simp [State.worded]

theorem exec_statusWord {t fd : Nat} (on : (s.arrive t).md.on = true) (serves : (s.arrive t).fdServes fd = true) :
    exec (.statusWord t fd) s = .next (((s.arrive t).worded t fd).setMt fd (mtWord (s.arrive t).md)) := by
  refine congrArg Host.Outcome.next ((if_neg (by simp only [on, serves]; decide)).trans ?_)
  dsimp only
  rw [← State.worded]
  simp [State.worded]

theorem exec_statusWordTimeout {t fd : Nat} (serves : (s.arrive t).fdServes fd = true)
    (late : match ((s.arrive t).fd fd).statusAt with | some x => x + 40000 + 32 ≤ t | none => true) :
    exec (.statusWordTimeout t fd) s
      = .next ((s.arrive t).setMt fd (putBits ((s.arrive t).reg (rMtState fd)) 0 1 0)) := by
  refine congrArg Host.Outcome.next (if_neg ?_)
  rw [serves]
  revert late
  cases ((s.arrive t).fd fd).statusAt with
  | none => simp
  | some x => simp

/-! ### The readout mailbox (R577) -/

/-- The mailbox is busy with a READ sent at t. -/
def State.mbxBusy (w : State) (r : Reg) (t : Stamp) : State :=
  ((w.setBit r 25 true).setBit r 27 false).onFd r.dev fun f => { f with mbxAt := some t }

theorem State.mbxBusy_spec (w : State) (r : Reg) (t : Stamp) : (w.mbxBusy r t).bitOf r 25 = true ∧ (w.mbxBusy r t).bitOf r 27 = false
    ∧ (r.dev < w.boot.fds.length → ((w.mbxBusy r t).fd r.dev).mbxAt = some t) := by
  unfold State.mbxBusy
  refine ⟨?_, ?_, fun dev => ?_⟩
  · rw [State.onFd_bitOf, State.bitOf_setBit_other _ _ _ _ _ (by decide) (by decide), State.bitOf_setBit_same _ _ _ _ (by decide)]
  · rw [State.onFd_bitOf, State.bitOf_setBit_same _ _ _ _ (by decide)]
  · rw [State.fd_onFd_same _ _ (by simpa using dev)]

/-- The READ of the mailbox: 36 bytes (log entry 49). -/
def State.mbxRead (b : State) (r : Reg) : List Byte :=
  leBytes 1 0x33 ++ leBytes 1 (b.fieldOf r 0 8) ++ leBytes 2 (b.fieldOf r 8 16) ++ b.mbxNonce r.dev

theorem exec_mbxGo {t p : Nat} {be : BitVec 4} {v : Word} {r : Reg} (front : (s.arrive t).wrFront p none offMbxCtl be = (s.arrive t, some r))
    (name : r.name = .scMbxCtl) (go : bit v.toNat 24 = true) :
    let b := ((s.arrive t).applyWrite p none offMbxCtl r (putBits v.toNat 24 1 0)).mbxBusy r t
    exec (.mbxGo t p be v) s = .next (b.say (.md r.dev (b.mbxRead r))) := by
  refine congrArg Host.Outcome.next ?_
  rw [front]
  exact if_neg (by simp [name, go])

theorem State.length_mbxNonce (fd : Nat) : (s.mbxNonce fd).length = 32 := by
  simp [State.mbxNonce, List.length_flatMap]

theorem exec_mbxTimeout {t fd x : Nat} (waits : (s.arrive t).bitOf (rMbxCtl fd) 25 = true) (sent : ((s.arrive t).fd fd).mbxAt = some x)
    (late : x + 5000000 + 32 ≤ t) : exec (.mbxTimeout t fd) s = .next (((s.arrive t).fillRsp fd []).mbxDone fd true) := by
  refine congrArg Host.Outcome.next (if_neg ?_)
  rw [waits, sent]
  simpa using late

/-- An IDENT record is kept (R629). -/
def State.withIdent (u : State) (b : List Byte) : State :=
  if fld b 1 1 = 1 && fld b 4 1 = 0 then
    { u with boot := { u.boot with ident := (b.drop 0x58).take 4 ++ (b.drop 0x70).take 48 } }
  else u

theorem State.withIdent_keeps (u : State) (b : List Byte) :
    (u.withIdent b).ops = u.ops ∧ (u.withIdent b).md = u.md ∧ ∀ r, (u.withIdent b).reg r = u.reg r := by
  unfold State.withIdent
  split <;> exact ⟨rfl, rfl, fun _ => rfl⟩

/-- The state once a record fills the response registers (R546). -/
def State.recorded (a : State) (fd : Nat) (b : List Byte) : State := (a.fillRsp fd b).withIdent b

theorem State.recorded_keeps (a : State) (fd : Nat) (b : List Byte) : (a.recorded fd b).ops = a.ops ∧ (a.recorded fd b).md = a.md
    ∧ ∀ r, (a.recorded fd b).reg r = (a.fillRsp fd b).reg r := by
  obtain ⟨ops, md, regs⟩ := (a.fillRsp fd b).withIdent_keeps b
  exact ⟨ops.trans (a.fillRsp_keeps fd b).1, md.trans (a.fillRsp_same fd b).2, regs⟩

theorem exec_readoutRecord {t fd : Nat} {b : List Byte} (serves : (s.arrive t).fdServes fd = true) (length : b.length = 256) :
    exec (.readoutRecord t fd b) s = .next (let w := (s.arrive t).recorded fd b
      if w.bitOf (rMbxCtl fd) 25 then w.mbxDone fd false else w) :=
  congrArg Host.Outcome.next (if_neg (by simp [serves, length]))

/-- Settles O59. -/
theorem meterHealthPowerAndReadout : Obligations.MeterHealthPowerAndReadout := by
  unfold Obligations.MeterHealthPowerAndReadout
  intro s t p fd ppm rtcNow closed good opened ver be v r b
  refine ⟨fun on => ⟨fun change room => ?sealed, fun same => ?unsealed, ?clock, fun runs => ?hash, fun restarts empty => ?restart, ?lid,
      fun slots => ?snapshot, fun slots => ?falls, ⟨_, congrArg Host.Outcome.next (if_pos on), rfl⟩, fun running serves => ?word⟩,
    fun off => ⟨?powerOn, ?asleep⟩, fun serves late => ?late, fun front name go dev => ?go,
    fun x waits sent late => ?timeout, fun serves length => ?record⟩
  case sealed =>
    refine .mdSet rfl on fun u md only => ?_
    rw [md, if_neg change, Meter.note_of_room room]
    exact ⟨rfl, rfl, rfl, only.regs⟩
  case unsealed =>
    refine .mdSet rfl on fun u md only => ?_
    rw [md, if_pos same]
    exact ⟨rfl, only.regs⟩
  case clock =>
    refine .checked on rfl fun u flag legal regs ops => ⟨flag.trans ?_, legal, regs, ops⟩
    exact Bool.or_comm ..
  case lid =>
    refine .checked on rfl fun u flag legal regs ops => ⟨flag.trans ?_, legal, regs, ops⟩
    exact Bool.or_comm ..
  case hash =>
    have only := s.mdSet_onlyMeter fun m => m.cond t 3 (!good)
    have kept := Meter.cond_onlyHealth s.md t 3 (!good)
    refine ⟨_, (exec_fwHashCheck on t good).trans (congrArg _ (if_neg (by simp [runs]))), ?_⟩
    dsimp only
    rw [State.mdSet_md on]
    refine ⟨⟨(Meter.bit_cond ..).trans (Bool.or_comm ..), kept.sameLedger.legal, only.regs, only.ops⟩, ?_⟩
    rw [kept]
    exact runs
  case restart =>
    have only := s.mdSet_onlyMeter fun m => m.cond t 3 (!good)
    have kept := Meter.cond_onlyHealth s.md t 3 (!good)
    have queue : (s.mdSet fun m => m.cond t 3 (!good)).md.queue = [] := by
      rw [State.mdSet_md on, kept]
      exact empty
    refine ⟨_, (exec_fwHashCheck on t good).trans (congrArg _ ((if_pos restarts).trans (State.endRestart_empty queue t))), ?_⟩
    rw [State.mdSet_md on]
    exact ⟨⟨(Meter.bit_cond ..).trans (Bool.or_comm ..), kept.sameLedger.legal, only.regs, only.ops⟩, rfl⟩
  case snapshot =>
    refine .mdSet rfl on fun u md only => ?_
    obtain ⟨x, legal, valid, final, seq, health⟩ := s.md.snapshot_spec t ver false
    rw [md, health]
    exact ⟨rfl, rfl, only.regs, x, rfl, legal, valid, final, seq⟩
  case falls =>
    obtain ⟨x, legal, valid, final, -, health⟩ := (s.md.cond t 6 true).snapshot_spec t ver true
    have kept := Meter.cond_onlyHealth s.md t 6 true
    refine ⟨_, exec_mdBranchFall on t ver, rfl, ?_, rfl, x, ?_, legal.trans kept.sameLedger.legal, valid, final⟩
    · rw [health]
      exact kept.sameLedger.legal
    · rw [health, kept]
  case word =>
    obtain ⟨md, ops, cores⟩ := (s.arrive t).worded_keeps t fd
    have same := ((s.arrive t).worded t fd).setMt_sameBut fd (mtWord (s.arrive t).md)
    refine ⟨_, exec_statusWord running serves, ?_, same.md.trans md, same.ops.trans ops, same.cores.trans cores⟩
    refine (same.regs (rMtState fd) nofun nofun).trans ((State.reg_setReg_same ..).trans ?_)
    rw [mtValue, refuseOf_mtWord]
    rfl
  case powerOn =>
    obtain ⟨n, started, running, legal, powerOns, rseq, session, held, addr, log⟩ := s.md.powerOn_spec t rtcNow
    refine ⟨_, exec_mdPowerOn off t rtcNow, ?_⟩
    dsimp only
    rw [started]
    cases final : s.md.newest.final with
    | true => exact ⟨running, legal, powerOns, rseq, session, held, addr, rfl, fun _ => log, nofun⟩
    | false =>
      have room := fun room => Meter.length_note (m := n) (log ▸ room) t 7 0 s.md.newest.rtc rtcNow
      have kept := Meter.note_onlyHealth n t 7 0 s.md.newest.rtc rtcNow
      rw [if_neg nofun]
      refine ⟨?_, ?_, ?_, ?_, ?_, ?_, ?_, rfl, nofun, fun _ short => (room short).trans (by rw [log])⟩
      all_goals rw [kept]
      all_goals assumption
  case asleep =>
    intro c hc
    have idle := State.mdSet_off off
    simp only [List.mem_cons, List.not_mem_nil, or_false] at hc
    rcases hc with rfl | rfl | rfl | rfl | rfl | rfl
    · exact ⟨_, rfl, idle _⟩
    · exact ⟨_, rfl, idle _⟩
    · exact ⟨_, rfl, if_pos (by simp [off])⟩
    · exact ⟨_, rfl, idle _⟩
    · exact ⟨_, rfl, idle _⟩
    · exact ⟨_, rfl, if_pos (by simp [off])⟩
  case late => exact ⟨_, exec_statusWordTimeout serves late, rfl⟩
  case go =>
    obtain ⟨busy, timeout, sent⟩ := ((s.arrive t).applyWrite p none offMbxCtl r (putBits v.toNat 24 1 0)).mbxBusy_spec r t
    refine ⟨_, exec_mbxGo front name go, ?_, ?_, (congrArg FdBoot.mbxAt (State.fd_congr (State.say_boot ..) _)).trans (sent dev),
      _, rfl, by simp [State.mbxRead, State.length_mbxNonce], rfl⟩
    · rw [State.bitOf, State.say_reg]
      exact busy
    · rw [State.bitOf, State.say_reg]
      exact timeout
  case timeout =>
    obtain ⟨busy, done, timeout, others, ops, -⟩ := ((s.arrive t).fillRsp fd []).mbxDone_spec fd true
    refine ⟨_, exec_mbxTimeout waits sent late, busy, done, timeout, ops.trans (State.fillRsp_keeps ..).1, fun i hi => ?_⟩
    refine (others _ (mtRsp_ne_mbxCtl fd i)).trans ((State.reg_fillRsp _ fd [] hi).trans ?_)
    simp [fld, leNat]
  case record =>
    obtain ⟨ops, md, regs⟩ := (s.arrive t).recorded_keeps fd b
    obtain ⟨busy, done, timeout, others, ops', md'⟩ := ((s.arrive t).recorded fd b).mbxDone_spec fd false
    have ctl : ((s.arrive t).recorded fd b).reg (rMbxCtl fd) = (s.arrive t).reg (rMbxCtl fd) :=
      (regs _).trans (State.reg_fillRsp_other _ fd b nofun)
    have rsp {i : Nat} (hi : i < 64) : ((s.arrive t).recorded fd b).reg (mtRsp fd i) = fld b (4 * i) 4 :=
      (regs _).trans (State.reg_fillRsp _ fd b hi)
    refine ⟨_, exec_readoutRecord serves length, ?_⟩
    dsimp only
    rw [State.bitOf, ctl, ← State.bitOf]
    split
    · next waits =>
      exact ⟨ops'.trans ops, md'.trans md, fun i hi => (others _ (mtRsp_ne_mbxCtl fd i)).trans (rsp hi), fun _ => ⟨busy, done, timeout⟩,
        fun idle => absurd waits (by rw [idle]; decide)⟩
    · next idle => exact ⟨ops, md, fun i hi => rsp hi, fun waits => absurd waits idle, fun _ => ctl⟩

end Sys2Proof.Machine
end

section
/-! PROOFS. A compute die declared failed with its stack (R516-R520, R528). -/

namespace Sys2Proof.Machine

/-! ### What a declaration leaves -/

/-- All that a declaration of a compute die leaves; of FT_FAILED, the bits below 24 outside a list, and the banked die. -/
structure SameAround (bits : List Nat) (s t : State) : Prop where
  now    : t.now = s.now
  ops    : t.ops = s.ops
  cores  : t.cores = s.cores
  pool   : t.pool = s.pool
  boot   : t.boot = s.boot
  fab    : t.fab = s.fab
  failed : ∀ i, i < 24 → i ∉ bits → t.bitOf rFtFailed i = s.bitOf rFtFailed i
  banked : t.fieldOf rFtFailed 24 4 = s.fieldOf rFtFailed 24 4

section
variable {bits : List Nat}

theorem SameAround.refl (s : State) : SameAround bits s s := ⟨rfl, rfl, rfl, rfl, rfl, rfl, fun _ _ _ => rfl, rfl⟩

theorem SameAround.trans {s t u : State} (h : SameAround bits s t) (g : SameAround bits t u) : SameAround bits s u where
  now := g.now.trans h.now
  ops := g.ops.trans h.ops
  cores := g.cores.trans h.cores
  pool := g.pool.trans h.pool
  boot := g.boot.trans h.boot
  fab := g.fab.trans h.fab
  failed i hi out := (g.failed i hi out).trans (h.failed i hi out)
  banked := g.banked.trans h.banked

theorem SameBut.sameAround {s t : State} (h : SameBut s t) : SameAround bits s t :=
  ⟨h.now, h.ops, h.cores, h.pool, h.boot, h.fab, fun i _ _ => h.bitOf rFtFailed i, h.fieldOf rFtFailed 24 4⟩

theorem OnlyOut.sameAround {s t : State} (h : OnlyOut s t) : SameAround bits s t := by
  rw [h]
  exact ⟨rfl, rfl, rfl, rfl, rfl, rfl, fun _ _ _ => rfl, rfl⟩

theorem SameAround.onSlice (s : State) (h : Nat) (f : L2Slice → L2Slice) : SameAround bits s (s.onSlice h f) :=
  ⟨rfl, rfl, rfl, rfl, rfl, rfl, fun _ _ _ => rfl, rfl⟩

theorem SameAround.withFlt (s : State) (f : Faults) : SameAround bits s { s with flt := f } :=
  ⟨rfl, rfl, rfl, rfl, rfl, rfl, fun _ _ _ => rfl, rfl⟩

theorem SameAround.setFailed (s : State) {i : Nat} (b : Bool) (hi : i < 24) (listed : i ∈ bits) :
    SameAround bits s (s.setBit rFtFailed i b) :=
  ⟨rfl, rfl, rfl, rfl, rfl, rfl,
    fun _ hj out => s.bitOf_setBit_other _ _ _ _ (by omega) fun same => out (same ▸ listed),
    s.fieldOf_setField_other _ _ _ _ _ _ (by decide) (.inr (by omega))⟩

theorem State.countFailure_around (s : State) (kind index : Nat) (listed : 22 ∈ bits) :
    SameAround bits s (s.countFailure kind index) := by
  unfold State.countFailure
  dsimp only
  split
  · exact .withFlt s _
  · exact ((SameAround.withFlt s _).trans (.setFailed _ true (by decide) listed)).trans (State.event_same ..).sameAround

end

/-! ### The stack (R517, R528) -/

/-- The stack of a failed die is lost with it and not counted again. -/
theorem State.declareStack_withDie (s : State) {d : Nat} (hd : d < 9) {bits : List Nat} (listed : 9 + d ∈ bits) :
    (s.declareStack d 3).stackDead d = true ∧ SameAround bits s (s.declareStack d 3) ∧ (s.declareStack d 3).flt = s.flt := by
  unfold State.declareStack State.declareStackAs
  by_cases dead : s.stackDead d = true
  · rw [if_pos (by simp [dead])]
    exact ⟨dead, .refl s, rfl⟩
  · rw [if_neg (by simp [dead, hd])]
    dsimp only
    rw [if_pos rfl]
    generalize marked : s.setBit rFtFailed (9 + d) true = m
    have shown := m.event_same { code := 0x02, kind := 3, index := d, detail := 3 }
    have slice := SameAround.onSlice (bits := []) (m.event { code := 0x02, kind := 3, index := d, detail := 3 }) d
      fun sl => { sl with lines := [], order := [], mshrs := [], waitq := [] }
    have windows := State.windowsLost_onlyOut ((m.event { code := 0x02, kind := 3, index := d, detail := 3 }).onSlice d
      fun sl => { sl with lines := [], order := [], mshrs := [], waitq := [] }) d
    have rest := (shown.sameAround.trans slice).trans windows.sameAround
    refine ⟨?_, ?_, (congrArg State.flt windows).trans (shown.flt.trans (marked ▸ rfl))⟩
    · refine (rest.failed (9 + d) (by omega) nofun).trans ?_
      rw [← marked]
      exact s.bitOf_setBit_same _ _ _ (by omega)
    · have mark : SameAround bits s m := marked ▸ .setFailed s true (by omega) listed
      exact mark.trans ⟨rest.now, rest.ops, rest.cores, rest.pool, rest.boot, rest.fab, fun i hi _ => rest.failed i hi nofun, rest.banked⟩

/-! ### The role of the die (R521, R523) -/

/-- The role of a failed die: the banked one leaves none, any other is noted to move. -/
theorem State.noteRole_spec (s : State) (d : Nat) :
    (s.noteRole d).flt = (if s.flt.banked = some d then { s.flt with banked := none }
        else { s.flt with moveAt := s.flt.moveAt ++ [(d, s.now)] })
      ∧ (s.flt.banked = some d → (s.noteRole d).fieldOf rFtFailed 24 4 = 0xF)
      ∧ (s.noteRole d).now = s.now ∧ (s.noteRole d).ops = s.ops ∧ (s.noteRole d).cores = s.cores ∧ (s.noteRole d).pool = s.pool
      ∧ (s.noteRole d).boot = s.boot
      ∧ ∀ i, i < 24 → (s.noteRole d).bitOf rFtFailed i = s.bitOf rFtFailed i := by
  unfold State.noteRole
  split
  · exact ⟨State.setField_flt .., fun _ => State.fieldOf_setField_same _ _ _ _ _ (by decide), State.setField_now ..,
      State.setField_ops .., State.setField_cores .., State.setField_pool .., State.setField_boot ..,
      fun i hi => State.bitOf_setField_other _ _ _ _ _ _ (by omega) (.inl hi)⟩
  · next other => exact ⟨rfl, fun same => absurd same other, rfl, rfl, rfl, rfl, rfl, fun _ _ => rfl⟩

/-! ### The die (R516-R520) -/

/-- What a compute die declared failed shows, from the state it failed in. -/
def State.DieLost (a : State) (d : Nat) (u : State) : Prop :=
  u.dieDead d = true ∧ u.stackDead d = true
    ∧ u.flt.count = a.flt.count + (if a.flt.linkDies.contains d then 0 else 1) ∧ u.fab.changed = true
    ∧ (a.flt.banked = some d → u.flt.banked = none ∧ u.fieldOf rFtFailed 24 4 = 0xF)
    ∧ (a.flt.banked ≠ some d → u.flt.banked = a.flt.banked ∧ (d, a.now) ∈ u.flt.moveAt)
    ∧ (∀ e, e < 9 → e ≠ d → u.dieDead e = a.dieDead e ∧ u.stackDead e = a.stackDead e)
    ∧ u.ops = a.ops ∧ u.cores = a.cores ∧ u.pool = a.pool ∧ u.boot = a.boot

theorem State.declareDie_lost {a : State} {d reason : Nat} (hd : d < 9) (alive : a.dieDead d = false) (failed : reason ≠ 5) :
    a.DieLost d (a.declareDie d reason) := by
  unfold State.declareDie
  rw [if_neg (by simp [alive, hd]), if_neg (by simp [alive])]
  extract_lets s1 s2 s3
  rw [if_neg failed]
  have marked : SameAround [d] a s1 := (SameAround.setFailed a true (by omega) List.mem_cons_self).trans (State.event_same ..).sameAround
  have mark : s1.bitOf rFtFailed d = true :=
    ((State.event_same ..).bitOf rFtFailed d).trans (a.bitOf_setBit_same _ _ _ (by omega))
  have flt1 : s1.flt = a.flt := (State.event_same ..).flt
  obtain ⟨role, bankedField, now2, ops2, cores2, pool2, boot2, bits2⟩ := s1.noteRole_spec d
  have counted : SameAround [22] s2 s3 ∧ s3.flt = { s2.flt with count := s2.flt.count + (if s2.flt.linkDies.contains d then 0 else 1) } := by
    by_cases link : s2.flt.linkDies.contains d = true
    · rw [show s3 = s2 from if_pos link, if_pos link]
      exact ⟨.refl s2, rfl⟩
    · rw [show s3 = s2.countFailure 2 d from if_neg link, if_neg link]
      exact ⟨s2.countFailure_around 2 d List.mem_cons_self, State.countFailure_flt ..⟩
  obtain ⟨count3, flt3⟩ := counted
  obtain ⟨stack, rest, flt4⟩ := { s3 with fab := { s3.fab with changed := true } }.declareStack_withDie hd (bits := [9 + d]) List.mem_cons_self
  have flt : (({ s3 with fab := { s3.fab with changed := true } } : State).declareStack d 3).flt = _ := flt4.trans flt3
  have sameBits (i : Nat) (hi : i < 24) (h1 : i ≠ 9 + d) (h2 : i ≠ 22) :
      (({ s3 with fab := { s3.fab with changed := true } } : State).declareStack d 3).bitOf rFtFailed i = s1.bitOf rFtFailed i :=
    (rest.failed i hi (by simpa using h1)).trans ((count3.failed i hi (by simpa using h2)).trans (bits2 i hi))
  rw [role, flt1] at flt
  refine ⟨(sameBits d (by omega) (by omega) (by omega)).trans mark, stack, ?count, congrArg Fabric.changed rest.fab, fun banked => ?banked,
    fun other => ?other, fun e he ne => ⟨?die, ?stack⟩, rest.ops.trans (count3.ops.trans (ops2.trans marked.ops)),
    rest.cores.trans (count3.cores.trans (cores2.trans marked.cores)), rest.pool.trans (count3.pool.trans (pool2.trans marked.pool)),
    rest.boot.trans (count3.boot.trans (boot2.trans marked.boot))⟩
  case count =>
    rw [flt]
    split <;> rfl
  case banked =>
    rw [flt, if_pos banked]
    exact ⟨rfl, rest.banked.trans (count3.banked.trans (bankedField (flt1 ▸ banked)))⟩
  case other =>
    rw [flt, if_neg other, marked.now]
    exact ⟨rfl, List.mem_append_right _ List.mem_cons_self⟩
  case die => exact (sameBits e (by omega) (by omega) (by omega)).trans (marked.failed e (by omega) (by simpa using ne))
  case stack => exact (sameBits (9 + e) (by omega) (by omega) (by omega)).trans (marked.failed (9 + e) (by omega) (by simp; omega))

/-- Settles O50. A report and a trip declare the die where a master stands; without one the declaration waits. -/
theorem failedDiesAreDeclared : Obligations.FailedDiesAreDeclared := by
  unfold Obligations.FailedDiesAreDeclared
  intro s t d hd
  refine ⟨fun master alive => ?report, fun none fresh => ?waits, fun up master alive => ?trips⟩
  case report => exact ⟨_, congrArg Host.Outcome.next (if_pos master), State.declareDie_lost (a := s.stamped t) hd alive (by decide)⟩
  case waits =>
    have absent : (s.stamped t).pwr.waits.any (fun w => w.1 = 2 && w.2.1 = d) = false := by
      simpa using fun kind index reason hw => fresh (kind, index, reason) hw
    exact ⟨_, congrArg Host.Outcome.next ((if_neg (by simp [none])).trans (if_neg (by simp only [absent]; decide))), rfl, rfl⟩
  case trips =>
    refine exec_trips (by decide) ?_
    have declared : (s.arrive t).tripPart 2 d = (s.arrive t).declareDie d 4 := by
      rw [State.tripPart, if_neg (by simp [up]), if_neg (by simp)]
      exact if_pos master
    rw [declared]
    exact State.declareDie_lost hd alive (by decide)

end Sys2Proof.Machine
end

section
/-! PROOFS. Power inputs, clocks, power-up and power-down, cold reset and the test port (R582-R601). -/

namespace Sys2Proof.Machine

variable (s : State)

/-! ### THERM_ALERT_N (R593) -/

/-- THERM_ALERT_N is asserted: throttled, hot, or on one input. -/
def State.alerts : Bool := s.fieldOf rPwrStat 8 9 < 256 || !s.pwr.hotDies.isEmpty || s.pwr.vin.any (!·)

theorem State.thermPin_shows : ∃ out, s.thermPin = { s with pwr := { s.pwr with thermN := !s.alerts }, out := out } := by
  unfold State.thermPin
  dsimp only
  rw [← State.alerts]
  split
  · next same => exact ⟨s.out, by rw [← same]⟩
  · exact ⟨_, rfl⟩

/-! ### The inputs (R582, R584, R587) -/

/-- All but what the inputs and the converter modules show in GX_PWR_STAT and THERM_ALERT_N. -/
structure OnlyShown (s t : State) : Prop where
  regs   : ∀ r, r ≠ rPwrStat → t.reg r = s.reg r
  ops    : t.ops = s.ops
  cores  : t.cores = s.cores
  mem    : t.mem = s.mem
  frames : t.frames = s.frames
  rings  : t.rings = s.rings
  md     : t.md = s.md
  flt    : t.flt = s.flt

section
variable {s}

theorem OnlyShown.trans {t u : State} (h : OnlyShown s t) (g : OnlyShown t u) : OnlyShown s u where
  regs r hr := (g.regs r hr).trans (h.regs r hr)
  ops := g.ops.trans h.ops
  cores := g.cores.trans h.cores
  mem := g.mem.trans h.mem
  frames := g.frames.trans h.frames
  rings := g.rings.trans h.rings
  md := g.md.trans h.md
  flt := g.flt.trans h.flt

end

theorem OnlyShown.setBit (i : Nat) (b : Bool) : OnlyShown s (s.setBit rPwrStat i b) :=
  ⟨fun r hr => s.reg_setBit_other _ r i b hr, s.setBit_ops .., s.setBit_cores .., s.setBit_mem .., s.setBit_frames ..,
    s.setBit_rings .., s.setBit_md .., s.setBit_flt ..⟩

theorem State.showInputs_only : OnlyShown s s.showInputs := (OnlyShown.setBit s 0 _).trans (.setBit _ 1 _)

theorem State.showInputs_bit {input : Nat} (h : input < 2) : s.showInputs.bitOf rPwrStat input = s.pwr.vin.getD input false := by
  unfold State.showInputs
  interval_cases input
  · rw [State.bitOf_setBit_other _ _ _ _ _ (by decide) (by decide), State.bitOf_setBit_same _ _ _ _ (by decide)]
  · rw [State.bitOf_setBit_same _ _ _ _ (by decide)]

theorem State.showInputs_pwr : s.showInputs.pwr = s.pwr := (State.setBit_pwr ..).trans (State.setBit_pwr ..)

/-- What an input's loss or return shows while the package runs. -/
theorem State.setVin_shows {input : Nat} (ok : Bool) (hi : input < 2) (two : s.pwr.vin.length = 2) (runs : s.pwr.inReset = false) :
    let u := s.setVin input ok
    u.pwr.vin = s.pwr.vin.set input ok ∧ u.bitOf rPwrStat input = ok ∧ (ok = false → u.pwr.thermN = false) ∧ OnlyShown s u := by
  have there : input < s.pwr.vin.length := by omega
  let set : State := { s with pwr := { s.pwr with vin := s.pwr.vin.set input ok } }
  have shown : s.setVin input ok = set.showInputs.thermPin := if_neg (by simp [runs])
  obtain ⟨out, pin⟩ := set.showInputs.thermPin_shows
  have only := set.showInputs_only
  have bit : set.showInputs.bitOf rPwrStat input = ok := by
    rw [set.showInputs_bit hi]
    simp [set, there]
  have pwr : set.showInputs.pwr.vin = s.pwr.vin.set input ok := congrArg Power.vin set.showInputs_pwr
  rw [shown, pin]
  refine ⟨pwr, bit, fun lost => ?_, ⟨only.regs, only.ops, only.cores, only.mem, only.frames, only.rings, only.md, only.flt⟩⟩
  subst lost
  have low : (s.pwr.vin.set input false).any (!·) = true := List.any_eq_true.mpr ⟨false, List.mem_set there false, rfl⟩
  show (!set.showInputs.alerts) = false
  rw [State.alerts, pwr, low]
  simp

/-- An input holds or not, of the two: what the loss of the other one leaves. -/
theorem any_set_false {vin : List Bool} {input : Nat} (hi : input < 2) (two : vin.length = 2) :
    (vin.set input false).any (·) = vin.getD (1 - input) false := by
  obtain ⟨a, b, rfl⟩ := List.length_eq_two.mp two
  interval_cases input
  · simp
  · simp

/-! ### Power off, cold reset (R587-R589) -/

theorem State.fresh_fd (fd : Nat) : s.fresh.fd fd = { FdBoot.reset with fuseSvn := (s.fd fd).fuseSvn, flash := (s.fd fd).flash } := by
  unfold State.fd State.fresh
  dsimp only
  rw [List.getD_eq_getElem?_getD, List.getD_eq_getElem?_getD, List.getElem?_map]
  cases s.boot.fds[fd]? <;> rfl

theorem State.fresh_flash (fd : Nat) : (s.fresh.fd fd).flash = (s.fd fd).flash := by rw [s.fresh_fd]

/-- The pin that falls when power goes is all that a power-off says. -/
theorem State.powerOff_eq (down : Bool) : ∃ out, s.powerOff down = { s.fresh with
      pwr := { s.fresh.pwr with pwrOk := false, pwrDn := down, coldLow := false, inReset := true, thermN := true }, out := out }
    ∧ (s.pwr.pwrOk = true → out.head? = some (.pin "PWR_OK" false)) := by
  unfold State.powerOff
  dsimp only
  split
  · exact ⟨_, rfl, fun _ => rfl⟩
  · next off => exact ⟨_, rfl, fun on => absurd on off⟩

theorem State.powerOff_off (down : Bool) :
    let u := s.powerOff down
    u.pwr.pwrOk = false ∧ u.pwr.inReset = true ∧ u.ops = Ops.reset ∧ u.mem = MemSys.reset ∧ u.regs = [] ∧ u.cm.token = 1
      ∧ u.md = s.md ∧ (∀ fd, (u.fd fd).flash = (s.fd fd).flash) ∧ ∀ fd, (u.fd fd).fuseSvn = (s.fd fd).fuseSvn := by
  obtain ⟨out, off, -⟩ := s.powerOff_eq down
  have fds (fd : Nat) : (s.powerOff down).fd fd = s.fresh.fd fd := by
    rw [off]
    rfl
  refine ⟨by rw [off], by rw [off], by rw [off]; rfl, by rw [off]; rfl, by rw [off]; rfl, by rw [off]; rfl, by rw [off]; rfl,
    fun fd => ?_, fun fd => ?_⟩
  · rw [fds, s.fresh_fd]
  · rw [fds, s.fresh_fd]

/-- With the other input down too, the loss of an input powers the package off. -/
theorem State.dropVin_last {input : Nat} (hi : input < 2) (two : s.pwr.vin.length = 2) (runs : s.pwr.inReset = false)
    (last : s.pwr.vin.getD (1 - input) false = false) : s.dropVin input = (s.setVin input false).powerOff (s.setVin input false).pwr.pwrDn := by
  obtain ⟨vin, -⟩ := s.setVin_shows false hi two runs
  exact if_neg (by rw [vin, any_set_false hi two, last]; decide)

theorem State.dropVin_holds {input : Nat} (hi : input < 2) (two : s.pwr.vin.length = 2) (runs : s.pwr.inReset = false)
    (holds : s.pwr.vin.getD (1 - input) false = true) : s.dropVin input = s.setVin input false := by
  obtain ⟨vin, -⟩ := s.setVin_shows false hi two runs
  exact if_pos (by rw [vin, any_set_false hi two, holds])

theorem State.showInputs_boot : s.showInputs.boot = s.boot := (State.setBit_boot ..).trans (State.setBit_boot ..)

theorem State.setVin_boot (input : Nat) (ok : Bool) : (s.setVin input ok).boot = s.boot := by
  unfold State.setVin
  dsimp only
  split
  · exact .refl s.boot
  · obtain ⟨out, pin⟩ := ({ s with pwr := { s.pwr with vin := s.pwr.vin.set input ok } } : State).showInputs.thermPin_shows
    rw [pin]
    exact State.showInputs_boot _

/-! ### A Quinulait clock (R595, R471) -/

/-- What `downQl` leaves and what it takes down. -/
theorem State.downQl_spec (p : Nat) :
    (s.downQl p).fieldOf (qlStatReg p) 0 2 ≠ 2 ∧ (∀ r, r ≠ qlStatReg p → (s.downQl p).reg r = s.reg r)
      ∧ (s.downQl p).ops = s.ops ∧ (s.downQl p).pool = s.pool := by
  unfold State.downQl
  split
  · next down => exact ⟨down, fun _ _ => rfl, rfl, rfl⟩
  · refine ⟨?_, fun r hr => s.reg_setField_other _ r _ _ _ hr, s.setField_ops (qlStatReg p) 0 2 1,
      s.setField_pool (qlStatReg p) 0 2 1⟩
    show (s.setField (qlStatReg p) 0 2 1).fieldOf (qlStatReg p) 0 2 ≠ 2
    rw [s.fieldOf_setField_same _ _ _ _ (by decide)]
    decide

theorem qlStatReg_inj {p q : Nat} (h : qlStatReg p = qlStatReg q) : p = q := congrArg Reg.n h

theorem State.downQls_spec (base n : Nat) :
    let u := (List.range n).foldl (fun acc i => acc.downQl (base + i)) s
    (∀ p, base ≤ p → p < base + n → u.fieldOf (qlStatReg p) 0 2 ≠ 2)
      ∧ (∀ r, (∀ p, base ≤ p → p < base + n → r ≠ qlStatReg p) → u.reg r = s.reg r) ∧ u.ops = s.ops ∧ u.pool = s.pool := by
  induction n with
  | zero => exact ⟨fun p lo hi => absurd hi (by omega), fun _ _ => rfl, rfl, rfl⟩
  | succ n ih =>
    obtain ⟨down, others, ops, pool⟩ := ih
    rw [List.range_succ, List.foldl_append]
    obtain ⟨down1, others1, ops1, pool1⟩ :=
      ((List.range n).foldl (fun acc i => acc.downQl (base + i)) s).downQl_spec (base + n)
    refine ⟨fun p lo hi => ?_, fun r hr => ?_, ops1.trans ops, pool1.trans pool⟩
    · by_cases last : p = base + n
      · subst last
        exact down1
      · have kept := others1 (qlStatReg p) fun same => last (qlStatReg_inj same)
        rw [List.foldl_cons, List.foldl_nil, State.fieldOf, kept]
        exact down p lo (by omega)
    · exact (others1 r (hr _ (by omega) (by omega))).trans (others r fun p lo hi => hr p lo (by omega))

/-! ### Start-up (R585, R598, R613) -/

/-- What the start of one boot ROM keeps. -/
structure SameButBoot (s t : State) : Prop where
  ops : t.ops = s.ops
  mem : t.mem = s.mem
  cm  : t.cm = s.cm
  md  : t.md = s.md
  pwr : t.pwr = s.pwr
  fds : t.boot.fds.length = s.boot.fds.length

theorem State.bootFd_keeps (fd : Nat) : SameButBoot s (s.bootFd fd) := by
  unfold State.bootFd State.recoveryBoot State.onFd
  dsimp only
  split
  · constructor <;> simp
  · constructor <;> simp

theorem State.bootFd_other {fd e : Nat} (h : e ≠ fd) : (s.bootFd fd).fd e = s.fd e := by
  unfold State.bootFd State.recoveryBoot
  dsimp only
  split
  · exact (State.fd_congr ((State.onPort_boot ..).trans (State.setBit_boot ..)) e).trans
      ((State.fd_onFd_other _ _ h).trans (State.fd_congr (State.setField_boot ..) e))
  · exact (State.fd_onFd_other _ _ h).trans (State.fd_congr (State.setField_boot ..) e)

theorem State.bootFd_same {fd : Nat} (h : fd < s.boot.fds.length) :
    let f := (s.bootFd fd).fd fd
    f.flash = (s.fd fd).flash ∧ f.fuseSvn = (s.fd fd).fuseSvn ∧ f.reading = !s.pwr.straps.getD 1 false
      ∧ f.recovery = s.pwr.straps.getD 1 false := by
  have set : (s.setField (rBootStat fd) 8 7 (s.fd fd).fuseSvn).fd fd = s.fd fd := State.fd_congr (State.setField_boot ..) fd
  have there : fd < (s.setField (rBootStat fd) 8 7 (s.fd fd).fuseSvn).boot.fds.length := by
    rw [State.setField_boot]
    exact h
  unfold State.bootFd State.recoveryBoot
  dsimp only
  rw [State.setField_pwr]
  split
  · next strap =>
    rw [State.fd_congr ((State.onPort_boot ..).trans (State.setBit_boot ..)) fd, State.fd_onFd_same _ _ there, set, strap]
    exact ⟨rfl, rfl, rfl, rfl⟩
  · next strap =>
    rw [State.fd_onFd_same _ _ there, set, Bool.eq_false_iff.mpr strap]
    exact ⟨rfl, rfl, rfl, rfl⟩

/-- A package started from `b`: straps sampled, both boot ROMs started. -/
def State.Started (msel recov test : Bool) (b u : State) : Prop :=
  u.pwr.straps = [msel, recov, test] ∧ u.pwr.pwrOk = true ∧ u.pwr.inReset = false
    ∧ u.ops = Ops.reset ∧ u.mem = MemSys.reset ∧ u.cm.token = 1 ∧ u.md = b.md
    ∧ ∀ fd, fd < b.boot.fds.length → (u.fd fd).flash = (b.fd fd).flash ∧ (u.fd fd).reading = !recov
        ∧ (u.fd fd).recovery = recov ∧ (u.fd fd).fuseSvn = (b.fd fd).fuseSvn

/-- The package with its straps sampled, before its boot ROMs start. -/
def State.sampled (msel recov test : Bool) : State :=
  { s.fresh with pwr := { s.fresh.pwr with straps := [msel, recov, test], pwrOk := true, inReset := false } }.showInputs.newSession

theorem State.sampled_keeps (msel recov test : Bool) :
    let u := s.sampled msel recov test
    u.ops = Ops.reset ∧ u.mem = MemSys.reset ∧ u.cm.token = 1 ∧ u.md = s.md ∧ u.boot.fds = s.fresh.boot.fds
      ∧ u.pwr = { s.fresh.pwr with straps := [msel, recov, test], pwrOk := true, inReset := false } := by
  let c : State := { s.fresh with pwr := { s.fresh.pwr with straps := [msel, recov, test], pwrOk := true, inReset := false } }
  have only := c.showInputs_only
  have fds : c.showInputs.boot.fds = c.boot.fds := congrArg Boot.fds c.showInputs_boot
  have cm : c.showInputs.cm = c.cm := (State.setBit_cm ..).trans (State.setBit_cm ..)
  exact ⟨only.ops, only.mem, congrArg Masters.token cm, only.md, fds, c.showInputs_pwr⟩

/-- Choosing the master and showing THERM_ALERT_N keep all that a start-up is about. -/
theorem State.chooseMaster_thermPin_keeps :
    let u := s.chooseMaster.thermPin
    u.ops = s.ops ∧ u.mem = s.mem ∧ u.cm.token = s.cm.token ∧ u.md = s.md ∧ u.boot = s.boot ∧ u.pwr.straps = s.pwr.straps
      ∧ u.pwr.pwrOk = s.pwr.pwrOk ∧ u.pwr.inReset = s.pwr.inReset ∧ u.pwr.coldLow = s.pwr.coldLow := by
  obtain ⟨out, pin⟩ := s.chooseMaster.thermPin_shows
  dsimp only
  rw [pin]
  exact ⟨rfl, rfl, rfl, rfl, rfl, rfl, rfl, rfl, rfl⟩

/-- Both boot ROMs started on a package of two fabric dies. -/
theorem State.bootFds_spec (two : s.boot.fds.length = 2) :
    SameButBoot s ((s.bootFd 0).bootFd 1) ∧ ∀ fd, fd < 2 →
      let f := ((s.bootFd 0).bootFd 1).fd fd
      f.flash = (s.fd fd).flash ∧ f.fuseSvn = (s.fd fd).fuseSvn ∧ f.reading = !s.pwr.straps.getD 1 false
        ∧ f.recovery = s.pwr.straps.getD 1 false := by
  have first := s.bootFd_keeps 0
  have second := (s.bootFd 0).bootFd_keeps 1
  refine ⟨⟨second.ops.trans first.ops, second.mem.trans first.mem, second.cm.trans first.cm, second.md.trans first.md,
    second.pwr.trans first.pwr, second.fds.trans first.fds⟩, fun fd h => ?_⟩
  interval_cases fd
  · dsimp only
    rw [State.bootFd_other _ (by decide : (0 : Nat) ≠ 1)]
    exact s.bootFd_same (by omega)
  · have := (s.bootFd 0).bootFd_same (fd := 1) (by rw [first.fds]; omega)
    rwa [first.pwr, s.bootFd_other (by decide : (1 : Nat) ≠ 0)] at this

variable {s} in
/-- The stamp from which a released PERST_N counts is no part of a start-up. -/
theorem State.Started.perstFrom {msel recov test : Bool} {b u : State} (n : Nat) (md : b.md = s.md) (boot : b.boot = s.boot)
    (h : State.Started msel recov test b u) : State.Started msel recov test s { u with boot := { u.boot with perstFrom := n } } := by
  unfold State.Started at h ⊢
  rw [md, boot] at h
  obtain ⟨straps, on, runs, ops, mem, token, meter, fds⟩ := h
  refine ⟨straps, on, runs, ops, mem, token, meter, fun fd hi => ?_⟩
  have old : b.fd fd = s.fd fd := State.fd_congr boot fd
  exact old ▸ fds fd hi

theorem State.bootPackage_started (msel recov test : Bool) (two : s.boot.fds.length = 2) :
    State.Started msel recov test s (s.bootPackage msel recov test) ∧ (s.bootPackage msel recov test).pwr.coldLow = s.pwr.coldLow := by
  obtain ⟨ops, mem, token, md, fds, pwr⟩ := s.sampled_keeps msel recov test
  have len : (s.sampled msel recov test).boot.fds.length = 2 := by
    rw [fds]
    exact (List.length_map _).trans two
  have fd0 (fd : Nat) : (s.sampled msel recov test).fd fd = s.fresh.fd fd := by rw [State.fd, State.fd, fds]
  have booted : s.bootPackage msel recov test = (((s.sampled msel recov test).bootFd 0).bootFd 1).chooseMaster.thermPin := rfl
  obtain ⟨same, roms⟩ := (s.sampled msel recov test).bootFds_spec len
  rw [booted]
  generalize ((s.sampled msel recov test).bootFd 0).bootFd 1 = c at same roms ⊢
  obtain ⟨ops1, mem1, token1, md1, boot1, straps1, ok1, reset1, low1⟩ := c.chooseMaster_thermPin_keeps
  have pwr2 := same.pwr.trans pwr
  have low : c.pwr.coldLow = s.pwr.coldLow := by
    rw [pwr2]
    rfl
  refine ⟨⟨straps1.trans (congrArg Power.straps pwr2), ok1.trans (congrArg Power.pwrOk pwr2), reset1.trans (congrArg Power.inReset pwr2),
    ops1.trans (same.ops.trans ops), mem1.trans (same.mem.trans mem), token1.trans ((congrArg Masters.token same.cm).trans token),
    md1.trans (same.md.trans md), fun fd h => ?_⟩, low1.trans low⟩
  obtain ⟨flash, svn, reading, recovery⟩ := roms fd (two ▸ h)
  rw [pwr] at reading recovery
  rw [fd0, s.fresh_fd] at flash svn
  rw [State.fd_congr boot1]
  exact ⟨flash, reading, recovery, svn⟩

end Sys2Proof.Machine
end

section
namespace Sys2Proof.Machine

/-- Settles O52: an input shows while the other holds and powers off when it was the last one; clocks and the test port
change what they name. -/
theorem powerInputsClocksAndTestPort : Obligations.PowerInputsClocksAndTestPort := by
  unfold Obligations.PowerInputsClocksAndTestPort
  refine ⟨fun s t input hi => ?_, fun s t fd => ?_⟩
  · intro a two runs shows off
    have shown (ok : Bool) : shows ok (a.setVin input ok) := by
      obtain ⟨vin, bit, pin, only⟩ := a.setVin_shows ok hi two runs
      exact ⟨vin, bit, pin, only.regs, only.ops, only.cores, only.mem, only.frames, only.rings, only.md, only.flt⟩
    have offs : off ((a.setVin input false).powerOff (a.setVin input false).pwr.pwrDn) := by
      obtain ⟨ok, reset, ops, mem, regs, token, md, flash, svn⟩ :=
        (a.setVin input false).powerOff_off (a.setVin input false).pwr.pwrDn
      obtain ⟨-, -, -, only⟩ := a.setVin_shows false hi two runs
      exact ⟨ok, reset, ops, mem, regs, token, md.trans only.md,
        fun fd => (flash fd).trans (congrArg FdBoot.flash (State.fd_congr (a.setVin_boot ..) fd)),
        fun fd => (svn fd).trans (congrArg FdBoot.fuseSvn (State.fd_congr (a.setVin_boot ..) fd))⟩
    refine ⟨⟨_, rfl, shown true⟩, fun holds => ?_, fun last => ?_, ?_⟩
    · have drop := a.dropVin_holds hi two runs holds
      exact ⟨⟨_, congrArg Host.Outcome.next drop, shown false⟩, ⟨_, congrArg Host.Outcome.next drop, shown false⟩⟩
    · have drop := a.dropVin_last hi two runs last
      exact ⟨⟨_, congrArg Host.Outcome.next drop, offs⟩, ⟨_, congrArg Host.Outcome.next drop, offs⟩⟩
    · obtain ⟨regs, ops, cores, mem, frames, -⟩ := OnlyShown.setBit a 2 true
      exact ⟨_, congrArg Host.Outcome.next (if_neg (by simp [a, runs])), a.bitOf_setBit_same _ _ _ (by decide), regs, ops, cores,
        mem, frames⟩
  · intro a
    refine ⟨fun first => ⟨_, congrArg Host.Outcome.next (if_neg (by simp [a, first])), rfl⟩,
      fun second => ⟨_, congrArg Host.Outcome.next (if_pos second), rfl⟩,
      fun runs => ⟨_, congrArg Host.Outcome.next (if_neg (by simp [a, runs])), rfl⟩, fun hfd => ?_, fun e strap => ?_⟩
    · obtain ⟨down, others, ops, pool⟩ := a.downQls_spec (8 * fd) 8
      exact ⟨_, congrArg Host.Outcome.next (if_neg (by omega)), down, fun r hr => others r fun p _ _ => hr p (by omega), ops, pool⟩
    · subst strap
      exact ⟨_, rfl, rfl⟩

/-- Settles O53: start-up, cold reset and power-down keep the meter, flash and fuses and take the rest to reset. -/
theorem powerSequencesStartAndStopThePackage : Obligations.PowerSequencesStartAndStopThePackage := by
  unfold Obligations.PowerSequencesStartAndStopThePackage
  intro s t port msel recov test a started
  refine ⟨fun off up inputs two => ⟨?run, ?cold⟩, fun cold two => ?release, fun on high => ?enter, fun up => ?down, ⟨_, rfl, rfl, rfl⟩,
    fun there => ?perst⟩
  case run =>
    obtain ⟨run, -⟩ := State.bootPackage_started { s.say (.pin "PWR_OK" true) with pwr := { s.pwr with refclk1 := false } }
      msel recov test two
    exact ⟨_, congrArg Host.Outcome.next (if_neg (by simp [off, up, inputs])), run.perstFrom _ rfl rfl⟩
  case cold => exact ⟨_, congrArg Host.Outcome.next (if_neg (by simp [off, up, inputs])), rfl, rfl, rfl, rfl⟩
  case release =>
    obtain ⟨run, low⟩ := State.bootPackage_started { a with pwr := { a.pwr with coldLow := false } } msel recov test two
    exact ⟨_, congrArg Host.Outcome.next (if_neg (by simp [a, cold])), run.perstFrom _ rfl rfl, low⟩
  case enter =>
    exact ⟨_, congrArg Host.Outcome.next (if_neg (by simp [a, on, high])), rfl, rfl, on, rfl, rfl, rfl,
      fun fd => a.fresh_flash fd⟩
  case down =>
    obtain ⟨ok, reset, -, mem, -, -, md, -⟩ := a.powerOff_off true
    obtain ⟨out, off, pin⟩ := a.powerOff_eq true
    refine ⟨_, congrArg Host.Outcome.next (if_neg (by simp [a, up])), ?_, ok, reset, mem, md, fun on => ?_⟩
    · rw [off]
    · rw [off]
      exact pin on
  case perst =>
    refine ⟨_, rfl, ?_, fun q other => ?_, rfl, rfl⟩
    · exact a.port_onPort_same _ there
    · exact a.port_onPort_other _ other

end Sys2Proof.Machine
end

section
/-! PROOFS. SPDM requests on a port's mailbox (R627-R629). -/

namespace Sys2Proof.Machine

section
variable {s : State} {t p : Nat} {ok : Spdm → Bool} (k : State → State)

/-- A request that is in order is taken on a port whose stoker runs. -/
theorem State.spdmReq_taken (hp : p < 2) (stoker : ((s.arrive t).fd p).stoker = true) (order : ok ((s.arrive t).port p).spdm = true) :
    s.spdmReq t p ok k = k (s.arrive t) :=
  (if_neg (by simp [hp, stoker])).trans (if_pos order)

theorem State.spdmReq_unexpected (hp : p < 2) (stoker : ((s.arrive t).fd p).stoker = true)
    (order : ok ((s.arrive t).port p).spdm = false) : s.spdmReq t p ok k = (s.arrive t).spdmError p errUnexpected :=
  (if_neg (by simp [hp, stoker])).trans (if_neg (by simp [order]))

end

/-! ### Answers -/

/-- An answer on a port's mailbox, and the negotiation after it. -/
def State.Tells (a : State) (p code : Nat) (body : List Byte) (y : Spdm) (u : State) : Prop :=
  u.out.head? = some (.spdm p code body) ∧ (u.port p).spdm = y ∧ u.regs = a.regs ∧ u.ops = a.ops ∧ u.cores = a.cores

variable (a : State) (p code : Nat) (body : List Byte)

theorem State.tells_say : a.Tells p code body (a.port p).spdm (a.say (.spdm p code body)) := ⟨rfl, rfl, rfl, rfl, rfl⟩

theorem State.tells_onSpdm (f : Spdm → Spdm) (there : p < a.ports.length) :
    a.Tells p code body (f (a.port p).spdm) ((a.onSpdm p f).say (.spdm p code body)) :=
  ⟨rfl, congrArg HostPort.spdm (a.port_onPort_same (fun h => { h with spdm := f h.spdm }) there), rfl, rfl, rfl⟩

/-- A signature takes a free value, which the answer does not show elsewhere. -/
theorem State.tells_takeFree {y : Spdm} {u : State} (h : a.Tells p code body y u) : a.Tells p code body y u.takeFree := h

/-! ### What is signed -/

section
variable {s : State} {t p i : Nat} (nonce : List Byte)

theorem exec_getMeasurements_one (hp : p < 2) (stoker : ((s.arrive t).fd p).stoker = true)
    (order : ((s.arrive t).port p).spdm.algs = true) (low : 1 ≤ i) (high : i ≤ 8) :
    exec (.getMeasurements t p i nonce) s = .next (((s.arrive t).say (.spdm p 0x60
      ((s.arrive t).signed p (leBytes 1 i ++ (s.arrive t).measure p i) nonce))).takeFree) := by
  refine congrArg Host.Outcome.next ((State.spdmReq_taken _ hp stoker order).trans ((if_neg ?_).trans ?_))
  · simp only [Bool.or_eq_true, Bool.and_eq_true, decide_eq_true_eq]
    omega
  · rw [if_neg (by omega), List.flatMap_singleton]

theorem exec_getMeasurements_all (hp : p < 2) (stoker : ((s.arrive t).fd p).stoker = true)
    (order : ((s.arrive t).port p).spdm.algs = true) :
    exec (.getMeasurements t p 0xFF nonce) s = .next (((s.arrive t).say (.spdm p 0x60 ((s.arrive t).signed p
      ([1, 2, 3, 4, 5, 6, 7, 8].flatMap fun j => leBytes 1 j ++ (s.arrive t).measure p j) nonce))).takeFree) :=
  congrArg Host.Outcome.next ((State.spdmReq_taken _ hp stoker order).trans ((if_neg (by decide)).trans rfl))

end

end Sys2Proof.Machine
end

section
namespace Sys2Proof.Machine

/-- Settles O48: each request answers in its order of the negotiation and is unexpected outside it. -/
theorem spdmAnswersInOrder : Obligations.SpdmAnswersInOrder := by
  unfold Obligations.SpdmAnswersInOrder
  intro s t p algs slot off len i id nonce a x chain part tells error meas hp there stoker
  have taken {ok : Spdm → Bool} (k : State → State) (order : ok x = true) : s.spdmReq t p ok k = k a :=
    State.spdmReq_taken k hp stoker order
  have unexpected {ok : Spdm → Bool} (k : State → State) (order : ok x = false) : s.spdmReq t p ok k = error errUnexpected :=
    State.spdmReq_unexpected k hp stoker order
  refine ⟨⟨_, congrArg Host.Outcome.next (taken _ rfl), a.tells_onSpdm p _ _ _ there⟩,
    fun order => ⟨_, congrArg Host.Outcome.next (unexpected _ order), rfl⟩,
    fun order => ⟨_, congrArg Host.Outcome.next (taken _ order), a.tells_onSpdm p _ _ _ there⟩,
    fun order => ⟨_, congrArg Host.Outcome.next (unexpected _ order), rfl⟩,
    fun order offer => ⟨_, congrArg Host.Outcome.next ((taken _ order).trans (if_pos offer)), a.tells_onSpdm p _ _ _ there⟩,
    fun order offer => ⟨_, congrArg Host.Outcome.next ((taken _ order).trans (if_neg offer)), rfl⟩,
    fun order c hc => ?unnegotiated, fun order => ?negotiated, fun opened unfinished => ?finish, fun closed => ?unfinishable,
    fun opened finished => ?session, fun closed c hc => ?outside⟩
  case unnegotiated =>
    simp only [List.mem_cons, List.not_mem_nil, or_false] at hc
    rcases hc with rfl | rfl | rfl | rfl | rfl
    all_goals exact ⟨_, congrArg Host.Outcome.next (unexpected _ order), rfl⟩
  case negotiated =>
    refine ⟨⟨_, congrArg Host.Outcome.next (taken _ order), a.tells_say p _ _⟩,
      ⟨_, congrArg Host.Outcome.next ((taken _ order).trans (if_neg (by decide))), a.tells_say p _ _⟩,
      fun other => ⟨⟨_, congrArg Host.Outcome.next ((taken _ order).trans (if_pos other)), rfl⟩,
        ⟨_, congrArg Host.Outcome.next ((taken _ order).trans (if_pos other)), rfl⟩⟩,
      ⟨_, congrArg Host.Outcome.next ((taken _ order).trans (if_neg (by decide))), a.tells_takeFree p _ _ (a.tells_say p _ _)⟩,
      fun low high => ⟨_, exec_getMeasurements_one nonce hp stoker order low high, a.tells_takeFree p _ _ (a.tells_say p _ _)⟩,
      ⟨_, exec_getMeasurements_all nonce hp stoker order, a.tells_takeFree p _ _ (a.tells_say p _ _)⟩,
      fun bad => ⟨_, congrArg Host.Outcome.next ((taken _ order).trans (if_pos ?_)), rfl⟩,
      fun none => ⟨_, congrArg Host.Outcome.next ((taken _ order).trans (if_neg ?_)), ?_⟩,
      fun some => ⟨_, congrArg Host.Outcome.next ((taken _ order).trans (if_pos (Option.isSome_iff_ne_none.mpr some))), rfl⟩⟩
    · simpa only [Bool.or_eq_true, Bool.and_eq_true, decide_eq_true_eq] using bad
    · exact fun some => Option.isSome_iff_ne_none.mp some none
    · exact a.tells_onSpdm p _ _ (fun y => { y with session := some id, finished := false, updates := 0 }) there
  case finish =>
    exact ⟨_, congrArg Host.Outcome.next (taken _ (by simp [opened, unfinished])), a.tells_onSpdm p _ _ _ there⟩
  case unfinishable =>
    refine ⟨_, congrArg Host.Outcome.next (unexpected _ ?_), rfl⟩
    rcases closed with closed | closed
    · simp [closed]
    · simp [closed]
  case session =>
    have order : inSession id x = true := by simp [inSession, opened, finished]
    exact ⟨⟨_, congrArg Host.Outcome.next (taken _ order), a.tells_say p _ _⟩,
      ⟨_, congrArg Host.Outcome.next (taken _ order), a.tells_onSpdm p _ _ _ there⟩,
      ⟨_, congrArg Host.Outcome.next (taken _ order), a.tells_onSpdm p _ _ _ there⟩⟩
  case outside =>
    have order : inSession id x = false := by
      rcases closed with closed | closed
      · simp [inSession, closed]
      · simp [inSession, closed]
    simp only [List.mem_cons, List.not_mem_nil, or_false] at hc
    rcases hc with rfl | rfl | rfl
    all_goals exact ⟨_, congrArg Host.Outcome.next (unexpected _ order), rfl⟩

end Sys2Proof.Machine
end

section
/-! PROOFS. Boot of a fabric die, adoption, recovery, the fuse SVN and flash operations (R606-R617). -/

namespace Sys2Proof.Machine

/-! ### The steps of a boot -/

section
variable (s : State) {fd : Nat}

theorem State.fillStore_spec (rd : SlotRd) (there : fd < s.boot.fds.length) :
    let f := (s.fillStore fd rd).fd fd
    f.stoker = true ∧ f.store = slotBytes rd ∧ f.reading = false ∧ f.recovery = false ∧ f.fuseSvn = (s.fd fd).fuseSvn := by
  have once : fd < (s.onFd fd fun f => { f with store := slotBytes rd }).boot.fds.length := by simpa [State.onFd] using there
  unfold State.fillStore State.startStoker
  rw [State.fd_congr (State.onPort_boot ..), State.fd_onFd_same _ _ once, s.fd_onFd_same _ there]
  exact ⟨rfl, rfl, rfl, rfl, rfl⟩

theorem State.fillStore_keeps (rd : SlotRd) :
    (s.fillStore fd rd).regs = s.regs ∧ (s.fillStore fd rd).ops = s.ops ∧ (s.fillStore fd rd).md = s.md := ⟨rfl, rfl, rfl⟩

theorem State.fillStore_bitOf (rd : SlotRd) (r : Reg) (i : Nat) : (s.fillStore fd rd).bitOf r i = s.bitOf r i := (rfl)

theorem State.fillStore_cfgReady (rd : SlotRd) (there : fd < s.ports.length) : ((s.fillStore fd rd).port fd).cfgReady = true := by
  unfold State.fillStore State.startStoker
  rw [State.port_onPort_same _ _ (by exact there)]

theorem State.noteSlot_spec (fd : Nat) :
    (s.noteSlot fd).fd fd = s.fd fd ∧ (s.noteSlot fd).bitOf (rBootStat fd) 0 = Decidable.decide ((s.fd fd).slot = 1)
      ∧ (s.noteSlot fd).bitOf (rBootStat fd) 1 = (s.fd fd).second ∧ (s.noteSlot fd).boot = s.boot
      ∧ (s.noteSlot fd).ports = s.ports ∧ (s.noteSlot fd).ops = s.ops ∧ (s.noteSlot fd).md = s.md := by
  have boot : (s.noteSlot fd).boot = s.boot := (State.setBit_boot ..).trans (State.setBit_boot ..)
  refine ⟨State.fd_congr boot fd, ?_, State.bitOf_setBit_same _ _ _ _ (by decide), boot,
    (State.setBit_ports ..).trans (State.setBit_ports ..), (State.setBit_ops ..).trans (State.setBit_ops ..),
    (State.setBit_md ..).trans (State.setBit_md ..)⟩
  exact (State.bitOf_setBit_other _ _ 1 0 _ (by decide) (by decide)).trans (State.bitOf_setBit_same _ _ _ _ (by decide))

/-- What a slot that verified leaves. -/
theorem State.fillStore_noteSlot_spec (rd : SlotRd) (fds : fd < s.boot.fds.length) (ports : fd < s.ports.length) :
    let u := (s.noteSlot fd).fillStore fd rd
    (u.fd fd).stoker = true ∧ (u.fd fd).store = slotBytes rd ∧ (u.fd fd).reading = false ∧ (u.port fd).cfgReady = true
      ∧ u.bitOf (rBootStat fd) 0 = Decidable.decide ((s.fd fd).slot = 1) ∧ u.bitOf (rBootStat fd) 1 = (s.fd fd).second
      ∧ (u.fd fd).fuseSvn = (s.fd fd).fuseSvn ∧ u.ops = s.ops ∧ u.md = s.md := by
  obtain ⟨same, bit0, bit1, boot, sports, ops, md⟩ := s.noteSlot_spec fd
  obtain ⟨-, ops2, md2⟩ := (s.noteSlot fd).fillStore_keeps (fd := fd) rd
  obtain ⟨stoker, store, reading, -, svn⟩ := (s.noteSlot fd).fillStore_spec rd (by rw [boot]; exact fds)
  rw [same] at svn
  exact ⟨stoker, store, reading,
    (s.noteSlot fd).fillStore_cfgReady rd (by rw [sports]; exact ports), ((s.noteSlot fd).fillStore_bitOf rd _ _).trans bit0,
    ((s.noteSlot fd).fillStore_bitOf rd _ _).trans bit1,
    svn, ops2.trans ops, md2.trans md⟩

theorem State.recoveryBoot_spec (fds : fd < s.boot.fds.length) (ports : fd < s.ports.length) :
    ((s.recoveryBoot fd).fd fd).recovery = true ∧ ((s.recoveryBoot fd).fd fd).stoker = false
      ∧ (s.recoveryBoot fd).bitOf (rBootStat fd) 2 = true ∧ ((s.recoveryBoot fd).port fd).cfgReady = true := by
  unfold State.recoveryBoot
  rw [State.fd_congr ((State.onPort_boot ..).trans (State.setBit_boot ..)) fd, s.fd_onFd_same _ fds]
  generalize marked : (s.onFd fd fun f => { f with recovery := true, reading := false, stoker := false, rcvBuf := Mem.empty }).setBit
    (rBootStat fd) 2 true = m
  have shown : m.bitOf (rBootStat fd) 2 = true := by rw [← marked, State.bitOf_setBit_same _ _ _ _ (by decide)]
  have there : fd < m.ports.length := by rw [← marked, State.setBit_ports]; exact ports
  refine ⟨rfl, rfl, shown, ?_⟩
  rw [m.port_onPort_same _ there]

/-! ### SLOT_VERIFIED (R607) -/

variable {s} {t slot : Nat} (dead : List Nat)

/-- A slot that verified fills the store; start-up tests run at power-on and cold reset only (R614). -/
def State.verified (s : State) (fd : Nat) (dead : List Nat) : State :=
  let u := (s.noteSlot fd).fillStore fd ((s.fd fd).flashRd (s.fd fd).slot)
  if u.boot.resetAt.isNone then dead.foldl State.failPart u else u

theorem State.verified_later (s : State) (fd : Nat) (dead : List Nat) (reset : s.boot.resetAt ≠ none) :
    s.verified fd dead = (s.noteSlot fd).fillStore fd ((s.fd fd).flashRd (s.fd fd).slot) := by
  obtain ⟨-, -, -, boot, -⟩ := s.noteSlot_spec fd
  have resetAt : (s.noteSlot fd).boot.resetAt = s.boot.resetAt := congrArg Boot.resetAt boot
  have same : ((s.noteSlot fd).fillStore fd ((s.fd fd).flashRd (s.fd fd).slot)).boot.resetAt = s.boot.resetAt := resetAt
  unfold State.verified
  dsimp only
  rw [same, if_neg (by simpa using reset)]

theorem exec_slotVerified (hfd : fd < 2) (runs : (s.arrive t).pwr.inReset = false) (reading : ((s.arrive t).fd fd).reading = true)
    (this : ((s.arrive t).fd fd).slot = slot) :
    exec (.slotVerified t fd slot dead) s = .next
      (if slotOk (((s.arrive t).fd fd).flashRd slot) ((s.arrive t).fd fd).fuseSvn then (s.arrive t).verified fd dead
      else (s.arrive t).nextSlot fd) := by
  subst this
  exact congrArg Host.Outcome.next (if_neg (by simp [hfd, runs, reading]))

end

/-! ### RECOVERY_GO (R612) -/

theorem exec_recoveryGo {s : State} {t p : Nat} {v : Word} {r : Reg}
    (front : (s.arrive t).wrFront p none offRcvCtl 15#4 = (s.arrive t, some r)) (name : r.name = .scRcvCtl)
    (go : bit v.toNat 0 = true) :
    exec (.recoveryGo t p v) s = .next
      (if slotOk ((s.arrive t).fd r.dev).rcvRd ((s.arrive t).fd r.dev).fuseSvn then
        ((s.arrive t).setBit r 2 false).fillStore r.dev ((s.arrive t).fd r.dev).rcvRd
      else (s.arrive t).setBit r 2 true) := by
  show Host.Outcome.next (match (s.arrive t).wrFront p none offRcvCtl 15#4 with
    | (s, none) => s
    | (s, some r) => _) = _
  rw [front]
  exact congrArg Host.Outcome.next (if_neg (by simp [name, go]))

/-! ### SVN_COMMIT (R611) -/

/-- The fuse SVN rises. -/
def State.raiseSvn (s : State) (r : Reg) (svn : Nat) : State :=
  ((s.onFd r.dev fun f => { f with fuseSvn := svn }).setField (rBootStat r.dev) 8 7 svn).setBit r 16 true

theorem State.raiseSvn_spec (s : State) {r : Reg} (svn : Nat) (name : r.name = .scSvnCommit) (there : r.dev < s.boot.fds.length) :
    ((s.raiseSvn r svn).fd r.dev).fuseSvn = svn ∧ (s.raiseSvn r svn).bitOf r 16 = true
      ∧ (s.raiseSvn r svn).fieldOf (rBootStat r.dev) 8 7 = svn % 128 := by
  have other : rBootStat r.dev ≠ r := fun same => by
    rw [← same] at name
    exact nomatch name
  unfold State.raiseSvn
  refine ⟨?_, State.bitOf_setBit_same _ _ _ _ (by decide), ?_⟩
  · rw [State.fd_congr ((State.setBit_boot ..).trans (State.setField_boot ..)), s.fd_onFd_same _ there]
  · exact (State.fieldOf_setField_reg _ _ _ _ _ _ _ _ other).trans (State.fieldOf_setField_same _ _ _ _ _ (by decide))

theorem exec_svnCommit {s : State} {t p : Nat} {be : BitVec 4} {v : Word} {r : Reg}
    (front : (s.arrive t).wrFront p none offSvnCommit be = (s.arrive t, some r)) (name : r.name = .scSvnCommit) :
    exec (.svnCommit t p be v) s = .next
      (let b := (s.arrive t).applyWrite p none offSvnCommit r v.toNat
      if bitf v.toNat 0 16 ≠ 0x5C1A || !(b.fd r.dev).stoker || slotSvn (b.fd r.dev).storeRd ≤ (b.fd r.dev).fuseSvn then b
      else b.raiseSvn r (slotSvn (b.fd r.dev).storeRd)) := by
  show Host.Outcome.next (match (s.arrive t).wrFront p none offSvnCommit be with
    | (s, none) => s
    | (s, some r) => _) = _
  rw [front]
  exact congrArg Host.Outcome.next (if_neg (by simp [name]))

/-! ### Flash operations (R617, 19.7) -/

/-- The start of an operation on the slot that did not boot of the die FD names. -/
def State.flashStart (b : State) (r : Reg) (op : Nat) : State :=
  (b.setBit r 4 true).onFd r.dev fun f =>
    { f with flashOp := some (op + 4 * b.fieldOf r 2 1 + 8 * (1 - b.fieldOf (rBootStat (b.fieldOf r 2 1)) 0 1)) }

theorem State.flashStart_spec (b : State) {r : Reg} (op : Nat) (there : r.dev < b.boot.fds.length) :
    (b.flashStart r op).bitOf r 4 = true ∧ ((b.flashStart r op).fd r.dev).flashOp
      = some (op + 4 * b.fieldOf r 2 1 + 8 * (1 - b.fieldOf (rBootStat (b.fieldOf r 2 1)) 0 1)) := by
  unfold State.flashStart
  rw [State.onFd_bitOf, State.fd_onFd_same _ _ (by rw [State.setBit_boot]; exact there)]
  exact ⟨State.bitOf_setBit_same _ _ _ _ (by decide), rfl⟩

/-- A flash operation starts, or is refused while one runs. -/
theorem State.flashGo_eq {a : State} {p : Nat} {be : BitVec 4} {v op : Nat} {r : Reg}
    (front : a.wrFront p none offFlashCtl be = (a, some r)) (name : r.name = .scFlashCtl) (go : bit v 3 = true)
    (this : bitf (judge r.fields (a.readReg r) v).1 0 2 = op) :
    a.flashGo p be v op = if a.bitOf r 4 then a.cfgErr none errBUSY offFlashCtl p
      else (a.applyWrite p none offFlashCtl r (putBits v 3 1 0)).flashStart r op := by
  unfold State.flashGo
  rw [front]
  exact if_neg (by simp [name, go, this])

section
variable (s : State) {fd target : Nat} (slot : Nat)

/-- What every flash operation leaves. -/
theorem State.flashAct_keeps (op : Nat) (fd target : Nat) :
    (s.flashAct fd op target slot).boot.fds.length = s.boot.fds.length ∧ (s.flashAct fd op target slot).ops = s.ops
      ∧ (s.flashAct fd op target slot).cores = s.cores := by
  unfold State.flashAct
  split
  · exact ⟨List.length_modify .., rfl, rfl⟩
  · exact ⟨List.length_modify .., rfl, rfl⟩
  · exact ⟨congrArg (fun b : Boot => b.fds.length) (State.setBit_boot ..), State.setBit_ops .., State.setBit_cores ..⟩

/-- The end of a flash operation in its register block. -/
def State.flashEnded (fd : Nat) : State :=
  ((s.onFd fd fun f => { f with flashOp := none }).setBit (rFlashCtl fd) 4 false).setBit (rFlashCtl fd) 5 true

theorem State.flashEnded_spec (there : fd < s.boot.fds.length) :
    (s.flashEnded fd).bitOf (rFlashCtl fd) 4 = false ∧ (s.flashEnded fd).bitOf (rFlashCtl fd) 5 = true
      ∧ (s.flashEnded fd).bitOf (rFlashCtl fd) 6 = s.bitOf (rFlashCtl fd) 6 ∧ ((s.flashEnded fd).fd fd).flashOp = none
      ∧ (s.flashEnded fd).ops = s.ops ∧ (s.flashEnded fd).cores = s.cores := by
  unfold State.flashEnded
  refine ⟨?_, State.bitOf_setBit_same _ _ _ _ (by decide), ?_, ?_, (State.setBit_ops ..).trans (State.setBit_ops ..),
    (State.setBit_cores ..).trans (State.setBit_cores ..)⟩
  · exact (State.bitOf_setBit_other _ _ 5 4 _ (by decide) (by decide)).trans (State.bitOf_setBit_same _ _ _ _ (by decide))
  · exact (State.bitOf_setBit_other _ _ 5 6 _ (by decide) (by decide)).trans
      (State.bitOf_setBit_other _ _ _ _ _ (by decide) (by decide))
  · rw [State.fd_congr ((State.setBit_boot ..).trans (State.setBit_boot ..)), s.fd_onFd_same _ there]

theorem State.flashEnded_flash (there : target < s.boot.fds.length) : ((s.flashEnded fd).fd target).flash = (s.fd target).flash := by
  unfold State.flashEnded
  rw [State.fd_congr ((State.setBit_boot ..).trans (State.setBit_boot ..))]
  by_cases same : target = fd
  · subst same
    rw [s.fd_onFd_same _ there]
  · rw [s.fd_onFd_other _ same]

end

theorem exec_flashDone {s : State} {t fd op target slot : Nat} (hop : op < 4) (htarget : target < 2)
    (under : ((s.arrive t).fd fd).flashOp = some (op + 4 * target + 8 * slot)) :
    exec (.flashDone t fd) s = .next (((s.arrive t).flashAct fd op target slot).flashEnded fd) := by
  have hop' : (op + 4 * target + 8 * slot) % 4 = op := by omega
  have htarget' : (op + 4 * target + 8 * slot) / 4 % 2 = target := by omega
  have hslot' : (op + 4 * target + 8 * slot) / 8 = slot := by omega
  show Host.Outcome.next (match ((s.arrive t).fd fd).flashOp with
    | none => s.arrive t
    | some x => ((s.arrive t).flashAct fd (x % 4) (x / 4 % 2) (x / 8)).flashEnded fd) = _
  rw [under]
  dsimp only
  rw [hop', htarget', hslot']

end Sys2Proof.Machine
end

section
namespace Sys2Proof.Machine

/-- Settles O49: boot takes the slot that verifies, adoption and recovery fill the store, the fuse SVN only rises, and a
flash operation acts on the slot it names. -/
theorem fabricDiesBootAndKeepFirmware : Obligations.FabricDiesBootAndKeepFirmware := by
  unfold Obligations.FabricDiesBootAndKeepFirmware
  intro s t p fd slot op target dead be v r a f rd
  refine ⟨fun hfd fds ports runs reading this => ?slot, ?compare, fun front name go there => ?recovery,
    fun front name => ?svn, fun c hc front name go this => ?flash, fun hop htarget hslot there under => ?done⟩
  case slot =>
    have run := exec_slotVerified dead hfd runs reading this
    refine ⟨fun ok reset => ?_, fun bad first => ?_, fun bad second => ?_⟩
    · have verified := a.verified_later fd dead reset
      rw [this] at verified
      rw [if_pos ok, verified] at run
      have spec := a.fillStore_noteSlot_spec rd fds ports
      rw [this] at spec
      exact ⟨_, run, spec⟩
    · rw [if_neg (by rw [bad]; decide), State.nextSlot, if_neg (by rw [first]; decide)] at run
      refine ⟨_, run, ?_, rfl⟩
      rw [a.fd_onFd_same _ fds, this]
    · rw [if_neg (by rw [bad]; decide), State.nextSlot, if_pos second] at run
      exact ⟨_, run, a.recoveryBoot_spec fds ports⟩
  case compare =>
    intro m runs ready master alive standby
    have first : ¬ ((a.pwr.inReset || a.boot.ready || !(a.fd m).stoker || !a.fdAlive (1 - m)) = true) := by
      simp [runs, ready, master, alive]
    refine ⟨fun same => ⟨_, congrArg Host.Outcome.next ((if_neg first).trans ((if_pos standby).trans (if_pos same))), rfl⟩,
      fun differ => ⟨fun ok => ?_, fun bad => ?_⟩⟩
    · exact ⟨_, congrArg Host.Outcome.next ((if_neg first).trans ((if_pos standby).trans ((if_neg differ).trans (if_pos ok)))), rfl,
        State.bitOf_setBit_same _ _ _ _ (by decide)⟩
    · exact ⟨_, congrArg Host.Outcome.next ((if_neg first).trans ((if_pos standby).trans ((if_neg differ).trans
        (if_neg (by rw [bad]; decide))))), rfl⟩
  case recovery =>
    have run := exec_recoveryGo front name go
    refine ⟨fun ok => ?_, fun bad => ?_⟩
    · rw [if_pos ok] at run
      obtain ⟨stoker, store, -, recovery, -⟩ := (a.setBit r 2 false).fillStore_spec (a.fd r.dev).rcvRd (by rw [State.setBit_boot]; exact there)
      exact ⟨_, run, stoker, recovery, store⟩
    · rw [if_neg (by rw [bad]; decide)] at run
      exact ⟨_, run, State.bitOf_setBit_same _ _ _ _ (by decide), State.setBit_boot ..⟩
  case svn =>
    intro b svn there
    refine ⟨fun key stoker rises => ⟨_, (exec_svnCommit front name).trans (congrArg Host.Outcome.next (if_neg ?_)),
      b.raiseSvn_spec svn name there⟩, fun refused => ⟨_, (exec_svnCommit front name).trans (congrArg Host.Outcome.next (if_pos ?_)), rfl⟩⟩
    · simp only [Bool.or_eq_true, decide_eq_true_eq, Bool.not_eq_true', not_or]
      exact ⟨⟨fun ne => ne key, fun off => absurd (stoker.symm.trans off) (by decide)⟩, Nat.not_le.mpr rises⟩
    · simpa only [Bool.or_eq_true, decide_eq_true_eq, Bool.not_eq_true', or_assoc] using refused
  case flash =>
    simp only [List.mem_cons, List.not_mem_nil, or_false] at hc
    rcases hc with rfl | rfl | rfl
    all_goals
      have run := State.flashGo_eq front name go this
      refine ⟨fun busy => ⟨_, rfl, run.trans (if_pos busy)⟩, fun idle => ?_⟩
      rw [if_neg (by rw [idle]; decide)] at run
      exact fun there => ⟨_, congrArg Host.Outcome.next run, State.flashStart_spec _ _ there⟩
  case done =>
    obtain ⟨length, ops, cores⟩ := a.flashAct_keeps slot op fd target
    obtain ⟨busy, ended, check, none, ops2, cores2⟩ := (a.flashAct fd op target slot).flashEnded_spec (by rw [length]; exact there)
    have flash (h : target < a.boot.fds.length) := (a.flashAct fd op target slot).flashEnded_flash (fd := fd) (by rw [length]; exact h)
    refine ⟨_, exec_flashDone hop htarget under, busy, ended, none, fun erase h => ?_, fun program h => ?_, fun checks => ?_,
      ops2.trans ops, cores2.trans cores⟩
    · subst erase
      refine (flash h).trans ?_
      show ((a.onFd target _).fd target).flash = _
      rw [a.fd_onFd_same _ h]
    · subst program
      refine (flash h).trans ?_
      show ((a.onFd target _).fd target).flash = _
      rw [a.fd_onFd_same _ h]
    · subst checks
      exact check.trans (State.bitOf_setBit_same _ _ _ _ (by decide))

end Sys2Proof.Machine
end

section
/-! PROOFS. Hits at an L2 slice (R445-R449, R465). -/

namespace Sys2Proof.Machine

/-! ### Slices as parts of the state -/

section
variable (s : State) {h g : Nat} (f : L2Slice → L2Slice)

theorem State.slice_onSlice_same (there : h < s.mem.slices.length) : (s.onSlice h f).slice h = f (s.slice h) := by
  simp [State.slice, State.onSlice, List.getD, there]

theorem State.slice_onSlice_other (ne : g ≠ h) : (s.onSlice h f).slice g = s.slice g := by
  simp [State.slice, State.onSlice, List.getD, Ne.symm ne]

theorem State.slices_onSlice : (s.onSlice h f).mem.slices.length = s.mem.slices.length := List.length_modify ..

end

/-! ### Lines -/

section
variable {l : L2Line} {r : L2Req}

/-- Every request hits a line that is valid in both sectors. -/
theorem hits_of_valid (first : l.valid.getD 0 false = true) (second : l.valid.getD 1 false = true) : hits l r = true := by
  unfold hits L2Req.sectors
  refine List.all_eq_true.mpr fun k hk => ?_
  have below : k < 2 := List.mem_range.mp (List.mem_filter.mp hk).1
  interval_cases k
  · exact first
  · exact second

theorem L2Slice.line_of_line? {sl : L2Slice} {ln : Nat} (h : sl.line? ln = some l) : l.line = ln := by
  simpa using List.find?_some h

theorem L2Slice.line?_putLine (sl : L2Slice) (l : L2Line) : (sl.putLine l).line? l.line = some l := by
  simp [L2Slice.putLine, L2Slice.line?]

/-- A line written through that was clean stays so, and no sector joins the order. -/
theorem L2Line.written_clean (thru : r.thru = true) (clean : l.dirty = [false, false]) : (l.written r).dirty = [false, false] := by
  simp [L2Line.written, thru, clean, List.range_succ]

theorem L2Slice.order_putLine_clean (sl : L2Slice) (clean : l.dirty = [false, false]) : (sl.putLine l).order = sl.order := by
  simp [L2Slice.putLine, clean, List.range_succ]

end

/-! ### A request's arrival and its answer (R446, R465) -/

section
variable (s : State) (src h : Nat)

/-- The state after a source's request took the slice's next identifier. -/
def State.numbered : State :=
  (s.keep src h (s.slice h).next).onSlice h fun sl => { sl with next := (s.slice h).next + 1 }

theorem State.numbered_slice (there : h < s.mem.slices.length) :
    (s.numbered src h).slice h = { s.slice h with next := (s.slice h).next + 1 } := State.slice_onSlice_same _ _ there

variable {s src h} {r : L2Req}

theorem State.l2Request_served {u : State} (free : ((s.slice h).waitq.any fun q => q.addr / 128 = r.addr / 128) = false)
    (noMshr : (s.slice h).mshr? (r.addr / 128) = none) (served : s.l2Serve h r = some u) : s.l2Request h r = u := by
  unfold State.l2Request
  dsimp only
  rw [if_neg (by rw [free]; decide), noMshr]
  dsimp only
  rw [served]

/-- A request that is served as it arrives. -/
theorem State.present_served {u : State} (there : h < s.mem.slices.length)
    (free : ((s.slice h).waitq.any fun q => q.addr / 128 = r.addr / 128) = false)
    (noMshr : (s.slice h).mshr? (r.addr / 128) = none)
    (served : (s.numbered r.src h).l2Serve h { r with id := (s.slice h).next } = some u) : s.present h r = u := by
  have slice := s.numbered_slice r.src h there
  refine State.l2Request_served (s := s.numbered r.src h) ?_ ?_ served
  · rw [slice]
    exact free
  · rw [slice]
    exact noMshr

theorem State.l2Serve_read {l : L2Line} (line : (s.slice h).line? (r.addr / 128) = some l) (read : r.data = none)
    (hit : hits l r = true) :
    s.l2Serve h r = some ((s.onSlice h (·.touch (r.addr / 128) l.way)).answer h r l.data) := by
  unfold State.l2Serve
  dsimp only
  rw [line, read]
  exact if_pos hit

theorem State.l2Serve_write {l : L2Line} {bs : List Byte} (line : (s.slice h).line? (r.addr / 128) = some l)
    (write : r.data = some bs) (hit : hits l r = true) :
    s.l2Serve h r = some (((if r.thru then s.thruOut h r else s).onSlice h fun sl =>
      (sl.putLine (l.written r)).touch (r.addr / 128) l.way).answer h r []) := by
  unfold State.l2Serve
  dsimp only
  rw [line, write]
  exact if_pos (by simp [hit])

theorem State.answer_read (read : r.data = none) (data : List Byte) :
    (s.answer h r data).out.head? = some (.l2Data h r.id ((data.drop (r.addr % 128)).take r.len))
      ∧ (s.answer h r data).mem = s.mem ∧ (s.answer h r data).ops = s.ops ∧ (s.answer h r data).cores = s.cores
      ∧ (s.answer h r data).fab.seqs = s.fab.seqs := by
  unfold State.answer
  rw [read]
  exact ⟨rfl, rfl, rfl, rfl, rfl⟩

theorem State.answer_write {bs : List Byte} (write : r.data = some bs) (data : List Byte) :
    (s.answer h r data).mem.slices = s.mem.slices ∧ (s.answer h r data).mem.hbm.dram = s.mem.hbm.dram
      ∧ (s.answer h r data).ops = s.ops ∧ (s.answer h r data).cores = s.cores := by
  unfold State.answer
  rw [write]
  exact ⟨rfl, rfl, rfl, rfl⟩

end

/-! ### The idle write-back (R449) -/

section
variable (s : State) (h : Nat)

theorem State.sectorOut_keeps (l : L2Line) (sec : Nat) :
    (s.sectorOut h l sec).mem.slices = s.mem.slices ∧ (s.sectorOut h l sec).ops = s.ops ∧ (s.sectorOut h l sec).cores = s.cores :=
  ⟨rfl, rfl, rfl⟩

/-- A line that is written back keeps its bytes, as every line of its slice. -/
theorem State.cleanLine_keeps (l : L2Line) (there : h < s.mem.slices.length) :
    (∀ ln x, (s.slice h).line? ln = some x → ∃ x', ((s.cleanLine h l).slice h).line? ln = some x' ∧ x'.data = x.data)
      ∧ ((s.cleanLine h l).slice h).next = (s.slice h).next ∧ (s.cleanLine h l).ops = s.ops
      ∧ (s.cleanLine h l).cores = s.cores := by
  unfold State.cleanLine
  extract_lets s1 s2
  have first : s1.mem.slices = s.mem.slices ∧ s1.ops = s.ops ∧ s1.cores = s.cores := by
    by_cases dirty : l.dirty.getD 0 false = true
    · rw [show s1 = s.sectorOut h l 0 from if_pos dirty]
      exact s.sectorOut_keeps h l 0
    · rw [show s1 = s from if_neg dirty]
      exact ⟨rfl, rfl, rfl⟩
  have second : s2.mem.slices = s1.mem.slices ∧ s2.ops = s1.ops ∧ s2.cores = s1.cores := by
    by_cases dirty : l.dirty.getD 1 false = true
    · rw [show s2 = s1.sectorOut h l 1 from if_pos dirty]
      exact s1.sectorOut_keeps h l 1
    · rw [show s2 = s1 from if_neg dirty]
      exact ⟨rfl, rfl, rfl⟩
  obtain ⟨slices1, ops1, cores1⟩ := first
  obtain ⟨slices2, ops2, cores2⟩ := second
  have slices := slices2.trans slices1
  have slice : s2.slice h = s.slice h := by rw [State.slice, State.slice, slices]
  rw [s2.slice_onSlice_same _ (by rw [slices]; exact there), slice]
  refine ⟨fun ln x found => ?_, rfl, ops2.trans ops1, cores2.trans cores1⟩
  let clean (x : L2Line) : L2Line := if x.line = l.line then { x with dirty := [false, false] } else x
  have line (x : L2Line) : (clean x).line = x.line ∧ (clean x).data = x.data := by
    by_cases same : x.line = l.line
    · simp [clean, same]
    · simp [clean, same]
  refine ⟨clean x, ?_, (line x).2⟩
  show ((s.slice h).lines.map clean).find? (·.line = ln) = _
  have same : ((fun x => Decidable.decide (x.line = ln)) ∘ clean) = fun x : L2Line => Decidable.decide (x.line = ln) :=
    funext fun y => by simp only [Function.comp_apply, (line y).1]
  rw [List.find?_map, same]
  exact congrArg (Option.map clean) found

theorem State.idleClean_keeps (there : h < s.mem.slices.length) :
    (∀ ln x, (s.slice h).line? ln = some x → ∃ x', ((s.idleClean h).slice h).line? ln = some x' ∧ x'.data = x.data)
      ∧ ((s.idleClean h).slice h).next = (s.slice h).next ∧ (s.idleClean h).ops = s.ops ∧ (s.idleClean h).cores = s.cores := by
  unfold State.idleClean
  dsimp only
  split
  · split
    · exact s.cleanLine_keeps h _ there
    · exact ⟨fun ln x found => ⟨x, found, rfl⟩, rfl, rfl, rfl⟩
  · exact ⟨fun ln x found => ⟨x, found, rfl⟩, rfl, rfl, rfl⟩

theorem State.idleClean_noOrder (none : (s.slice h).order = []) : s.idleClean h = s := if_neg (by simp [none])

end

/-! ### The commands -/

section
variable {s : State} {t src addr len cls asn : Nat}

theorem exec_l2Read_home (unmasked : (s.stamped t).maskedSrc src = false) (below : addr < devT)
    (alive : (s.stamped t).stackDead (stackOf addr) = false) :
    exec (.l2Read t src addr len cls 0 asn none false) s = .next ((s.stamped t).present (stackOf addr)
      { id := 0, src := src, level := (s.stamped t).levelOf src cls, stamp := (s.stamped t).now, addr := localOf addr,
        len := inLine addr len, data := none, thru := false }) := by
  refine congrArg Host.Outcome.next ((if_neg ?_).trans (if_neg ?_))
  · rw [unmasked]
    simpa using below
  · rw [alive]
    decide

/-- The request a write makes at its home slice. -/
def State.writeReq (a : State) (src addr cls : Nat) (bs : List Byte) : L2Req :=
  let r : L2Req := { id := 0, src := src, level := a.levelOf src cls, stamp := a.now, addr := localOf addr, len := bs.length,
                     data := some bs, thru := false }
  { r with thru := a.writeThrough (stackOf addr) src addr cls false r.sectors }

theorem exec_l2Write_home {data : List Byte} (unmasked : (s.stamped t).maskedSrc src = false) (below : addr < devT)
    (some : data ≠ []) (alive : (s.stamped t).stackDead (stackOf addr) = false) :
    exec (.l2Write t src addr cls asn data none false) s = .next (((s.stamped t).present (stackOf addr)
      ((s.stamped t).writeReq src addr cls (data.take (inLine addr data.length)))).idleClean (stackOf addr)) := by
  refine congrArg Host.Outcome.next ((if_neg ?_).trans (if_neg ?_))
  · rw [unmasked]
    simp [below, some]
  · show ¬ ((s.stamped t).stackDead (stackOf addr) = true)
    rw [alive]
    decide

end

section
variable {a : State} {h : Nat} {r : L2Req} {l : L2Line} (there : h < a.mem.slices.length)

/-- A read that hits, answered under the slice's next identifier. -/
def State.readHit (a : State) (h : Nat) (r : L2Req) (l : L2Line) : State :=
  ((a.numbered r.src h).onSlice h (·.touch (r.addr / 128) l.way)).answer h { r with id := (a.slice h).next } l.data

/-- A write that hits, before the idle write-back. -/
def State.writeHit (a : State) (h : Nat) (r : L2Req) (l : L2Line) : State :=
  let q := { r with id := (a.slice h).next }
  ((if r.thru then (a.numbered r.src h).thruOut h q else a.numbered r.src h).onSlice h fun sl =>
    (sl.putLine (l.written q)).touch (r.addr / 128) l.way).answer h q []

section
variable (free : ((a.slice h).waitq.any fun q => q.addr / 128 = r.addr / 128) = false)
  (noMshr : (a.slice h).mshr? (r.addr / 128) = none) (line : (a.slice h).line? (r.addr / 128) = some l)
  (first : l.valid.getD 0 false = true) (second : l.valid.getD 1 false = true)
include there free noMshr line first second

theorem State.present_readHit (read : r.data = none) : a.present h r = a.readHit h r l :=
  State.present_served there free noMshr (State.l2Serve_read (by rw [a.numbered_slice r.src h there]; exact line) read
    (hits_of_valid first second))

theorem State.present_writeHit {bs : List Byte} (write : r.data = some bs) : a.present h r = a.writeHit h r l :=
  State.present_served there free noMshr (State.l2Serve_write (by rw [a.numbered_slice r.src h there]; exact line) write
    (hits_of_valid first second))

end

include there in
/-- What a read hit leaves. -/
theorem State.readHit_spec (read : r.data = none) :
    let u := a.readHit h r l
    u.out.head? = some (.l2Data h (a.slice h).next ((l.data.drop (r.addr % 128)).take r.len))
      ∧ (u.slice h).next = (a.slice h).next + 1 ∧ (u.slice h).lines = (a.slice h).lines ∧ u.mem.hbm = a.mem.hbm
      ∧ u.ops = a.ops ∧ u.cores = a.cores ∧ u.fab.seqs = a.fab.seqs.set r.src ((a.fab.seqs.getD r.src 0 + 1) % 65536) := by
  intro u
  obtain ⟨out, mem, ops, cores, seqs⟩ := State.answer_read (s := (a.numbered r.src h).onSlice h (·.touch (r.addr / 128) l.way)) (h := h)
    (r := { r with id := (a.slice h).next }) read l.data
  have len : h < (a.numbered r.src h).mem.slices.length := by
    rw [State.numbered, State.slices_onSlice]
    exact there
  have memU : u.mem = ((a.numbered r.src h).onSlice h (·.touch (r.addr / 128) l.way)).mem := mem
  have slice : u.slice h = { a.slice h with next := (a.slice h).next + 1 }.touch (r.addr / 128) l.way := by
    rw [State.slice, memU, ← State.slice, State.slice_onSlice_same _ _ len, a.numbered_slice _ _ there]
  exact ⟨out, by rw [slice]; rfl, by rw [slice]; rfl, by rw [memU]; rfl, ops, cores, seqs⟩

include there in
/-- What a write hit leaves, before the idle write-back. -/
theorem State.writeHit_spec {bs : List Byte} (line : l.line = r.addr / 128) (write : r.data = some bs) :
    let u := a.writeHit h r l
    (u.slice h).line? (r.addr / 128) = some (l.written { r with id := (a.slice h).next })
      ∧ (u.slice h).next = (a.slice h).next + 1 ∧ u.mem.slices.length = a.mem.slices.length ∧ u.ops = a.ops ∧ u.cores = a.cores
      ∧ (r.thru = true → u.mem.hbm.dram = a.mem.hbm.dram.modify h fun m => m.writeBytes r.addr bs)
      ∧ (r.thru = true → l.dirty = [false, false] → (u.slice h).order = (a.slice h).order) := by
  intro u
  let w : State := if r.thru then (a.numbered r.src h).thruOut h { r with id := (a.slice h).next } else a.numbered r.src h
  have out : (a.numbered r.src h).thruOut h { r with id := (a.slice h).next } = { a.numbered r.src h with
      mem := { (a.numbered r.src h).mem with hbm := { (a.numbered r.src h).mem.hbm with
        dram := (a.numbered r.src h).mem.hbm.dram.modify h fun m => m.writeBytes r.addr bs } } } := by
    unfold State.thruOut
    rw [write]
  have kept : w.mem.slices = (a.numbered r.src h).mem.slices ∧ w.ops = a.ops ∧ w.cores = a.cores
      ∧ (r.thru = true → w.mem.hbm.dram = a.mem.hbm.dram.modify h fun m => m.writeBytes r.addr bs) := by
    by_cases thru : r.thru = true
    · rw [show w = _ from (if_pos thru).trans out]
      exact ⟨rfl, rfl, rfl, fun _ => rfl⟩
    · rw [show w = _ from if_neg thru]
      exact ⟨rfl, rfl, rfl, fun yes => absurd yes thru⟩
  obtain ⟨slicesW, opsW, coresW, dramW⟩ := kept
  obtain ⟨slices, dram, ops, cores⟩ := State.answer_write (s := w.onSlice h fun sl =>
    (sl.putLine (l.written { r with id := (a.slice h).next })).touch (r.addr / 128) l.way) (h := h)
    (r := { r with id := (a.slice h).next }) write []
  have slicesU : u.mem.slices = (w.onSlice h fun sl =>
    (sl.putLine (l.written { r with id := (a.slice h).next })).touch (r.addr / 128) l.way).mem.slices := slices
  have len : w.mem.slices.length = a.mem.slices.length := by
    rw [slicesW, State.numbered, State.slices_onSlice]
    rfl
  have slice : u.slice h = ({ a.slice h with next := (a.slice h).next + 1 }.putLine
      (l.written { r with id := (a.slice h).next })).touch (r.addr / 128) l.way := by
    have sliceW : w.slice h = { a.slice h with next := (a.slice h).next + 1 } := by
      rw [← a.numbered_slice r.src h there, State.slice, State.slice, slicesW]
    rw [State.slice, slicesU, ← State.slice, State.slice_onSlice_same _ _ (by rw [len]; exact there), sliceW]
  refine ⟨?_, by rw [slice]; rfl, by rw [slicesU, State.slices_onSlice, len], ops.trans opsW, cores.trans coresW,
    fun thru => dram.trans (dramW thru), fun thru clean => ?_⟩
  · rw [slice, ← line]
    exact L2Slice.line?_putLine _ _
  · rw [slice]
    exact L2Slice.order_putLine_clean _ (L2Line.written_clean thru clean)

end

end Sys2Proof.Machine
end

section
namespace Sys2Proof.Machine

/-- Settles O36: a request that hits is served as it arrives; the idle write-back keeps every line's bytes. -/
theorem sliceHitsServeReadsAndWrites : Obligations.SliceHitsServeReadsAndWrites := by
  unfold Obligations.SliceHitsServeReadsAndWrites
  intro s t src addr len cls asn data l a h x sl n bs sectors unmasked below alive there free noMshr line
  refine ⟨fun first second => ?_, fun first second some => ?_⟩
  · have run : exec (.l2Read t src addr len cls 0 asn none false) s = .next (a.present h
        ⟨0, src, a.levelOf src cls, a.now, x, inLine addr len, none, false⟩) := exec_l2Read_home unmasked below alive
    rw [State.present_readHit there free noMshr line first second rfl] at run
    exact ⟨_, run, State.readHit_spec there rfl⟩
  · have run : exec (.l2Write t src addr cls asn data none false) s =
        .next ((a.present h (a.writeReq src addr cls bs)).idleClean h) := exec_l2Write_home unmasked below some alive
    rw [State.present_writeHit there free noMshr line first second (bs := bs) rfl] at run
    obtain ⟨written, next, length, ops, cores, dram, order⟩ := State.writeHit_spec (bs := bs) (r := a.writeReq src addr cls bs) there
      (L2Slice.line_of_line? line) rfl
    generalize a.writeHit h (a.writeReq src addr cls bs) l = u at run written next length ops cores dram order
    obtain ⟨lines, next2, ops2, cores2⟩ := u.idleClean_keeps h (by rw [length]; exact there)
    obtain ⟨l', found, bytes⟩ := lines _ _ written
    refine ⟨_, run, ⟨l', found, bytes⟩, next2.trans next, ops2.trans ops, cores2.trans cores, fun thru none clean => ?_⟩
    rw [u.idleClean_noOrder h ((order thru clean).trans none)]
    exact dram thru

end Sys2Proof.Machine
end

section
/-! PROOFS. Links, Quinulait ports and isolated sources (R456-R480). -/

namespace Sys2Proof.Machine

/-! ### A declaration and the failed links -/

section
variable (s : State)

theorem State.event_fab (e : Event) : (s.event e).fab = s.fab := (s.event_same e).fab

theorem State.countFailure_fab (kind index : Nat) : (s.countFailure kind index).fab = s.fab :=
  (s.countFailure_around (bits := [22]) kind index List.mem_cons_self).fab

theorem State.windowsLost_fab (h : Nat) : (s.windowsLost h).fab = s.fab := by rw [s.windowsLost_onlyOut h]

theorem State.declareStackAs_fab (h reason detail : Nat) : (s.declareStackAs h reason detail).fab = s.fab := by
  unfold State.declareStackAs
  split
  · rfl
  · extract_lets s1 s2 s3
    have lost : s3.fab = s.fab := (s2.windowsLost_fab h).trans ((State.event_fab _ _).trans (State.setBit_fab ..))
    clear_value s3
    split
    · exact lost
    · exact (State.countFailure_fab ..).trans lost

theorem State.noteRole_fab (d : Nat) : (s.noteRole d).fab = s.fab := by
  unfold State.noteRole
  split
  · rw [State.setField_fab]
  · rfl

theorem State.losePort_fab (p : Nat) (counted : Bool) : (s.losePort p counted).fab = s.fab := by
  unfold State.losePort
  split
  · rfl
  · extract_lets s1 s2 s3
    have lost : s3.fab = s.fab := by
      simp only [s3, s2, s1, State.onPort_fab, State.setField_fab, State.event_fab, State.setBit_fab]
    split
    · exact (State.countFailure_fab ..).trans lost
    · exact lost

theorem State.loseQl_fab (p : Nat) (counted : Bool) : (s.loseQl p counted).fab = s.fab := by
  unfold State.loseQl
  split
  · rfl
  · extract_lets s1
    have lost : s1.fab = s.fab :=
      (State.event_fab _ _).trans ((State.setBit_fab ..).trans ((State.setBit_fab ..).trans (State.setField_fab ..)))
    split
    · exact (State.countFailure_fab ..).trans lost
    · exact lost

/-- The links that failed, which a declaration never changes. -/
def State.deadLinks (s : State) : List (Nat × Nat) := s.fab.deadLinks

theorem State.declareDie_deadLinks (d reason : Nat) : (s.declareDie d reason).deadLinks = s.deadLinks := by
  unfold State.declareDie
  split
  · rfl
  · split
    · split
      · rfl
      · exact congrArg Fabric.deadLinks ((State.declareStackAs_fab ..).trans (State.event_fab ..))
    · extract_lets s1 s2 s3
      have noted : s2.fab = s.fab := (s1.noteRole_fab d).trans ((State.event_fab _ _).trans (State.setBit_fab ..))
      have counted : s3.fab = s.fab := by
        by_cases link : s2.flt.linkDies.contains d = true
        · exact (congrArg State.fab (if_pos link : s3 = _)).trans noted
        · exact (congrArg State.fab (if_neg link : s3 = _)).trans ((State.countFailure_fab ..).trans noted)
      have dead : s3.fab.deadLinks = s.fab.deadLinks := congrArg Fabric.deadLinks counted
      split
      · exact (congrArg Fabric.deadLinks (State.setBit_fab ..)).trans dead
      · exact (congrArg Fabric.deadLinks (State.declareStackAs_fab ..)).trans dead

theorem State.declareFd_deadLinks (f reason : Nat) : (s.declareFd f reason).deadLinks = s.deadLinks := by
  unfold State.declareFd
  split
  · rfl
  · extract_lets s1 s2 s3
    have lost : s3.fab = s.fab := by
      refine (foldl_keeps State.fab (fun u i => State.loseQl_fab u (8 * f + i) false) (List.range 8) s2).trans ?_
      exact (State.losePort_fab ..).trans ((State.countFailure_fab ..).trans ((State.event_fab _ _).trans (State.setBit_fab ..)))
    have dead : s3.fab.deadLinks = s.fab.deadLinks := congrArg Fabric.deadLinks lost
    exact dead

theorem State.declarePart_deadLinks (kind index reason : Nat) : (s.declarePart kind index reason).deadLinks = s.deadLinks := by
  unfold State.declarePart
  split
  · exact s.declareDie_deadLinks index reason
  · split
    · exact congrArg Fabric.deadLinks (s.declareStackAs_fab ..)
    · exact congrArg Fabric.deadLinks (s.declareStackAs_fab ..)
  · exact s.declareFd_deadLinks index reason
  · exact congrArg Fabric.deadLinks (s.losePort_fab index true)
  · exact congrArg Fabric.deadLinks (s.loseQl_fab index true)
  · rfl

theorem State.declareOrWait_deadLinks (kind index reason : Nat) : (s.declareOrWait kind index reason).deadLinks = s.deadLinks := by
  unfold State.declareOrWait
  split
  · exact s.declarePart_deadLinks kind index reason
  · split
    · rfl
    · rfl

theorem State.countLink_deadLinks (l : Nat × Nat) : (s.countLink l).deadLinks = s.deadLinks := by
  unfold State.countLink
  extract_lets d
  split
  · rfl
  · exact congrArg Fabric.deadLinks (State.countFailure_fab ..)

/-- Of the links named, those that carry traffic and have not failed yet. -/
def State.newDead (s : State) (ls : List (Nat × Nat)) : List (Nat × Nat) :=
  (ls.filter fun l => links.contains l && !s.fab.deadLinks.contains l).eraseDups

/-- Exactly the links that newly fail join the failed ones; with none nothing changes. -/
theorem State.failLinks_spec (ls : List (Nat × Nat)) :
    (s.failLinks ls).fab.deadLinks = s.fab.deadLinks ++ s.newDead ls ∧ (s.newDead ls = [] → s.failLinks ls = s) := by
  unfold State.failLinks
  extract_lets new fab s1 s2 standby s3 s4
  have same : s.newDead ls = new := rfl
  rw [same]
  have joined : s1.deadLinks = s.fab.deadLinks ++ new := rfl
  have cut : s2.deadLinks = s1.deadLinks := by
    refine foldl_keeps State.deadLinks (fun u d => ?_) (List.range 9) s1
    split
    · exact u.declareOrWait_deadLinks 2 d 1
    · rfl
  clear_value s2
  have spare : s3.deadLinks = s2.deadLinks := by
    by_cases out : (s2.fdAlive standby && s2.cutOff (9 + standby)) = true
    · rw [show s3 = _ from if_pos out]
      exact s2.declareOrWait_deadLinks 4 standby 3
    · rw [show s3 = _ from if_neg out]
  clear_value s3
  have counted : s4.deadLinks = s3.deadLinks := foldl_keeps State.deadLinks State.countLink_deadLinks new s3
  clear_value s4
  split
  · next none =>
    have none : new = [] := by simpa using none
    rw [none, List.append_nil]
    exact ⟨rfl, fun _ => rfl⟩
  · next some =>
    refine ⟨?_, fun none => absurd (by rw [none]; rfl) some⟩
    refine (foldl_keeps State.deadLinks (fun u l => ?_) new s4).trans (counted.trans (spare.trans (cut.trans joined)))
    split
    · rfl
    · exact u.declareOrWait_deadLinks 2 (linkDie l) 1

end

/-! ### ROUTE_CHANGE (R466) -/

/-- Dies that withhold their vote are all that changed. -/
def OnlyDies (s t : State) : Prop := ∃ f, t = { s with frames := f }

theorem OnlyDies.refl (s : State) : OnlyDies s s := ⟨s.frames, rfl⟩

theorem OnlyDies.trans {s t u : State} (h : OnlyDies s t) (g : OnlyDies t u) : OnlyDies s u := by
  obtain ⟨f, rfl⟩ := h
  obtain ⟨f', rfl⟩ := g
  exact ⟨f', rfl⟩

theorem OnlyDies.withhold (s : State) (d : Nat) : OnlyDies s (s.withhold d) := ⟨_, rfl⟩

theorem OnlyDies.foldl {α : Type} {f : State → α → State} (step : ∀ s x, OnlyDies s (f s x)) (l : List α) (s : State) :
    OnlyDies s (l.foldl f s) := by
  induction l generalizing s with
  | nil => exact .refl s
  | cons x l ih => exact (step s x).trans (ih (f s x))

/-- The state after a route change, before any die withholds. -/
def State.rerouted (a : State) : State :=
  let kept := a.fab.kept.map fun m => if a.routeOk m.path then m else { m with path := a.route (srcDie m.src) m.slice }
  { a.sayAll ((a.fab.kept.filter fun m => !a.routeOk m.path).map fun m => .resend m.src m.seq) with
    fab := { a.fab with changed := false, kept := kept } }

theorem exec_routeChange {s : State} {t : Nat} (ats sets : List Nat) (changed : (s.stamped t).fab.changed = true) :
    ∃ f, exec (.routeChange t ats sets) s = .next { (s.stamped t).rerouted with frames := f } := by
  have held : OnlyDies (s.stamped t).rerouted
      (sets.foldl (fun acc n => (acc.setDies n).foldl State.withhold acc)
        (ats.foldl (fun acc src => if srcDie src < 9 then acc.withhold (srcDie src) else acc) (s.stamped t).rerouted)) := by
    refine OnlyDies.trans (OnlyDies.foldl (fun u src => ?_) ats _)
      (OnlyDies.foldl (fun u n => OnlyDies.foldl OnlyDies.withhold (u.setDies n) u) sets _)
    split
    · exact .withhold u _
    · exact .refl u
  obtain ⟨f, held⟩ := held
  refine ⟨f, ?_⟩
  rw [← held]
  exact congrArg Host.Outcome.next (if_neg (by rw [changed]; decide))

/-! ### ISOLATION and AGE_LIMIT (R476, R480) -/

theorem State.slice_mapped (s : State) {f : L2Slice → L2Slice} (reset : f L2Slice.reset = L2Slice.reset) (h : Nat) :
    ({ s with mem := { s.mem with slices := s.mem.slices.map f } } : State).slice h = f (s.slice h) := by
  unfold State.slice
  rw [List.getD_eq_getElem?_getD, List.getD_eq_getElem?_getD, List.getElem?_map]
  cases s.mem.slices[h]? with
  | none => exact reset.symm
  | some x => rfl

/-- What a slice keeps of its requests once sources are masked. -/
def L2Slice.quiet (mask : Nat) (sl : L2Slice) : L2Slice :=
  { sl with
    waitq := sl.waitq.filter fun r => !bit mask r.src,
    mshrs := sl.mshrs.map fun m => { m with reqs := m.reqs.filter fun r => !bit mask r.src || r.data.isSome } }

/-- The state after sources are masked. -/
def State.isolated (a : State) (mask : Nat) : State :=
  let s := a.setPair .arIso 0 0 mask
  { s with mem := { s.mem with slices := s.mem.slices.map (L2Slice.quiet mask) },
           fab := { s.fab with kept := s.fab.kept.filter fun m => !bit mask m.src } }

theorem State.isolated_spec (a : State) {mask : Nat} (fits : mask < 2 ^ 64) :
    let u := a.isolated mask
    u.pairOf .arIso = mask ∧ u.fab = { a.fab with kept := a.fab.kept.filter fun m => !bit mask m.src }
      ∧ (∀ h, (u.slice h).waitq = (a.slice h).waitq.filter (fun r => !bit mask r.src) ∧ (u.slice h).lines = (a.slice h).lines)
      ∧ u.mem.hbm = a.mem.hbm ∧ u.cores = a.cores ∧ u.ops = a.ops := by
  refine ⟨(a.pairOf_setPair .arIso 0 0 mask).trans (Nat.mod_eq_of_lt fits), rfl, fun h => ?_, rfl, rfl, rfl⟩
  have slice : (a.isolated mask).slice h = L2Slice.quiet mask (a.slice h) := a.slice_mapped (by rfl) h
  rw [slice]
  exact ⟨rfl, rfl⟩

/-! ### Quinulait ports (R467, R468, R471) -/

section
variable (s : State) {p : Nat}

theorem qlStatReg_ne_ftQlfail (p : Nat) : qlStatReg p ≠ rFtQlfail := fun same => nomatch congrArg Reg.name same

theorem State.qlPort_onQl (f : QlPort → QlPort) (d : QlPort) (there : p < s.fab.ports.length) :
    (s.onQl p f).fab.ports.getD p d = f (s.fab.ports.getD p d) := by
  simp [State.onQl, List.getD, there]

theorem State.onQl_reg (p : Nat) (f : QlPort → QlPort) (r : Reg) : (s.onQl p f).reg r = s.reg r := rfl

/-- QL_STAT of a port that trained: up, its generation, full width. -/
def State.upAs (s : State) (p : Nat) (gen3 : Bool) : State :=
  ((s.setField (qlStatReg p) 0 2 2).setBit (qlStatReg p) 2 gen3).setBit (qlStatReg p) 3 false

theorem State.upAs_spec (p : Nat) (gen3 : Bool) :
    (s.upAs p gen3).fieldOf (qlStatReg p) 0 2 = 2 ∧ (s.upAs p gen3).bitOf (qlStatReg p) 2 = gen3
      ∧ (s.upAs p gen3).bitOf (qlStatReg p) 3 = false ∧ ∀ r, r ≠ qlStatReg p → (s.upAs p gen3).reg r = s.reg r := by
  unfold State.upAs
  refine ⟨?_, ?_, ?_, fun r ne => ?_⟩
  · rw [State.setBit, State.fieldOf_setField_other _ _ _ _ _ _ _ (by decide) (.inl (by decide)), State.setBit,
      State.fieldOf_setField_other _ _ _ _ _ _ _ (by decide) (.inl (by decide)), State.fieldOf_setField_same _ _ _ _ _ (by decide)]
    rfl
  · rw [State.bitOf_setBit_other _ _ _ _ _ (by decide) (by decide), State.bitOf_setBit_same _ _ _ _ (by decide)]
  · rw [State.bitOf_setBit_same _ _ _ _ (by decide)]
  · rw [State.reg_setBit_other _ _ _ _ _ ne, State.reg_setBit_other _ _ _ _ _ ne, State.reg_setField_other _ _ _ _ _ _ ne]

/-- A port that trained shows its generation and full width, and is lost no longer. -/
def State.trainedAs (s : State) (p : Nat) (gen3 : Bool) : State :=
  ((s.upAs p gen3).setBit rFtQlfail p false).onQl p fun q => { q with downAt := none, fails := 0 }

theorem State.trainedAs_spec (gen3 : Bool) (hp : p < 16) :
    let u := s.trainedAs p gen3
    u.fieldOf (qlStatReg p) 0 2 = 2 ∧ u.bitOf (qlStatReg p) 2 = gen3 ∧ u.bitOf (qlStatReg p) 3 = false
      ∧ u.bitOf rFtQlfail p = false ∧ ∀ r, r ≠ qlStatReg p → r ≠ rFtQlfail → u.reg r = s.reg r := by
  obtain ⟨up, gen, wide, others⟩ := s.upAs_spec p gen3
  have reg (r : Reg) (ne : r ≠ rFtQlfail) : (s.trainedAs p gen3).reg r = (s.upAs p gen3).reg r :=
    (State.onQl_reg ..).trans (State.reg_setBit_other _ _ _ _ _ ne)
  have stat := reg (qlStatReg p) (qlStatReg_ne_ftQlfail p)
  refine ⟨(congrArg (bitf · 0 2) stat).trans up, (congrArg (bit · 2) stat).trans gen, (congrArg (bit · 3) stat).trans wide,
    ?_, fun r ne ne' => (reg r ne').trans (others r ne)⟩
  rw [State.bitOf, State.trainedAs, State.onQl_reg]
  exact State.bitOf_setBit_same _ _ _ _ (by omega)

/-- A port that degrades shows it and is counted. -/
theorem State.degraded_spec (up : s.fieldOf (qlStatReg p) 0 2 = 2) :
    let u := ((s.setBit (qlStatReg p) 3 true).bump (qlStatReg p) 8 8).event { code := 0x11, kind := 6, index := p }
    u.bitOf (qlStatReg p) 3 = true ∧ u.fieldOf (qlStatReg p) 0 2 = 2
      ∧ u.fieldOf (qlStatReg p) 8 8 = min 255 (s.fieldOf (qlStatReg p) 8 8 + 1) ∧ u.fab = s.fab ∧ u.cores = s.cores ∧ u.ops = s.ops := by
  have told := State.event_same ((s.setBit (qlStatReg p) 3 true).bump (qlStatReg p) 8 8) { code := 0x11, kind := 6, index := p }
  have count : (s.setBit (qlStatReg p) 3 true).fieldOf (qlStatReg p) 8 8 = s.fieldOf (qlStatReg p) 8 8 :=
    s.fieldOf_setField_other _ _ _ _ _ _ (by decide) (.inr (by decide))
  refine ⟨(told.bitOf (qlStatReg p) 3 nofun nofun).trans ?_, (told.fieldOf (qlStatReg p) 0 2 nofun nofun).trans ?_,
    (told.fieldOf (qlStatReg p) 8 8 nofun nofun).trans ?_, told.fab, told.cores, told.ops⟩
  · exact (State.bitOf_setField_other _ _ _ _ _ _ (by decide) (.inl (by decide))).trans (s.bitOf_setBit_same _ _ _ (by decide))
  · exact (State.fieldOf_setField_other _ _ _ _ _ _ _ (by decide) (.inl (by decide))).trans
      ((s.fieldOf_setField_other _ _ _ _ _ _ (by decide) (.inl (by decide))).trans up)
  · rw [State.bump, State.fieldOf_setField_same _ _ _ _ _ (by decide), count]
    omega

/-- A retraining is counted. -/
def State.retrained (s : State) (p : Nat) : State :=
  if s.fieldOf (qlStatReg p) 0 2 ≠ 0 then s.bump (qlStatReg p) 8 8 else s

theorem State.retrained_keeps (p : Nat) : (s.retrained p).fab = s.fab ∧ ∀ r, r ≠ qlStatReg p → (s.retrained p).reg r = s.reg r := by
  unfold State.retrained
  split
  · exact ⟨State.setField_fab .., fun r hr => s.reg_setField_other _ r _ _ _ hr⟩
  · exact ⟨rfl, fun _ _ => rfl⟩

variable {s} {t : Nat} (g2 g3 : Bool)

/-- The outcome of a port's training that both ends may run. -/
theorem exec_qlPortTrained (hp : p < 16) (on : (s.stamped t).bitOf (qlCfgReg p) 0 = true) (alive : (s.stamped t).fdAlive (p / 8) = true) :
    exec (.qlPortTrained t p g2 g3) s = .next
      (let a := s.stamped t
      let b := a.retrained p
      let gen3 := g3 && b.bitOf (qlCfgReg p) 1
      if gen3 || g2 then b.trainedAs p gen3
      else
        let fails := (b.fab.ports.getD p { downAt := none, fails := 0, cur := p }).fails
          + (if a.fieldOf (qlStatReg p) 0 2 ≠ 0 then 1 else 0)
        let c := b.onQl p fun q => { q with fails := fails }
        if 3 ≤ fails then c.declareOrWait 6 p 0 else c.setField (qlStatReg p) 0 2 1) :=
  congrArg Host.Outcome.next (if_neg (by simp [hp, on, alive]))

end

end Sys2Proof.Machine
end

section
namespace Sys2Proof.Machine

/-- Settles O38: failed links and masked sources by the operation each command runs, ports by the fields of QL_STAT. -/
theorem linksPortsAndSourcesFailOrAreIsolated : Obligations.LinksPortsAndSourcesFailOrAreIsolated := by
  unfold Obligations.LinksPortsAndSourcesFailOrAreIsolated
  refine ⟨fun s t x y lo hi slice id ls ws ats sets => ?sources, fun s t p g2 g3 hp => ?ports⟩
  case sources =>
    intro a late named fresh fail mask
    refine ⟨⟨_, rfl, a.failLinks_spec named⟩, ⟨_, rfl, a.failLinks_spec late⟩, fun carries alive => ⟨fun half => ?_, fun whole => ?_⟩,
      fun changed => ?_, fun same => ⟨_, congrArg Host.Outcome.next (if_pos (by rw [same]; decide)), rfl⟩, fun fits => ?_, fun there => ?_⟩
    · have first : ¬ ((!links.contains (linkOf x y) || a.fab.deadLinks.contains (linkOf x y)) = true) := by simp [carries, alive]
      exact ⟨_, congrArg Host.Outcome.next ((if_neg first).trans (if_pos (List.contains_iff_mem.mpr half))), a.failLinks_spec [linkOf x y]⟩
    · have first : ¬ ((!links.contains (linkOf x y) || a.fab.deadLinks.contains (linkOf x y)) = true) := by simp [carries, alive]
      have told := State.event_same { a with fab := { a.fab with halfLinks := linkOf x y :: a.fab.halfLinks } }
        { code := 0x10, kind := 7, detail := (linkOf x y).1 + 256 * (linkOf x y).2 }
      exact ⟨_, congrArg Host.Outcome.next ((if_neg first).trans (if_neg fun half => whole (List.contains_iff_mem.mp half))), told.fab, told.cores, told.mem,
        told.ops, told.flt, told.regs⟩
    · obtain ⟨f, run⟩ := exec_routeChange ats sets changed
      exact ⟨_, run, rfl, rfl, rfl, rfl, rfl, rfl, rfl, rfl⟩
    · have small : lo % 2 ^ 32 + hi % 2 ^ 32 * 2 ^ 32 < 2 ^ 64 := by omega
      exact ⟨_, rfl, a.isolated_spec (Nat.or_lt_two_pow fits small)⟩
    · refine ⟨_, rfl, ?_, fun h ne => a.slice_onSlice_other _ ne, rfl, rfl, rfl⟩
      rw [a.slice_onSlice_same _ there]
      refine List.map_congr_left fun r _ => ?_
      simp only [Bool.and_eq_true, decide_eq_true_eq, and_assoc]
      rfl
  case ports =>
    intro a st g q
    refine ⟨fun on alive there => ?trained, fun up => ?degraded, fun up due => ?lost⟩
    case trained =>
      obtain ⟨fab, regs⟩ := a.retrained_keeps p
      have cfg : (a.retrained p).bitOf (qlCfgReg p) 1 = a.bitOf (qlCfgReg p) 1 :=
        congrArg (bit · 1) (regs (qlCfgReg p) fun same => nomatch congrArg Reg.name same)
      have run := exec_qlPortTrained (t := t) g2 g3 hp on alive
      dsimp only at run
      rw [cfg, fab] at run
      refine ⟨fun trains => ?_, fun fails down few => ?_, fun fails again many => ?_⟩
      · rw [if_pos trains] at run
        obtain ⟨state, gen, wide, found, others⟩ := (a.retrained p).trainedAs_spec g hp
        refine ⟨_, run, state, gen, wide, found, fun r ne ne' => (others r ne ne').trans (regs r ne), ?_⟩
        refine (State.qlPort_onQl _ _ _ ?_).trans ?_
        · rw [State.setBit_fab, State.upAs, State.setBit_fab, State.setBit_fab, State.setField_fab, fab]
          exact there
        · rw [State.setBit_fab, State.upAs, State.setBit_fab, State.setBit_fab, State.setField_fab, fab]
      · have first : a.retrained p = a := if_neg (not_not.mpr down)
        rw [if_neg (by rw [fails]; decide), if_neg (not_not.mpr down), if_neg (show ¬ 3 ≤ q.fails + 0 from Nat.not_le.mpr few), first] at run
        refine ⟨_, run, State.fieldOf_setField_same _ _ _ _ _ (by decide), ?_, fun r ne => State.reg_setField_other _ _ _ _ _ _ ne⟩
        rw [State.setField_fab, a.qlPort_onQl _ _ there]
        rfl
      · have counted : a.retrained p = a.bump st 8 8 := if_pos again
        rw [if_neg (by rw [fails]; decide), if_pos again, if_pos (show 3 ≤ q.fails + 1 from Nat.succ_le_succ many), counted] at run
        exact ⟨_, run, rfl⟩
    case degraded =>
      refine ⟨_, congrArg Host.Outcome.next (if_neg ?_), ?_⟩
      · simpa [hp] using up
      · exact a.degraded_spec up
    case lost =>
      refine ⟨_, congrArg Host.Outcome.next (if_neg ?_), rfl⟩
      have late : (match q.downAt with
          | some d => decide (d + 1000000 + 32 ≤ t)
          | none => true) = true := by
        cases down : q.downAt with
        | none => rfl
        | some d => exact decide_eq_true (due d down)
      simp only [Bool.or_eq_true, decide_eq_true_eq, Bool.not_eq_true', not_or]
      exact ⟨⟨by omega, up⟩, fun early => absurd (late.symm.trans early) (by decide)⟩

end Sys2Proof.Machine
end

section
/-! PROOFS. Windows, immediate atomics and locks of the pool (R493-R508). -/

namespace Sys2Proof.Machine

/-! ### Reads and writes of windows (R493-R495) -/

section
variable {s : State} {t p init win off len lock : Nat} {b data : List Byte}

/-- Where byte i of a window read stands: in the frame its page map entry names. -/
def State.windowPhys (a : State) (b : List Byte) (off i : Nat) : Nat :=
  expBase b + off + i + (if (windowPlace b).versioned && (a.pageEntry ((expBase b + off + i) / 65536)).cur then expSize b else 0)

theorem State.windowPhys_eq (a : State) (b : List Byte) (off i : Nat) : a.windowPhys b off i = expBase b + off + i
    + (if expKind b = 0 ∧ (a.pageEntry ((expBase b + off + i) / 65536)).cur = true then expSize b else 0) := by
  simp [State.windowPhys, windowPlace]

/-- The answer of a read that fits and has its right. -/
def State.readWindow (a : State) (b : List Byte) (p init win off len : Nat) : State :=
  let bytes := (List.range len).map fun i => (a.serve (expMirror b) (a.windowPhys b off i)).map a.devByte
  if bytes.any (·.isNone) then a.freeRefusal.1.say (.ql p 0x02 [init, win, off, a.freeRefusal.2] [])
  else a.say (.ql p 0x02 [init, win, off, stOK] (bytes.map fun x => x.getD 0))

theorem exec_rd (window : (s.stamped t).window win = some b) :
    exec (.rd t p init win off len) s = .next
      (if len = 0 || 512 < len || len % 64 ≠ 0 || expSize b < off + len then
        (s.stamped t).say (.ql p 0x02 [init, win, off, stRANGE] [])
      else if !remoteRight b init 17 then (s.stamped t).say (.ql p 0x02 [init, win, off, stRIGHTS] [])
      else (s.stamped t).readWindow b p init win off len) := by
  change execRd t p init win off len s = _
  unfold execRd
  dsimp only
  rw [window]
  rfl

/-- A read all of whose bytes are served answers them in one message. -/
theorem State.readWindow_served (a : State) (served : ∀ i, i < len → (a.serve (expMirror b) (a.windowPhys b off i)).isSome = true) :
    a.readWindow b p init win off len = a.say (.ql p 0x02 [init, win, off, stOK]
      ((List.range len).map fun i => a.devByte ((a.serve (expMirror b) (a.windowPhys b off i)).getD 0))) := by
  unfold State.readWindow
  dsimp only
  rw [if_neg ?_, List.map_map]
  · refine congrArg (fun bs => a.say (.ql p 0x02 [init, win, off, stOK] bs)) (List.map_congr_left fun i hi => ?_)
    obtain ⟨x, found⟩ := Option.isSome_iff_exists.mp (served i (List.mem_range.mp hi))
    simp [found]
  · simp only [List.any_map, List.any_eq_true, List.mem_range, Function.comp_apply, Option.isNone_map, not_exists, not_and]
    exact fun i hi lost => Option.isSome_iff_ne_none.mp (served i hi) (Option.isNone_iff_eq_none.mp lost)

/-- The answer of a direct write that fits and has its right and token. -/
def State.writeWindow (a : State) (b : List Byte) (p init win off : Nat) (data : List Byte) : State :=
  match a.writeRange (expMirror b) (expBase b + off) data with
  | some v => v.say (.ql p 0x06 [init, win, stOK] [])
  | none => a.freeRefusal.1.say (.ql p 0x06 [init, win, a.freeRefusal.2] [])

theorem State.writeWindow_stored {a v : State} (stored : a.writeRange (expMirror b) (expBase b + off) data = some v) :
    a.writeWindow b p init win off data = v.say (.ql p 0x06 [init, win, stOK] []) := by
  unfold State.writeWindow
  rw [stored]

theorem exec_wr (window : (s.stamped t).window win = some b) :
    exec (.wr t p init win off lock data) s = .next
      (if expKind b ≠ 1 then (s.stamped t).say (.ql p 0x06 [init, win, stKIND] [])
      else if expSize b < off + data.length then (s.stamped t).say (.ql p 0x06 [init, win, stRANGE] [])
      else if !remoteRight b init 18 then (s.stamped t).say (.ql p 0x06 [init, win, stRIGHTS] [])
      else if !(s.stamped t).lockOk win b lock then (s.stamped t).say (.ql p 0x06 [init, win, stFENCED] [])
      else (s.stamped t).writeWindow b p init win off data) := by
  change execWr t p init win off lock data s = _
  unfold execWr
  dsimp only
  rw [window]
  rfl

end

/-! ### Answers to a remote read (R493, R496) -/

/-- Data that covers a range reads back as itself. -/
theorem Rd.bytes_getD {lo n : Nat} {data : List Byte} (covers : data.length = n) :
    Rd.bytes (fun i => data.getD (i - lo) 0) lo n = data := by
  subst covers
  refine List.ext_getElem (by simp [Rd.bytes]) fun i hi hi' => ?_
  simp [Rd.bytes, hi']

end Sys2Proof.Machine
end

section
namespace Sys2Proof.Machine

/-- Settles O39: each refusal is the first branch that applies; a read's bytes are those its frames serve. -/
theorem windowsAreReadAndWritten : Obligations.WindowsAreReadAndWritten := by
  unfold Obligations.WindowsAreReadAndWritten
  intro s t p init win off len lock core eng id status data a answer wrote
  refine ⟨fun none => ⟨⟨_, ?_, rfl⟩, ⟨_, ?_, rfl⟩⟩, fun b window => ⟨fun bad => ?_, fun some most whole fits => ⟨fun denied => ?_, ?read⟩,
    fun kind => ?_, fun kind => ⟨fun out => ?_, fun fits => ⟨fun denied => ?_, fun right => ⟨fun fenced => ?_, fun free v stored => ?_⟩⟩⟩⟩,
    ?answer⟩
  · change execRd t p init win off len s = _
    unfold execRd
    dsimp only
    rw [none]
  · change execWr t p init win off lock data s = _
    unfold execWr
    dsimp only
    rw [none]
  · refine ⟨_, (exec_rd window).trans (congrArg Host.Outcome.next (if_pos ?_)), rfl⟩
    simpa [or_assoc] using bad
  · refine ⟨_, (exec_rd window).trans (congrArg Host.Outcome.next ((if_neg ?_).trans (if_pos ?_))), rfl⟩
    · simp only [Bool.or_eq_true, decide_eq_true_eq]
      omega
    · rw [denied]
      rfl
  case read =>
    intro right phys served
    have same : a.windowPhys b off = phys := funext fun i => a.windowPhys_eq b off i
    refine ⟨_, (exec_rd window).trans (congrArg Host.Outcome.next ((if_neg ?_).trans ((if_neg ?_).trans (a.readWindow_served ?_)))), ?_⟩
    · simp only [Bool.or_eq_true, decide_eq_true_eq]
      omega
    · rw [right]
      decide
    · rw [same]
      exact served
    · rw [same]
  · exact ⟨_, (exec_wr window).trans (congrArg Host.Outcome.next (if_pos kind)), rfl⟩
  · exact ⟨_, (exec_wr window).trans (congrArg Host.Outcome.next ((if_neg (not_not.mpr kind)).trans (if_pos out))), rfl⟩
  · exact ⟨_, (exec_wr window).trans (congrArg Host.Outcome.next ((if_neg (not_not.mpr kind)).trans
      ((if_neg (Nat.not_lt.mpr fits)).trans (if_pos (by rw [denied]; rfl))))), rfl⟩
  · exact ⟨_, (exec_wr window).trans (congrArg Host.Outcome.next ((if_neg (not_not.mpr kind)).trans
      ((if_neg (Nat.not_lt.mpr fits)).trans ((if_neg (by rw [right]; decide)).trans (if_pos (by rw [fenced]; rfl)))))), rfl⟩
  · exact ⟨_, (exec_wr window).trans (congrArg Host.Outcome.next ((if_neg (not_not.mpr kind)).trans
      ((if_neg (Nat.not_lt.mpr fits)).trans ((if_neg (by rw [right]; decide)).trans (if_neg (by rw [free]; decide)))))),
      State.writeWindow_stored stored⟩
  case answer =>
    intro y xfer kind op awaits covers ok
    refine ⟨_, rfl, ?_⟩
    show State.remoteData a core eng id status data = _
    unfold State.remoteData
    dsimp only
    rw [xfer]
    dsimp only
    rw [if_neg (by simp [kind, op, awaits]), ok]
    simp only [op, if_true, Rd.bytes_getD covers]

end Sys2Proof.Machine
end

section
/-! PROOFS. Immediate atomics and leased locks of the pool (R505-R508). -/

namespace Sys2Proof.Machine

/-! ### Atomics (R505, 15.9) -/

section
variable {a : State} {who : Asker} {op win off x y lock n : Nat} {b : List Byte} {g : Nat → Nat}

/-- A guarded window's token, which a mailbox needs not (R508). -/
def State.mayLock (a : State) (who : Asker) (win : Nat) (b : List Byte) (lock : Nat) : Bool :=
  match who with | .remote _ _ => a.lockOk win b lock | .mailbox _ => true

/-- An atomic on a window: refused with the first status that applies, else it reads, writes through and returns. -/
theorem State.atomicOp_eq (window : a.window win = some b) (known : atomic op x y = some (n, g)) :
    a.atomicOp who op win off x y lock =
      if expKind b ≠ 1 then (a, stKIND, 0)
      else if off % n ≠ 0 || expSize b < off + n then (a, stRANGE, 0)
      else if !who.may b then (a, stRIGHTS, 0)
      else if !a.mayLock who win b lock then (a, stFENCED, 0)
      else if a.windowLost b (expBase b + off) n then (a.freeRefusal.1, a.freeRefusal.2, 0)
      else
        let old := leNat ((a.readRange (expMirror b) false (expBase b + off) n).getD [])
        ((a.writeRange (expMirror b) (expBase b + off) (leBytes n (g old))).getD a, stOK, old) := by
  unfold State.atomicOp
  rw [window, known]
  rfl

theorem State.atomicOp_noWindow (none : a.window win = none) : a.atomicOp who op win off x y lock = (a, stRANGE, 0) := by
  unfold State.atomicOp
  rw [none]

/-- Where no byte of a range is lost, a write reaches it. -/
theorem State.writeRange_isSome {addr : Nat} {bs : List Byte} (held : a.windowLost b addr bs.length = false) :
    ∃ v, a.writeRange (expMirror b) addr bs = some v := by
  unfold State.writeRange
  cases mirror : expMirror b with
  | true => exact ⟨_, rfl⟩
  | false =>
    refine ⟨_, (if_neg (by decide)).trans (if_neg ?_)⟩
    simp only [State.windowLost, mirror, State.serve, List.any_eq_false, List.mem_range] at held
    simp only [List.any_eq_true, List.mem_range, not_exists, not_and]
    intro i hi dead
    simpa [dead] using held i hi

end

section
variable {s : State} {op p init win off x y lock : Nat}

/-- An atomic of a Quinulait port answers with the status and the old value. -/
def State.atomicAnswer (p init win : Nat) (r : State × Nat × Nat) : State := r.1.say (.ql p 0x08 [init, win, r.2.1, r.2.2] [])

theorem State.mailboxGo_goes {port o : Nat} {vf : Option Nat} {be : BitVec 4} {v : Word} {r : Reg}
    (front : s.wrFront port vf o be = (s, some r)) (name : r.name = .amCmd) (go : bit v.toNat 12 = true)
    (this : bitf (judge r.fields (s.readReg r) v.toNat).1 0 4 = op) :
    s.mailboxGo op (port, vf, o, be, v) =
      (let b := s.applyWrite port vf o r (putBits v.toNat 12 1 0)
      (b, some (r.dev, b.fieldOf r 4 8, b.pairOf .amOff r.dev, b.pairOf .amA r.dev, b.pairOf .amB r.dev))) := by
  unfold State.mailboxGo
  dsimp only
  rw [front]
  exact if_neg (by simp [name, go, this])

/-- A mailbox write runs the operation its page, window and operands name, and shows its result. -/
theorem State.atomicCmd_mailbox {port o : Nat} {vf : Option Nat} {be : BitVec 4} {v : Word} {r : Reg}
    (front : s.wrFront port vf o be = (s, some r)) (name : r.name = .amCmd) (go : bit v.toNat 12 = true)
    (this : bitf (judge r.fields (s.readReg r) v.toNat).1 0 4 = op) :
    s.atomicCmd op (some (port, vf, o, be, v)) p init win off x y lock =
      (let b := s.applyWrite port vf o r (putBits v.toNat 12 1 0)
      let z := b.atomicOp (.mailbox r.dev) op (b.fieldOf r 4 8) (b.pairOf .amOff r.dev) (b.pairOf .amA r.dev) (b.pairOf .amB r.dev) 0
      z.1.mailboxDone r.dev z.2.1 z.2.2) := by
  unfold State.atomicCmd
  dsimp only
  rw [State.mailboxGo_goes front name go this]

end

/-- A command that is atomic `op`, whose word has n bytes and whose new value is g of the old one. -/
def IsAtomic (s : State) (t p init win off x y lock : Nat) (c : Instr) (op n : Nat) (g : Nat → Nat) : Prop :=
  atomic op x y = some (n, g)
    ∧ exec c s = .next (.atomicAnswer p init win ((s.stamped t).atomicOp (.remote p init) op win off x y lock))

/-- What an atomic of a Quinulait port does in each case. -/
theorem IsAtomic.spec {s : State} {t p init win off x y lock : Nat} {c : Instr} {op n : Nat} {g : Nat → Nat}
    (h : IsAtomic s t p init win off x y lock c op n g) :
    let a := s.stamped t
    let answer := fun (st old : Nat) (v : State) => v.say (.ql p 0x08 [init, win, st, old] [])
    (a.window win = none → Does c s (· = answer stRANGE 0 a))
      ∧ ∀ b, a.window win = some b →
        (expKind b ≠ 1 → Does c s (· = answer stKIND 0 a))
        ∧ (expKind b = 1 →
          ((off % n ≠ 0 ∨ expSize b < off + n) → Does c s (· = answer stRANGE 0 a))
          ∧ (off % n = 0 → off + n ≤ expSize b →
            (remoteRight b init 19 = false → Does c s (· = answer stRIGHTS 0 a))
            ∧ (remoteRight b init 19 = true →
              (a.lockOk win b lock = false → Does c s (· = answer stFENCED 0 a))
              ∧ (a.lockOk win b lock = true → a.windowLost b (expBase b + off) n = false →
                let old := leNat ((a.readRange (expMirror b) false (expBase b + off) n).getD [])
                ∃ v, a.writeRange (expMirror b) (expBase b + off) (leBytes n (g old)) = some v ∧ Does c s (· = answer stOK old v))))) := by
  obtain ⟨known, run⟩ := h
  intro a answer
  have does {r : State × Nat × Nat} (same : a.atomicOp (.remote p init) op win off x y lock = r) :
      Does c s (· = .atomicAnswer p init win r) := ⟨_, run, congrArg _ same⟩
  refine ⟨fun none => does (State.atomicOp_noWindow none), fun b window => ?_⟩
  have eq := State.atomicOp_eq (who := .remote p init) (off := off) (lock := lock) window known
  refine ⟨fun kind => does (eq.trans (if_pos kind)), fun kind => ?_⟩
  rw [if_neg (not_not.mpr kind)] at eq
  refine ⟨fun bad => does (eq.trans (if_pos (by simpa using bad))), fun aligned fits => ?_⟩
  rw [if_neg (by simp only [Bool.or_eq_true, decide_eq_true_eq]; omega)] at eq
  refine ⟨fun denied => does (eq.trans (if_pos (by rw [Asker.may, denied]; rfl))), fun right => ?_⟩
  rw [if_neg (by rw [Asker.may, right]; decide)] at eq
  refine ⟨fun fenced => does (eq.trans (if_pos (by rw [State.mayLock, fenced]; rfl))), fun free held => ?_⟩
  rw [if_neg (by rw [State.mayLock, free]; decide), if_neg (by rw [held]; decide)] at eq
  intro old
  obtain ⟨v, stored⟩ := State.writeRange_isSome (a := a) (b := b) (addr := expBase b + off) (bs := leBytes n (g old))
    (by rw [length_leBytes]; exact held)
  refine ⟨v, stored, ?_⟩
  have done := does eq
  dsimp only at done
  rwa [show leNat ((a.readRange (expMirror b) false (expBase b + off) n).getD []) = old from rfl, stored] at done

/-! ### Locks (R507, R508) -/

section
variable (a : State) {win : Nat}

theorem State.lock_win (win : Nat) : (a.lock win).win = win := by
  unfold State.lock
  cases found : a.pool.locks.find? (·.win = win) with
  | none => rfl
  | some l => simpa using List.find?_some found

theorem State.lockNow_win (win : Nat) : (a.lockNow win).win = win := by
  unfold State.lockNow
  dsimp only
  split
  · exact a.lock_win win
  · exact a.lock_win win

theorem State.lock_putLock_same {l : Lock} (this : l.win = win) : (a.putLock l).lock win = l := by
  simp [State.putLock, State.lock, this]

theorem State.lock_putLock_other {l : Lock} {w : Nat} (ne : w ≠ l.win) : (a.putLock l).lock w = a.lock w := by
  unfold State.putLock State.lock
  dsimp only
  rw [List.find?_cons_of_neg (by simpa using Ne.symm ne), List.find?_filter]
  refine congrArg (Option.getD · _) (congrArg (fun q => List.find? q a.pool.locks) (funext fun l' => ?_))
  by_cases same : l'.win = w
  · simp [same, ne]
  · simp [same]

/-- A lock that was given shows to its window, and to no other. -/
theorem State.putLock_spec {l : Lock} (this : l.win = win) :
    (a.putLock l).lock win = l ∧ (∀ w, w ≠ win → (a.putLock l).lock w = a.lock w) ∧ (a.putLock l).mem = a.mem
      ∧ (a.putLock l).pool.scopes = a.pool.scopes ∧ (a.putLock l).regs = a.regs :=
  ⟨a.lock_putLock_same this, fun _ ne => a.lock_putLock_other (by rw [this]; exact ne), rfl, rfl, rfl⟩

/-- The answer of a lock request of a Quinulait port. -/
def State.lockAnswer (p init win : Nat) (r : State × Nat × Lock) : State :=
  r.1.say (.ql p 0x0A [init, win, r.2.1, r.2.2.token, r.2.2.leaseEnd, r.2.2.owner] [])

variable {a} {who : Asker} {op tok n : Nat} {b : List Byte}

theorem State.lockOp_noWindow (none : a.window win = none) : a.lockOp who op win tok n = (a, stRANGE, a.lockNow win) := by
  unfold State.lockOp
  dsimp only
  rw [none]

theorem State.lockOp_denied (window : a.window win = some b) (denied : who.may b = false) :
    a.lockOp who op win tok n = (a, stRIGHTS, a.lockNow win) := by
  unfold State.lockOp
  dsimp only
  rw [window]
  exact if_pos (by rw [denied]; rfl)

/-- A request that has its right and a frame count within bounds. -/
theorem State.lockOp_eq (window : a.window win = some b) (right : who.may b = true) (counts : op = 3 ∨ (0 < n ∧ n ≤ 65535)) :
    a.lockOp who op win tok n =
      let l := a.lockNow win
      if op = 1 then
        if l.held then (a, stBUSY, l)
        else
          let l' := { l with held := true, owner := who.owner, token := (l.token + 1) % 2 ^ 48, leaseEnd := a.frames.frn + n - 1 }
          (a.putLock l', stOK, l')
      else if !(l.held && tok = l.token) then (a, stSTALE, l)
      else
        let l' := if op = 2 then { l with leaseEnd := max l.leaseEnd (a.frames.frn + n - 1) } else { l with held := false }
        (a.putLock l', stOK, l') := by
  unfold State.lockOp
  dsimp only
  rw [window]
  dsimp only
  rw [if_neg (by rw [right]; decide), if_neg]
  · split
    · rfl
    · split
      · rfl
      · split
        · rfl
        · rfl
  · simp only [Bool.and_eq_true, Bool.or_eq_true, decide_eq_true_eq]
    omega

theorem State.lockOp_free (window : a.window win = some b) (right : who.may b = true) (some : 0 < n) (most : n ≤ 65535)
    (free : (a.lockNow win).held = false) :
    let l' := { a.lockNow win with
      held := true, owner := who.owner, token := ((a.lockNow win).token + 1) % 2 ^ 48, leaseEnd := a.frames.frn + n - 1 }
    a.lockOp who 1 win tok n = (a.putLock l', stOK, l') := by
  rw [State.lockOp_eq window right (.inr ⟨some, most⟩)]
  dsimp only
  rw [if_pos rfl, if_neg (by rw [free]; decide)]

theorem State.lockOp_busy (window : a.window win = some b) (right : who.may b = true) (some : 0 < n) (most : n ≤ 65535)
    (held : (a.lockNow win).held = true) : a.lockOp who 1 win tok n = (a, stBUSY, a.lockNow win) := by
  rw [State.lockOp_eq window right (.inr ⟨some, most⟩)]
  dsimp only
  rw [if_pos rfl, if_pos held]

/-- Its holder renews or releases a lock. -/
theorem State.lockOp_holder (window : a.window win = some b) (right : who.may b = true) (counts : op = 3 ∨ (0 < n ∧ n ≤ 65535))
    (given : op ≠ 1) (held : (a.lockNow win).held = true) (mine : tok = (a.lockNow win).token) :
    let l' := if op = 2 then { a.lockNow win with leaseEnd := max (a.lockNow win).leaseEnd (a.frames.frn + n - 1) }
      else { a.lockNow win with held := false }
    a.lockOp who op win tok n = (a.putLock l', stOK, l') := by
  rw [State.lockOp_eq window right counts]
  dsimp only
  rw [if_neg given, if_neg (by rw [held, mine]; simp)]

theorem State.lockOp_stale (window : a.window win = some b) (right : who.may b = true) (counts : op = 3 ∨ (0 < n ∧ n ≤ 65535))
    (given : op ≠ 1) (other : (a.lockNow win).held = false ∨ tok ≠ (a.lockNow win).token) :
    a.lockOp who op win tok n = (a, stSTALE, a.lockNow win) := by
  rw [State.lockOp_eq window right counts]
  dsimp only
  rw [if_neg given, if_pos]
  rcases other with free | ne
  · rw [free]
    rfl
  · rw [decide_eq_false ne, Bool.and_false]
    rfl

end

end Sys2Proof.Machine
end

section
namespace Sys2Proof.Machine

/-- Settles O40: the four atomics are one operation, whose refusals and effect are its branches. -/
theorem atomicsActAtOnce : Obligations.AtomicsActAtOnce := by
  unfold Obligations.AtomicsActAtOnce
  intro s t p init win off x y lock a all answer
  refine ⟨fun c hc => ?port, fun port o op vf be v r front name go this => ?mailbox⟩
  case port =>
    simp only [all, List.mem_cons, List.not_mem_nil, or_false] at hc
    rcases hc with rfl | rfl | rfl | rfl
    · exact IsAtomic.spec (op := 1) (y := y) ⟨rfl, rfl⟩
    · exact IsAtomic.spec (op := 2) (y := 0) ⟨rfl, rfl⟩
    · exact IsAtomic.spec (op := 3) (y := 0) ⟨rfl, rfl⟩
    · exact IsAtomic.spec (op := 4) (y := 0) ⟨rfl, rfl⟩
  case mailbox =>
    intro b z via
    have run (first second win' off' lock' : Nat) :
        a.atomicCmd op via p init win' off' first second lock' = z.1.mailboxDone r.dev z.2.1 z.2.2 :=
      State.atomicCmd_mailbox front name go this
    refine ⟨fun is => ⟨_, rfl, ?_⟩, fun is => ⟨_, rfl, ?_⟩, fun is => ⟨_, rfl, ?_⟩, fun is => ⟨_, rfl, ?_⟩⟩
    all_goals
      rw [← is]
      exact run ..

/-- Settles O41: a lock request answers the lock it leaves; a lease ends keeping the token. -/
theorem poolLocksAreLeased : Obligations.PoolLocksAreLeased := by
  unfold Obligations.PoolLocksAreLeased
  intro s t p init win tok n a l answer gives
  have lacq : exec (.lacq t none p init win n) s = .next (.lockAnswer p init win (a.lockOp (.remote p init) 1 win 0 n)) := rfl
  have lren : exec (.lren t none p init win tok n) s = .next (.lockAnswer p init win (a.lockOp (.remote p init) 2 win tok n)) := rfl
  have lrel : exec (.lrel t none p init win tok) s = .next (.lockAnswer p init win (a.lockOp (.remote p init) 3 win tok 1)) := rfl
  have tells {c : Instr} {r : State × Nat × Lock} {st : Nat} (run : exec c s = .next (.lockAnswer p init win r))
      (same : r = (a, st, l)) : Does c s (· = answer st l a) := ⟨_, run, congrArg _ same⟩
  have granted {c : Instr} {r : State × Nat × Lock} {l' : Lock} (run : exec c s = .next (.lockAnswer p init win r))
      (this : l'.win = win) (same : r = (a.putLock l', stOK, l')) : gives c l' := by
    obtain ⟨shows, others, mem, scopes, regs⟩ := a.putLock_spec this
    subst same
    exact ⟨_, run, shows, rfl, others, mem, scopes, regs⟩
  have own : l.win = win := a.lockNow_win win
  refine ⟨fun c hc => ⟨fun none => ?range, fun b window denied => ?rights⟩, fun b window right => ⟨fun some most => ?counted, ?release⟩,
    fun held past => ?lease⟩
  case range =>
    simp only [List.mem_cons, List.not_mem_nil, or_false] at hc
    rcases hc with rfl | rfl | rfl
    · exact tells lacq (State.lockOp_noWindow none)
    · exact tells lren (State.lockOp_noWindow none)
    · exact tells lrel (State.lockOp_noWindow none)
  case rights =>
    simp only [List.mem_cons, List.not_mem_nil, or_false] at hc
    rcases hc with rfl | rfl | rfl
    · exact tells lacq (State.lockOp_denied window denied)
    · exact tells lren (State.lockOp_denied window denied)
    · exact tells lrel (State.lockOp_denied window denied)
  case counted =>
    exact ⟨fun free => granted lacq own (State.lockOp_free window right some most free),
      fun held => tells lacq (State.lockOp_busy window right some most held),
      fun held mine => granted lren own (State.lockOp_holder window right (.inr ⟨some, most⟩) (by decide) held mine),
      fun other => tells lren (State.lockOp_stale window right (.inr ⟨some, most⟩) (by decide) other)⟩
  case release =>
    exact ⟨fun held mine => granted lrel own (State.lockOp_holder window right (.inl rfl) (by decide) held mine),
      fun other => tells lrel (State.lockOp_stale window right (.inl rfl) (by decide) other)⟩
  case lease =>
    refine ⟨_, congrArg Host.Outcome.next (if_pos ?_), ?_⟩
    · simp only [Bool.and_eq_true, Bool.or_eq_true, decide_eq_true_eq]
      exact ⟨held, past⟩
    · obtain ⟨shows, others, mem, scopes, regs⟩ := a.putLock_spec (l := { a.lock win with held := false }) (a.lock_win win)
      exact ⟨shows, others, scopes, mem, regs⟩

end Sys2Proof.Machine
end

section
/-! PROOFS. Staged writes and delta messages of remote scopes (R498-R503). -/

namespace Sys2Proof.Machine

section
variable {s : State} {t p init win off frn asn att tok lock : Nat} {b data : List Byte}

/-! ### Attempts and refusals (R498) -/

theorem State.oldAttempt_of_newer {x : Scope} (found : s.scope? win init asn = some x) (older : att < x.attempt) :
    s.oldAttempt win init asn att = true := by
  unfold State.oldAttempt
  rw [found]
  exact decide_eq_true older

theorem State.oldAttempt_of_all (newest : ∀ x, s.scope? win init asn = some x → x.attempt ≤ att) :
    s.oldAttempt win init asn att = false := by
  unfold State.oldAttempt
  cases found : s.scope? win init asn with
  | none => rfl
  | some x => exact decide_eq_false (Nat.not_lt.mpr (newest x found))

/-- Another owner has staged a page that a staged write reaches. -/
def State.swrConflict (a : State) (b : List Byte) (win init asn off n : Nat) : Bool :=
  let own := match a.scope? win init asn with | some x => scopeOwner x.num | none => 0
  (pagesOf (windowPlace b) off n).any fun g => (a.pageEntry g).stg && (a.pageEntry g).owner != own

/-- The first status that applies to a staged write. -/
def State.swrRefusal (a : State) (b : List Byte) (win init off asn att tok lock : Nat) (data : List Byte) : Nat :=
  a.stagedRefusal win b init asn att tok lock 18 (data.isEmpty || expSize b < off + data.length)
    (a.swrConflict b win init asn off data.length)

/-- The first status that applies to a delta message. -/
def State.saccRefusal (a : State) (b : List Byte) (win init asn att tok lock : Nat) : Nat :=
  a.stagedRefusal win b init asn att tok lock 19 false false

/-! ### SWR (R498, R499) -/

/-- The answer to a staged write. -/
def State.tellSwr (v : State) (p init win asn frn st : Nat) : State := v.say (.ql p 0x06 [init, win, asn, frn, st] [])

/-- The answer to a delta message. -/
def State.tellSacc (v : State) (p init win asn st : Nat) : State := v.say (.ql p 0x06 [init, win, asn, st] [])

theorem exec_swr (window : ((s.stamped t).seeToken init tok).window win = some b) :
    exec (.swr t p init win off frn asn att tok lock data) s = .next
      (let a := (s.stamped t).seeToken init tok
      if !a.overQl3 p || expKind b ≠ 0 then a.tellSwr p init win asn frn stKIND
      else if a.oldAttempt win init asn att then a
      else if a.swrRefusal b win init off asn att tok lock data ≠ stOK then
        (a.refuseScope win init asn (a.swrRefusal b win init off asn att tok lock data)).tellSwr p init win asn frn
          (a.swrRefusal b win init off asn att tok lock data)
      else match a.scopeFor win init asn att with
        | (v, none) => v.tellSwr p init win asn frn stFULL
        | (v, some x) =>
          match v.stageAll x.num (windowPlace b) (data.length / 65536 + 2) off data with
          | some w => (w.putScope (x.took lock (pagesOf (windowPlace b) off data.length) [])).tellSwr p init win asn frn stOK
          | none =>
            let r := (v.putScope x).freeRefusal
            (r.1.refuseScope win init asn r.2).tellSwr p init win asn frn r.2) := by
  change execSwr t p init win off frn asn att tok lock data s = _
  unfold execSwr
  dsimp only
  rw [window]
  rfl

/-! ### SACC (R502, R503) -/

theorem exec_sacc (window : ((s.stamped t).seeToken init tok).window win = some b) :
    exec (.sacc t p init win asn att tok lock data) s = .next
      (let a := (s.stamped t).seeToken init tok
      if !a.overQl3 p || expKind b ≠ 2 then a.tellSacc p init win asn stKIND
      else if a.oldAttempt win init asn att then a
      else if a.saccRefusal b win init asn att tok lock ≠ stOK then
        (a.refuseScope win init asn (a.saccRefusal b win init asn att tok lock)).tellSacc p init win asn
          (a.saccRefusal b win init asn att tok lock)
      else match a.scopeFor win init asn att with
        | (v, none) => v.tellSacc p init win asn stFULL
        | (v, some x) =>
          if saccStatus (expSize b) (v.stageRoom win b) data ≠ stOK then
            ((v.putScope x).refuseScope win init asn (saccStatus (expSize b) (v.stageRoom win b) data)).tellSacc p init win asn
              (saccStatus (expSize b) (v.stageRoom win b) data)
          else (v.putScope (x.took lock [] (deltasOf data))).tellSacc p init win asn stOK) := by
  change execSacc t p init win asn att tok lock data s = _
  unfold execSacc
  dsimp only
  rw [window]
  rfl

end

theorem State.mem_putScope (s : State) (x : Scope) : x ∈ (s.putScope x).pool.scopes := List.mem_cons_self

end Sys2Proof.Machine
end

section
namespace Sys2Proof.Machine

/-- Settles O42: each message is refused by the first branch that applies, or joins the scope its attempt names. -/
theorem stagedWritesJoinTheirScope : Obligations.StagedWritesJoinTheirScope := by
  unfold Obligations.StagedWritesJoinTheirScope
  intro s t p init win off frn asn att tok lock data a swr sacc tellW tellA
  refine ⟨fun none => ⟨⟨_, ?_, rfl⟩, ⟨_, ?_, rfl⟩⟩, fun b window => ?_⟩
  · change execSwr t p init win off frn asn att tok lock data s = _
    unfold execSwr
    dsimp only
    rw [none]
  · change execSacc t p init win asn att tok lock data s = _
    unfold execSacc
    dsimp only
    rw [none]
  intro own closed pages conflict first stW stA
  have runW : exec swr s = _ := exec_swr window
  have runA : exec sacc s = _ := exec_sacc window
  have statusW : a.swrRefusal b win init off asn att tok lock data = stW := rfl
  have statusA : a.saccRefusal b win init asn att tok lock = stA := rfl
  dsimp only at runW runA
  rw [statusW] at runW
  rw [statusA] at runA
  clear_value stW stA
  refine ⟨fun bad => ?_, fun bad => ?_, fun ql3 => ⟨fun newer => ?old, fun newest => ?current⟩⟩
  · exact ⟨_, runW.trans (congrArg Host.Outcome.next (if_pos (by simpa [State.overQl3] using bad))), rfl⟩
  · exact ⟨_, runA.trans (congrArg Host.Outcome.next (if_pos (by simpa [State.overQl3] using bad))), rfl⟩
  case old =>
    obtain ⟨x, found, older⟩ := newer
    have old := State.oldAttempt_of_newer found older
    refine ⟨fun kind => ⟨_, runW.trans (congrArg Host.Outcome.next ((if_neg ?_).trans (if_pos old))), rfl⟩,
      fun kind => ⟨_, runA.trans (congrArg Host.Outcome.next ((if_neg ?_).trans (if_pos old))), rfl⟩⟩
    · simpa [State.overQl3, kind] using ql3
    · simpa [State.overQl3, kind] using ql3
  case current =>
    have current := State.oldAttempt_of_all newest
    have toW (kind : expKind b = 0) : ¬ ((!a.overQl3 p || decide (expKind b ≠ 0)) = true) := by
      simpa [State.overQl3, kind] using ql3
    have toA (kind : expKind b = 2) : ¬ ((!a.overQl3 p || decide (expKind b ≠ 2)) = true) := by
      simpa [State.overQl3, kind] using ql3
    refine ⟨fun kind refused => ?_, fun kind refused => ?_, fun v x scope => ⟨fun kind ok w staged => ?_, fun kind ok => ?_⟩⟩
    · rw [if_neg (toW kind), if_neg (by rw [current]; decide), if_pos refused] at runW
      exact ⟨_, runW, rfl⟩
    · rw [if_neg (toA kind), if_neg (by rw [current]; decide), if_pos refused] at runA
      exact ⟨_, runA, rfl⟩
    · rw [if_neg (toW kind), if_neg (by rw [current]; decide), if_neg (not_not.mpr ok), scope] at runW
      dsimp only at runW
      rw [staged] at runW
      exact ⟨_, runW, rfl, w.mem_putScope _, rfl⟩
    · rw [if_neg (toA kind), if_neg (by rw [current]; decide), if_neg (not_not.mpr ok), scope] at runA
      dsimp only at runA
      intro st
      refine ⟨fun fits => ?_, fun refused => ?_⟩
      · rw [if_neg (not_not.mpr fits)] at runA
        exact ⟨_, runA, rfl, v.mem_putScope _, rfl⟩
      · rw [if_pos refused] at runA
        exact ⟨_, runA, rfl⟩

end Sys2Proof.Machine
end

section
/-! PROOFS. Remote scopes: votes, decisions, fences and the hold limit (R499, R501). -/

namespace Sys2Proof.Machine

/-! ### Tokens (R499) -/

section
variable (s : State) (init tok : Nat)

theorem State.topToken_seeToken_same : (s.seeToken init tok).topToken init = max tok (s.topToken init) := by
  simp [State.topToken, State.seeToken]

/-- Dropping the entries of another key does not change a lookup. -/
theorem lookup_filter_ne {i init : Nat} (ne : i ≠ init) (l : List (Nat × Nat)) : (l.filter (·.1 != init)).lookup i = l.lookup i := by
  induction l with
  | nil => rfl
  | cons x l ih =>
    obtain ⟨j, v⟩ := x
    by_cases drop : j = init
    · subst drop
      rw [List.filter_cons_of_neg (by simp), ih, List.lookup_cons, beq_false_of_ne ne]
    · rw [List.filter_cons_of_pos (by simpa using drop), List.lookup_cons, List.lookup_cons, ih]

theorem State.topToken_seeToken_other {i : Nat} (ne : i ≠ init) : (s.seeToken init tok).topToken i = s.topToken i := by
  unfold State.topToken State.seeToken
  dsimp only
  rw [List.lookup_cons, beq_false_of_ne ne]
  exact congrArg (Option.getD · 0) (lookup_filter_ne ne _)

end

/-! ### PREP (R499, R508) -/

section
variable {s : State} {win init asn n : Nat} {x : Scope} {b : List Byte}

theorem State.key_of_scope? (found : s.scope? win init asn = some x) : x.win = win ∧ x.init = init ∧ x.asn = asn := by
  simpa [and_assoc] using List.find?_some found

theorem State.scope?_putScope (x : Scope) : (s.putScope x).scope? x.win x.init x.asn = some x := by
  simp [State.scope?, State.putScope]

/-- The vote of a scope that still receives, its guard in order. -/
theorem State.scopeVote_receiving (window : s.window x.win = some b) (receiving : x.state = .receiving)
    (tokens : ∀ k ∈ x.lockTok, s.lockOk x.win b k = true) (held : expGuard b = true → (s.lockNow x.win).held = true) :
    s.scopeVote x n = if x.refused ≠ 0 then (.votedNo, x.refused) else if x.count ≠ n then (.votedNo, stOK) else (.votedYes, stOK) := by
  have guard : (x.lockTok.all (s.lockOk x.win b) && (!expGuard b || (s.lockNow x.win).held)) = true := by
    rw [Bool.and_eq_true, List.all_eq_true, Bool.or_eq_true, Bool.not_eq_true']
    refine ⟨tokens, ?_⟩
    cases guarded : expGuard b with
    | false => exact .inl rfl
    | true => exact .inr (held guarded)
  unfold State.scopeVote
  dsimp only
  rw [window]
  dsimp only
  simp only [guard, receiving]
  simp

/-- The state after PREP of a window, once its scopes were voted on. -/
def State.prepDone (p init win frn sub : Nat) (r : State × Bool × Nat) : State :=
  let rest := r.1.pool.yes.filter (· != (win, init, frn, sub))
  { r.1 with pool := { r.1.pool with yes := if r.2.1 then (win, init, frn, sub) :: rest else rest } }.say
    (.ql p 0x11 [init, win, frn, sub, (if r.2.1 then 1 else 0), r.2.2] [])

theorem exec_prep_one {t p frn sub tok : Nat} (known : (s.stamped t).topToken init ≤ tok)
    (ql3 : (s.stamped t).overQl3 p = true) (found : (s.stamped t).scope? win init asn = some x) {v : ScopeState × Nat}
    (vote : ((s.stamped t).seeToken init tok).scopeVote x n = v) :
    exec (.prep t p init win frn sub tok [(asn, n)]) s = .next (.prepDone p init win frn sub
      (((s.stamped t).seeToken init tok).putScope { x with state := v.1, frn := frn, sub := sub, since := (s.stamped t).frames.frn },
        decide (v.1 = .votedYes), v.2)) := by
  have one : ((s.stamped t).seeToken init tok).prepOne win init frn sub (asn, n) =
      (((s.stamped t).seeToken init tok).putScope { x with state := v.1, frn := frn, sub := sub, since := (s.stamped t).frames.frn },
        decide (v.1 = .votedYes), v.2) := by
    have found' : ((s.stamped t).seeToken init tok).scope? win init asn = some x := found
    unfold State.prepOne
    dsimp only
    rw [found']
    dsimp only
    rw [vote]
    rfl
  change execPrep t p init win frn sub tok [(asn, n)] s = _
  unfold execPrep
  dsimp only
  rw [if_neg (Nat.not_lt.mpr known), if_neg (by rw [ql3]; decide), List.foldl_cons, List.foldl_nil, one]
  rfl

/-- What a vote on a scope leaves: its YES is kept until the decision. -/
theorem State.prepDone_spec {a : State} {p frn sub : Nat} {y : Scope} (key : y.win = win ∧ y.init = init ∧ y.asn = asn) (st : Nat) (yes : Bool) :
    let u := State.prepDone p init win frn sub (a.putScope y, yes, st)
    u.scope? win init asn = some y ∧ ((win, init, frn, sub) ∈ u.pool.yes ↔ yes = true)
      ∧ u.out.head? = some (.ql p 0x11 [init, win, frn, sub, (if yes then 1 else 0), st] []) ∧ u.mem = a.mem := by
  obtain ⟨rfl, rfl, rfl⟩ := key
  refine ⟨a.scope?_putScope y, ?_, rfl, rfl⟩
  unfold State.prepDone
  cases yes with
  | false => simp
  | true => simp

/-- PREP for one scope: its vote, kept with it and answered. -/
theorem exec_prep_voted {t p frn sub tok : Nat} (known : (s.stamped t).topToken init ≤ tok)
    (ql3 : (s.stamped t).overQl3 p = true) (found : (s.stamped t).scope? win init asn = some x) {v : ScopeState × Nat}
    (vote : ((s.stamped t).seeToken init tok).scopeVote x n = v) :
    Does (.prep t p init win frn sub tok [(asn, n)]) s fun u =>
      u.scope? win init asn = some { x with state := v.1, frn := frn, sub := sub, since := (s.stamped t).frames.frn }
        ∧ ((win, init, frn, sub) ∈ u.pool.yes ↔ v.1 = .votedYes)
        ∧ u.out.head? = some (.ql p 0x11 [init, win, frn, sub, (if decide (v.1 = .votedYes) then 1 else 0), v.2] [])
        ∧ u.mem = (s.stamped t).mem := by
  have key := State.key_of_scope? found
  obtain ⟨scope, yes, out, mem⟩ := State.prepDone_spec (a := (s.stamped t).seeToken init tok) (p := p) (frn := frn) (sub := sub)
    (y := { x with state := v.1, frn := frn, sub := sub, since := (s.stamped t).frames.frn }) key v.2
    (decide (v.1 = .votedYes))
  exact ⟨_, exec_prep_one known ql3 found vote, scope, yes.trans decide_eq_true_iff, out, mem⟩

end

/-! ### Scopes that are freed (R499) -/

section
variable (s : State)

theorem State.settlePages_onlyWrites (owner : Nat) (commit : Bool) (pages : List Nat) : OnlyWrites s (s.settlePages owner commit pages) :=
  OnlyWrites.foldl (fun u i => .ite (u.setPageEntry_onlyWrites i _) (.refl u)) pages s

theorem State.applyDeltas_onlyWrites (win : Nat) (ds : List Delta) : OnlyWrites s (s.applyDeltas win ds) := by
  unfold State.applyDeltas
  split
  · refine OnlyWrites.foldl (fun u d => ?_) ds s
    unfold State.applyDelta
    dsimp only
    generalize written : u.writeRange _ _ _ = w
    cases w with
    | none => exact .refl u
    | some v => exact State.writeRange_onlyWrites written
  · exact .refl s

theorem OnlyWrites.pool {s t : State} (h : OnlyWrites s t) : t.pool = s.pool := by rw [h]

/-- A step that frees one scope's place of the table. -/
def Frees (f : State → Scope → State) : Prop := ∀ s x, (f s x).pool.scopes = s.pool.scopes.filter (·.num != x.num)

theorem State.freeScope_frees : Frees State.freeScope := fun s x => by
  have pool := (s.settlePages_onlyWrites (scopeOwner x.num) false x.pages).pool
  exact congrArg (List.filter fun y : Scope => y.num != x.num) (congrArg Pool.scopes pool)

theorem State.finishCommit_frees (port : Nat) : Frees fun s x => s.finishCommit x port := fun s x => by
  have pool := ((s.settlePages_onlyWrites (scopeOwner x.num) true x.pages).trans
    (State.applyDeltas_onlyWrites _ x.win x.deltas)).pool
  exact congrArg (List.filter fun y : Scope => y.num != x.num) (congrArg Pool.scopes pool)

/-- A table after several of its scopes are freed. -/
theorem Frees.mem_foldl {f : State → Scope → State} (h : Frees f) (l : List Scope) (s : State) (y : Scope) :
    y ∈ (l.foldl f s).pool.scopes ↔ y ∈ s.pool.scopes ∧ ∀ z ∈ l, y.num ≠ z.num := by
  induction l generalizing s with
  | nil => simp
  | cons x l ih => simp [ih, h s x, and_assoc]

/-- Scopes that begin to commit change only their own places. -/
theorem State.mem_beginCommits (l : List Scope) {y : Scope} (other : ∀ z ∈ l, y.num ≠ z.num) :
    y ∈ (l.foldl State.beginCommit s).pool.scopes ↔ y ∈ s.pool.scopes := by
  induction l generalizing s with
  | nil => rfl
  | cons x l ih =>
    have ne : y.num ≠ x.num := other x List.mem_cons_self
    have differs : y ≠ { x with state := .committing } := fun same => ne (by rw [same])
    rw [List.foldl_cons, ih _ fun z hz => other z (List.mem_cons_of_mem _ hz)]
    simp [State.beginCommit, State.putScope, differs, ne]

/-- The state after a decision: the aborted scopes are freed, those due are applied and freed. -/
def State.settledScopes (s : State) (dead due : List Scope) (port : Nat) : State :=
  due.foldl (fun acc x => acc.finishCommit x port) (due.foldl State.beginCommit (dead.foldl State.freeScope s))

theorem State.mem_settledScopes (dead due : List Scope) (port : Nat) (y : Scope) :
    y ∈ (s.settledScopes dead due port).pool.scopes ↔ y ∈ s.pool.scopes ∧ ∀ z ∈ due ++ dead, y.num ≠ z.num := by
  unfold State.settledScopes
  rw [(State.finishCommit_frees port).mem_foldl]
  constructor
  · rintro ⟨kept, applied⟩
    rw [State.mem_beginCommits _ _ applied, State.freeScope_frees.mem_foldl] at kept
    obtain ⟨there, freed⟩ := kept
    exact ⟨there, fun z hz => (List.mem_append.mp hz).elim (applied z) (freed z)⟩
  · rintro ⟨there, other⟩
    have applied (z : Scope) (hz : z ∈ due) : y.num ≠ z.num := other z (List.mem_append_left _ hz)
    refine ⟨?_, applied⟩
    rw [State.mem_beginCommits _ _ applied, State.freeScope_frees.mem_foldl]
    exact ⟨there, fun z hz => other z (List.mem_append_right _ hz)⟩

end

/-! ### COMMIT and ABORT (R499) -/

/-- The scopes of a sharer in a window. -/
def State.scopesOf (a : State) (win init : Nat) : List Scope := a.pool.scopes.filter fun x => x.win = win && x.init = init

/-- Those a decision frees without applying them. -/
def deadScopes (mine : List Scope) (asns : List Nat) : List Scope :=
  mine.filter fun x => asns.contains x.asn && x.state != .committing

/-- Those a decision applies. -/
def dueScopes (mine : List Scope) (frn sub : Nat) (asns : List Nat) : List Scope :=
  mine.filter fun x => x.frn = frn && x.sub = sub && x.state = .votedYes && !asns.contains x.asn

/-- A decision point's YES is no longer kept. -/
def State.dropYes (s : State) (here : Nat × Nat × Nat × Nat) : State :=
  { s with pool := { s.pool with yes := s.pool.yes.filter (· != here) } }

theorem State.not_mem_dropYes (s : State) (here : Nat × Nat × Nat × Nat) : here ∉ (s.dropYes here).pool.yes := by
  simp [State.dropYes]

section
variable {s : State} {t p init win frn sub tok : Nat} {asns : List Nat} (known : (s.stamped t).topToken init ≤ tok)
  (ql3 : (s.stamped t).overQl3 p = true)
include known ql3

theorem exec_commit :
    exec (.commit t p init win frn sub tok asns) s = .next
      (let a := s.stamped t
      let dead := deadScopes (a.scopesOf win init) asns
      let due := dueScopes (a.scopesOf win init) frn sub asns
      let u := (a.seeToken init tok).settledScopes dead due p
      if due.isEmpty && dead.isEmpty then
        let v := (u.dropYes (win, init, frn, sub)).say (.ql p 0x14 [init, win, frn, sub, 1] [])
        if u.pool.yes.contains (win, init, frn, sub) then v.sendLate win else v
      else (u.dropYes (win, init, frn, sub)).say (.ql p 0x14 [init, win, frn, sub, 0] [])) := by
  refine congrArg Host.Outcome.next ((if_neg ?_).trans rfl)
  rw [ql3]
  simpa using known

theorem exec_abort :
    exec (.abort t p init win frn sub tok asns) s = .next
      (((s.stamped t).pool.scopes.filter fun x => x.win = win && x.init = init && asns.contains x.asn && x.state != .committing).foldl
        State.freeScope ((s.stamped t).seeToken init tok) |>.dropYes (win, init, frn, sub)) := by
  refine congrArg Host.Outcome.next ((if_neg ?_).trans rfl)
  rw [ql3]
  simpa using known

end

theorem State.sendLate_onlyOut (s : State) (win : Nat) :
    OnlyOut s (s.sendLate win) ∧ ∀ m ∈ s.out, m ∈ (s.sendLate win).out :=
  ⟨rfl, fun _ hm => List.mem_append_right _ hm⟩

end Sys2Proof.Machine
end

section
namespace Sys2Proof.Machine

/-- Settles O43: a vote is the scope's; a decision frees exactly the places of its scopes. -/
theorem remoteScopesVoteAndSettle : Obligations.RemoteScopesVoteAndSettle := by
  unfold Obligations.RemoteScopesVoteAndSettle
  intro s t p init win frn sub tok asn n list asns a prep commit abort here mine dead due
  refine ⟨fun old => ⟨⟨_, congrArg Host.Outcome.next (if_pos old), rfl⟩, ⟨_, congrArg Host.Outcome.next (if_pos (by simp [a, old])), rfl⟩,
      ⟨_, congrArg Host.Outcome.next (if_pos (by simp [a, old])), rfl⟩⟩,
    fun known ql2 => ?ql2, fun known ql3 => ⟨fun x b found window receiving tokens held => ?vote, fun none none' => ?stale,
      fun some => ?settle, ?abort⟩, fun ql2 => ?refused, fun ql3 => ?fence, fun x found yes long => ?expired, fun x found kept => ?held⟩
  case ql2 =>
    have refused : (!(s.stamped t).overQl3 p) = true := congrArg not ql2
    exact ⟨⟨_, congrArg Host.Outcome.next ((if_neg (Nat.not_lt.mpr known)).trans (if_pos refused)), rfl⟩,
      ⟨_, congrArg Host.Outcome.next (if_pos (by rw [refused, Bool.or_true])), rfl⟩,
      ⟨_, congrArg Host.Outcome.next (if_pos (by rw [refused, Bool.or_true])), rfl⟩⟩
  case vote =>
    obtain ⟨hwin, hinit, hasn⟩ := State.key_of_scope? found
    have vote := State.scopeVote_receiving (s := a.seeToken init tok) (x := x) (n := n) (b := b) (by rw [hwin]; exact window) receiving
      (by rw [hwin]; exact tokens) (by rw [hwin]; exact held)
    have voted := exec_prep_voted (frn := frn) (sub := sub) known ql3 found vote
    refine ⟨fun ok all => ?_, fun ok missing => ?_, fun refused => ?_⟩
    · rw [if_neg (not_not.mpr ok), if_neg (not_not.mpr all)] at voted
      obtain ⟨u, run, scope, yes, out, mem⟩ := voted
      exact ⟨u, run, scope, yes.mpr rfl, out, mem⟩
    · rw [if_neg (not_not.mpr ok), if_pos missing] at voted
      obtain ⟨u, run, scope, yes, out, mem⟩ := voted
      exact ⟨u, run, scope, fun said => (nomatch yes.mp said), out, mem⟩
    · rw [if_pos refused] at voted
      obtain ⟨u, run, scope, yes, out, mem⟩ := voted
      exact ⟨u, run, scope, fun said => (nomatch yes.mp said), out, mem⟩
  case stale =>
    have run := exec_commit (s := s) (t := t) (win := win) (frn := frn) (sub := sub) (asns := asns) known ql3
    dsimp only at run
    rw [show deadScopes ((s.stamped t).scopesOf win init) asns = [] from none',
      show dueScopes ((s.stamped t).scopesOf win init) frn sub asns = [] from none,
      if_pos (show (([] : List Scope).isEmpty && ([] : List Scope).isEmpty) = true from rfl)] at run
    refine ⟨_, run, ?_⟩
    split
    · obtain ⟨late, said⟩ := (((a.seeToken init tok).settledScopes [] [] p).dropYes here |>.say (.ql p 0x14 [init, win, frn, sub, 1] [])).sendLate_onlyOut win
      exact ⟨rfl, rfl, State.not_mem_dropYes _ here, said _ List.mem_cons_self⟩
    · exact ⟨rfl, rfl, State.not_mem_dropYes _ here, List.mem_cons_self⟩
  case settle =>
    have run := exec_commit (s := s) (t := t) (win := win) (frn := frn) (sub := sub) (asns := asns) known ql3
    dsimp only at run
    rw [show deadScopes ((s.stamped t).scopesOf win init) asns = dead from rfl,
      show dueScopes ((s.stamped t).scopesOf win init) frn sub asns = due from rfl, if_neg (by simpa [imp_iff_not_or] using some)] at run
    have table (y : Scope) := (a.seeToken init tok).mem_settledScopes dead due p y
    refine ⟨_, run, rfl, fun y hy => ?_, fun y hy other => (table y).mpr ⟨hy, other⟩, State.not_mem_dropYes _ here⟩
    obtain ⟨there, other⟩ := (table y).mp hy
    exact ⟨there, fun mem => other y (List.mem_append_left _ mem) rfl, fun mem => other y (List.mem_append_right _ mem) rfl⟩
  case abort =>
    have listed : (a.pool.scopes.filter fun x => x.win = win && x.init = init && asns.contains x.asn && x.state != .committing) = dead := by
      simp only [dead, mine, List.filter_filter]
      refine List.filter_congr fun x _ => ?_
      simp only [Bool.and_assoc, Bool.and_comm, Bool.and_left_comm]
    have run := exec_abort (s := s) (t := t) (win := win) (frn := frn) (sub := sub) (asns := asns) known ql3
    rw [show (s.stamped t) = a from rfl, listed] at run
    have table (y : Scope) := State.freeScope_frees.mem_foldl dead (a.seeToken init tok) y
    refine ⟨_, run, State.not_mem_dropYes _ here, fun y hy => ?_, fun y hy other => (table y).mpr ⟨hy, other⟩⟩
    obtain ⟨there, other⟩ := (table y).mp hy
    exact ⟨there, fun mem => other y mem rfl⟩
  case refused => exact ⟨_, congrArg Host.Outcome.next (if_neg (Bool.eq_false_iff.mp ql2)), rfl⟩
  case fence =>
    exact ⟨_, congrArg Host.Outcome.next (if_pos ql3), a.topToken_seeToken_same init tok,
      fun i ne => a.topToken_seeToken_other init tok ne, rfl, rfl, rfl⟩
  case expired =>
    refine ⟨_, ?_, rfl⟩
    change execPoolHoldExpired t win init asn s = _
    unfold execPoolHoldExpired
    dsimp only
    rw [found]
    exact congrArg Host.Outcome.next (if_pos ((Bool.and_eq_true _ _).mpr ⟨decide_eq_true yes, decide_eq_true long⟩))
  case held =>
    refine ⟨_, ?_, rfl⟩
    change execPoolHoldExpired t win init asn s = _
    unfold execPoolHoldExpired
    dsimp only
    rw [found]
    refine congrArg Host.Outcome.next (if_neg fun due => ?_)
    obtain ⟨yes, long⟩ := (Bool.and_eq_true _ _).mp due
    exact kept.elim (· (of_decide_eq_true yes)) fun early => Nat.not_le.mpr early (of_decide_eq_true long)

end Sys2Proof.Machine
end
